-- ==== Sys2Proof/Word.lean ====
section
/-!
DEFINITION. The words of the device (R3) and the plainest arithmetic on them: a half is 16 bits, a word 32, a dword 64.
-/
namespace Sys2Proof

abbrev Byte := BitVec 8
abbrev Half := BitVec 16
abbrev Word := BitVec 32
abbrev Dword := BitVec 64
/-- One 128-byte line, bits [7:0] at the lowest address (R3). -/
abbrev Line := BitVec 1024

/-- Field [lo + n - 1 : lo] of a value (R2). -/
abbrev fld {w : Nat} (x : BitVec w) (lo n : Nat) : BitVec n := x.extractLsb' lo n

/-- The same field as a number. -/
def fldN {w : Nat} (x : BitVec w) (lo n : Nat) : Nat := (x.toNat >>> lo) % 2 ^ n

/-- Field [lo + n - 1 : lo] of a number. -/
def natFld (x lo n : Nat) : Nat := (x >>> lo) % 2 ^ n

end Sys2Proof
end

