-- ==== Sys2Proof/Syntax.lean ====
section
/-!
DEFINITION. Every row of the opcode table as one constructor of `Instr`: the 209 instructions, each with every field of its
format (R33 to R48; reserved fields too, so that no bit of a word is dropped), and the 120 events of the device
(95_what_each_step_holds), each with what names its subject and what arrives from outside the device.
-/
namespace Sys2Proof

/-- F-S3 (R37): scalar, three registers. -/
structure FS3 where
  stl : BitVec 3
  all : BitVec 1
  sd : BitVec 7
  sa : BitVec 7
  sb : BitVec 7
  sc : BitVec 7
  ty : BitVec 4
  im : BitVec 1
  cc : BitVec 3
  aux : BitVec 16
  deriving DecidableEq, Repr

/-- F-SI (R38): scalar with a 32-bit immediate. -/
structure FSI where
  stl : BitVec 3
  all : BitVec 1
  sd : BitVec 7
  sa : BitVec 7
  ty : BitVec 4
  rsv : BitVec 2
  imm : BitVec 32
  deriving DecidableEq, Repr

/-- F-V3 (R39): vector. -/
structure FV3 where
  stl : BitVec 3
  all : BitVec 1
  vd : BitVec 10
  va : BitVec 10
  vb : BitVec 10
  vc : BitVec 10
  ty : BitVec 4
  mod : BitVec 4
  sel : BitVec 4
  deriving DecidableEq, Repr

/-- F-VI (R40): vector with immediate. -/
structure FVI where
  stl : BitVec 3
  all : BitVec 1
  vd : BitVec 10
  va : BitVec 10
  ty : BitVec 4
  mod : BitVec 4
  imm : BitVec 24
  deriving DecidableEq, Repr

/-- F-MEM (R41): memory access. -/
structure FMEM where
  stl : BitVec 3
  all : BitVec 1
  data : BitVec 10
  sbase : BitVec 7
  voff : BitVec 10
  width : BitVec 3
  sch : BitVec 3
  imm : BitVec 19
  deriving DecidableEq, Repr

/-- F-SWP (R45): scratchpad sweep; `ty` is OPC[1:0], which selects the type or the conversion (R52). -/
structure FSWP where
  ty : BitVec 2
  stl : BitVec 3
  all : BitVec 1
  cnt : BitVec 12
  sd : BitVec 5
  sa : BitVec 5
  sb : BitVec 5
  stepd : BitVec 8
  stepa : BitVec 8
  stepb : BitVec 8
  sr : BitVec 1
  deriving DecidableEq, Repr

/-- F-MTX (R46): matrix. -/
structure FMTX where
  stl : BitVec 3
  all : BitVec 1
  abank : BitVec 6
  a : BitVec 10
  b : BitVec 10
  fb : BitVec 7
  kst : BitVec 8
  ah : BitVec 1
  clr : BitVec 1
  mopt : BitVec 9
  deriving DecidableEq, Repr

/-- F-BR (R47): branch. -/
structure FBR where
  stl : BitVec 3
  all : BitVec 1
  cond : BitVec 4
  sc : BitVec 7
  sl : BitVec 7
  rsv : BitVec 2
  off : BitVec 32
  deriving DecidableEq, Repr

/-- F-SYS (R48): system. -/
structure FSYS where
  stl : BitVec 3
  all : BitVec 1
  sd : BitVec 7
  sa : BitVec 7
  sb : BitVec 7
  res : BitVec 8
  sub : BitVec 4
  imm : BitVec 19
  deriving DecidableEq, Repr

/-- One constructor per row of the opcode table. -/
inductive Instr where
  /-- SMOV (R83). Copies a scalar source to s(SD), extended at the TY width. -/
  | smov (f : FS3)
  /-- SMOVI (R90). Loads a 32-bit immediate into s(SD), sign- or zero-extended. -/
  | smovi (f : FSI)
  /-- SMOVH (R90). Writes IMM32 into bits [63:32] of s(SD) and keeps the low half. -/
  | smovh (f : FSI)
  /-- SADD (R83). Adds two scalars, or a scalar and the AUX immediate, with wrap at width w. -/
  | sadd (f : FS3)
  /-- SADD_F_SI (R90). F-SI form of SADD: adds a 32-bit immediate to a scalar. -/
  | saddFSi (f : FSI)
  /-- SSUB (R83). Subtracts scalar B from A with wrap. -/
  | ssub (f : FS3)
  /-- SMUL (R85). Writes the low w bits of the product of A and B. -/
  | smul (f : FS3)
  /-- SMULH (R85). Writes the high w bits of the exact signed or unsigned product. -/
  | smulh (f : FS3)
  /-- SDIV (R86). Divides with truncation towards zero, with defined results for zero and overflow. -/
  | sdiv (f : FS3)
  /-- SREM (R86). Writes the remainder of truncating division, taking the dividend's sign. -/
  | srem (f : FS3)
  /-- SAND (R83). Bitwise AND of two scalars or a scalar and AUX. -/
  | sand (f : FS3)
  /-- SAND_F_SI (R90). F-SI form of SAND with a 32-bit immediate. -/
  | sandFSi (f : FSI)
  /-- SOR (R83). Bitwise OR of two scalars or a scalar and AUX. -/
  | sor (f : FS3)
  /-- SOR_F_SI (R90). F-SI form of SOR with a 32-bit immediate. -/
  | sorFSi (f : FSI)
  /-- SXOR (R83). Bitwise XOR of two scalars or a scalar and AUX. -/
  | sxor (f : FS3)
  /-- SXOR_F_SI (R90). F-SI form of SXOR with a 32-bit immediate. -/
  | sxorFSi (f : FSI)
  /-- SNOT (R83). Bitwise NOT of a scalar. -/
  | snot (f : FS3)
  /-- SSHL (R84). Shifts left by b[6:0], giving 0 for counts at or above w. -/
  | sshl (f : FS3)
  /-- SSHR (R84). Shifts right logically by b[6:0]. -/
  | sshr (f : FS3)
  /-- SSAR (R84). Shifts right arithmetically by b[6:0]. -/
  | ssar (f : FS3)
  /-- SMIN (R83). Writes the lesser of A and B, signed or unsigned by TY. -/
  | smin (f : FS3)
  /-- SMAX (R83). Writes the greater of A and B, signed or unsigned by TY. -/
  | smax (f : FS3)
  /-- SCMP (R87). Compares A with B under CC and writes 1 or 0. -/
  | scmp (f : FS3)
  /-- SSEL (R83). Selects A when C is nonzero, else B. -/
  | ssel (f : FS3)
  /-- SPOPC (R83). Counts the one bits of A. -/
  | spopc (f : FS3)
  /-- SCLZ (R83). Counts leading zeros of A, w when A is 0. -/
  | sclz (f : FS3)
  /-- SCTZ (R83). Counts trailing zeros of A, w when A is 0. -/
  | sctz (f : FS3)
  /-- SBFE (R88). Extracts a clamped bit field of A, sign- or zero-extended. -/
  | sbfe (f : FS3)
  /-- SBFI (R88). Inserts the low bits of A into a clamped field of C. -/
  | sbfi (f : FS3)
  /-- SLEA (R89). Computes a + (b << CC) modulo 2^w without an address check. -/
  | slea (f : FS3)
  /-- BRA (R92). Branches unconditionally to the clause at H + 8 x OFF32. -/
  | bra (f : FBR)
  /-- BRC (R92). Branches when s(SC) meets the COND condition. -/
  | brc (f : FBR)
  /-- CALL (R92). Writes the next clause address to s(SL) and branches. -/
  | call (f : FBR)
  /-- RET (R93). Branches to the address held in s(SC). -/
  | ret (f : FBR)
  /-- JMP (R93). Branches to s(SC) plus a displacement. -/
  | jmp (f : FBR)
  /-- LOOP (R92). Decrements s(SC) and branches while the result is nonzero. -/
  | loop (f : FBR)
  /-- NOP (R91). Takes an issue slot and its stall count and does nothing else. -/
  | nop (f : FBR)
  /-- END (R95). Ends the group or fragment, or stops a leat. -/
  | endGroup (f : FBR)
  /-- MSET (R139). Sets em to b AND the fragment's owned lanes. -/
  | mset (f : FS3)
  /-- MGET (R139). Copies em into s(SD). -/
  | mget (f : FS3)
  /-- MAND (R139). Returns em and ANDs it with b. -/
  | mand (f : FS3)
  /-- MANDN (R139). Returns em and clears the lanes of b. -/
  | mandn (f : FS3)
  /-- MOR (R139). Returns em and ORs b into it within the owned set. -/
  | mor (f : FS3)
  /-- MFIRST (R139). Writes the index of the lowest set lane bit of s(SA), or 64. -/
  | mfirst (f : FS3)
  /-- MCNT (R139). Counts the set lane bits of s(SA). -/
  | mcnt (f : FS3)
  /-- BRZM (R140). Branches when em AND s(SC) is empty. -/
  | brzm (f : FBR)
  /-- SPLIT (R143). Allocates a split-table entry and detaches the minority lanes as a new fragment. -/
  | split (f : FS3)
  /-- JOIN (R144). Marks the fragment arrived at its innermost entry and fuses the fragments at the later arrival. -/
  | joinI (f : FS3)
  /-- VADD (R172). Adds lane values, wrapping, saturating or rounding by type. -/
  | vadd (f : FV3)
  /-- VADD_F_VI (R40). F-VI form of VADD with an expanded immediate. -/
  | vaddFVi (f : FVI)
  /-- VSUB (R172). Subtracts lane values. -/
  | vsub (f : FV3)
  /-- VSUB_F_VI (R40). F-VI form of VSUB. -/
  | vsubFVi (f : FVI)
  /-- VMUL (R173). Multiplies lane values. -/
  | vmul (f : FV3)
  /-- VMUL_F_VI (R40). F-VI form of VMUL. -/
  | vmulFVi (f : FVI)
  /-- VMULH (R173). Writes the high half of each element product. -/
  | vmulh (f : FV3)
  /-- VMAD (R174). Multiplies and adds with two roundings for floats. -/
  | vmad (f : FV3)
  /-- VFMA (R174). Fused multiply-add with one rounding. -/
  | vfma (f : FV3)
  /-- VMIN (R175). Takes the lesser element, with NaN rules for floats. -/
  | vmin (f : FV3)
  /-- VMIN_F_VI (R40). F-VI form of VMIN. -/
  | vminFVi (f : FVI)
  /-- VMAX (R175). Takes the greater element. -/
  | vmax (f : FV3)
  /-- VMAX_F_VI (R40). F-VI form of VMAX. -/
  | vmaxFVi (f : FVI)
  /-- VABS (R175). Takes the absolute value of each element. -/
  | vabs (f : FV3)
  /-- VAND (R172). Bitwise AND of lanes. -/
  | vand (f : FV3)
  /-- VAND_F_VI (R40). F-VI form of VAND. -/
  | vandFVi (f : FVI)
  /-- VOR (R172). Bitwise OR of lanes. -/
  | vor (f : FV3)
  /-- VOR_F_VI (R40). F-VI form of VOR. -/
  | vorFVi (f : FVI)
  /-- VXOR (R172). Bitwise XOR of lanes. -/
  | vxor (f : FV3)
  /-- VXOR_F_VI (R40). F-VI form of VXOR. -/
  | vxorFVi (f : FVI)
  /-- VNOT (R172). Bitwise NOT of lanes. -/
  | vnot (f : FV3)
  /-- VSHL (R176). Shifts each element left by its count. -/
  | vshl (f : FV3)
  /-- VSHL_F_VI (R176). F-VI form of VSHL with an immediate count. -/
  | vshlFVi (f : FVI)
  /-- VSHR (R176). Shifts each element right logically. -/
  | vshr (f : FV3)
  /-- VSHR_F_VI (R176). F-VI form of VSHR. -/
  | vshrFVi (f : FVI)
  /-- VSAR (R176). Shifts each element right arithmetically. -/
  | vsar (f : FV3)
  /-- VSAR_F_VI (R176). F-VI form of VSAR. -/
  | vsarFVi (f : FVI)
  /-- VCMP (R177). Compares elements and writes all ones or zero per element. -/
  | vcmp (f : FV3)
  /-- VCMP_F_VI (R177). F-VI form of VCMP with the condition in MOD[27:25]. -/
  | vcmpFVi (f : FVI)
  /-- VSEL (R178). Selects A or B per element by the bits of C. -/
  | vsel (f : FV3)
  /-- VMOV (R172). Copies a vector register or broadcasts a scalar word. -/
  | vmov (f : FV3)
  /-- VMOV_F_VI (R40). Writes an expanded immediate to every active lane. -/
  | vmovFVi (f : FVI)
  /-- VBCAST (R178). Broadcasts a 64-bit scalar into a vector register pair. -/
  | vbcast (f : FV3)
  /-- VLANE (R178). Writes lane index plus an offset into each active lane. -/
  | vlane (f : FV3)
  /-- VCVT (R186). Converts lane values under conversion code CV, with optional stochastic rounding. -/
  | vcvt (f : FV3)
  /-- VRCP (R184). Correctly rounded reciprocal. -/
  | vrcp (f : FV3)
  /-- VRSQ (R184). Correctly rounded reciprocal square root. -/
  | vrsq (f : FV3)
  /-- VSQRT (R184). Correctly rounded square root. -/
  | vsqrt (f : FV3)
  /-- VEXP2 (R184). Correctly rounded 2^a. -/
  | vexp2 (f : FV3)
  /-- VLOG2 (R184). Correctly rounded log2 a. -/
  | vlog2 (f : FV3)
  /-- VSIN (R184). Correctly rounded sin of 2 pi a. -/
  | vsin (f : FV3)
  /-- VCOS (R184). Correctly rounded cos of 2 pi a. -/
  | vcos (f : FV3)
  /-- VFRACT (R183). Writes a - floor(a), kept below 1.0. -/
  | vfract (f : FV3)
  /-- VROUND (R183). Rounds to an integral value in the source format. -/
  | vround (f : FV3)
  /-- VPOPC (R179). Counts one bits per element. -/
  | vpopc (f : FV3)
  /-- VCLZ (R179). Counts leading zeros per element. -/
  | vclz (f : FV3)
  /-- VBFE (R179). Extracts a bit field per lane. -/
  | vbfe (f : FV3)
  /-- VBFI (R179). Inserts a bit field per lane. -/
  | vbfi (f : FV3)
  /-- VUNPK (R180). Widens half of a packed register. -/
  | vunpk (f : FV3)
  /-- VPACK (R180). Narrows two registers into one packed register. -/
  | vpack (f : FV3)
  /-- VDOT (R181). Dot product of packed elements plus an accumulator. -/
  | vdot (f : FV3)
  /-- VLUT (R182). Looks elements up in a 16-byte table held in a scalar pair. -/
  | vlut (f : FV3)
  /-- SWADD (R189). Sweep adding scratchpad segments over CNT repetitions. -/
  | swadd (f : FSWP)
  /-- SWMUL (R189). Sweep multiplying scratchpad segments. -/
  | swmul (f : FSWP)
  /-- SWFMA (R189). Sweep fused multiply-add into the destination segments. -/
  | swfma (f : FSWP)
  /-- SWMAX (R189). Sweep taking the maximum of segments. -/
  | swmax (f : FSWP)
  /-- SWCVT (R189). Sweep converting between F32 and 16-bit pairs. -/
  | swcvt (f : FSWP)
  /-- VSHUF (R196). Gathers lanes by per-lane source index. -/
  | vshuf (f : FV3)
  /-- VSHFU (R196). Shifts lanes up by n, filling from C. -/
  | vshfu (f : FV3)
  /-- VSHFD (R196). Shifts lanes down by n, filling from C. -/
  | vshfd (f : FV3)
  /-- VXSW (R196). Exchanges lanes by XOR of the lane index. -/
  | vxsw (f : FV3)
  /-- VBAL (R197). Writes the mask of active lanes with nonzero values. -/
  | vbal (f : FV3)
  /-- VREDU (R198). Reduces active lanes in ascending order to a scalar. -/
  | vredu (f : FV3)
  /-- VSCAN (R198). Inclusive or exclusive prefix scan over active lanes. -/
  | vscan (f : FV3)
  /-- VMATCH (R197). Writes the mask of active lanes equal to the lowest active lane. -/
  | vmatch (f : FV3)
  /-- VRDLN (R199). Reads one lane into a scalar. -/
  | vrdln (f : FV3)
  /-- VWRLN (R199). Writes a scalar into one active lane. -/
  | vwrln (f : FV3)
  /-- LDG (R230). Plain global load per active lane under counter G. -/
  | ldg (f : FMEM)
  /-- LDG_ACQ (R232). Acquire global load per lane at a scope. -/
  | ldgAcq (f : FMEM)
  /-- STG (R230). Plain global store per active lane. -/
  | stg (f : FMEM)
  /-- STG_REL (R232). Release global store per lane at a scope. -/
  | stgRel (f : FMEM)
  /-- LDGS (R230). Scalar plain global load. -/
  | ldgs (f : FMEM)
  /-- LDGS_ACQ (R232). Scalar acquire global load. -/
  | ldgsAcq (f : FMEM)
  /-- STGS (R230). Scalar plain global store. -/
  | stgs (f : FMEM)
  /-- STGS_REL (R232). Scalar release global store. -/
  | stgsRel (f : FMEM)
  /-- ATOMG (R236). Read-modify-write on GDDR 7, erg windows or peer memory per lane. -/
  | atomg (f : FMEM)
  /-- ATOMH (R238). Host atomic through PCIe AtomicOps, trapping on lane failure. -/
  | atomh (f : FMEM)
  /-- ATOMH_F (R239). Host atomic that reports failed lanes in a status register instead of trapping. -/
  | atomhF (f : FMEM)
  /-- LDC (R233). Constant load served from L1 without invalidation points. -/
  | ldc (f : FMEM)
  /-- PREF (R234). Prefetches lines into L1 and erg without faults. -/
  | pref (f : FMEM)
  /-- WAITC (R241). Holds issue until a counter is at most a threshold. -/
  | waitc (f : FMEM)
  /-- FENCE (R242). Holds issue until earlier accesses return, with L1 invalidation for acquires. -/
  | fence (f : FMEM)
  /-- LDS (R230). Scratchpad load per active lane under counter S. -/
  | lds (f : FMEM)
  /-- STS (R230). Scratchpad store per active lane. -/
  | sts (f : FMEM)
  /-- LDSS (R230). Scalar scratchpad load. -/
  | ldss (f : FMEM)
  /-- STSS (R230). Scalar scratchpad store. -/
  | stss (f : FMEM)
  /-- ATOMS (R237). Scratchpad atomic per lane. -/
  | atoms (f : FMEM)
  /-- LDB (R331). Loads through a FULL handle's layout. -/
  | ldb (f : FMEM)
  /-- STB (R331). Stores through a FREE handle's layout. -/
  | stb (f : FMEM)
  /-- SAMPLE (R248). Filtered image sample through image and sampler descriptors. -/
  | sample (f : FMEM)
  /-- TXLD (R246). Loads one texel at integer coordinates. -/
  | txld (f : FMEM)
  /-- AALLOC (R303). Requests n accumulator banks and maps them to logical banks. -/
  | aalloc (f : FMTX)
  /-- AFREE (R303). Unmaps n logical banks and zeroes their physical banks. -/
  | afree (f : FMTX)
  /-- AZERO (R301). Sets every element of a bank to +0. -/
  | azero (f : FMTX)
  /-- MMA (R296). Matrix multiply-accumulate into a bank under the fixed summation order. -/
  | mma (f : FMTX)
  /-- MMAQ (R297). Four-partition multiply sharing B quarters through a tagged rendezvous. -/
  | mmaq (f : FMTX)
  /-- MMAV (R298). Per-lane multiply with a B string fetched through each lane's pointer. -/
  | mmav (f : FMTX)
  /-- MMAC (R299). Multiply with CB3 codebook weights from the table slots. -/
  | mmac (f : FMTX)
  /-- CBLD (R299). Loads 32 CB3 tables into a table slot. -/
  | cbld (f : FMTX)
  /-- ALD (R300). Converts a run of bank elements into a vector register, optionally choosing block scales. -/
  | ald (f : FMTX)
  /-- AST (R301). Stores a bank's 2048 FA40 elements to memory. -/
  | ast (f : FMTX)
  /-- AADD (R301). Adds, or loads, 2048 FA40 values from memory into a bank. -/
  | aadd (f : FMTX)
  /-- ASTAT (R302). Reports bank state of the core and a logical bank. -/
  | astat (f : FMTX)
  /-- TBAR (R149). Team barrier arrival. -/
  | tbar (f : FSYS)
  /-- SBAR (R149). Strip barrier arrival. -/
  | sbar (f : FSYS)
  /-- LAUNCH (R166). Releases at .dev and appends a launch record to a device queue. -/
  | launch (f : FSYS)
  /-- SLEEPPT (R99). Suspends the group until pt reaches an absolute time. -/
  | sleeppt (f : FSYS)
  /-- SLEEPPT_REL (R99). Suspends the group until pt reaches pt + s(SA). -/
  | sleepptRel (f : FSYS)
  /-- SRD (R97). Reads a group or leat control register. -/
  | srd (f : FSYS)
  /-- SWR (R98). Writes a group or leat control register. -/
  | swr (f : FSYS)
  /-- BUFWAIT (R332). Holds until a handle state and phase, or a deadline. -/
  | bufwait (f : FSYS)
  /-- BUFREL_CONS (R332). Releases the group's accesses and consumes one BUFREL of a FULL handle. -/
  | bufrelCons (f : FSYS)
  /-- BUFREL_PUB (R332). Publishes a FREE handle as FULL with a byte count. -/
  | bufrelPub (f : FSYS)
  /-- BUFSTAT (R332). Reports a handle's state. -/
  | bufstat (f : FSYS)
  /-- RTRACE (R354). Pins a generation and starts one ray per active lane. -/
  | rtrace (f : FSYS)
  /-- RRESUME (R355). Continues suspended rays, optionally shortening tmax. -/
  | rresume (f : FSYS)
  /-- RRESUME_END (R355). Ends suspended rays with their committed hit. -/
  | rresumeEnd (f : FSYS)
  /-- RSTATE (R356). Writes each lane's traversal-state record. -/
  | rstate (f : FSYS)
  /-- RCOMMIT (R356). Commits a hit for suspended candidates. -/
  | rcommit (f : FSYS)
  /-- GENPIN (R359). Pins the scene's current generation for the group. -/
  | genpin (f : FSYS)
  /-- GENREL (R359). Releases one GENPIN pin. -/
  | genrel (f : FSYS)
  /-- BLDCMD (R360). Releases at .dev and queues a build command. -/
  | bldcmd (f : FSYS)
  /-- BLDQ_CUR (R360). Reports CURGEN and live generations of a scene. -/
  | bldqCur (f : FSYS)
  /-- BLDQ_PINS (R360). Reports PINS of a live generation. -/
  | bldqPins (f : FSYS)
  /-- BLDQ_QUEUE (R360). Reports builder queue occupancy for a scene. -/
  | bldqQueue (f : FSYS)
  /-- TSPAWN (R364). Releases at .dev and inserts a task record into a die's banks or EDF lane. -/
  | tspawn (f : FSYS)
  /-- TEND (R365). Ends a task group as END does and ends the task. -/
  | tend (f : FSYS)
  /-- QPOP (R390). Pops received stream elements into active lanes. -/
  | qpop (f : FSYS)
  /-- QPUSH (R391). Pushes elements into the flow's OPEN frame object. -/
  | qpush (f : FSYS)
  /-- QSTAT (R393). Reports flow or frame object state. -/
  | qstat (f : FSYS)
  /-- QFRAME_OPEN (R392). Opens a send frame object with a presentation time. -/
  | qframeOpen (f : FSYS)
  /-- QFRAME_DONE (R392). Waits for accepted pushes and marks the OPEN object RENDERED or SUBSTITUTED. -/
  | qframeDone (f : FSYS)
  /-- QFRAME_NEXT (R392). Releases the current received frame and sets the pop deadline. -/
  | qframeNext (f : FSYS)
  /-- YIELD (R433). Declares a yield point with a liveness record. -/
  | yield (f : FSYS)
  /-- TRAP (R434). Raises the program trap TRAP with a 16-bit value. -/
  | trapI (f : FSYS)
  /-- TRET_RETRY (R435). Leaves the handler and reissues the faulting instruction. -/
  | tretRetry (f : FSYS)
  /-- TRET_SKIP (R435). Leaves the handler and continues after the faulting instruction. -/
  | tretSkip (f : FSYS)
  /-- TRET_JMP (R435). Leaves the handler and continues at a clause header in s(SA). -/
  | tretJmp (f : FSYS)
  /-- XLMR (R436). Handler reads one lane of a vector register. -/
  | xlmr (f : FSYS)
  /-- XLMW (R436). Handler writes one lane of a vector register. -/
  | xlmw (f : FSYS)
  /-- FLTRD_REC (R437). Reads a dword of the current fault record. -/
  | fltrdRec (f : FSYS)
  /-- FLTRD_SPL (R437). Reads a dword of a split-table entry. -/
  | fltrdSpl (f : FSYS)
  /-- FLTRD_RNG (R437). Reads a dword of a range-lock entry. -/
  | fltrdRng (f : FSYS)
  /-- HALT (R438). Ends every fragment of the group, or stops a leat. -/
  | halt (f : FSYS)
  /-- HALT_FATAL (R438). Raises a fatal fault HALT with a value. -/
  | haltFatal (f : FSYS)
  /-- BRK (R434). Stops the agent for the debugger when DBG is set, else acts as NOP. -/
  | brk (f : FSYS)
  /-- WBAR (R477). Timed wall barrier for a frame across member cards. -/
  | wbar (f : FSYS)
  /-- XCOPY_IN (R326). Leat starts an opening fill of a handle from a global tensor tile. -/
  | xcopyIn (f : FSYS)
  /-- XCOPY_INC (R326). Leat adds a fill to a FILLING handle. -/
  | xcopyInc (f : FSYS)
  /-- XCOPY_OUT (R326). Leat starts a drain of a FULL handle to global memory. -/
  | xcopyOut (f : FSYS)
  /-- XCOPY_OUTC (R326). Leat adds a drain to a DRAINING handle. -/
  | xcopyOutc (f : FSYS)
  /-- XHALO (R327). Leat copies halo bytes from a strip neighbour's scratchpad after a barrier count. -/
  | xhalo (f : FSYS)
  /-- XIM2C (R328). Leat gathers convolution patches into a handle. -/
  | xim2c (f : FSYS)
  /-- XRESUME (R329). Restarts every parked operation of a handle. -/
  | xresume (f : FSYS)
  /-- XWAIT_H (R330). Leat waits for a handle state and phase. -/
  | xwaitH (f : FSYS)
  /-- XWAIT_OPS (R330). Leat waits until its operations completed or parked. -/
  | xwaitOps (f : FSYS)
  /-- XWAIT_SVC (R330). Leat waits until the handle's parked operations are acknowledged. -/
  | xwaitSvc (f : FSYS)
  /-- XFILL (R327). Leat fills handle sectors with a repeated 8-byte pattern. -/
  | xfill (f : FSYS)
  /-- XCOLL_SEND (R469). Leat sends handle pieces to a destination set of cards. -/
  | xcollSend (f : FSYS)
  /-- XCOLL_RED (R470). Leat contributes handle pieces to a fabric reduction. -/
  | xcollRed (f : FSYS)
  /-- XCOLL_GET (R469). Leat reads pieces from a source card into a handle. -/
  | xcollGet (f : FSYS)
  /-- CLAUSE_START (R27). An issuer starts a clause once its header conditions hold and the partition selects it. -/
  | clauseStart (a fid : Nat)
  /-- CLAUSE_LINE_ARRIVAL (R500). A missing clause-cache line arrives and lets the delayed clause start. -/
  | clauseLineArrival (a fid line : Nat)
  /-- ISSUER_AGED (R168). An issuer ready for 512 clk without a start becomes aged. -/
  | issuerAged (a fid : Nat)
  /-- HOLD_END (R226). An instruction holding issue sees its condition met and the group may issue again. -/
  | holdEnd (a fid : Nat)
  /-- TLB_WALK_DONE (R415). A page walk finishes and fills the TLBs or ends with XLATE. -/
  | tlbWalkDone (walk : Nat)
  /-- LOAD_RETURN (R219). A counted load's data lands in its registers and the counter may count it off. -/
  | loadReturn (op : Nat) (lanes : Dword) (ext : List Byte)
  /-- STORE_ACCEPT (R219). A store is accepted by its erg slice, port or bank, performing the write. -/
  | storeAccept (op : Nat) (lanes : Dword)
  /-- ATOMIC_RETURN (R235). An atomic performs at its slice or bank and returns old values. -/
  | atomicReturn (op : Nat) (lanes : Dword) (ext : List Byte)
  /-- SWEEP_SEGMENT_ACCESS (R192). A sweep's segment access is served at the scratchpad port. -/
  | sweepSegmentAccess (op : Nat)
  /-- HOST_ATOMIC_COMPLETION (R238). A PCIe AtomicOp completion arrives, continuing a CAS sequence or ending the lane. -/
  | hostAtomicCompletion (op lane status : Nat) (val : Dword)
  /-- PEER_STORE_REJECT (R243). A rejected peer store's line is held in the peer write-back buffer. -/
  | peerStoreReject (op lane code : Nat)
  /-- PEER_LOAD_REJECT (R465). Rejected peer load or atomic lanes stay uncounted until the group stops at a point that needs them. -/
  | peerLoadReject (op : Nat) (lanes : Dword) (code : Nat)
  /-- BARRIER_COMPLETE (R149). A barrier completes when all participants arrived and their writes are performed. -/
  | barrierComplete (team kind : Nat)
  /-- SLEEP_WAKE (R99). A sleeping group becomes eligible once pt reaches its target time. -/
  | sleepWake (a fid : Nat)
  /-- FRAGMENT_QUEUE_RELEASE (R372). The head of a task partition's fragment queue becomes eligible. -/
  | fragmentQueueRelease (core part : Nat)
  /-- GROUP_RELEASE (R95). An ended group's counters reach zero and it releases its slot, registers and banks. -/
  | groupRelease (a : Nat)
  /-- DOORBELL (R152). A host write of a queue's TAIL appends entries or sets ERR. -/
  | doorbell (q tail : Nat)
  /-- QUEUE_ENTRY_READ (R502). The device reads a pending queue entry in rotation. -/
  | queueEntryRead (q : Nat)
  /-- ADMISSION (R152). An entry's lines return and the grid is admitted or rejected. -/
  | admission (q : Nat)
  /-- GRID_ELIGIBLE (R502). An admitted grid becomes eligible when pt reaches NBEF or its predecessor completes. -/
  | gridEligible (g : Nat)
  /-- TEAM_PLACEMENT (R160). The arbiter offers capacity and a waiting team is placed and made resident. -/
  | teamPlacement (g : Nat)
  /-- FIRM_DEADLINE_SHED (R161). A FIRM grid is shed when DLINE passes while a team waits. -/
  | firmDeadlineShed (g : Nat)
  /-- HARD_WAIT_PREEMPT (R161). A HARD team waiting HWAIT clk triggers a pre-emption request of a chosen context. -/
  | hardWaitPreempt (g : Nat)
  /-- GROUP_START (R502). After zeroing and image load, the team's groups issue their first instructions. -/
  | groupStart (team : Nat)
  /-- LEAT_IMAGE_LINE (R309). A line of a leat program image arrives in the leat's store. -/
  | leatImageLine (a line : Nat)
  /-- GRID_COMPLETION_RECORD (R159). The grid's completion record is written, bytes 0-7 as a .sys release. -/
  | gridCompletionRecord (g : Nat)
  /-- ARRAY_OP_BEGIN (R305). An engine array operation begins after the previous one ends. -/
  | arrayOpBegin (op : Nat)
  /-- MATRIX_OP_END (R288). A matrix operation ends, writing its bank once and being counted off. -/
  | matrixOpEnd (op : Nat)
  /-- MMAQ_RENDEZVOUS (R297). Four MMAQs with one tag meet and are checked for agreement. -/
  | mmaqRendezvous (core tag : Nat)
  /-- MMAV_LINE_ARRIVAL (R305). Lines of an MMAV step's strings arrive, allowing the step to begin. -/
  | mmavLineArrival (op : Nat)
  /-- CBLD_LOAD_DONE (R299). A table slot finishes loading and is counted off. -/
  | cbldLoadDone (op : Nat)
  /-- AALLOC_GRANT (R284). Free or parked banks are granted to the oldest waiting AALLOC. -/
  | aallocGrant (core : Nat)
  /-- BANK_ZERO_DONE (R281). A bank's 16-clk zeroing ends and it becomes FREE. -/
  | bankZeroDone (core bank : Nat)
  /-- BANK_SPILL (R422). A foreign bank is copied to its tag context's save area and retagged. -/
  | bankSpill (core bank : Nat)
  /-- LEAVE_REQUEST (R488). A holder asks its die's governor for leave units. -/
  | leaveRequest (die holder : Nat)
  /-- LEAVE_GRANT (R487). Leave is granted 48 clk after units are free. -/
  | leaveGrant (die holder : Nat)
  /-- LEAVE_EXPIRY (R306). Leave ends after 4,096 idle clk. -/
  | leaveExpiry (die holder : Nat)
  /-- LEAVE_REVOKE (R488). A holder that held leave 65,536 clk while a request waits loses it after its operation. -/
  | leaveRevoke (die holder : Nat)
  /-- HDESC_WRITE (R315). An SWR to HDESC claims, reconfigures or releases a handle. -/
  | hdescWrite (a h : Nat) (v : Dword)
  /-- ENGINE_OP_START (R325). A waiting engine operation opens its handle, registers range locks and joins the sluice. -/
  | engineOpStart (x : Nat)
  /-- SLUICE_PIECE_REQUEST (R323). The sluice issues one piece request of the oldest registered operation. -/
  | sluicePieceRequest (core : Nat)
  /-- SECTOR_ARRIVAL (R318). A fill piece lands and completes a sector, updating BITMAP and ARRIVED. -/
  | sectorArrival (x piece : Nat)
  /-- DRAIN_SECTOR_ACCEPT (R318). A drain sector's last write is accepted and its bit clears. -/
  | drainSectorAccept (x piece : Nat)
  /-- SLUICE_PARK (R323). After outstanding pieces complete, a faulted operation sets PK and writes a fault record. -/
  | sluicePark (x : Nat)
  /-- ENGINE_OP_COMPLETE (R268). An engine operation completes and removes its range-lock entries. -/
  | engineOpComplete (x : Nat)
  /-- RAY_END (R349). A ray ends or suspends with its committed hit or candidate. -/
  | rayEnd (a lane : Nat) (order : List Nat)
  /-- RAY_PARK (R357). A ray's record, primitive or spill access faults and parks the ray. -/
  | rayPark (a lane : Nat)
  /-- RAY_STACK_SPILL (R350). A push onto a full on-chip stack spills the oldest entry to the spill slot. -/
  | rayStackSpill (a lane : Nat)
  /-- TRAVERSAL_RETURN (R354). All rays of an RTRACE or RRESUME end or suspend and results are written. -/
  | traversalReturn (op : Nat)
  /-- BUILD_COMMAND_START (R344). The builder takes the next command and checks it. -/
  | buildCommandStart (die : Nat)
  /-- BUILD_COMMAND_END (R346). A build ends, writing its completion record. -/
  | buildCommandEnd (die : Nat)
  /-- BUILDER_PARK (R345). A builder access faults and parks with a fault record. -/
  | builderPark (die : Nat)
  /-- GENERATION_RECLAIM (R340). The builder reclaims a RETIRED generation with no pins. -/
  | generationReclaim (die gen : Nat)
  /-- TASK_POP (R367). A die pops a task record from the EDF lane or its banks. -/
  | taskPop (die b1 b2 : Nat)
  /-- TASK_CORE_CHOICE (R370). A taken task takes a core, or waits in the hold slot until one qualifies. -/
  | taskCoreChoice (t core : Nat)
  /-- TASK_DISPATCH (R371). All inputs FULL, the task group becomes resident. -/
  | taskDispatch (t : Nat)
  /-- REUSE_KEY_READY (R375). The KMAC256 key of a pure task is ready. -/
  | reuseKeyReady (t : Nat)
  /-- REUSE_LOOKUP (R375). The reuse table lookup returns hit or miss. -/
  | reuseLookup (t : Nat)
  /-- REUSE_HIT_COPY_PIECE (R375). A hit copy piece from an entry's output is accepted. -/
  | reuseHitCopyPiece (t : Nat)
  /-- TASK_OUTPUT_DRAIN (R373). Once counters are zero, FULL output handles of an ended task are drained. -/
  | taskOutputDrain (t : Nat)
  /-- TASK_COMPLETION_RECORD (R373). The task completion record is written as a .sys release. -/
  | taskCompletionRecord (t : Nat)
  /-- PACKET_RECEIVE (R386). A media packet arrives and is accepted, deduplicated or discarded. -/
  | packetReceive (flow path seq pos stamp : Nat) (marker : Bool) (elems : List Dword)
  /-- FRAME_SEND_START (R388). A frame object's first packet leaves at PT + TROFF. -/
  | frameSendStart (flow : Nat)
  /-- FRAME_LAST_PACKET (R388). A RENDERED object's last packet leaves and it becomes PRESENTED. -/
  | frameLastPacket (flow : Nat)
  /-- FRAME_SUBSTITUTION (R388). An OPEN object reaching PT - GUARD becomes SUBSTITUTED. -/
  | frameSubstitution (flow : Nat)
  /-- FLOW_ENABLE (R381). A runner write sets EN of a valid flow descriptor. -/
  | flowEnable (flow : Nat)
  /-- FLOW_DISABLE (R394). A runner write clears EN, stopping the flow and ending its holds. -/
  | flowDisable (flow : Nat)
  /-- PT_TICK (R395). Each clk pt advances by 0.8 x (1 + r) ns with carried fraction. -/
  | ptTick 
  /-- WALL_STATUS_SEND (R475). A member sends its frame status to every member. -/
  | wallStatusSend (frame status : Nat)
  /-- WALL_STATUS_RECEIVE (R476). A frame status arrives and updates the member's run. -/
  | wallStatusReceive (card frame status : Nat)
  /-- WALL_FRAME_DEADLINE (R476). pt reaches PT(N) with statuses missing, raising runs and declaring members out. -/
  | wallFrameDeadline (frame : Nat)
  /-- WALL_REJOIN (R476). A REJOIN write makes an out card live again from its next RENDERED frame. -/
  | wallRejoin (v : Dword)
  /-- FABCFG_WRITE (R460). A write of FABCFG configures coordinates and enables the fabric if valid. -/
  | fabcfgWrite (v : Dword)
  /-- PORT_UP_CHANGE (R458). A fabric port's UP bit changes and MSI-X vector 2 is signalled. -/
  | portUpChange (port : Nat) (up : Bool)
  /-- FABRIC_INBOUND_REQUEST (R464). A peer request arrives, is checked against windows and performed or rejected. -/
  | fabricInboundRequest (card kind addr width arg : Nat) (bytes : List Byte)
  /-- FABRIC_RESPONSE_TIMEOUT (R464). A request without response in 1,250,000 clk is rejected. -/
  | fabricResponseTimeout (req : Nat)
  /-- REDUCE_PACKET_MERGE (R471). A router merges two eligible reduce packets in one output queue. -/
  | reducePacketMerge (a b : Nat)
  /-- REDUCE_PACKET_ARRIVE (R472). A reduce packet reaches the reduction store and is combined or discarded. -/
  | reducePacketArrive (key mask : Nat) (vals : List Int)
  /-- COLLECTIVE_PIECE_ACK (R469). A SEND or RED piece is acknowledged by every destination. -/
  | collectivePieceAck (x piece : Nat)
  /-- INBOUND_MEM_WRITE (R274). A host posted Memory Write is performed at the erg in arrival order. -/
  | inboundMemWrite (off : Nat) (bytes : List Byte)
  /-- INBOUND_MEM_READ (R274). A host Memory Read returns values performed at the erg. -/
  | inboundMemRead (off n : Nat)
  /-- INBOUND_ATOMICOP (R274). A host AtomicOp is performed as an ATOMG at .sys and checked by the scope checker. -/
  | inboundAtomicop (off kind width : Nat) (x y : Dword)
  /-- HOST_READ_COMPLETION (R458). A host read completion arrives, with all ones and HERR logging on error. -/
  | hostReadCompletion (req status : Nat) (bytes : List Byte)
  /-- HOST_REQUEST_TIMEOUT (R457). A non-posted request without completion after HCTO times out. -/
  | hostRequestTimeout (req : Nat)
  /-- HABL_CLEAR (R458). A write of HABL.CLEAR empties the host-atomic block list. -/
  | hablClear 
  /-- FAULT_RECORD_WRITE (R409). A fault record is written to the ring, FQTAIL released and the interrupt signalled, when there is room. -/
  | faultRecordWrite 
  /-- FAULT_RETRY (R410). A resume command with RACT RETRY resumes the agent named by the token. -/
  | faultRetry (token : Nat)
  /-- FAULT_KILL (R410). A resume command with RACT KILL is fatal to the agent's context. -/
  | faultKill (token : Nat)
  /-- TLB_INVALIDATE_PAGE (R416). Invalidates translations of one page of a context. -/
  | tlbInvalidatePage (ctx vpn : Nat)
  /-- TLB_INVALIDATE_CONTEXT (R416). Invalidates every translation of a context. -/
  | tlbInvalidateContext (ctx : Nat)
  /-- TLB_INVALIDATE_ALL (R416). Invalidates translations of every context. -/
  | tlbInvalidateAll 
  /-- TLB_INVALIDATION_DONE (R416). TIBUSY falls once entries are dropped and covered accesses are done. -/
  | tlbInvalidationDone 
  /-- CONTEXT_PREEMPT (R425). A PREEMPT context command requests pre-emption of a context. -/
  | contextPreempt (ctx : Nat)
  /-- CONTEXT_KILL (R423). A KILL context command is fatal to the context with KILLED. -/
  | contextKill (ctx : Nat)
  /-- CONTEXT_DEAD_CLEAR (R411). A write of 1 to DEAD clears it unless a discard runs. -/
  | contextDeadClear (ctx : Nat)
  /-- CONTEXT_SAVE (R427). With all agents at yield points and counters zero, the save engine saves the context's teams. -/
  | contextSave (ctx : Nat)
  /-- TEAM_RESTORE (R428). A saved team is placed and its state restored before its first instruction. -/
  | teamRestore (team : Nat)
  /-- YIELD_BUDGET_EXPIRY (R431). The yield budget count reaches YBUDGET and WATCHDOG is fatal. -/
  | yieldBudgetExpiry (ctx : Nat)
  /-- FATAL_DISCARD (R423). A fatal fault discards all of the context's work and writes FAULTED records. -/
  | fatalDiscard (ctx : Nat)
  /-- ERGW_SIZE_WRITE (R214). A write of ERGW.SIZE starts growing or shrinking an erg window. -/
  | ergwSizeWrite (die : Nat) (v : Dword)
  /-- ERGW_CHANGE_DONE (R214). The window change completes and BUSY clears. -/
  | ergwChangeDone (die : Nat)
  /-- GDDR_REFRESH (R498). A channel refreshes its next bank every 304 clk, closing its open row. -/
  | gddrRefresh (ch : Nat)
  /-- PATROL_SCRUB (R492). Patrol scrub reads GDDR 7 lines and rewrites bad data with new check bits. -/
  | patrolScrub (pa : Nat)
  /-- REUSE_FLUSH (R378). A write of REUSECTL.FLUSH invalidates every reuse entry. -/
  | reuseFlush 
  /-- REUSE_KEY_WRITE (R378). A write of a tenant's reuse key invalidates that tenant's entries. -/
  | reuseKeyWrite (tenant : Nat) (key : List Byte)
  /-- LVCAP_WRITE (R489). The runner writes the leave budgets; host-link writes are ignored. -/
  | lvcapWrite (v : Dword) (runner : Bool)
  /-- RUNNER_POWER_STEP (R490). Each millisecond the runner adjusts LVCAP and the BULK throttle. -/
  | runnerPowerStep
  /-- SENSOR_UPDATE (R491). Each millisecond the sensors and PWRNOW are updated. -/
  | sensorUpdate (watts : Nat) (temps : List Nat)
  /-- BOARD_POWER_CUT (R490). Input above 743 W for 10 ms or 115 C cuts all power. -/
  | boardPowerCut (watts temp ms : Nat)
  /-- RESET (R497). Reset starts bring-up at stage 0. -/
  | reset 
  /-- LINK_TRAINED (R497). The ROM has trained the host link, stage 1. -/
  | linkTrained 
  /-- MONITOR_VERIFY (R494). The ROM verifies and measures the monitor image. -/
  | monitorVerify (image : List Byte)
  /-- RUNNER_VERIFY (R494). The monitor verifies and measures the runner image. -/
  | runnerVerify (image : List Byte)
  /-- MEMORY_TRAINED (R497). GDDR 7 is trained and memories zeroed, stage 4. -/
  | memoryTrained (ok : Bool)
  /-- DEVICE_READY (R497). The runner sets pt forward if a grandmaster answers and reaches stage 5. -/
  | deviceReady (gm : Option Nat)
  /-- ATTESTATION_REQUEST (R496). A nonce written to the mailbox makes the monitor return a signed quote. -/
  | attestationRequest (nonce : List Byte)
  /-- SVN_RAISE_REQUEST (R494). A mailbox request makes the monitor raise a fused minimum SVN. -/
  | svnRaiseRequest (kind svn : Nat)
  /-- REGISTER_WRITE (R5). A write to a BAR 0 register without a row of its own updates it under its access type. -/
  | registerWrite (off n : Nat) (v : Dword)
  /-- PTP_RATE_ADJUST (R395). The runner's ST 2059-2 slave, on PTP messages or on losing the grandmaster, changes the rate r of pt from the next clk and updates PSTAT LOCK and OFFS. -/
  | ptpRateAdjust (r : Int) (lock : Nat) (offs : Dword)
  /-- CONTEXT_SAVE_DONE (R425). The save engine finishes writing the last core's share after its fixed 600 clk plus 128 bytes per clk; the context's teams leave residency and CBUSY falls. -/
  | contextSaveDone (ctx : Nat)
  deriving DecidableEq, Repr

end Sys2Proof
end

