-- ==== Sys2Proof/Decode.lean ====
section
/-!
DEFINITION. Decoding (R33 to R55): total on any dword, in the class of the clause, rejecting by name; then the encoder,
written from the same tables.
-/
namespace Sys2Proof

/-! ## Classes and headers -/

/-- The class of a clause (R33). -/
inductive Cls where
  | alu | mem | mtx | sys
  deriving DecidableEq, Repr

/-- A clause header (R33). -/
structure Header where
  cls : Cls
  count : BitVec 4
  wg : BitVec 4
  ws : BitVec 4
  we : BitVec 4
  wm : BitVec 4
  hw : BitVec 1
  h : BitVec 8
  hst : BitVec 2
  hph : BitVec 1
  rsv : BitVec 30
  deriving DecidableEq, Repr

/-! ## Fields of the formats -/

/-- The fields of an FS3 word (R34, R37). -/
def FS3.dec (w : Dword) : FS3 where
  stl := fld w 53 3
  all := fld w 52 1
  sd := fld w 45 7
  sa := fld w 38 7
  sb := fld w 31 7
  sc := fld w 24 7
  ty := fld w 20 4
  im := fld w 19 1
  cc := fld w 16 3
  aux := fld w 0 16

/-- The word of an FS3 under opcode `opc` (R34, R37). -/
def FS3.enc (opc : BitVec 8) (f : FS3) : Dword :=
  (opc ++ f.stl ++ f.all ++ f.sd ++ f.sa ++ f.sb ++ f.sc ++ f.ty ++ f.im ++ f.cc ++ f.aux : BitVec 64)

/-- The fields of an FSI word (R34, R38). -/
def FSI.dec (w : Dword) : FSI where
  stl := fld w 53 3
  all := fld w 52 1
  sd := fld w 45 7
  sa := fld w 38 7
  ty := fld w 34 4
  rsv := fld w 32 2
  imm := fld w 0 32

/-- The word of an FSI under opcode `opc` (R34, R38). -/
def FSI.enc (opc : BitVec 8) (f : FSI) : Dword :=
  (opc ++ f.stl ++ f.all ++ f.sd ++ f.sa ++ f.ty ++ f.rsv ++ f.imm : BitVec 64)

/-- The fields of an FV3 word (R34, R39). -/
def FV3.dec (w : Dword) : FV3 where
  stl := fld w 53 3
  all := fld w 52 1
  vd := fld w 42 10
  va := fld w 32 10
  vb := fld w 22 10
  vc := fld w 12 10
  ty := fld w 8 4
  mod := fld w 4 4
  sel := fld w 0 4

/-- The word of an FV3 under opcode `opc` (R34, R39). -/
def FV3.enc (opc : BitVec 8) (f : FV3) : Dword :=
  (opc ++ f.stl ++ f.all ++ f.vd ++ f.va ++ f.vb ++ f.vc ++ f.ty ++ f.mod ++ f.sel : BitVec 64)

/-- The fields of an FVI word (R34, R40). -/
def FVI.dec (w : Dword) : FVI where
  stl := fld w 53 3
  all := fld w 52 1
  vd := fld w 42 10
  va := fld w 32 10
  ty := fld w 28 4
  mod := fld w 24 4
  imm := fld w 0 24

/-- The word of an FVI under opcode `opc` (R34, R40). -/
def FVI.enc (opc : BitVec 8) (f : FVI) : Dword :=
  (opc ++ f.stl ++ f.all ++ f.vd ++ f.va ++ f.ty ++ f.mod ++ f.imm : BitVec 64)

/-- The fields of an FMEM word (R34, R41). -/
def FMEM.dec (w : Dword) : FMEM where
  stl := fld w 53 3
  all := fld w 52 1
  data := fld w 42 10
  sbase := fld w 35 7
  voff := fld w 25 10
  width := fld w 22 3
  sch := fld w 19 3
  imm := fld w 0 19

/-- The word of an FMEM under opcode `opc` (R34, R41). -/
def FMEM.enc (opc : BitVec 8) (f : FMEM) : Dword :=
  (opc ++ f.stl ++ f.all ++ f.data ++ f.sbase ++ f.voff ++ f.width ++ f.sch ++ f.imm : BitVec 64)

/-- The fields of an FSWP word (R34, R45). -/
def FSWP.dec (w : Dword) : FSWP where
  ty := fld w 56 2
  stl := fld w 53 3
  all := fld w 52 1
  cnt := fld w 40 12
  sd := fld w 35 5
  sa := fld w 30 5
  sb := fld w 25 5
  stepd := fld w 17 8
  stepa := fld w 9 8
  stepb := fld w 1 8
  sr := fld w 0 1

/-- The word of an FSWP under opcode `opc` (R34, R45). -/
def FSWP.enc (opc : BitVec 6) (f : FSWP) : Dword :=
  (opc ++ f.ty ++ f.stl ++ f.all ++ f.cnt ++ f.sd ++ f.sa ++ f.sb ++ f.stepd ++ f.stepa ++ f.stepb ++ f.sr : BitVec 64)

/-- The fields of an FMTX word (R34, R46). -/
def FMTX.dec (w : Dword) : FMTX where
  stl := fld w 53 3
  all := fld w 52 1
  abank := fld w 46 6
  a := fld w 36 10
  b := fld w 26 10
  fb := fld w 19 7
  kst := fld w 11 8
  ah := fld w 10 1
  clr := fld w 9 1
  mopt := fld w 0 9

/-- The word of an FMTX under opcode `opc` (R34, R46). -/
def FMTX.enc (opc : BitVec 8) (f : FMTX) : Dword :=
  (opc ++ f.stl ++ f.all ++ f.abank ++ f.a ++ f.b ++ f.fb ++ f.kst ++ f.ah ++ f.clr ++ f.mopt : BitVec 64)

/-- The fields of an FBR word (R34, R47). -/
def FBR.dec (w : Dword) : FBR where
  stl := fld w 53 3
  all := fld w 52 1
  cond := fld w 48 4
  sc := fld w 41 7
  sl := fld w 34 7
  rsv := fld w 32 2
  off := fld w 0 32

/-- The word of an FBR under opcode `opc` (R34, R47). -/
def FBR.enc (opc : BitVec 8) (f : FBR) : Dword :=
  (opc ++ f.stl ++ f.all ++ f.cond ++ f.sc ++ f.sl ++ f.rsv ++ f.off : BitVec 64)

/-- The fields of an FSYS word (R34, R48). -/
def FSYS.dec (w : Dword) : FSYS where
  stl := fld w 53 3
  all := fld w 52 1
  sd := fld w 45 7
  sa := fld w 38 7
  sb := fld w 31 7
  res := fld w 23 8
  sub := fld w 19 4
  imm := fld w 0 19

/-- The word of an FSYS under opcode `opc` (R34, R48). -/
def FSYS.enc (opc : BitVec 8) (f : FSYS) : Dword :=
  (opc ++ f.stl ++ f.all ++ f.sd ++ f.sa ++ f.sb ++ f.res ++ f.sub ++ f.imm : BitVec 64)

/-- CLASS of a header (R33). -/
def Cls.ofBits (b : BitVec 2) : Cls :=
  match b.toNat with
  | 0 => .alu
  | 1 => .mem
  | 2 => .mtx
  | _ => .sys

def Cls.bits : Cls → BitVec 2
  | .alu => 0#2
  | .mem => 1#2
  | .mtx => 2#2
  | .sys => 3#2

/-- The fields of a clause header (R33). -/
def Header.dec (w : Dword) : Header where
  cls := Cls.ofBits (fld w 62 2)
  count := fld w 58 4
  wg := fld w 54 4
  ws := fld w 50 4
  we := fld w 46 4
  wm := fld w 42 4
  hw := fld w 41 1
  h := fld w 33 8
  hst := fld w 31 2
  hph := fld w 30 1
  rsv := fld w 0 30

def Header.enc (h : Header) : Dword :=
  (h.cls.bits ++ h.count ++ h.wg ++ h.ws ++ h.we ++ h.wm ++ h.hw ++ h.h ++ h.hst ++ h.hph ++ h.rsv : BitVec 64)

/-! ## Opcode map -/

/-- ALU class (R52). -/
def decodeAlu (opc : Nat) (w : Dword) : Option Instr :=
  match opc with
  | 0x00 => some (.smov (FS3.dec w))
  | 0x01 => some (.smovi (FSI.dec w))
  | 0x02 => some (.smovh (FSI.dec w))
  | 0x03 => some (.sadd (FS3.dec w))
  | 0x04 => some (.ssub (FS3.dec w))
  | 0x05 => some (.smul (FS3.dec w))
  | 0x06 => some (.smulh (FS3.dec w))
  | 0x07 => some (.sdiv (FS3.dec w))
  | 0x08 => some (.srem (FS3.dec w))
  | 0x09 => some (.sand (FS3.dec w))
  | 0x0A => some (.sor (FS3.dec w))
  | 0x0B => some (.sxor (FS3.dec w))
  | 0x0C => some (.snot (FS3.dec w))
  | 0x0D => some (.sshl (FS3.dec w))
  | 0x0E => some (.sshr (FS3.dec w))
  | 0x0F => some (.ssar (FS3.dec w))
  | 0x10 => some (.smin (FS3.dec w))
  | 0x11 => some (.smax (FS3.dec w))
  | 0x12 => some (.scmp (FS3.dec w))
  | 0x13 => some (.ssel (FS3.dec w))
  | 0x14 => some (.spopc (FS3.dec w))
  | 0x15 => some (.sclz (FS3.dec w))
  | 0x16 => some (.sctz (FS3.dec w))
  | 0x17 => some (.sbfe (FS3.dec w))
  | 0x18 => some (.sbfi (FS3.dec w))
  | 0x19 => some (.slea (FS3.dec w))
  | 0x1A => some (.saddFSi (FSI.dec w))
  | 0x1B => some (.sandFSi (FSI.dec w))
  | 0x1C => some (.sorFSi (FSI.dec w))
  | 0x1D => some (.sxorFSi (FSI.dec w))
  | 0x20 => some (.bra (FBR.dec w))
  | 0x21 => some (.brc (FBR.dec w))
  | 0x22 => some (.call (FBR.dec w))
  | 0x23 => some (.ret (FBR.dec w))
  | 0x24 => some (.jmp (FBR.dec w))
  | 0x25 => some (.loop (FBR.dec w))
  | 0x26 => some (.nop (FBR.dec w))
  | 0x27 => some (.endGroup (FBR.dec w))
  | 0x30 => some (.mset (FS3.dec w))
  | 0x31 => some (.mget (FS3.dec w))
  | 0x32 => some (.mand (FS3.dec w))
  | 0x33 => some (.mandn (FS3.dec w))
  | 0x34 => some (.mor (FS3.dec w))
  | 0x35 => some (.mfirst (FS3.dec w))
  | 0x36 => some (.mcnt (FS3.dec w))
  | 0x37 => some (.brzm (FBR.dec w))
  | 0x38 => some (.split (FS3.dec w))
  | 0x39 => some (.joinI (FS3.dec w))
  | 0x40 => some (.vadd (FV3.dec w))
  | 0x41 => some (.vsub (FV3.dec w))
  | 0x42 => some (.vmul (FV3.dec w))
  | 0x43 => some (.vmulh (FV3.dec w))
  | 0x44 => some (.vmad (FV3.dec w))
  | 0x45 => some (.vfma (FV3.dec w))
  | 0x46 => some (.vmin (FV3.dec w))
  | 0x47 => some (.vmax (FV3.dec w))
  | 0x48 => some (.vabs (FV3.dec w))
  | 0x49 => some (.vand (FV3.dec w))
  | 0x4A => some (.vor (FV3.dec w))
  | 0x4B => some (.vxor (FV3.dec w))
  | 0x4C => some (.vnot (FV3.dec w))
  | 0x4D => some (.vshl (FV3.dec w))
  | 0x4E => some (.vshr (FV3.dec w))
  | 0x4F => some (.vsar (FV3.dec w))
  | 0x50 => some (.vcmp (FV3.dec w))
  | 0x51 => some (.vsel (FV3.dec w))
  | 0x52 => some (.vmov (FV3.dec w))
  | 0x53 => some (.vbcast (FV3.dec w))
  | 0x54 => some (.vlane (FV3.dec w))
  | 0x55 => some (.vcvt (FV3.dec w))
  | 0x56 => some (.vrcp (FV3.dec w))
  | 0x57 => some (.vrsq (FV3.dec w))
  | 0x58 => some (.vsqrt (FV3.dec w))
  | 0x59 => some (.vexp2 (FV3.dec w))
  | 0x5A => some (.vlog2 (FV3.dec w))
  | 0x5B => some (.vsin (FV3.dec w))
  | 0x5C => some (.vcos (FV3.dec w))
  | 0x5D => some (.vfract (FV3.dec w))
  | 0x5E => some (.vround (FV3.dec w))
  | 0x5F => some (.vpopc (FV3.dec w))
  | 0x60 => some (.vclz (FV3.dec w))
  | 0x61 => some (.vbfe (FV3.dec w))
  | 0x62 => some (.vbfi (FV3.dec w))
  | 0x63 => some (.vunpk (FV3.dec w))
  | 0x64 => some (.vpack (FV3.dec w))
  | 0x65 => some (.vdot (FV3.dec w))
  | 0x66 => some (.vlut (FV3.dec w))
  | 0x80 => some (.vaddFVi (FVI.dec w))
  | 0x81 => some (.vsubFVi (FVI.dec w))
  | 0x82 => some (.vmulFVi (FVI.dec w))
  | 0x83 => some (.vminFVi (FVI.dec w))
  | 0x84 => some (.vmaxFVi (FVI.dec w))
  | 0x85 => some (.vandFVi (FVI.dec w))
  | 0x86 => some (.vorFVi (FVI.dec w))
  | 0x87 => some (.vxorFVi (FVI.dec w))
  | 0x88 => some (.vshlFVi (FVI.dec w))
  | 0x89 => some (.vshrFVi (FVI.dec w))
  | 0x8A => some (.vsarFVi (FVI.dec w))
  | 0x8B => some (.vcmpFVi (FVI.dec w))
  | 0x8C => some (.vmovFVi (FVI.dec w))
  | 0xA0 => some (.swadd (FSWP.dec w))
  | 0xA1 => some (.swadd (FSWP.dec w))
  | 0xA2 => some (.swadd (FSWP.dec w))
  | 0xA3 => some (.swadd (FSWP.dec w))
  | 0xA4 => some (.swmul (FSWP.dec w))
  | 0xA5 => some (.swmul (FSWP.dec w))
  | 0xA6 => some (.swmul (FSWP.dec w))
  | 0xA7 => some (.swmul (FSWP.dec w))
  | 0xA8 => some (.swfma (FSWP.dec w))
  | 0xA9 => some (.swfma (FSWP.dec w))
  | 0xAA => some (.swfma (FSWP.dec w))
  | 0xAB => some (.swfma (FSWP.dec w))
  | 0xAC => some (.swmax (FSWP.dec w))
  | 0xAD => some (.swmax (FSWP.dec w))
  | 0xAE => some (.swmax (FSWP.dec w))
  | 0xAF => some (.swmax (FSWP.dec w))
  | 0xB0 => some (.swcvt (FSWP.dec w))
  | 0xB1 => some (.swcvt (FSWP.dec w))
  | 0xB2 => some (.swcvt (FSWP.dec w))
  | 0xB3 => some (.swcvt (FSWP.dec w))
  | 0xC0 => some (.vshuf (FV3.dec w))
  | 0xC1 => some (.vshfu (FV3.dec w))
  | 0xC2 => some (.vshfd (FV3.dec w))
  | 0xC3 => some (.vxsw (FV3.dec w))
  | 0xC4 => some (.vbal (FV3.dec w))
  | 0xC5 => some (.vredu (FV3.dec w))
  | 0xC6 => some (.vscan (FV3.dec w))
  | 0xC7 => some (.vmatch (FV3.dec w))
  | 0xC8 => some (.vrdln (FV3.dec w))
  | 0xC9 => some (.vwrln (FV3.dec w))
  | _ => none

/-- MEM class (R53). -/
def decodeMem (opc : Nat) (w : Dword) : Option Instr :=
  match opc with
  | 0x00 => some (.ldg (FMEM.dec w))
  | 0x01 => some (.ldgAcq (FMEM.dec w))
  | 0x02 => some (.stg (FMEM.dec w))
  | 0x03 => some (.stgRel (FMEM.dec w))
  | 0x04 => some (.ldgs (FMEM.dec w))
  | 0x05 => some (.ldgsAcq (FMEM.dec w))
  | 0x06 => some (.stgs (FMEM.dec w))
  | 0x07 => some (.stgsRel (FMEM.dec w))
  | 0x08 => some (.atomg (FMEM.dec w))
  | 0x09 => some (.atomh (FMEM.dec w))
  | 0x0A => some (.atomhF (FMEM.dec w))
  | 0x0C => some (.ldc (FMEM.dec w))
  | 0x0D => some (.pref (FMEM.dec w))
  | 0x0E => some (.waitc (FMEM.dec w))
  | 0x0F => some (.fence (FMEM.dec w))
  | 0x10 => some (.lds (FMEM.dec w))
  | 0x11 => some (.sts (FMEM.dec w))
  | 0x12 => some (.ldss (FMEM.dec w))
  | 0x13 => some (.stss (FMEM.dec w))
  | 0x14 => some (.atoms (FMEM.dec w))
  | 0x15 => some (.ldb (FMEM.dec w))
  | 0x16 => some (.stb (FMEM.dec w))
  | 0x18 => some (.sample (FMEM.dec w))
  | 0x19 => some (.txld (FMEM.dec w))
  | _ => none

/-- MTX class (R54). -/
def decodeMtx (opc : Nat) (w : Dword) : Option Instr :=
  match opc with
  | 0x00 => some (.aalloc (FMTX.dec w))
  | 0x01 => some (.afree (FMTX.dec w))
  | 0x02 => some (.azero (FMTX.dec w))
  | 0x03 => some (.mma (FMTX.dec w))
  | 0x04 => some (.mmaq (FMTX.dec w))
  | 0x05 => some (.mmav (FMTX.dec w))
  | 0x06 => some (.mmac (FMTX.dec w))
  | 0x07 => some (.cbld (FMTX.dec w))
  | 0x08 => some (.ald (FMTX.dec w))
  | 0x09 => some (.ast (FMTX.dec w))
  | 0x0A => some (.aadd (FMTX.dec w))
  | 0x0B => some (.astat (FMTX.dec w))
  | _ => none

/-- SUB of an F-SYS word (R48). -/
def subOf (w : Dword) : Nat := (fld w 19 4).toNat

/-- SYS class (R55). Where the table names one row for each SUB, SUB chooses; a SUB that no row lists takes the
first row of its opcode, whose meaning raises ILLEGAL_OP for it (R58 step 5). -/
def decodeSys (opc : Nat) (w : Dword) : Option Instr :=
  match opc with
  | 0x00 => some (.tbar (FSYS.dec w))
  | 0x01 => some (.sbar (FSYS.dec w))
  | 0x02 => some (.launch (FSYS.dec w))
  | 0x03 => some (if subOf w = 1 then (.sleepptRel (FSYS.dec w)) else (.sleeppt (FSYS.dec w)))
  | 0x04 => some (.srd (FSYS.dec w))
  | 0x05 => some (.swr (FSYS.dec w))
  | 0x08 => some (.bufwait (FSYS.dec w))
  | 0x09 => some (if subOf w = 1 then (.bufrelPub (FSYS.dec w)) else (.bufrelCons (FSYS.dec w)))
  | 0x0A => some (.bufstat (FSYS.dec w))
  | 0x10 => some (.rtrace (FSYS.dec w))
  | 0x11 => some (if subOf w % 2 = 1 then (.rresumeEnd (FSYS.dec w)) else (.rresume (FSYS.dec w)))
  | 0x12 => some (.rstate (FSYS.dec w))
  | 0x13 => some (.rcommit (FSYS.dec w))
  | 0x14 => some (.genpin (FSYS.dec w))
  | 0x15 => some (.genrel (FSYS.dec w))
  | 0x16 => some (.bldcmd (FSYS.dec w))
  | 0x17 => some (if subOf w = 1 then (.bldqPins (FSYS.dec w)) else if subOf w = 2 then (.bldqQueue (FSYS.dec w)) else (.bldqCur (FSYS.dec w)))
  | 0x18 => some (.tspawn (FSYS.dec w))
  | 0x19 => some (.tend (FSYS.dec w))
  | 0x1C => some (.qpop (FSYS.dec w))
  | 0x1D => some (.qpush (FSYS.dec w))
  | 0x1E => some (.qstat (FSYS.dec w))
  | 0x1F => some (if subOf w = 1 then (.qframeDone (FSYS.dec w)) else if subOf w = 2 then (.qframeNext (FSYS.dec w)) else (.qframeOpen (FSYS.dec w)))
  | 0x20 => some (.yield (FSYS.dec w))
  | 0x21 => some (.trapI (FSYS.dec w))
  | 0x22 => some (if subOf w = 1 then (.tretSkip (FSYS.dec w)) else if subOf w = 2 then (.tretJmp (FSYS.dec w)) else (.tretRetry (FSYS.dec w)))
  | 0x23 => some (.xlmr (FSYS.dec w))
  | 0x24 => some (.xlmw (FSYS.dec w))
  | 0x25 => some (if subOf w = 1 then (.fltrdSpl (FSYS.dec w)) else if subOf w = 2 then (.fltrdRng (FSYS.dec w)) else (.fltrdRec (FSYS.dec w)))
  | 0x26 => some (if subOf w = 1 then (.haltFatal (FSYS.dec w)) else (.halt (FSYS.dec w)))
  | 0x27 => some (.brk (FSYS.dec w))
  | 0x28 => some (.wbar (FSYS.dec w))
  | 0x30 => some (if subOf w = 1 then (.xcopyInc (FSYS.dec w)) else if subOf w = 2 then (.xcopyOut (FSYS.dec w)) else if subOf w = 3 then (.xcopyOutc (FSYS.dec w)) else (.xcopyIn (FSYS.dec w)))
  | 0x31 => some (.xhalo (FSYS.dec w))
  | 0x32 => some (.xim2c (FSYS.dec w))
  | 0x33 => some (.xresume (FSYS.dec w))
  | 0x34 => some (if subOf w = 1 then (.xwaitOps (FSYS.dec w)) else if subOf w = 2 then (.xwaitSvc (FSYS.dec w)) else (.xwaitH (FSYS.dec w)))
  | 0x35 => some (.xfill (FSYS.dec w))
  | 0x36 => some (if subOf w = 1 then (.xcollRed (FSYS.dec w)) else if subOf w = 2 then (.xcollGet (FSYS.dec w)) else (.xcollSend (FSYS.dec w)))
  | _ => none

/-- The instruction of a word in the class of its clause (R34, R52 to R55). -/
def decodeIn (c : Cls) (w : Dword) : Option Instr :=
  let opc := (fld w 56 8).toNat
  match c with
  | .alu => decodeAlu opc w
  | .mem => decodeMem opc w
  | .mtx => decodeMtx opc w
  | .sys => decodeSys opc w

/-- What a word is in the class of its clause (R24, R58, R59). -/
inductive Decoded where
  /-- The instruction it holds. -/
  | instr (i : Instr)
  /-- OPC unassigned in every class: ILLEGAL_OP detail 0 when the word is reached (R58 step 2). -/
  | unassigned
  /-- OPC unassigned in this class and assigned in another: the clause is invalid (R24). -/
  | otherClass
  deriving DecidableEq, Repr

/-- OPC is assigned in some class (R59). -/
def opcAssigned (w : Dword) : Bool :=
  (decodeIn .alu w).isSome || (decodeIn .mem w).isSome || (decodeIn .mtx w).isSome || (decodeIn .sys w).isSome

def decodeWord (c : Cls) (w : Dword) : Decoded :=
  match decodeIn c w with
  | some i => .instr i
  | none => if opcAssigned w then .otherClass else .unassigned

/-- The instruction the decoder reads from the bits of a table row (bit 0 the least significant bit of the first word):
64 bits are an instruction word, taken in the ALU class; 128 bits are a clause header, which gives the class, and the
word after it (R23, log entry 4). -/
def decodeTableWord (nbits w : Nat) : Option Instr :=
  if nbits ≤ 64 then decodeIn .alu (BitVec.ofNat 64 w)
  else decodeIn (Header.dec (BitVec.ofNat 64 w)).cls (BitVec.ofNat 64 (w / 2 ^ 64))

/-! ## The encoder -/

/-- The class and the word of an instruction; an event of the device has no word. -/
def encode : Instr → Option (Cls × Dword)
  | .smov f => some (.alu, f.enc 0x00#8)
  | .smovi f => some (.alu, f.enc 0x01#8)
  | .smovh f => some (.alu, f.enc 0x02#8)
  | .sadd f => some (.alu, f.enc 0x03#8)
  | .saddFSi f => some (.alu, f.enc 0x1A#8)
  | .ssub f => some (.alu, f.enc 0x04#8)
  | .smul f => some (.alu, f.enc 0x05#8)
  | .smulh f => some (.alu, f.enc 0x06#8)
  | .sdiv f => some (.alu, f.enc 0x07#8)
  | .srem f => some (.alu, f.enc 0x08#8)
  | .sand f => some (.alu, f.enc 0x09#8)
  | .sandFSi f => some (.alu, f.enc 0x1B#8)
  | .sor f => some (.alu, f.enc 0x0A#8)
  | .sorFSi f => some (.alu, f.enc 0x1C#8)
  | .sxor f => some (.alu, f.enc 0x0B#8)
  | .sxorFSi f => some (.alu, f.enc 0x1D#8)
  | .snot f => some (.alu, f.enc 0x0C#8)
  | .sshl f => some (.alu, f.enc 0x0D#8)
  | .sshr f => some (.alu, f.enc 0x0E#8)
  | .ssar f => some (.alu, f.enc 0x0F#8)
  | .smin f => some (.alu, f.enc 0x10#8)
  | .smax f => some (.alu, f.enc 0x11#8)
  | .scmp f => some (.alu, f.enc 0x12#8)
  | .ssel f => some (.alu, f.enc 0x13#8)
  | .spopc f => some (.alu, f.enc 0x14#8)
  | .sclz f => some (.alu, f.enc 0x15#8)
  | .sctz f => some (.alu, f.enc 0x16#8)
  | .sbfe f => some (.alu, f.enc 0x17#8)
  | .sbfi f => some (.alu, f.enc 0x18#8)
  | .slea f => some (.alu, f.enc 0x19#8)
  | .bra f => some (.alu, f.enc 0x20#8)
  | .brc f => some (.alu, f.enc 0x21#8)
  | .call f => some (.alu, f.enc 0x22#8)
  | .ret f => some (.alu, f.enc 0x23#8)
  | .jmp f => some (.alu, f.enc 0x24#8)
  | .loop f => some (.alu, f.enc 0x25#8)
  | .nop f => some (.alu, f.enc 0x26#8)
  | .endGroup f => some (.alu, f.enc 0x27#8)
  | .mset f => some (.alu, f.enc 0x30#8)
  | .mget f => some (.alu, f.enc 0x31#8)
  | .mand f => some (.alu, f.enc 0x32#8)
  | .mandn f => some (.alu, f.enc 0x33#8)
  | .mor f => some (.alu, f.enc 0x34#8)
  | .mfirst f => some (.alu, f.enc 0x35#8)
  | .mcnt f => some (.alu, f.enc 0x36#8)
  | .brzm f => some (.alu, f.enc 0x37#8)
  | .split f => some (.alu, f.enc 0x38#8)
  | .joinI f => some (.alu, f.enc 0x39#8)
  | .vadd f => some (.alu, f.enc 0x40#8)
  | .vaddFVi f => some (.alu, f.enc 0x80#8)
  | .vsub f => some (.alu, f.enc 0x41#8)
  | .vsubFVi f => some (.alu, f.enc 0x81#8)
  | .vmul f => some (.alu, f.enc 0x42#8)
  | .vmulFVi f => some (.alu, f.enc 0x82#8)
  | .vmulh f => some (.alu, f.enc 0x43#8)
  | .vmad f => some (.alu, f.enc 0x44#8)
  | .vfma f => some (.alu, f.enc 0x45#8)
  | .vmin f => some (.alu, f.enc 0x46#8)
  | .vminFVi f => some (.alu, f.enc 0x83#8)
  | .vmax f => some (.alu, f.enc 0x47#8)
  | .vmaxFVi f => some (.alu, f.enc 0x84#8)
  | .vabs f => some (.alu, f.enc 0x48#8)
  | .vand f => some (.alu, f.enc 0x49#8)
  | .vandFVi f => some (.alu, f.enc 0x85#8)
  | .vor f => some (.alu, f.enc 0x4A#8)
  | .vorFVi f => some (.alu, f.enc 0x86#8)
  | .vxor f => some (.alu, f.enc 0x4B#8)
  | .vxorFVi f => some (.alu, f.enc 0x87#8)
  | .vnot f => some (.alu, f.enc 0x4C#8)
  | .vshl f => some (.alu, f.enc 0x4D#8)
  | .vshlFVi f => some (.alu, f.enc 0x88#8)
  | .vshr f => some (.alu, f.enc 0x4E#8)
  | .vshrFVi f => some (.alu, f.enc 0x89#8)
  | .vsar f => some (.alu, f.enc 0x4F#8)
  | .vsarFVi f => some (.alu, f.enc 0x8A#8)
  | .vcmp f => some (.alu, f.enc 0x50#8)
  | .vcmpFVi f => some (.alu, f.enc 0x8B#8)
  | .vsel f => some (.alu, f.enc 0x51#8)
  | .vmov f => some (.alu, f.enc 0x52#8)
  | .vmovFVi f => some (.alu, f.enc 0x8C#8)
  | .vbcast f => some (.alu, f.enc 0x53#8)
  | .vlane f => some (.alu, f.enc 0x54#8)
  | .vcvt f => some (.alu, f.enc 0x55#8)
  | .vrcp f => some (.alu, f.enc 0x56#8)
  | .vrsq f => some (.alu, f.enc 0x57#8)
  | .vsqrt f => some (.alu, f.enc 0x58#8)
  | .vexp2 f => some (.alu, f.enc 0x59#8)
  | .vlog2 f => some (.alu, f.enc 0x5A#8)
  | .vsin f => some (.alu, f.enc 0x5B#8)
  | .vcos f => some (.alu, f.enc 0x5C#8)
  | .vfract f => some (.alu, f.enc 0x5D#8)
  | .vround f => some (.alu, f.enc 0x5E#8)
  | .vpopc f => some (.alu, f.enc 0x5F#8)
  | .vclz f => some (.alu, f.enc 0x60#8)
  | .vbfe f => some (.alu, f.enc 0x61#8)
  | .vbfi f => some (.alu, f.enc 0x62#8)
  | .vunpk f => some (.alu, f.enc 0x63#8)
  | .vpack f => some (.alu, f.enc 0x64#8)
  | .vdot f => some (.alu, f.enc 0x65#8)
  | .vlut f => some (.alu, f.enc 0x66#8)
  | .swadd f => some (.alu, f.enc 0x28#6)
  | .swmul f => some (.alu, f.enc 0x29#6)
  | .swfma f => some (.alu, f.enc 0x2A#6)
  | .swmax f => some (.alu, f.enc 0x2B#6)
  | .swcvt f => some (.alu, f.enc 0x2C#6)
  | .vshuf f => some (.alu, f.enc 0xC0#8)
  | .vshfu f => some (.alu, f.enc 0xC1#8)
  | .vshfd f => some (.alu, f.enc 0xC2#8)
  | .vxsw f => some (.alu, f.enc 0xC3#8)
  | .vbal f => some (.alu, f.enc 0xC4#8)
  | .vredu f => some (.alu, f.enc 0xC5#8)
  | .vscan f => some (.alu, f.enc 0xC6#8)
  | .vmatch f => some (.alu, f.enc 0xC7#8)
  | .vrdln f => some (.alu, f.enc 0xC8#8)
  | .vwrln f => some (.alu, f.enc 0xC9#8)
  | .ldg f => some (.mem, f.enc 0x00#8)
  | .ldgAcq f => some (.mem, f.enc 0x01#8)
  | .stg f => some (.mem, f.enc 0x02#8)
  | .stgRel f => some (.mem, f.enc 0x03#8)
  | .ldgs f => some (.mem, f.enc 0x04#8)
  | .ldgsAcq f => some (.mem, f.enc 0x05#8)
  | .stgs f => some (.mem, f.enc 0x06#8)
  | .stgsRel f => some (.mem, f.enc 0x07#8)
  | .atomg f => some (.mem, f.enc 0x08#8)
  | .atomh f => some (.mem, f.enc 0x09#8)
  | .atomhF f => some (.mem, f.enc 0x0A#8)
  | .ldc f => some (.mem, f.enc 0x0C#8)
  | .pref f => some (.mem, f.enc 0x0D#8)
  | .waitc f => some (.mem, f.enc 0x0E#8)
  | .fence f => some (.mem, f.enc 0x0F#8)
  | .lds f => some (.mem, f.enc 0x10#8)
  | .sts f => some (.mem, f.enc 0x11#8)
  | .ldss f => some (.mem, f.enc 0x12#8)
  | .stss f => some (.mem, f.enc 0x13#8)
  | .atoms f => some (.mem, f.enc 0x14#8)
  | .ldb f => some (.mem, f.enc 0x15#8)
  | .stb f => some (.mem, f.enc 0x16#8)
  | .sample f => some (.mem, f.enc 0x18#8)
  | .txld f => some (.mem, f.enc 0x19#8)
  | .aalloc f => some (.mtx, f.enc 0x00#8)
  | .afree f => some (.mtx, f.enc 0x01#8)
  | .azero f => some (.mtx, f.enc 0x02#8)
  | .mma f => some (.mtx, f.enc 0x03#8)
  | .mmaq f => some (.mtx, f.enc 0x04#8)
  | .mmav f => some (.mtx, f.enc 0x05#8)
  | .mmac f => some (.mtx, f.enc 0x06#8)
  | .cbld f => some (.mtx, f.enc 0x07#8)
  | .ald f => some (.mtx, f.enc 0x08#8)
  | .ast f => some (.mtx, f.enc 0x09#8)
  | .aadd f => some (.mtx, f.enc 0x0A#8)
  | .astat f => some (.mtx, f.enc 0x0B#8)
  | .tbar f => some (.sys, f.enc 0x00#8)
  | .sbar f => some (.sys, f.enc 0x01#8)
  | .launch f => some (.sys, f.enc 0x02#8)
  | .sleeppt f => some (.sys, f.enc 0x03#8)
  | .sleepptRel f => some (.sys, f.enc 0x03#8)
  | .srd f => some (.sys, f.enc 0x04#8)
  | .swr f => some (.sys, f.enc 0x05#8)
  | .bufwait f => some (.sys, f.enc 0x08#8)
  | .bufrelCons f => some (.sys, f.enc 0x09#8)
  | .bufrelPub f => some (.sys, f.enc 0x09#8)
  | .bufstat f => some (.sys, f.enc 0x0A#8)
  | .rtrace f => some (.sys, f.enc 0x10#8)
  | .rresume f => some (.sys, f.enc 0x11#8)
  | .rresumeEnd f => some (.sys, f.enc 0x11#8)
  | .rstate f => some (.sys, f.enc 0x12#8)
  | .rcommit f => some (.sys, f.enc 0x13#8)
  | .genpin f => some (.sys, f.enc 0x14#8)
  | .genrel f => some (.sys, f.enc 0x15#8)
  | .bldcmd f => some (.sys, f.enc 0x16#8)
  | .bldqCur f => some (.sys, f.enc 0x17#8)
  | .bldqPins f => some (.sys, f.enc 0x17#8)
  | .bldqQueue f => some (.sys, f.enc 0x17#8)
  | .tspawn f => some (.sys, f.enc 0x18#8)
  | .tend f => some (.sys, f.enc 0x19#8)
  | .qpop f => some (.sys, f.enc 0x1C#8)
  | .qpush f => some (.sys, f.enc 0x1D#8)
  | .qstat f => some (.sys, f.enc 0x1E#8)
  | .qframeOpen f => some (.sys, f.enc 0x1F#8)
  | .qframeDone f => some (.sys, f.enc 0x1F#8)
  | .qframeNext f => some (.sys, f.enc 0x1F#8)
  | .yield f => some (.sys, f.enc 0x20#8)
  | .trapI f => some (.sys, f.enc 0x21#8)
  | .tretRetry f => some (.sys, f.enc 0x22#8)
  | .tretSkip f => some (.sys, f.enc 0x22#8)
  | .tretJmp f => some (.sys, f.enc 0x22#8)
  | .xlmr f => some (.sys, f.enc 0x23#8)
  | .xlmw f => some (.sys, f.enc 0x24#8)
  | .fltrdRec f => some (.sys, f.enc 0x25#8)
  | .fltrdSpl f => some (.sys, f.enc 0x25#8)
  | .fltrdRng f => some (.sys, f.enc 0x25#8)
  | .halt f => some (.sys, f.enc 0x26#8)
  | .haltFatal f => some (.sys, f.enc 0x26#8)
  | .brk f => some (.sys, f.enc 0x27#8)
  | .wbar f => some (.sys, f.enc 0x28#8)
  | .xcopyIn f => some (.sys, f.enc 0x30#8)
  | .xcopyInc f => some (.sys, f.enc 0x30#8)
  | .xcopyOut f => some (.sys, f.enc 0x30#8)
  | .xcopyOutc f => some (.sys, f.enc 0x30#8)
  | .xhalo f => some (.sys, f.enc 0x31#8)
  | .xim2c f => some (.sys, f.enc 0x32#8)
  | .xresume f => some (.sys, f.enc 0x33#8)
  | .xwaitH f => some (.sys, f.enc 0x34#8)
  | .xwaitOps f => some (.sys, f.enc 0x34#8)
  | .xwaitSvc f => some (.sys, f.enc 0x34#8)
  | .xfill f => some (.sys, f.enc 0x35#8)
  | .xcollSend f => some (.sys, f.enc 0x36#8)
  | .xcollRed f => some (.sys, f.enc 0x36#8)
  | .xcollGet f => some (.sys, f.enc 0x36#8)
  | .clauseStart _ _ => none
  | .clauseLineArrival _ _ _ => none
  | .issuerAged _ _ => none
  | .holdEnd _ _ => none
  | .tlbWalkDone _ => none
  | .loadReturn _ _ _ => none
  | .storeAccept _ _ => none
  | .atomicReturn _ _ _ => none
  | .sweepSegmentAccess _ => none
  | .hostAtomicCompletion _ _ _ _ => none
  | .peerStoreReject _ _ _ => none
  | .peerLoadReject _ _ _ => none
  | .barrierComplete _ _ => none
  | .sleepWake _ _ => none
  | .fragmentQueueRelease _ _ => none
  | .groupRelease _ => none
  | .doorbell _ _ => none
  | .queueEntryRead _ => none
  | .admission _ => none
  | .gridEligible _ => none
  | .teamPlacement _ => none
  | .firmDeadlineShed _ => none
  | .hardWaitPreempt _ => none
  | .groupStart _ => none
  | .leatImageLine _ _ => none
  | .gridCompletionRecord _ => none
  | .arrayOpBegin _ => none
  | .matrixOpEnd _ => none
  | .mmaqRendezvous _ _ => none
  | .mmavLineArrival _ => none
  | .cbldLoadDone _ => none
  | .aallocGrant _ => none
  | .bankZeroDone _ _ => none
  | .bankSpill _ _ => none
  | .leaveRequest _ _ => none
  | .leaveGrant _ _ => none
  | .leaveExpiry _ _ => none
  | .leaveRevoke _ _ => none
  | .hdescWrite _ _ _ => none
  | .engineOpStart _ => none
  | .sluicePieceRequest _ => none
  | .sectorArrival _ _ => none
  | .drainSectorAccept _ _ => none
  | .sluicePark _ => none
  | .engineOpComplete _ => none
  | .rayEnd _ _ _ => none
  | .rayPark _ _ => none
  | .rayStackSpill _ _ => none
  | .traversalReturn _ => none
  | .buildCommandStart _ => none
  | .buildCommandEnd _ => none
  | .builderPark _ => none
  | .generationReclaim _ _ => none
  | .taskPop _ _ _ => none
  | .taskCoreChoice _ _ => none
  | .taskDispatch _ => none
  | .reuseKeyReady _ => none
  | .reuseLookup _ => none
  | .reuseHitCopyPiece _ => none
  | .taskOutputDrain _ => none
  | .taskCompletionRecord _ => none
  | .packetReceive _ _ _ _ _ _ _ => none
  | .frameSendStart _ => none
  | .frameLastPacket _ => none
  | .frameSubstitution _ => none
  | .flowEnable _ => none
  | .flowDisable _ => none
  | .ptTick => none
  | .wallStatusSend _ _ => none
  | .wallStatusReceive _ _ _ => none
  | .wallFrameDeadline _ => none
  | .wallRejoin _ => none
  | .fabcfgWrite _ => none
  | .portUpChange _ _ => none
  | .fabricInboundRequest _ _ _ _ _ _ => none
  | .fabricResponseTimeout _ => none
  | .reducePacketMerge _ _ => none
  | .reducePacketArrive _ _ _ => none
  | .collectivePieceAck _ _ => none
  | .inboundMemWrite _ _ => none
  | .inboundMemRead _ _ => none
  | .inboundAtomicop _ _ _ _ _ => none
  | .hostReadCompletion _ _ _ => none
  | .hostRequestTimeout _ => none
  | .hablClear => none
  | .faultRecordWrite => none
  | .faultRetry _ => none
  | .faultKill _ => none
  | .tlbInvalidatePage _ _ => none
  | .tlbInvalidateContext _ => none
  | .tlbInvalidateAll => none
  | .tlbInvalidationDone => none
  | .contextPreempt _ => none
  | .contextKill _ => none
  | .contextDeadClear _ => none
  | .contextSave _ => none
  | .teamRestore _ => none
  | .yieldBudgetExpiry _ => none
  | .fatalDiscard _ => none
  | .ergwSizeWrite _ _ => none
  | .ergwChangeDone _ => none
  | .gddrRefresh _ => none
  | .patrolScrub _ => none
  | .reuseFlush => none
  | .reuseKeyWrite _ _ => none
  | .lvcapWrite _ _ => none
  | .runnerPowerStep => none
  | .sensorUpdate _ _ => none
  | .boardPowerCut _ _ _ => none
  | .reset => none
  | .linkTrained => none
  | .monitorVerify _ => none
  | .runnerVerify _ => none
  | .memoryTrained _ => none
  | .deviceReady _ => none
  | .attestationRequest _ => none
  | .svnRaiseRequest _ _ => none
  | .registerWrite _ _ _ => none
  | .ptpRateAdjust _ _ _ => none
  | .contextSaveDone _ => none

end Sys2Proof
end

