-- ==== Sys2Proof/Config.lean ====
section
/-!
DEFINITION. What the spec leaves open for the whole machine: the free values (opaque constants with no body, log entry 2),
the figures that stay with the builder (R335, R339), and the cryptographic functions whose secrets the spec does not give
(R494 to R496). Nothing in Lean can evaluate them, so no statement can rest on a value of theirs.
-/
namespace Sys2Proof.Config

/-- The n-th free 64-bit value drawn by a run (R5 'U', R30, R294 and every other value the spec leaves open). -/
opaque freeDword : Nat → Dword

/-- Free choice between two outcomes that the spec allows, the n-th draw. -/
opaque freeBit : Nat → Bool

/-- ML-DSA-87 verification of a signature over a digest under a key (R494): named standard, not laid out by the spec. -/
opaque mlDsaVerify : (key msg sig : List Byte) → Bool

/-- ML-DSA-87 signature under the alias key, which is derived from the device secret and MR0 (R495, R496). -/
opaque mlDsaSign : (mr0 msg : List Byte) → List Byte

/-- Certificate of the alias key of an MR0 (R495). -/
opaque aliasCert : (mr0 : List Byte) → List Byte

/-- Fused SHA3-512 digest of the root public key (R493). -/
opaque rootDigest : List Byte

end Sys2Proof.Config
end

