-- ==== Sys2Proof/Machine/Event.lean ====
section
/-!
DEFINITION. What happens next, as plain data of the agenda: the 120 events of the device, with the arguments of the
constructors of `Instr` of the same names. (A type of its own, because Lean's runtime cannot build a constructor whose number
passes 244; `Machine.runEv` runs an event by the same meaning that `Machine.exec` calls for the row of the table.)
-/
namespace Sys2Proof

/-- An event of the device (95_what_each_step_holds). -/
inductive Ev where
  /-- CLAUSE_START (R27). -/
  | clauseStart (a fid : Nat)
  /-- CLAUSE_LINE_ARRIVAL (R500). -/
  | clauseLineArrival (a fid line : Nat)
  /-- ISSUER_AGED (R168). -/
  | issuerAged (a fid : Nat)
  /-- HOLD_END (R226). -/
  | holdEnd (a fid : Nat)
  /-- TLB_WALK_DONE (R415). -/
  | tlbWalkDone (walk : Nat)
  /-- LOAD_RETURN (R219). -/
  | loadReturn (op : Nat) (lanes : Dword) (ext : List Byte)
  /-- STORE_ACCEPT (R219). -/
  | storeAccept (op : Nat) (lanes : Dword)
  /-- ATOMIC_RETURN (R235). -/
  | atomicReturn (op : Nat) (lanes : Dword) (ext : List Byte)
  /-- SWEEP_SEGMENT_ACCESS (R192). -/
  | sweepSegmentAccess (op : Nat)
  /-- HOST_ATOMIC_COMPLETION (R238). -/
  | hostAtomicCompletion (op lane status : Nat) (val : Dword)
  /-- PEER_STORE_REJECT (R243). -/
  | peerStoreReject (op lane code : Nat)
  /-- PEER_LOAD_REJECT (R465). -/
  | peerLoadReject (op : Nat) (lanes : Dword) (code : Nat)
  /-- BARRIER_COMPLETE (R149). -/
  | barrierComplete (team kind : Nat)
  /-- SLEEP_WAKE (R99). -/
  | sleepWake (a fid : Nat)
  /-- FRAGMENT_QUEUE_RELEASE (R372). -/
  | fragmentQueueRelease (core part : Nat)
  /-- GROUP_RELEASE (R95). -/
  | groupRelease (a : Nat)
  /-- DOORBELL (R152). -/
  | doorbell (q tail : Nat)
  /-- QUEUE_ENTRY_READ (R502). -/
  | queueEntryRead (q : Nat)
  /-- ADMISSION (R152). -/
  | admission (q : Nat)
  /-- GRID_ELIGIBLE (R502). -/
  | gridEligible (g : Nat)
  /-- TEAM_PLACEMENT (R160). -/
  | teamPlacement (g : Nat)
  /-- FIRM_DEADLINE_SHED (R161). -/
  | firmDeadlineShed (g : Nat)
  /-- HARD_WAIT_PREEMPT (R161). -/
  | hardWaitPreempt (g : Nat)
  /-- GROUP_START (R502). -/
  | groupStart (team : Nat)
  /-- LEAT_IMAGE_LINE (R309). -/
  | leatImageLine (a line : Nat)
  /-- GRID_COMPLETION_RECORD (R159). -/
  | gridCompletionRecord (g : Nat)
  /-- ARRAY_OP_BEGIN (R305). -/
  | arrayOpBegin (op : Nat)
  /-- MATRIX_OP_END (R288). -/
  | matrixOpEnd (op : Nat)
  /-- MMAQ_RENDEZVOUS (R297). -/
  | mmaqRendezvous (core tag : Nat)
  /-- MMAV_LINE_ARRIVAL (R305). -/
  | mmavLineArrival (op : Nat)
  /-- CBLD_LOAD_DONE (R299). -/
  | cbldLoadDone (op : Nat)
  /-- AALLOC_GRANT (R284). -/
  | aallocGrant (core : Nat)
  /-- BANK_ZERO_DONE (R281). -/
  | bankZeroDone (core bank : Nat)
  /-- BANK_SPILL (R422). -/
  | bankSpill (core bank : Nat)
  /-- LEAVE_REQUEST (R488). -/
  | leaveRequest (die holder : Nat)
  /-- LEAVE_GRANT (R487). -/
  | leaveGrant (die holder : Nat)
  /-- LEAVE_EXPIRY (R306). -/
  | leaveExpiry (die holder : Nat)
  /-- LEAVE_REVOKE (R488). -/
  | leaveRevoke (die holder : Nat)
  /-- HDESC_WRITE (R315). -/
  | hdescWrite (a h : Nat) (v : Dword)
  /-- ENGINE_OP_START (R325). -/
  | engineOpStart (x : Nat)
  /-- SLUICE_PIECE_REQUEST (R323). -/
  | sluicePieceRequest (core : Nat)
  /-- SECTOR_ARRIVAL (R318). -/
  | sectorArrival (x piece : Nat)
  /-- DRAIN_SECTOR_ACCEPT (R318). -/
  | drainSectorAccept (x piece : Nat)
  /-- SLUICE_PARK (R323). -/
  | sluicePark (x : Nat)
  /-- ENGINE_OP_COMPLETE (R268). -/
  | engineOpComplete (x : Nat)
  /-- RAY_END (R349). -/
  | rayEnd (a lane : Nat) (order : List Nat)
  /-- RAY_PARK (R357). -/
  | rayPark (a lane : Nat)
  /-- RAY_STACK_SPILL (R350). -/
  | rayStackSpill (a lane : Nat)
  /-- TRAVERSAL_RETURN (R354). -/
  | traversalReturn (op : Nat)
  /-- BUILD_COMMAND_START (R344). -/
  | buildCommandStart (die : Nat)
  /-- BUILD_COMMAND_END (R346). -/
  | buildCommandEnd (die : Nat)
  /-- BUILDER_PARK (R345). -/
  | builderPark (die : Nat)
  /-- GENERATION_RECLAIM (R340). -/
  | generationReclaim (die gen : Nat)
  /-- TASK_POP (R367). -/
  | taskPop (die b1 b2 : Nat)
  /-- TASK_CORE_CHOICE (R370). -/
  | taskCoreChoice (t core : Nat)
  /-- TASK_DISPATCH (R371). -/
  | taskDispatch (t : Nat)
  /-- REUSE_KEY_READY (R375). -/
  | reuseKeyReady (t : Nat)
  /-- REUSE_LOOKUP (R375). -/
  | reuseLookup (t : Nat)
  /-- REUSE_HIT_COPY_PIECE (R375). -/
  | reuseHitCopyPiece (t : Nat)
  /-- TASK_OUTPUT_DRAIN (R373). -/
  | taskOutputDrain (t : Nat)
  /-- TASK_COMPLETION_RECORD (R373). -/
  | taskCompletionRecord (t : Nat)
  /-- PACKET_RECEIVE (R386). -/
  | packetReceive (flow path seq pos stamp : Nat) (marker : Bool) (elems : List Dword)
  /-- FRAME_SEND_START (R388). -/
  | frameSendStart (flow : Nat)
  /-- FRAME_LAST_PACKET (R388). -/
  | frameLastPacket (flow : Nat)
  /-- FRAME_SUBSTITUTION (R388). -/
  | frameSubstitution (flow : Nat)
  /-- FLOW_ENABLE (R381). -/
  | flowEnable (flow : Nat)
  /-- FLOW_DISABLE (R394). -/
  | flowDisable (flow : Nat)
  /-- PT_TICK (R395). -/
  | ptTick
  /-- WALL_STATUS_SEND (R475). -/
  | wallStatusSend (frame status : Nat)
  /-- WALL_STATUS_RECEIVE (R476). -/
  | wallStatusReceive (card frame status : Nat)
  /-- WALL_FRAME_DEADLINE (R476). -/
  | wallFrameDeadline (frame : Nat)
  /-- WALL_REJOIN (R476). -/
  | wallRejoin (v : Dword)
  /-- FABCFG_WRITE (R460). -/
  | fabcfgWrite (v : Dword)
  /-- PORT_UP_CHANGE (R458). -/
  | portUpChange (port : Nat) (up : Bool)
  /-- FABRIC_INBOUND_REQUEST (R464). -/
  | fabricInboundRequest (card kind addr width arg : Nat) (bytes : List Byte)
  /-- FABRIC_RESPONSE_TIMEOUT (R464). -/
  | fabricResponseTimeout (req : Nat)
  /-- REDUCE_PACKET_MERGE (R471). -/
  | reducePacketMerge (a b : Nat)
  /-- REDUCE_PACKET_ARRIVE (R472). -/
  | reducePacketArrive (key mask : Nat) (vals : List Int)
  /-- COLLECTIVE_PIECE_ACK (R469). -/
  | collectivePieceAck (x piece : Nat)
  /-- INBOUND_MEM_WRITE (R274). -/
  | inboundMemWrite (off : Nat) (bytes : List Byte)
  /-- INBOUND_MEM_READ (R274). -/
  | inboundMemRead (off n : Nat)
  /-- INBOUND_ATOMICOP (R274). -/
  | inboundAtomicop (off kind width : Nat) (x y : Dword)
  /-- HOST_READ_COMPLETION (R458). -/
  | hostReadCompletion (req status : Nat) (bytes : List Byte)
  /-- HOST_REQUEST_TIMEOUT (R457). -/
  | hostRequestTimeout (req : Nat)
  /-- HABL_CLEAR (R458). -/
  | hablClear
  /-- FAULT_RECORD_WRITE (R409). -/
  | faultRecordWrite
  /-- FAULT_RETRY (R410). -/
  | faultRetry (token : Nat)
  /-- FAULT_KILL (R410). -/
  | faultKill (token : Nat)
  /-- TLB_INVALIDATE_PAGE (R416). -/
  | tlbInvalidatePage (ctx vpn : Nat)
  /-- TLB_INVALIDATE_CONTEXT (R416). -/
  | tlbInvalidateContext (ctx : Nat)
  /-- TLB_INVALIDATE_ALL (R416). -/
  | tlbInvalidateAll
  /-- TLB_INVALIDATION_DONE (R416). -/
  | tlbInvalidationDone
  /-- CONTEXT_PREEMPT (R425). -/
  | contextPreempt (ctx : Nat)
  /-- CONTEXT_KILL (R423). -/
  | contextKill (ctx : Nat)
  /-- CONTEXT_DEAD_CLEAR (R411). -/
  | contextDeadClear (ctx : Nat)
  /-- CONTEXT_SAVE (R427). -/
  | contextSave (ctx : Nat)
  /-- TEAM_RESTORE (R428). -/
  | teamRestore (team : Nat)
  /-- YIELD_BUDGET_EXPIRY (R431). -/
  | yieldBudgetExpiry (ctx : Nat)
  /-- FATAL_DISCARD (R423). -/
  | fatalDiscard (ctx : Nat)
  /-- ERGW_SIZE_WRITE (R214). -/
  | ergwSizeWrite (die : Nat) (v : Dword)
  /-- ERGW_CHANGE_DONE (R214). -/
  | ergwChangeDone (die : Nat)
  /-- GDDR_REFRESH (R498). -/
  | gddrRefresh (ch : Nat)
  /-- PATROL_SCRUB (R492). -/
  | patrolScrub (pa : Nat)
  /-- REUSE_FLUSH (R378). -/
  | reuseFlush
  /-- REUSE_KEY_WRITE (R378). -/
  | reuseKeyWrite (tenant : Nat) (key : List Byte)
  /-- LVCAP_WRITE (R489). -/
  | lvcapWrite (v : Dword) (runner : Bool)
  /-- RUNNER_POWER_STEP (R490). -/
  | runnerPowerStep
  /-- SENSOR_UPDATE (R491). -/
  | sensorUpdate (watts : Nat) (temps : List Nat)
  /-- BOARD_POWER_CUT (R490). -/
  | boardPowerCut (watts temp ms : Nat)
  /-- RESET (R497). -/
  | reset
  /-- LINK_TRAINED (R497). -/
  | linkTrained
  /-- MONITOR_VERIFY (R494). -/
  | monitorVerify (image : List Byte)
  /-- RUNNER_VERIFY (R494). -/
  | runnerVerify (image : List Byte)
  /-- MEMORY_TRAINED (R497). -/
  | memoryTrained (ok : Bool)
  /-- DEVICE_READY (R497). -/
  | deviceReady (gm : Option Nat)
  /-- ATTESTATION_REQUEST (R496). -/
  | attestationRequest (nonce : List Byte)
  /-- SVN_RAISE_REQUEST (R494). -/
  | svnRaiseRequest (kind svn : Nat)
  /-- REGISTER_WRITE (R5). -/
  | registerWrite (off n : Nat) (v : Dword)
  /-- PTP_RATE_ADJUST (R395). -/
  | ptpRateAdjust (r : Int) (lock : Nat) (offs : Dword)
  /-- CONTEXT_SAVE_DONE (R425). -/
  | contextSaveDone (ctx : Nat)
  deriving DecidableEq, Repr

end Sys2Proof
end

