-- ==== Sys2Proof/Machine/KMap.lean ====
section
/-!
DEFINITION. Finite maps as plain data: a list of (key, value) pairs in one canonical form, keys strictly rising.
`KMap.find?`, `KMap.put`, `KMap.del` are a partial map; `KMap.get d`, `KMap.set d` a total one whose unlisted keys read
as `d` and that lists no entry equal to `d`, so that equal maps are equal data.
-/
namespace Sys2Proof

abbrev KMap (α : Type) := List (Nat × α)

namespace KMap
variable {α : Type}

def find? : KMap α → Nat → Option α
  | [], _ => none
  | (k, v) :: m, i => if k = i then some v else find? m i

def put : KMap α → Nat → α → KMap α
  | [], i, x => [(i, x)]
  | (k, v) :: m, i, x =>
    if k = i then (i, x) :: m else if i < k then (i, x) :: (k, v) :: m else (k, v) :: put m i x

def del (m : KMap α) (i : Nat) : KMap α := m.filter fun p => p.1 ≠ i

/-- The value at a key, `d` where the map lists none. -/
def get (d : α) (m : KMap α) (i : Nat) : α := (find? m i).getD d

/-- Writes a value; a value equal to `d` removes the entry. -/
def set [DecidableEq α] (d : α) (m : KMap α) (i : Nat) (x : α) : KMap α :=
  if x = d then del m i else put m i x

/-- Changes the value at a key that is listed. -/
def upd (m : KMap α) (i : Nat) (f : α → α) : KMap α :=
  m.map fun p => if p.1 = i then (p.1, f p.2) else p

/-- Keys strictly rising. -/
def sorted : KMap α → Bool
  | [] => true
  | [_] => true
  | (a, _) :: (b, w) :: m => decide (a < b) && sorted ((b, w) :: m)

/-- The canonical form of a total map: keys strictly rising and no entry equal to what an unlisted key reads as. -/
def wf [DecidableEq α] (d : α) (m : KMap α) : Bool := sorted m && m.all fun p => decide (p.2 ≠ d)

def keys (m : KMap α) : List Nat := m.map (·.1)
def vals (m : KMap α) : List α := m.map (·.2)

end KMap

/-- The least number, from `n` tries on, that satisfies `p`. -/
def firstNat (p : Nat → Bool) : (fuel start : Nat) → Option Nat
  | 0, _ => none
  | k + 1, i => if p i then some i else firstNat p k (i + 1)

/-- Inserts before the first element that may stand after `x`. -/
def insertBy {α : Type} (le : α → α → Bool) (x : α) : List α → List α
  | [] => [x]
  | y :: ys => if le x y then x :: y :: ys else y :: insertBy le x ys

/-- The list in the order of `le`; equal elements keep their order. -/
def sortBy {α : Type} (le : α → α → Bool) : List α → List α
  | [] => []
  | x :: xs => insertBy le x (sortBy le xs)

end Sys2Proof
end

