-- ==== Sys2Proof/Machine/Types.lean ====
section
/-!
DEFINITION. The records that the state is made of, as plain data: registers and pending writes, operations in flight,
fragments, agents, teams, caches, faults.
-/
namespace Sys2Proof.Machine

/-- A fault raised by an agent (R402, R406). -/
structure Flt where
  code : Nat
  detail : Nat := 0
  lm : Dword := 0
  addr : Nat := 0
  info : Nat := 0
  /-- PC of the record where it is not the issuer's (R357, R465). -/
  pc : Option Nat := none
  deriving DecidableEq, Repr

/-- The four in-flight counters (R218). -/
inductive Ctr where
  | g | s | e | m
  deriving DecidableEq, Repr

/-- A register that a hazard rule speaks of (R30): s(n), v(n), or an accumulator bank by its logical number. -/
inductive Reg where
  | s (n : Nat)
  | v (n : Nat)
  deriving DecidableEq, Repr

/-- Registers with the lanes used of each; a scalar register uses lane 0. -/
abbrev Regs := List (Reg × Dword)

/-- One fixed-latency write in flight (R29): the values by lane, and the clk from which they are read. -/
structure Pend where
  fid : Nat
  dst : Reg
  vals : List (Nat × Dword)
  ready : Nat
  deriving DecidableEq, Repr

/-- The space an access lies in (R200). -/
inductive Space where
  | glob | scr
  deriving DecidableEq, Repr

/-- One lane's access: its lane, virtual address or scratchpad offset, physical address (or again the offset), size in
bytes, and the operand values it carries. -/
structure Acc where
  lane : Nat
  va : Nat
  pa : Nat
  n : Nat
  x : BitVec 128 := 0
  y : BitVec 128 := 0
  /-- CAS sequence of R238: the value assumed and the failures so far. Of an image's texel in host memory: k is 1 once its line has
  arrived, and x holds it. -/
  v : Dword := 0
  k : Nat := 0
  deriving DecidableEq, Repr

/-- A matrix operation (R287 to R305) as it was issued, and how far it has come. -/
structure Mtx where
  core : Nat
  part : Nat
  /-- Physical bank, lanes that take part, the format-block record (R290), the address of AST and AADD. -/
  phys : Nat := 0
  act : Dword := 0
  blk : BitVec 256 := 0
  addr : Nat := 0
  /-- Physical page of each 4 KiB virtual page that it reads or writes, as translated at issue (R225). -/
  pages : List (Nat × Nat) := []
  /-- Register operands as they stood at issue, v(r) of lane l at key 64 r + l. -/
  snap : KMap Word := []
  /-- Handle operand: team offset of its data, layout; and of a scale table; something lies in the partner core. -/
  hoff : Nat := 0
  layout : Nat := 0
  far : Bool := false
  /-- The engine had been idle for 256 clk at issue (R306). -/
  ask : Bool := false
  /-- clk at which it began; steps done; MMAV: lines of the step have arrived. -/
  begun : Option Nat := none
  step : Nat := 0
  lines : Bool := false
  /-- MMAV: bytes of the strings by virtual address. AADD: the same of its source. -/
  buf : KMap Byte := []
  /-- MMAC: the tables of the steps that have begun, entry e of column c of step s at key 256 s + 8 c + e. -/
  tabs : KMap Half := []
  /-- MMAQ: the four operations of the rendezvous, by partition. -/
  quad : List Nat := []
  deriving DecidableEq, Repr

/-- What a counted operation does when it returns or is performed. -/
inductive OpKind where
  /-- LDG, LDGS and their ordered forms, LDC, LDS, LDSS (R230): destination, scalar form, hint, scope when ordered. -/
  | load (sp : Space) (data : Nat) (scalar : Bool) (hint : Nat) (ord : Option Nat) (ldc : Bool)
  /-- STG, STGS and their ordered forms, STS, STSS. -/
  | store (sp : Space) (scalar : Bool) (hint : Nat) (ord : Option Nat)
  /-- ATOMG, ATOMS (R235 to R237): AOP, ORD, scope, destination. -/
  | atomic (sp : Space) (aop ord sch data : Nat)
  /-- ATOMH, ATOMH.F (R238, R239): AOP, destination, status register of the .F form. -/
  | hostAtomic (aop data : Nat) (sst : Option Nat)
  /-- SAMPLE, TXLD: the result registers' values are computed from the texels when the operation returns. -/
  | image (data : Nat) (w128 : Bool) (hint : Nat) (desc : BitVec 512) (smp : Option (BitVec 256)) (coord : List (Nat × List Word))
  /-- A sweep (R189): opcode kind, type, SR, repetitions done, the next segment access of the repetition. -/
  | sweep (kind ty : Nat) (sr : Bool) (cnt rep stage : Nat) (d a b : Int) (sd sa sb : Int) (segA segB segD : List Word)
  /-- LDB, STB through a handle's layout (R331). -/
  | buf (store : Bool) (data : Nat) (h : Nat)
  /-- LAUNCH (R166): the status register and the status. -/
  | launch (sd status : Nat)
  /-- A matrix instruction (R287): its index among the MTX opcodes. -/
  | matrix (opc : Nat) (f : FMTX) (m : Mtx)
  /-- RTRACE, RRESUME: the result groups of the lanes whose ray has ended or suspended (R351). -/
  | trace (vd : Nat) (res : List (Nat × List Word))
  /-- RSTATE: its lanes, and their records once they are read. -/
  | rstate (vd : Nat) (act : Dword) (rec : Option (List (Nat × List Word)))
  /-- QPOP (R390): flow, form, destination, mask and status registers; once it is served, the words of its lanes and status. -/
  | qpop (flow form vd sm ss : Nat) (vals : List (Nat × List Word)) (status : Nat)
  /-- QPUSH (R391): flow, the opening of the frame object that it writes, first element, lanes written and their elements, mask
  and status registers, status. -/
  | qpush (flow ord wpos : Nat) (mask : Dword) (els : List Dword) (sm ss status : Nat)
  deriving DecidableEq, Repr

/-- One operation in flight (R218, R219), kept until it is counted off. -/
structure Op where
  id : Nat
  fid : Nat
  ctr : Option Ctr
  issue : Nat
  due : Nat
  kind : OpKind
  acc : List Acc := []
  todo : Dword := 0
  /-- Lanes that failed (R239, R272) and the fault of the lowest. -/
  failed : Dword := 0
  flt : Option (Nat × Flt) := none
  /-- Lanes that a target card rejected (R465), named by `lm`. -/
  rej : Option Flt := none
  returned : Bool := false
  dsts : Regs := []
  clash : Regs := []
  win : Regs := []
  winClash : Regs := []
  em : Dword := 0
  sc : List Dword := []
  /-- Address of the instruction. -/
  pc : Nat := 0
  deriving DecidableEq, Repr

/-- The condition that ends a hold of issue (R226) and the other waits of a fragment. -/
inductive Wait where
  /-- Not waiting. -/
  | none
  /-- Lines of the clause at the header are on their way (R500). -/
  | fetch (lines : List Nat)
  /-- A TLB miss (R415): the walk it waits for. -/
  | walk (w : Nat)
  /-- Until a clk. -/
  | clk (t : Nat)
  /-- Until counter c is at most t (R241), or may rise (R218). -/
  | ctr (c : Ctr) (t : Nat)
  /-- Until the operations named have returned (R242, R256), and for a release at `.wall` every peer store is acknowledged. -/
  | ops (ids : List Nat) (wall : Bool)
  /-- Until a handle shows a state and a phase (R319), or pt reaches the deadline (R332). -/
  | handle (h st ph : Nat) (deadline : Dword)
  /-- Until pt reaches T (R99). -/
  | sleep (t : Nat)
  /-- At the n-th barrier of its kind (R149): 0 TBAR, 1 SBAR. -/
  | barrier (kind n : Nat)
  /-- At a JOIN (R144): the split-table entry. -/
  | join (e : Nat)
  /-- AALLOC for n banks (R284). -/
  | aalloc (n : Nat)
  /-- QPOP until elements or the pop deadline (R390). -/
  | qpop (flow : Nat)
  /-- WBAR until the object of its flow is not OPEN, and the frame's statuses or its time (R477). -/
  | wbar (flow frame : Nat)
  /-- QFRAME.DONE until the pushes of the flow accepted before it, by operation number, have written (R392). -/
  | pushes (flow before : Nat)
  /-- Room in a builder queue, in a task bank or in another resource that the instruction asks for again. -/
  | room (kind n : Nat)
  /-- XWAIT.OPS: until the leat's operations completed or parked; XWAIT.SVC: until the parked ones are acknowledged. -/
  | xops
  | xsvc (h : Nat)
  /-- XHALO: until the n-th SBAR of the strip completed (R327). -/
  | halo (n : Nat)
  /-- An engine operation that the leat starts, until it is registered (R325). -/
  | xop (x : Nat)
  /-- At a YIELD with a pre-emption pending (R433). -/
  | yield
  /-- Ended and waiting for the counters of the group (R95, R310). -/
  | ended
  /-- Stopped on a replayable fault or by BRK (R418, R434), by the token of its record. -/
  | stopped (token : Nat)
  /-- Fragment queued behind the tasks of its partition (R372). -/
  | queued
  deriving DecidableEq, Repr

/-- A fragment (R141): an issuer with its own pc, em and owned lanes. `k` is 0 at the header `h` and j + 1 at instruction j,
so pc = h + 8 k (R12, R23). -/
structure Frag where
  h : Nat
  /-- The header word fetched. -/
  hdr : Dword := 0
  k : Nat := 0
  em : Dword
  own : Dword
  code : List Dword := []
  live : List Byte := []
  chk : Bool := false
  next : Nat := 0
  wait : Wait := .none
  /-- How far the instruction at pc has come: 0 not issued; the meanings of the holding instructions count on. -/
  phase : Nat := 0
  /-- clk of the first issue of an instruction that holds. -/
  iss : Nat := 0
  /-- An operation that the held instruction started, and the fault that it raises at the end of the hold. -/
  hop : Nat := 0
  fault : Option Flt := none
  /-- One past the clk of the last end of a hold. -/
  woke : Nat := 0
  /-- Order of start of the clause in progress, and of the last start (R168). -/
  started : Nat := 0
  readyAt : Option Nat := none
  aged : Bool := false
  deriving DecidableEq, Repr

/-- A split-table entry (R142) with its order of allocation and the em of each party at its arrival (R144). -/
structure SplitEnt where
  pmask : Dword
  cmask : Dword
  jpc : Nat := 0
  pid : Nat
  cid : Nat
  pa : Bool := false
  ca : Bool := false
  pem : Dword := 0
  cem : Dword := 0
  seq : Nat
  deriving DecidableEq, Repr

/-- A trap handler that runs (R419): the fragment it runs in, what TRET restores, the fault record, and where it stopped. -/
structure Handler where
  fid : Nat
  emSave : Dword
  shadow : List Dword
  record : BitVec 512
  code : Nat
  frag : Frag
  deriving DecidableEq, Repr

/-- What stops the whole group outside a handler (R146): the fragment, the token of its record, whether it is a BRK, and whether an
operation that must be counted off holds parked rays or rejected lanes (R357, R465). -/
structure Stop where
  fid : Nat
  token : Nat
  debug : Bool
  held : Bool := false
  deriving DecidableEq, Repr

/-- A group, the intake leat or the tail leat of a core (R250). -/
inductive AgentKind where
  | group
  | leat (tail : Bool)
  deriving DecidableEq, Repr

/-- State of a ray (R352). -/
inductive RayState where
  | running | done | suspended | parked
  deriving DecidableEq, Repr

/-- A committed hit (R349): t, the primitive and the INSTID of its key, attributes, front face, box, depth. -/
structure RayHit where
  t : Word
  prim : Nat
  inst : Nat
  u : Word
  v : Word
  front : Bool
  box : Bool
  depth : Nat
  deriving DecidableEq, Repr

/-- The candidate of a suspended ray (R349, R352): primitive, INSTID, depth, and o and d at that depth. -/
structure RayCand where
  prim : Nat
  inst : Nat
  depth : Nat
  od : List Word
  deriving DecidableEq, Repr

/-- A ray of a lane (R347 to R352): the operation that moves it, its slot, the eight words of its ray record, its mask and
flags, and the generation that it pinned (of the model's table) with its number. -/
structure Ray where
  st : RayState
  op : Nat
  slot : Nat
  ray : List Word
  mask : Nat
  flags : Nat
  gen : Nat
  num : Nat
  tmax : Word
  /-- Primitives to test, by their place among the leaves that the ray can reach. -/
  todo : List Nat
  hit : Option RayHit := none
  cand : Option RayCand := none
  /-- STATUS of a ray that ended with STACK_EXHAUSTED or INSTANCE_DEPTH, else 0. -/
  code : Nat := 0
  due : Nat := 0
  visits : Nat := 0
  /-- Entries in its spill slot, and those that it will still spill. -/
  spilled : Nat := 0
  pushes : Nat := 0
  /-- Addresses, in the context, of the records that its traversal reads. -/
  reads : List Nat := []
  /-- TFIRST: a commit was accepted. -/
  stop : Bool := false
  deriving DecidableEq, Repr

/-- A group or a leat. -/
structure Agent where
  kind : AgentKind
  core : Nat
  part : Nat := 0
  slot : Nat := 0
  ctx : Nat
  tenant : Nat := 0
  team : Nat
  gidx : Nat := 0
  /-- Lanes of the group's width (R125). -/
  width : Nat := 32
  /-- Vector registers allocated, N of R129. -/
  nv : Nat := 16
  sregs : KMap Dword := []
  /-- v(r) of lane l at key 64 r + l. -/
  vregs : KMap Word := []
  gchk : Bool := false
  srx : Dword := 0
  lm : Dword := 0
  qb : KMap Dword := []
  grid : Nat := 0
  lrec : Dword := 0
  dln : Dword := 0
  lcls : Dword := 0
  frags : KMap Frag := []
  split : KMap SplitEnt := []
  splitSeq : Nat := 0
  pend : List Pend := []
  ops : List Op := []
  handler : Option Handler := none
  stop : Option Stop := none
  /-- Barriers reached, by kind (R150). -/
  tbar : Nat := 0
  sbar : Nat := 0
  task : Option Nat := none
  pure : Bool := false
  /-- PURITY was raised in it (R376). -/
  impure : Bool := false
  /-- Logical banks held and the physical bank of each (R283). -/
  banks : KMap Nat := []
  /-- Contents of its banks that were spilled while it was saved (R422), by logical bank. -/
  spill : KMap (KMap (BitVec 40)) := []
  rays : KMap Ray := []
  /-- GENPIN pins of the group (R359): scene address and generation. -/
  pins : List (Nat × Nat) := []
  ended : Bool := false
  /-- Held at its yield points until the save of its context (R425). -/
  latched : Bool := false
  /-- Leat instruction store, by byte (R308); its image's address and bytes, and the lines that have not arrived (R309). -/
  store : KMap Byte := []
  img : Nat := 0
  imgLen : Nat := 0
  imgTodo : List Nat := []
  started : Bool := true
  /-- Ranges of the context virtual space that a pure task declares as inputs: first byte, bytes (R379). -/
  pureIn : List (Nat × Nat) := []
  deriving DecidableEq, Repr

/-- One 128-byte line in a cache, `first` when marked first to evict (R210). -/
structure CLine where
  pa : Nat
  data : Line
  first : Bool := false
  deriving DecidableEq, Repr

/-- A translation (R415): context, page number, page size as a power of two, physical page base and permissions. -/
structure Tlb where
  ctx : Nat
  va : Nat
  lg : Nat
  pa : Nat
  w : Bool
  x : Bool
  deriving DecidableEq, Repr

/-- A walk in progress (R415): the core and the line of level-0 entries it is for, and when it ends at the earliest. -/
structure Walk where
  core : Nat
  ctx : Nat
  va : Nat
  due : Nat
  deriving DecidableEq, Repr

/-- A range-lock entry (R321). -/
structure RLock where
  op : Nat
  bits : BitVec 128
  deriving DecidableEq, Repr

/-- The caches and translations of a core. -/
structure Core where
  /-- L1 data cache, most recently used first (R209). -/
  l1 : List CLine := []
  /-- Clause cache, most recently used first (R500). -/
  cc : List CLine := []
  tlb : List Tlb := []
  /-- Descriptor cache (10, Images): context, address, the image descriptor and the sampler after it; at most 64, newest first. -/
  dsc : List (Nat × Nat × BitVec 768) := []
  /-- Format-block record cache (R290): context, address, record; at most 16, newest first. -/
  rcd : List (Nat × Nat × BitVec 256) := []
  /-- Scene cache (R347): context and address of the scene handles; at most 8, newest first. -/
  scn : List (Nat × Nat) := []
  deriving DecidableEq, Repr

/-- State of a physical bank (R281); `zeroing` is the 16 clk before FREE. -/
inductive BankSt where
  | free | zeroing | held | parked
  deriving DecidableEq, Repr

/-- A bank of accumulator memory (R281 to R286, R422): the group that holds it, the group and logical bank whose values it
keeps, the context of its tag, its 2048 FA40 values (+0 where not listed), and the clk at which it was parked or at which its
zeroing ends. -/
structure Bank where
  st : BankSt := .free
  tag : Nat := 0
  holder : Nat := 0
  own : Nat × Nat := (0, 0)
  vals : KMap (BitVec 40) := []
  at' : Nat := 0
  deriving DecidableEq, Repr

/-- A partition's matrix engine (R287, R299): the end of its last array operation, the two table slots (entry e of column c
of slot x at key 256 x + 8 c + e), and the group that owns each. -/
structure Eng where
  last : Nat := 0
  tabs : KMap Half := []
  own : KMap Nat := []
  deriving DecidableEq, Repr

/-- Leave of one holder (R306, R487, R488): whether it holds units and since when; the end of its last work; the clk from
which a completed grant lets it start; whether it waits in its die's queue. -/
structure Leave where
  held : Bool := false
  since : Nat := 0
  idle : Nat := 0
  start : Option Nat := none
  queued : Bool := false
  deriving DecidableEq, Repr

/-- A resident team (R125, R131): its grid, cores, scratchpad bytes by offset, groups and leats, strip, and the barriers
completed. `base` and `base2` are the starts of its reservations (R205, R206). -/
structure Team where
  grid : Nat
  ctx : Nat
  idx : Nat
  core : Nat
  pair : Bool := false
  size : Nat := 0
  base : Nat := 0
  base2 : Nat := 0
  scr : KMap Byte := []
  groups : List Nat := []
  leats : List Nat := []
  ngroups : Nat := 1
  strip : List Nat := []
  pos : Nat := 0
  tdone : Nat := 0
  sdone : Nat := 0
  /-- clk at which its first instructions may issue (R502), and whether GROUP_START has run. -/
  due : Nat := 0
  started : Bool := true
  saved : Bool := false
  /-- A KILL of one of its records while it was saved (R410). -/
  killed : Bool := false
  /-- clk at which it becomes resident (R502). -/
  resident : Nat := 0
  deriving DecidableEq, Repr

/-- A held handle (R314 to R317): its configuration, its team, and the table's own copies of its counts. -/
structure Handle where
  roff : Nat
  dsec : Nat
  layout : Nat
  nrel : Nat
  team : Nat
  st : Nat := 0
  phase : Nat := 0
  arrived : Nat := 0
  expect : Nat := 0
  rels : Nat := 0
  /-- A BUFREL.CONS brought RELS to 0 and its change to FREE is deferred (R304). -/
  deferred : Bool := false
  deriving DecidableEq, Repr

/-- Kind of an engine operation of the sluice. -/
inductive XKind where
  | xin | xinc | xout | xoutc | im2c | im2cInc | fill | fillInc | halo | haloInc | stage | drain | reuse | send | red | get
  deriving DecidableEq, Repr

/-- How far an engine operation has come (R323, R325). -/
inductive XState where
  | waiting | running | parked
  deriving DecidableEq, Repr

/-- An engine operation of a core's sluice: who started it (0 intake leat, 1 tail leat, 2 dispatcher), what it moves, its
place by registration, the pieces still to request and those requested. -/
structure Xop where
  core : Nat
  by' : Nat
  agent : Nat := 0
  kind : XKind
  ctx : Nat
  team : Nat
  h : Nat
  o : Nat := 0
  n : Nat := 0
  expect : Nat := 0
  desc : BitVec 512 := 0
  src : Dword := 0
  task : Nat := 0
  st : XState := .waiting
  reg : Nat := 0
  todo : List Nat := []
  out : List (Nat × Nat) := []
  began : Nat := 0
  fault : Option Flt := none
  /-- What the next request waits for where a translation missed the core's TLB (R415). -/
  hold : Wait := .none
  pk : Bool := false
  sv : Bool := false
  locks : List (Nat × Nat) := []
  /-- Physical addresses of the global runs of each piece requested; host lines that have arrived for a piece: its number, the
  line's address, its bytes. -/
  pas : List (Nat × List Nat) := []
  host : List (Nat × Nat × List Byte) := []
  /-- Barrier count that an XHALO waits for; pieces of a resumed RED go out as retransmissions (R473). -/
  sbar : Nat := 0
  again : Bool := false
  /-- Address of the instruction. -/
  pc : Nat := 0
  deriving DecidableEq, Repr

/-- A pending task record (R363, R366): its 256 bytes, where TSPAWN read them, the spawning context and its serial. -/
structure TaskRec where
  bits : BitVec 2048
  addr : Nat
  ctx : Nat
  serial : Nat
  deriving DecidableEq, Repr

/-- How far a taken task has come (R370 to R376). -/
inductive TaskState where
  /-- Waiting for a core in the hold slot. -/
  | hold
  /-- Its inputs are being staged. -/
  | staging
  /-- A pure task: the key is being made, the table is being looked up, a hit is being copied. -/
  | keying
  | lookup
  | copying
  /-- It may be dispatched; its group runs. -/
  | ready
  | running
  /-- Its group has ended: outputs to drain, outputs being drained; its record is to be written. -/
  | ended
  | draining
  | recording
  deriving DecidableEq, Repr

/-- A task taken and not complete: its die, context, record and where that stood, descriptor, declaration table; the core,
team and agent reserved for it; pt of the choice of core; clk of its next event; its key; pages of its ranges, and whether
another agent wrote one; the reuse entry that a hit copies and the pieces done. -/
structure Task where
  die : Nat
  ctx : Nat
  addr : Nat
  bits : BitVec 2048
  serial : Nat
  desc : BitVec 512 := 0
  decl : BitVec 512 := 0
  st : TaskState := .hold
  code : Nat := 1
  reason : Nat := 0
  core : Nat := 0
  team : Nat := 0
  agent : Nat := 0
  began : Nat := 0
  due : Nat := 0
  key : Nat := 0
  dirty : Bool := false
  pages : List Nat := []
  leaves : List Nat := []
  ent : Nat := 0
  piece : Nat := 0
  reused : Bool := false
  outmiss : Nat := 0
  /-- Published bytes of its output words, in order. -/
  pub : List Nat := []
  /-- Its COMP cannot be used (R501); the dispatcher's access is parked. -/
  lost : Bool := false
  parked : Bool := false
  deriving DecidableEq, Repr

/-- A reuse-table entry (R377): key, tenant, serial, outputs (address, bytes) and the physical pages it names. -/
structure ReuseEnt where
  key : Nat
  tenant : Nat
  serial : Nat
  outs : List (Nat × Nat)
  pages : List Nat
  /-- The leaf page-table entries whose WATCH bit the device set for it. -/
  leaves : List Nat
  deriving DecidableEq, Repr

/-- A request on the host link that waits for its completion (R457): the operation and its lanes, or a fetch by an engine. -/
structure HostReq where
  agent : Nat
  op : Nat
  lanes : Dword
  pa : Nat
  due : Nat
  /-- Of a sluice operation, which `op` then names: the piece that the line is for. -/
  piece : Option Nat := none
  deriving DecidableEq, Repr

/-- A request on the fabric that waits for its response (R464): 0 load, 1 store, 2 atomic. -/
structure FabReq where
  agent : Nat
  op : Nat
  lanes : Dword
  kind : Nat
  pa : Nat
  due : Nat
  /-- A store's line address in the context, and its bytes. -/
  va : Nat := 0
  data : List (Nat × Byte) := []
  ctx : Nat := 0
  core : Nat := 0
  deriving DecidableEq, Repr

/-- A peer line held after a rejection (R243). -/
structure PeerLine where
  ctx : Nat
  va : Nat
  pa : Nat
  code : Nat
  bytes : List (Nat × Byte)
  deriving DecidableEq, Repr

/-- What identifies a reduction's piece and says how to combine it (R470): CID, window and offset, ROP, RTYPE, ORDERED, the flag
word's offset with FLAGEN, PMASK. -/
structure RedKey where
  cid : Nat
  off : Nat
  rop : Nat
  rty : Nat
  ordered : Bool
  flagen : Bool
  flagoff : Nat
  pmask : Nat
  deriving DecidableEq, Repr

/-- A piece in the reduction store of a die (R472): what has been combined, each element's accumulator, and under ORDERED the
contributions held. -/
structure RedEnt where
  key : RedKey
  die : Nat
  bits : Nat := 0
  accs : List Nat := []
  parts : List (Nat × List Nat) := []
  deriving DecidableEq, Repr

/-- A reduce packet in an output queue of this card's router (R470, R471): destination, bitmap, elements, and the clk at which
it leaves. -/
structure RedPkt where
  card : Nat
  key : RedKey
  bits : Nat
  vals : List Nat
  again : Bool
  due : Nat
  deriving DecidableEq, Repr

/-- How far a node of a graph launch has come (R163): its predecessors still open; whether a predecessor failed; its code
when it has completed; and the serial of its grid while it runs. -/
structure GNode where
  left : Nat
  bad : Bool := false
  code : Nat := 0
  teams : Nat := 0
  late : Bool := false
  grid : Option Nat := none
  succ : List Nat := []
  /-- Its launch record, and the REASON of an entry that is out of order. -/
  lr : BitVec 1024 := 0
  deriving DecidableEq, Repr

/-- How far an admitted grid has come (R152, R158, R502). -/
inductive GridState where
  /-- Waiting for its time; teams wait or run; the two writes of its record; the record parked. -/
  | waiting | opened | rec1 | rec2 | parked
  deriving DecidableEq, Repr

/-- An admitted grid that has not completed, by its admission serial (R152, R270). -/
structure Grid where
  ctx : Nat
  queue : Nat
  lr : BitVec 1024
  addr : Nat
  desc : BitVec 512 := 0
  cls : Nat
  nbef : Nat
  dline : Nat
  seq : Nat
  st : GridState := .waiting
  due : Nat := 0
  /-- Serial of the graph launch and node index, for a node; the launch's nodes, for a graph launch. -/
  node : Option (Nat × Nat) := none
  nodes : List GNode := []
  /-- Teams made resident, the core that took the last one, and the clk from which the next one waits. -/
  run : Nat := 0
  last : Nat := 0
  since : Nat := 0
  began : Nat := 0
  code : Nat := 0
  reason : Nat := 0
  /-- FINISH and LATE of its record; its COMP cannot be used (R501); the context whose pre-emption it requested (R161). -/
  finish : Nat := 0
  late : Bool := false
  lost : Bool := false
  asked : Option Nat := none
  deriving DecidableEq, Repr

/-- A launch queue's entry reads (R152, R501, R502): the clk from which the next read may start or, while one is out, at which
it returns; whether one is out; whether admission is parked at the entry. -/
structure QState where
  due : Nat := 0
  reading : Bool := false
  parked : Bool := false
  deriving DecidableEq, Repr

/-- A live generation of a scene (R336 to R341): its number, STATE, the primitives kept (words of their records, by primitive
index) with the generation that each instance binds, the arena and the pages of it that the generation occupies, its record,
and the counters of the record. -/
structure Gen where
  ctx : Nat
  scene : Nat
  die : Nat
  num : Nat
  pkind : Nat
  st : Nat
  prims : KMap (List Word)
  bind : KMap Nat := []
  nprim : Nat
  degen : Nat
  arena : Nat
  pages : List Nat
  grec : Nat
  grecPa : Nat := 0
  spill : Nat := 0
  pins : Nat := 0
  spills : Nat := 0
  exhaust : Nat := 0
  idepth : Nat := 0
  /-- clk from which it is eligible for reclamation (R340). -/
  since : Nat := 0
  deriving DecidableEq, Repr

/-- A build command in a builder's queue (R342, R360): its record, the record's address, the context. -/
structure BuildCmd where
  bits : BitVec 512
  addr : Nat
  ctx : Nat
  deriving DecidableEq, Repr

/-- The command that a builder runs (R344 to R346): 0 its checks, 1 the build, 2 the completion record; its code, REASON and
the index of a degenerate primitive; the generation that it makes. -/
structure Build where
  cmd : BuildCmd
  stage : Nat := 0
  code : Nat := 1
  reason : Nat := 0
  prim : Nat := 0
  due : Nat := 0
  gen : Option Gen := none
  /-- Generation published, and its record. -/
  num : Nat := 0
  grec : Nat := 0
  fault : Option Flt := none
  opk : Nat := 8
  parked : Bool := false
  deriving DecidableEq, Repr

/-- The builder of a die (R344): commands that wait, oldest first, and the one that runs. -/
structure Builder where
  queue : List BuildCmd := []
  run : Option Build := none
  deriving DecidableEq, Repr

/-- A frame that a receive flow holds (R386): its RTP timestamp, its number of elements, the available ones (codes c0 to c3 in
16 bits each, a sample, or a word), the stamp of its first packet, its media time. -/
structure RxFrame where
  stamp : Nat
  total : Nat
  els : KMap Dword := []
  hw : Nat
  media : Nat
  deriving DecidableEq, Repr

/-- A frame object (R387): PT, STATE (0 OPEN, 1 RENDERED, 2 PRESENTED, 3 SUBSTITUTED), WPOS, its buffer; the order and the clk of
its last opening; pt at which its first packet left, and the clk of its last packet. -/
structure SendObj where
  pt : Nat := 0
  st : Nat := 2
  wpos : Nat := 0
  buf : KMap Dword := []
  ord : Nat := 0
  opened : Nat := 0
  sent : Option Nat := none
  due : Option Nat := none
  deriving DecidableEq, Repr

/-- A media flow (R386 to R393). Receive: frames oldest first, read position, pop deadline, frames discarded, packets of path B,
the RTP timestamp of the last frame discarded and of the newest seen, sequence numbers seen. Send: its objects, the one last
opened, substituted frames whose time has not come (PT64), what the last PRESENTED object sent, frames substituted. -/
structure Flow where
  frames : List RxFrame := []
  pos : Nat := 0
  deadline : Option Nat := none
  dropped : Nat := 0
  bOnly : Nat := 0
  dropStamp : Option Nat := none
  lastStamp : Option Nat := none
  seen : List Nat := []
  objs : KMap SendObj := []
  cur : Option Nat := none
  ords : Nat := 1
  subs : List Nat := []
  shown : KMap Dword := []
  nsub : Nat := 0
  deriving DecidableEq, Repr

/-- A pre-emption of a context in progress (R425, R431): pt of the request, clk counted against the yield budget, and while it
is being saved the clk at which that ends. -/
structure Preempt where
  pt : Nat
  count : Nat := 0
  saving : Option Nat := none
  deriving DecidableEq, Repr

/-- A TLB invalidation in progress (R416): TISCOPE, context, virtual address; the clk from which the TLBs have dropped their
entries; the operations and the engine pieces in flight when it began. -/
structure TlbInv where
  scope : Nat
  ctx : Nat
  va : Nat
  due : Nat
  ops : List Nat
  pieces : List (Nat × Nat)
  deriving DecidableEq, Repr

/-- Refreshes of a channel (R498): the clk at the end of training, and how many have begun since. -/
structure Refresh where
  start : Nat
  count : Nat := 0
  deriving DecidableEq, Repr

/-- What a resumption token names (R410): a group's or leat's fragment, an engine operation, a builder, a launch queue, a grid's or a
task's completion record. -/
inductive TokRef where
  | agent (a fid : Nat)
  | sluice (x : Nat)
  | builder (die : Nat)
  | queue (q : Nat)
  | gridRec (g : Nat)
  | taskRec (t : Nat)
  deriving DecidableEq, Repr

end Sys2Proof.Machine
end

