-- ==== Sys2Proof/Machine/State.lean ====
section
/-!
DEFINITION. The whole device as plain data, and its state right after reset.
-/
namespace Sys2Proof.Machine

/-- What stops the machine with a fault. -/
inductive Fault where
  /-- Raised by an instruction's meaning when `State.cur` names no fragment of a resident group or leat: no issuer executes
  it. Safe: the device issues only from issuers. -/
  | noIssuer
  /-- Raised by a step while the board has no power (R490): the machine does nothing until power and RESET. Safe. -/
  | noPower
  deriving DecidableEq, Repr

/-- What the model has no meaning for. -/
inductive Refusal where
  /-- An instruction that is not modelled yet, by its mnemonic. Raised by `exec`'s arms only. Safe. -/
  | notModelled (mnemonic : String)
  deriving DecidableEq, Repr

/-- The state of the device. -/
structure State where
  -- The model's own (log entries 1, 2, 3).
  /-- Events that happen next, first one first. -/
  agenda : List Ev := []
  /-- What reaches the device from outside (completions, packets, requests, firmware, power): the clk from which each happens. -/
  inputs : List (Nat × Ev) := []
  /-- The issuer whose instruction executes: agent, fragment. -/
  cur : Nat × Nat := (0, 0)
  /-- Free values drawn. -/
  free : Nat := 0
  /-- Next number of an operation. -/
  ids : Nat := 1
  -- Time (R7, R395).
  clk : Nat := 0
  ptAcc : Nat := 0
  rate : Int := 0
  pstat : Dword := 0
  -- Memory (R200 to R217, R270).
  mem : List Host.Cell := []
  lines : KMap Dword := []
  /-- BAR 0 register blocks by offset / 8 within `0x3F_0000_0000`, where they differ from reset (R455). -/
  bar : KMap Dword := []
  cores : KMap Core := []
  walks : KMap Walk := []
  l2tlb : KMap (List Tlb) := []
  /-- Range-lock tables: entry i of core c at key 64 c + i (R321). -/
  rlocks : KMap RLock := []
  /-- The clk from which each partition's pipe is free again, partition p of core c at key 4 c + p (R168). -/
  slots : KMap Nat := []
  -- Beyond the card (R217, R238, R243, R457, R464).
  hostReqs : KMap HostReq := []
  /-- Posted writes sent to the host, oldest first: bus address and bytes. -/
  hostOut : List (Nat × List Byte) := []
  habl : List Nat := []
  /-- Completions sent to the host for its own requests, oldest first: BAR 0 offset and bytes. -/
  answers : List (Nat × List Byte) := []
  fabReqs : KMap FabReq := []
  /-- Stores sent on the fabric, oldest first: physical address and bytes. -/
  fabOut : List (Nat × List Byte) := []
  peerBuf : KMap (List PeerLine) := []
  /-- Responses to requests of other cards, oldest first: card, 0 or the code of the rejection, bytes (R464). -/
  fabAns : List (Nat × Nat × List Byte) := []
  /-- The reduction store's pieces, and the reduce packets in this card's output queues (R471, R472). -/
  reduce : KMap RedEnt := []
  redQ : KMap RedPkt := []
  -- Accumulators, matrix engines and leave (R281 to R306, R487): bank b of core c at key 64 c + b, engine p of core c at 4 c + p.
  accs : KMap Bank := []
  engs : KMap Eng := []
  /-- AALLOC requests of each core in the order of their issue (R284): (agent, fragment). -/
  aq : KMap (List (Nat × Nat)) := []
  /-- MMAQs that wait for their rendezvous (R297), oldest first, at key 16 (4 c + p) + tag: (agent, fragment). -/
  quads : KMap (List (Nat × Nat)) := []
  /-- Leave by holder: engine p of core c is 4 c + p, the builder of die d 512 + d, the sluice of core c 520 + c. -/
  leaves : KMap Leave := []
  leaveQ : KMap (List Nat) := []
  -- Handles and sluices (R314, R323): handle h of core c at key 256 c + h.
  handles : KMap Handle := []
  xops : KMap Xop := []
  /-- clk of the last piece request of each core's sluice (R323). -/
  sluices : KMap Nat := []
  -- Scenes and builders (R334 to R346): live generations; the builder of each die.
  gens : KMap Gen := []
  builders : KMap Builder := []
  -- Tasks and the reuse table (R364 to R378).
  tasks : KMap Task := []
  /-- Bank k of die d at key 64 d + k; the EDF lane is k = 32. -/
  banks : KMap (List TaskRec) := []
  /-- Per die: push pointer, pop count, next serial. -/
  pushPtr : KMap Nat := []
  popCount : KMap Nat := []
  taskSerial : KMap Nat := []
  /-- Fragment queues of the partitions (R372): (agent, fragment), at key 4 c + p. -/
  fragQ : KMap (List (Nat × Nat)) := []
  reuse : KMap ReuseEnt := []
  reuseSerial : Nat := 0
  -- Agents and teams.
  /-- Admitted grids by serial, and the next serial and order of admission (R152, R270). -/
  grids : KMap Grid := []
  serialNext : Nat := 0
  gridSeq : Nat := 0
  /-- Launch queues: their entry reads, the queue whose turn it is, the clk of the last entry read (R152, R502). -/
  queues : KMap QState := []
  qTurn : Nat := 0
  qClk : Option Nat := none
  /-- Arbiter (R160): the clk of each die's last placement, and the queue that comes first among BULK grids. -/
  placedAt : KMap Nat := []
  bulkTurn : Nat := 0
  agents : KMap Agent := []
  teams : KMap Team := []
  -- Faults (R402 to R423).
  faultQ : List (BitVec 512) := []
  tokens : KMap TokRef := []
  tokenNext : Nat := 1
  /-- The head of `faultQ` has been seen to wait (R409). -/
  faultWait : Bool := false
  /-- Contexts whose discard runs: the fatal record, and whether their work has been discarded (R423). -/
  fatals : KMap (BitVec 512 × Bool) := []
  preempts : KMap Preempt := []
  /-- Contexts of the context commands that are not done (R408), and the TLB invalidation in progress. -/
  cmds : List Nat := []
  tlbInv : Option TlbInv := none
  -- Media flows (R381 to R394), and frames sent on the wire, oldest first: flow, RTP timestamp, elements.
  flows : KMap Flow := []
  mediaOut : List (Nat × Nat × KMap Dword) := []
  -- The wall (R474 to R477): each card's run of substitutions; this card declared out; a REJOIN waits for a RENDERED frame;
  -- statuses of recent frames by frame and card (1 RENDERED, 2 SUBSTITUTED, 3 RENDERED with the join mark); frames at which a
  -- WBAR has completed its release; next frame whose time has not come and the clk of the last one that came; statuses sent.
  wallRuns : KMap Nat := []
  wallOut : Bool := false
  wallRejoin : Bool := false
  wallStat : KMap (KMap Nat) := []
  wallBars : List Nat := []
  wallNext : Nat := 0
  wallClk : Option Nat := none
  wallSent : List (Nat × Nat) := []
  -- The board (ch. 23): power; MR0 to MR3 of 64 bytes each (R495); fused minimum and running SVN by KIND (R493, R494); the last
  -- quote (R496); clk of the runner's next power step (R490).
  power : Bool := true
  mrs : List (List Byte) := List.replicate 4 (List.replicate 64 0#8)
  fusedSvn : KMap Nat := []
  runSvn : KMap Nat := []
  quote : List Byte := []
  steer : Nat := 0
  -- GDDR 7 and the erg: open row of bank b of channel c at key 16 c + b, the channels' refreshes (R498); by die the clk at which a
  -- change of its window is done (R214); lines that hold a bit error, with whether it is uncorrectable (R492).
  openRows : KMap Nat := []
  refresh : KMap Refresh := []
  ergDone : KMap Nat := []
  bad : KMap Bool := []
  deriving DecidableEq, Repr

/-- Right after reset (R497): every field at the value its declaration gives. -/
def State.reset : State := {}

end Sys2Proof.Machine
end

