-- ==== Sys2Proof/Machine/Ops.lean ====
section
/-!
DEFINITION. The named operations that the meanings share: memory, the register blocks of BAR 0, registers and lanes, the
issue of an instruction (R28, R29, R58), hazards (R30, R31), and taking and leaving an exception (R402 to R423, R435).
-/
namespace Sys2Proof.Machine

/-- The outcome of a step of the device. -/
abbrev Out := Host.Outcome State Fault Refusal

/-! ## Bytes of memory (R3, R211) -/

/-- What a byte of GDDR 7 or of an erg window that nothing has written reads as: stage 4 zeroes both memories (R497). -/
def memDefault : Byte := 0#8

/-- Byte of a byte map. -/
def rdB (m : KMap Byte) (a : Nat) : Byte := KMap.get memDefault m a

/-- Little-endian number of n bytes (R3). -/
def rdN (m : KMap Byte) : (n a : Nat) → Nat
  | 0, _ => 0
  | n + 1, a => (rdB m a).toNat + 256 * rdN m n (a + 1)

/-- Writes the low n bytes of x, little-endian. -/
def wrN (m : KMap Byte) : (n a x : Nat) → KMap Byte
  | 0, _, _ => m
  | n + 1, a, x => wrN (KMap.set memDefault m a (BitVec.ofNat 8 x)) n (a + 1) (x / 256)

/-- Writes a list of bytes. -/
def wrBytes (m : KMap Byte) (a : Nat) : List Byte → KMap Byte
  | [] => m
  | b :: bs => wrBytes (KMap.set memDefault m a b) (a + 1) bs

def rdBytes (m : KMap Byte) : (n a : Nat) → List Byte
  | 0, _ => []
  | n + 1, a => rdB m a :: rdBytes m n (a + 1)

/-- Bytes of a number, lowest first. -/
def bytesOf : (n x : Nat) → List Byte
  | 0, _ => []
  | n + 1, x => BitVec.ofNat 8 x :: bytesOf n (x / 256)

/-- Number of bytes, lowest first. -/
def numOf : List Byte → Nat
  | [] => 0
  | b :: bs => b.toNat + 256 * numOf bs

/-- The one canonical form of memory: addresses strictly rising, no byte equal to what an unlisted address reads as. -/
def Memory.wf (m : List Host.Cell) : Bool := KMap.wf memDefault m

namespace State

def readN (s : State) (n pa : Nat) : Nat := rdN s.mem n pa
def writeN (s : State) (n pa x : Nat) : State := { s with mem := wrN s.mem n pa x }

/-! ## BAR 0 register blocks (R455) -/

end State

/-- Offsets of the blocks, in dwords from `0x3F_0000_0000` (R455). -/
def blkMem : Nat := 0x10_0000 / 8
def blkMedia : Nat := 0x20_0000 / 8
def blkFault : Nat := 0x30_0000 / 8
def blkCtx : Nat := 0x40_0000 / 8
def blkHost : Nat := 0x50_0000 / 8
def blkFab : Nat := 0x60_0000 / 8
def blkWall : Nat := 0x70_0000 / 8

/-- What a dword of the register blocks holds after reset (R151, R161, R381, R411, R455, R458, R489). -/
def barReset (i : Nat) : Dword :=
  if i = 0x1400 / 8 then 4000#64
  else if i = 0x1408 / 8 then 8#64
  else if blkCtx ≤ i ∧ i < blkCtx + 512 ∧ (i - blkCtx) % 8 = 3 then 25000#64
  else if i = blkHost + 4 then 10000#64
  else if i = blkHost + 0x21 then 0xA0_00A0#64
  else if i = blkHost + 0x201 ∨ i = blkHost + 0x203 ∨ i = blkHost + 0x205 then 0x1_0000_0000#64
  else if blkMedia ≤ i ∧ i < blkMedia + 512 ∧ (i - blkMedia) % 8 = 3 then 500000#64
  else 0#64

namespace State

def barRd (s : State) (i : Nat) : Dword := (KMap.find? s.bar i).getD (barReset i)
def barWr (s : State) (i : Nat) (v : Dword) : State :=
  { s with bar := if v = barReset i then KMap.del s.bar i else KMap.put s.bar i v }

/-- Field [lo + n - 1 : lo] of dword i. -/
def barFld (s : State) (i lo n : Nat) : Nat := fldN (s.barRd i) lo n

end State

/-- Puts the low n bits of v at bit lo of x. -/
def putFld (x : Dword) (lo n : Nat) (v : Nat) : Dword :=
  let m := (BitVec.ofNat 64 (2 ^ n - 1)) <<< lo
  (x &&& ~~~m) ||| ((BitVec.ofNat 64 v <<< lo) &&& m)

namespace State

def barPut (s : State) (i lo n v : Nat) : State := s.barWr i (putFld (s.barRd i) lo n v)

/-- Signals MSI-X vector v (R458): its message is a posted write to the host, or, masked, it is pending. -/
def signal (s : State) (v : Nat) : State :=
  let e := blkHost + 0x200 + 2 * v
  if s.barFld (e + 1) 32 1 = 1 then s.barPut (blkHost + 0x400) v 1 1
  else { s with hostOut := s.hostOut ++ [((s.barRd e).toNat, bytesOf 4 (s.barFld (e + 1) 0 32))] }

/-- Stage of bring-up (R497). -/
def stage (s : State) : Nat := s.barFld (blkHost + 0x20) 0 4

/-! Context descriptors (R411). -/
def ctxEn (s : State) (c : Nat) : Bool := s.barFld (blkCtx + 8 * c) 0 1 = 1
def ctxDead (s : State) (c : Nat) : Bool := s.barFld (blkCtx + 8 * c) 1 1 = 1
def ctxDbg (s : State) (c : Nat) : Bool := s.barFld (blkCtx + 8 * c) 2 1 = 1
def ctxTenant (s : State) (c : Nat) : Nat := s.barFld (blkCtx + 8 * c) 4 4
def ctxRoot (s : State) (c : Nat) : Nat := s.barFld (blkCtx + 8 * c + 1) 0 40 * 4096
def ctxHandler (s : State) (c : Nat) : Nat := s.barFld (blkCtx + 8 * c + 2) 0 48
def ctxBudget (s : State) (c : Nat) : Nat := s.barFld (blkCtx + 8 * c + 3) 0 32
def ctxSave (s : State) (c : Nat) : Nat := s.barFld (blkCtx + 8 * c + 4) 0 40 * 4096
/-- CORES of the context: 128 bits, all zero means every core. -/
def ctxCores (s : State) (c : Nat) : Nat :=
  (s.barRd (blkCtx + 8 * c + 5)).toNat + 2 ^ 64 * (s.barRd (blkCtx + 8 * c + 6)).toNat

/-- pt (R20, R395): the exact time is kept in units of 10^-13 ns. -/
def pt (s : State) : Nat := s.ptAcc / 10 ^ 13 % 2 ^ 64

/-- Size of the erg window of a die in bytes (R213). -/
def ergSize (s : State) (d : Nat) : Nat := s.barFld (blkMem + d) 0 8 * 2 ^ 21

end State

/-! ## Physical ranges (R202) -/

inductive PaKind where
  | gddr (die : Nat)
  | erg (die : Nat)
  | peer
  | host
  | none
  deriving DecidableEq, Repr

/-- The wall aperture operates and holds this card number (R460, R462). -/
def State.peerUp (s : State) (card : Nat) : Bool :=
  s.barFld blkFab 39 1 = 1 &&
    decide (card < (s.barFld blkFab 18 6 + 1) * (s.barFld blkFab 24 6 + 1) * (s.barFld blkFab 30 6 + 1))

def State.paKind (s : State) (pa : Nat) : PaKind :=
  if pa < 0x10_0000_0000 then .gddr 0
  else if pa < 0x20_0000_0000 then .gddr 1
  else if 0x100_0000_0000 ≤ pa ∧ pa < 0x100_0000_0000 + s.ergSize 0 then .erg 0
  else if 0x100_2000_0000 ≤ pa ∧ pa < 0x100_2000_0000 + s.ergSize 1 then .erg 1
  else if 2 ^ 50 ≤ pa ∧ pa < 2 ^ 51 then if s.peerUp (natFld pa 44 6) then .peer else .none
  else if 2 ^ 51 ≤ pa ∧ pa < 2 ^ 52 then .host
  else .none

/-- A line behind the erg slices of this card. -/
def State.onCard (s : State) (pa : Nat) : Bool :=
  match s.paKind pa with
  | .gddr _ => true
  | .erg _ => true
  | _ => false

/-! ## Lanes and registers -/

/-- The lanes of a mask, ascending. -/
def lanesOf (m : Dword) : List Nat := (List.range 64).filter fun l => m.getLsbD l

/-- wm: lanes 0 to w - 1 (R139). -/
def wmask (w : Nat) : Dword := BitVec.ofNat 64 (2 ^ w - 1)

def laneBit (l : Nat) : Dword := BitVec.ofNat 64 (2 ^ l)

def maskOf (ls : List Nat) : Dword := ls.foldl (fun m l => m ||| laneBit l) 0

def popc (x : Dword) : Nat := (lanesOf x).length

/-- Index of the lowest set bit, `d` when there is none. -/
def lowest (x : Dword) (d : Nat) : Nat := ((lanesOf x).head?).getD d

namespace Agent

def sr (ag : Agent) (n : Nat) : Dword := KMap.get 0 ag.sregs n
def vr (ag : Agent) (n l : Nat) : Word := KMap.get 0 ag.vregs (64 * n + l)
def setS (ag : Agent) (n : Nat) (x : Dword) : Agent := { ag with sregs := KMap.set 0 ag.sregs n x }
def setV (ag : Agent) (n l : Nat) (x : Word) : Agent := { ag with vregs := KMap.set 0 ag.vregs (64 * n + l) x }

/-- Writes the lanes given of a register. -/
def setReg (ag : Agent) (r : Reg) (vals : List (Nat × Dword)) : Agent :=
  match r with
  | .s n => vals.foldl (fun a p => a.setS n p.2) ag
  | .v n => vals.foldl (fun a p => a.setV n p.1 (p.2.setWidth 32)) ag

def isLeat (ag : Agent) : Bool := ag.kind ≠ .group

/-- Operations of a counter that are not counted off (R218, R219). -/
def ctrVal (ag : Agent) (c : Ctr) : Nat := (ag.ops.filter fun o => o.ctr = some c).length

/-- Die of the agent's core (R133). -/
def die (ag : Agent) : Nat := ag.core / 64

/-- Counts off every operation that has returned and has no earlier one before it on its counter (R219). -/
def countOff (ag : Agent) : Agent :=
  { ag with ops := go [] ag.ops }
where
  go (held : List (Option Ctr)) : List Op → List Op
    | [] => []
    | o :: os =>
      if o.returned && (o.ctr.isNone || !held.contains o.ctr) then go held os
      else o :: go (o.ctr :: held) os

def updOp (ag : Agent) (id : Nat) (f : Op → Op) : Agent :=
  { ag with ops := ag.ops.map fun o => if o.id = id then f o else o }

def findOp (ag : Agent) (id : Nat) : Option Op := ag.ops.find? fun o => o.id = id

def updFrag (ag : Agent) (fid : Nat) (f : Frag → Frag) : Agent := { ag with frags := KMap.upd ag.frags fid f }
def putFrag (ag : Agent) (fid : Nat) (f : Frag) : Agent := { ag with frags := KMap.put ag.frags fid f }

/-- Lands the fixed-latency writes that are readable from clk t, in the order of their completion and issue (R29, R30). -/
def land (ag : Agent) (t : Nat) : Agent :=
  if ag.pend.all (fun p => t < p.ready) then ag
  else
    let now := sortBy (fun p q => decide (p.ready ≤ q.ready)) (ag.pend.filter fun p => p.ready ≤ t)
    { now.foldl (fun a p => a.setReg p.dst p.vals) ag with pend := ag.pend.filter fun p => t < p.ready }

end Agent

namespace Frag
/-- pc (R12). -/
def pc (f : Frag) : Nat := f.h + 8 * f.k
/-- Header of the next clause in sequence (R23). -/
def nextHdr (f : Frag) : Nat := f.h + 8 * (f.code.length + 1)
/-- Goes to the header at address t. -/
def goHdr (f : Frag) (t : Nat) : Frag :=
  { f with h := t, k := 0, code := [], live := [], phase := 0, wait := .none, readyAt := none, aged := false, fault := none, hop := 0 }
/-- Passes to the next instruction, or to the next clause after the last (R23, R28), not before clk n. -/
def adv (f : Frag) (n : Nat) : Frag :=
  if f.k < f.code.length then
    { f with k := f.k + 1, phase := 0, wait := .none, next := n, fault := none, hop := 0 }
  else { f.goHdr f.nextHdr with next := n }
end Frag

namespace State

def agent? (s : State) (a : Nat) : Option Agent := KMap.find? s.agents a
def updAgent (s : State) (a : Nat) (f : Agent → Agent) : State := { s with agents := KMap.upd s.agents a f }
def putAgent (s : State) (a : Nat) (ag : Agent) : State := { s with agents := KMap.put s.agents a ag }
def updFrag (s : State) (a fid : Nat) (f : Frag → Frag) : State := s.updAgent a fun ag => ag.updFrag fid f
def team? (s : State) (t : Nat) : Option Team := KMap.find? s.teams t
def updTeam (s : State) (t : Nat) (f : Team → Team) : State := { s with teams := KMap.upd s.teams t f }
def core (s : State) (c : Nat) : Core := (KMap.find? s.cores c).getD {}
def setCore (s : State) (c : Nat) (x : Core) : State :=
  { s with cores := if x = {} then KMap.del s.cores c else KMap.put s.cores c x }
/-- Appends events that happen before anything else. -/
def happen (s : State) (es : List Ev) : State := { s with agenda := es ++ s.agenda }
def freshId (s : State) : State := { s with ids := s.ids + 1 }

end State

/-! ## Faults (R402 to R423) -/

/-- Class of a code (R403). -/
def classOf (code : Nat) : Nat :=
  if code = 1 ∨ code = 2 then 0
  else if code ≤ 16 then 1
  else if code = 17 then 4
  else if code < 48 then 2
  else 3

/-- Who raises a fault, for AGENT, CORE, PART, SLOT, FID, PC, HANDLE, OPK and ARRIVED of R406. -/
structure Raiser where
  agent : Nat
  ctx : Nat
  tenant : Nat
  core : Nat := 0
  part : Nat := 0
  slot : Nat := 0
  fid : Nat := 0
  pc : Nat := 0
  handle : Nat := 0
  opk : Nat := 0
  arrived : Nat := 0
  deriving DecidableEq, Repr

/-- The fault record (R406). -/
def faultRec (r : Raiser) (cls : Nat) (f : Flt) (token pt : Nat) : BitVec 512 :=
  BitVec.ofNat 512 <|
    f.code % 256 + cls * 2 ^ 8 + r.agent * 2 ^ 12 + (f.detail % 2 ^ 16) * 2 ^ 16 + r.ctx * 2 ^ 32 + r.tenant * 2 ^ 38
      + r.core * 2 ^ 42 + r.part * 2 ^ 49 + r.slot * 2 ^ 51 + r.fid * 2 ^ 59 + (f.addr % 2 ^ 64) * 2 ^ 64
      + (r.pc % 2 ^ 48) * 2 ^ 128 + r.handle * 2 ^ 176 + r.opk * 2 ^ 184 + f.lm.toNat * 2 ^ 192
      + (token % 2 ^ 32) * 2 ^ 256 + r.arrived * 2 ^ 288 + pt * 2 ^ 320 + (f.info % 2 ^ 128) * 2 ^ 384

def Agent.raiser (ag : Agent) (fid pc : Nat) : Raiser where
  agent := match ag.kind with
    | .group => 0
    | .leat t => if t then 2 else 1
  ctx := ag.ctx
  tenant := ag.tenant
  core := ag.core
  part := if ag.isLeat then 0 else ag.part
  slot := if ag.isLeat then 0 else ag.slot
  fid := if ag.isLeat then 0 else fid
  pc := pc

namespace State

/-- A record joins those that wait for the ring (R409). -/
def queueRec (s : State) (r : BitVec 512) : State := { s with faultQ := s.faultQ ++ [r] }

/-- A NOTICE record (R402): nothing stops. -/
def notice (s : State) (r : Raiser) (f : Flt) : State := s.queueRec (faultRec r 3 f 0 s.pt)

/-- A REPLAY or DEBUG record with a fresh token that names what it stopped or parked (R406, R410). -/
def replay (s : State) (r : Raiser) (cls : Nat) (f : Flt) (ref : TokRef) : State :=
  let t := s.tokenNext
  { s.queueRec (faultRec r cls f t s.pt) with
    tokens := KMap.put s.tokens t ref, tokenNext := if (t + 1) % 2 ^ 32 = 0 then 1 else t + 1 }

/-- A fatal fault of a context (R423): DEAD is set, and the discard is what happens next. Faults raised in the context
while its discard runs are not recorded. -/
def fatal (s : State) (r : Raiser) (f : Flt) : State :=
  match KMap.find? s.fatals r.ctx with
  | some _ => s
  | none =>
    { (s.barPut (blkCtx + 8 * r.ctx) 1 1 1) with
      fatals := KMap.put s.fatals r.ctx (faultRec r 2 f 0 s.pt, false)
      agenda := .fatalDiscard r.ctx :: s.agenda }

/-- Adds one to a half of ECCCNT, which saturates, and logs an uncorrectable error in ECCLOG (R489, R492). `loc`: physical address,
or the local offset of an SRAM. -/
def eccCount (s : State) (unc : Bool) (loc struct : Nat) : State :=
  let lo := if unc then 32 else 0
  let n := s.barFld (blkHost + 0x24) lo 32
  let s1 := s.barPut (blkHost + 0x24) lo 32 (min (n + 1) (2 ^ 32 - 1))
  if unc then s1.barWr (blkHost + 0x25) (BitVec.ofNat 64 (loc % 2 ^ 52 + struct % 8 * 2 ^ 52 + 2 ^ 63)) else s1

end State

/-- Structure of a physical address, as the detail of ECC_UNCORR codes it (R405): the erg for a window, else GDDR 7. -/
def eccStruct (s : State) (pa : Nat) : Nat := match s.paKind pa with
  | .erg _ => 4
  | _ => 5

/-- An error met at a physical address is counted and logged. -/
def State.eccNote (s : State) (pa : Nat) (unc : Bool) : State := s.eccCount unc pa (eccStruct s pa)

/-- Enters the trap handler in the faulting fragment (R419). -/
def Agent.enterHandler (ag : Agent) (fid : Nat) (fr : Frag) (f : Flt) (handler clk pt : Nat) : Agent :=
  { ag with
    lm := f.lm
    impure := ag.impure || f.code = 14
    handler := some
      { fid := fid, emSave := fr.em, shadow := (List.range 8).map fun i => ag.sr (120 + i),
        record := faultRec (ag.raiser fid fr.pc) 1 f 0 pt, code := f.code, frag := { fr with phase := 0, wait := .none, fault := none, hop := 0 } }
    frags := KMap.put ag.frags fid { (fr.goHdr handler) with em := 0, next := clk + 12, started := fr.started } }

/-- Delivers a fault of agent `a`, fragment `fid`, taken precisely at its pc (R32, R402): the record of R406, then by class.
The instruction has no further effect (R6). -/
def State.raise (s : State) (a fid : Nat) (f : Flt) : State :=
  match s.agent? a with
  | none => s
  | some ag =>
    match KMap.find? ag.frags fid with
    | none => s
    | some fr =>
      let r := ag.raiser fid (f.pc.getD fr.pc)
      if ag.isLeat then
        -- R313: XLATE and PROT park, BRK stops, every other fault is fatal
        if classOf f.code = 0 ∨ classOf f.code = 4 then
          (s.updFrag a fid fun x => { x with wait := .stopped s.tokenNext, phase := 0 }).replay r (classOf f.code) f
            (.agent a fid)
        else s.fatal r f
      else
        match ag.handler with
        | some h =>
          -- R421: any fault while the handler runs
          s.fatal r { code := 34, lm := f.lm, addr := f.addr, info := f.code + (f.detail % 2 ^ 16) * 2 ^ 8 + h.code * 2 ^ 24 }
        | none =>
          if classOf f.code = 0 ∨ classOf f.code = 4 then
            (s.updAgent a fun g =>
              ({ g with lm := f.lm, stop := some { fid := fid, token := s.tokenNext, debug := classOf f.code = 4, held := f.pc.isSome } }).updFrag fid
                fun x => { x with phase := 0, wait := .none, fault := none, hop := 0 }).replay r (classOf f.code) f (.agent a fid)
          else if classOf f.code = 1 ∧ s.ctxHandler ag.ctx ≠ 0 then
            s.updAgent a fun g => g.enterHandler fid fr f (s.ctxHandler ag.ctx) s.clk s.pt
          else s.fatal r f

/-! ## Issue -/

/-- The issuer of an instruction: agent, fragment, and the agent as the instruction's reads see it (R29, R30). -/
structure Iss where
  a : Nat
  fid : Nat
  ag : Agent
  fr : Frag
  deriving DecidableEq, Repr

def State.issuer (s : State) : Option Iss :=
  match s.agent? s.cur.1 with
  | none => none
  | some ag =>
    match KMap.find? ag.frags s.cur.2 with
    | none => none
    | some fr => some { a := s.cur.1, fid := s.cur.2, ag := ag, fr := fr }

/-- What the fates of R58 and R51 ask of an instruction word. -/
structure Legal where
  all : BitVec 1
  /-- Legal in a leat (R57), in a group. -/
  leat : Bool := false
  grp : Bool := true
  /-- Handler-only; not in a handler (R404 detail 1). -/
  hnd : Bool := false
  noHnd : Bool := false
  /-- A reserved field is nonzero; a field value is illegal. -/
  rsv : Bool := false
  bad : Bool := false
  /-- Vector registers and scalar registers used as operands. -/
  vregs : List Nat := []
  sregs : List Nat := []
  deriving DecidableEq, Repr

def Iss.inHandler (c : Iss) : Bool := c.ag.handler.isSome

def illegalOp (d : Nat) : Flt := { code := 3, detail := d }

/-- Steps 3 to 7 of R58, in order. -/
def Legal.fate (l : Legal) (c : Iss) : Option Flt :=
  if (c.ag.isLeat && !l.leat) || (!c.ag.isLeat && !l.grp) || (l.hnd && !c.inHandler) || (l.noHnd && c.inHandler) then
    some (illegalOp 1)
  else if l.rsv then some (illegalOp 2)
  else if l.bad then some (illegalOp 3)
  else if l.all = 1 ∧ (c.ag.isLeat || !c.inHandler) then some (illegalOp 4)
  else if l.vregs.any (fun r => c.ag.nv ≤ r) || (c.ag.isLeat && l.sregs.any fun r => 32 ≤ r) then some { code := 4 }
  else none

/-- `active` (R6, R35). -/
def Iss.active (c : Iss) (all : BitVec 1) : Dword :=
  (if all = 1 then wmask c.ag.width else c.fr.em) &&& wmask c.ag.width

/-- Whether a 64-lane group issues pass 0, pass 1 (R127). -/
def passes (width : Nat) (act : Dword) (all : BitVec 1) : Bool × Bool :=
  if width ≤ 32 then (true, false)
  else if all = 1 then (true, true)
  else
    let lo := act &&& 0xFFFF_FFFF#64 ≠ 0
    let hi := act >>> 32 ≠ 0
    (lo || !hi, hi)

/-- Issue slots a vector instruction takes beyond the first. -/
def extraPass (p : Bool × Bool) : Nat := if p.1 && p.2 then 1 else 0

/-- clk of the pass that lane l belongs to, from the clk of the first pass. -/
def passClk (p : Bool × Bool) (i l : Nat) : Nat := if p.1 && p.2 && decide (32 ≤ l) then i + 1 else i

/-- The lanes of mask `m` of register `r` that are among `rs`. -/
def Regs.lanes (rs : Regs) (r : Reg) : Dword := rs.foldl (fun m p => if p.1 = r then m ||| p.2 else m) 0

/-- Hazards of R30 judged by the checking scoreboard (R31): the kind of the lowest-numbered hazard. `rdy` is the clk from
which a fixed-latency write of the instruction is readable; `pr` the passes that the reads are made in. -/
def hazard (ag : Agent) (fid : Nat) (pr p : Bool × Bool) (i : Nat) (reads writes : Regs) (rdy : Nat) (fixed : Bool) : Option Nat :=
  let mine := ag.pend.filter fun q => q.fid = fid
  let ops := ag.ops.filter fun o => o.fid = fid
  if mine.any (fun q => q.vals.any fun v => (Regs.lanes reads q.dst).getLsbD v.1 && decide (passClk pr i v.1 < q.ready)) then
    some 0
  else if ops.any (fun o => o.dsts.any fun d => (Regs.lanes reads d.1 &&& d.2) ≠ 0) then some 1
  else if (fixed && mine.any fun q => q.vals.any fun v =>
        (Regs.lanes writes q.dst).getLsbD v.1 && decide (passClk p rdy v.1 < q.ready))
      || ops.any (fun o => o.dsts.any fun d => (Regs.lanes writes d.1 &&& d.2) ≠ 0) then some 2
  else if ops.any (fun o => o.win.any fun d => (Regs.lanes writes d.1 &&& d.2) ≠ 0) then some 3
  else none

/-- A read of a destination whose counter-tracked write has not returned (R30): for each lane either the old value or the
new one, which is not known yet; drawn free (log entry 2). Answers the agent as the reads see it and the draws made. -/
def freeReads (ag : Agent) (reads : Regs) (n : Nat) : Agent × Nat :=
  ag.ops.foldl (init := (ag, n)) fun acc o =>
    o.dsts.foldl (init := acc) fun acc d =>
      (lanesOf (Regs.lanes reads d.1 &&& d.2)).foldl (init := acc) fun acc l =>
        if Config.freeBit acc.2 then (acc.1, acc.2 + 1)
        else (acc.1.setReg d.1 [(l, Config.freeDword acc.2)], acc.2 + 1)

/-- Pass 1 reads its lanes one clk later (R128): the lanes from 32 on as of that clk. -/
def passView (ag : Agent) (p : Bool × Bool) (i : Nat) : Agent :=
  if p.1 && p.2 then
    (ag.pend.filter fun q => q.ready ≤ i + 1).foldl (init := ag) fun a q =>
      match q.dst with
      | .s _ => a
      | .v _ => a.setReg q.dst (q.vals.filter fun v => 32 ≤ v.1)
  else ag

/-- A write marks what it meets: destinations of operations in flight (R30 row 4) and read windows (R30 row 5). -/
def markWrites (ag : Agent) (writes : Regs) : Agent :=
  if ag.ops.isEmpty then ag
  else
    let hit (rs : Regs) : Regs := rs.filterMap fun d =>
      let m := Regs.lanes writes d.1 &&& d.2
      if m = 0 then none else some (d.1, m)
    { ag with ops := ag.ops.map fun o => { o with clash := o.clash ++ hit o.dsts, winClash := o.winClash ++ hit o.win } }

/-- Registers read and written by an instruction, for the hazards. -/
structure Foot where
  reads : Regs := []
  writes : Regs := []
  deriving DecidableEq, Repr

def sreg (r : Nat) : Reg × Dword := (.s r, 1#64)
def sregs (rs : List Nat) : Regs := rs.map sreg
def vregsOn (rs : List Nat) (m : Dword) : Regs := rs.map fun r => (Reg.v r, m)

/-- What an instruction that acts on its own group only leaves: values by register and lane, written with latency `lat`; the
new `em`; where it goes; the new stochastic state. -/
structure Fx where
  writes : List (Reg × List (Nat × Dword)) := []
  em : Option Dword := none
  /-- Header of a taken transfer. -/
  go : Option Nat := none
  srx : Option Dword := none
  deriving DecidableEq, Repr

/-- Commits an `Fx` (R28, R29, R94). -/
def Agent.commit (ag : Agent) (fid : Nat) (fr : Frag) (p : Bool × Bool) (i stl lat : Nat) (fx : Fx) : Agent :=
  let ext := extraPass p
  let pends := fx.writes.flatMap fun w =>
    match w.1 with
    | .s _ => [{ fid := fid, dst := w.1, vals := w.2, ready := i + ext + lat : Pend }]
    | .v _ =>
      if ext = 0 then [{ fid := fid, dst := w.1, vals := w.2, ready := i + lat }]
      else
        [{ fid := fid, dst := w.1, vals := w.2.filter fun v => v.1 < 32, ready := i + lat },
         { fid := fid, dst := w.1, vals := w.2.filter fun v => 32 ≤ v.1, ready := i + 1 + lat }]
  let fr := { fr with em := fx.em.getD fr.em }
  let nxt := i + ext + 1 + stl
  let fr := match fx.go with
    | some t => { fr.goHdr t with next := max (i + 3) nxt }
    | none => fr.adv nxt
  let ag := markWrites ag (fx.writes.map fun w => (w.1, maskOf (w.2.map (·.1))))
  { ag with
    pend := ag.pend ++ pends.filter fun q => !q.vals.isEmpty
    frags := KMap.put ag.frags fid fr
    srx := fx.srx.getD ag.srx }

/-- How an instruction uses the pipe: one pass; a pass for each half of the lanes, each reading its own lanes (R127, R128);
or the same passes with every lane read in the first (R194). -/
inductive Pm where
  | one | lanes | cross
  deriving DecidableEq, Repr

/-- Legality, then the scoreboard (R58 steps 3 to 7, R31), then the body on the agent as the reads see it. -/
def issueWith (s : State) (lg : Legal) (foot : Iss → Foot) (pm : Pm) (lat : Nat) (fixed : Bool)
    (body : State → Iss → (Bool × Bool) → Out) : Out :=
  match s.issuer with
  | none => .fault .noIssuer
  | some c =>
    match lg.fate c with
    | some f => .next (s.raise c.a c.fid f)
    | none =>
      let p := if pm = .one then (true, false) else passes c.ag.width (c.active lg.all) lg.all
      let pr := if pm = .cross then (true, false) else p
      let ft := foot c
      match (if c.fr.chk ∧ c.fr.phase < 4 then
          hazard c.ag c.fid pr p s.clk ft.reads ft.writes (s.clk + lat) fixed else none) with
      | some d => .next (s.raise c.a c.fid { code := 12, detail := d })
      | none =>
        let v := freeReads (passView c.ag pr s.clk) ft.reads s.free
        let slots := if c.ag.isLeat || decide (4 ≤ c.fr.phase) then s.slots
          else KMap.put s.slots (4 * c.ag.core + c.ag.part) (s.clk + 1 + extraPass p)
        body { s with free := v.2, slots := slots } { c with ag := v.1 } p

/-- An instruction that acts on its own group only. -/
def issueLocal (s : State) (lg : Legal) (foot : Iss → Foot) (pm : Pm) (stl lat : Nat)
    (body : State → Iss → Except Flt Fx) : Out :=
  issueWith s lg foot pm lat true fun s c p =>
    match body s c with
    | .error f => .next (s.raise c.a c.fid f)
    | .ok fx => .next (s.updAgent c.a fun ag => ag.commit c.fid c.fr p s.clk stl lat fx)

end Sys2Proof.Machine
end

