-- ==== Sys2Proof/Machine/Operands.lean ====
section
/-!
DEFINITION. Every operand form: the scalar operands of F-S3 and F-SI (R37, R38, R82), the vector operands of F-V3 and F-VI
(R39, R40), the element types (R49) and the address operands of F-MEM (R41, R42, R224).
-/
namespace Sys2Proof.Machine

/-! ## Scalar operands -/

/-- TY is one of I32, N32, I64, N64 (R37). -/
def tyScalar (ty : BitVec 4) : Bool := ty = 0 || ty = 1 || ty = 9 || ty = 10

/-- w of R82. -/
def tyWidth (ty : BitVec 4) : Nat := if ty = 0 || ty = 1 then 32 else 64

/-- sgn of R82. -/
def tySgn (ty : BitVec 4) : Bool := ty = 0 || ty = 9

/-- Writes back a w-bit result (R82). -/
def extResult (ty : BitVec 4) {w : Nat} (r : BitVec w) : Dword := if tySgn ty then r.signExtend 64 else r.setWidth 64

/-- AUX extended to 64 bits (R37). -/
def extAux (ty : BitVec 4) (aux : BitVec 16) : Dword := if tySgn ty then aux.signExtend 64 else aux.setWidth 64

/-- IMM32 extended to 64 bits (R38). -/
def extImm (ty : BitVec 4) (imm : BitVec 32) : Dword := if tySgn ty then imm.signExtend 64 else imm.setWidth 64

/-- Operand B of F-S3 (R37). -/
def opB (f : FS3) (ag : Agent) : Dword := if f.im = 1 then extAux f.ty f.aux else ag.sr f.sb.toNat

/-! ## Vector operands -/

/-- A vector source of F-V3: the lane's word, or the same word of a scalar register in every lane (R39). -/
def vsrc (ag : Agent) (field : BitVec 10) (scal : Bool) (hi : Bool) (l : Nat) : Word :=
  if scal then
    let x := ag.sr (field.toNat % 128)
    if hi then fld x 32 32 else fld x 0 32
  else ag.vr field.toNat l

def FV3.selA (f : FV3) : Bool := f.sel.getLsbD 0
def FV3.selB (f : FV3) : Bool := f.sel.getLsbD 1
def FV3.selC (f : FV3) : Bool := f.sel.getLsbD 2
def FV3.hi (f : FV3) : Bool := f.sel.getLsbD 3

def opVA (f : FV3) (ag : Agent) (l : Nat) : Word := vsrc ag f.va (FV3.selA f) (FV3.hi f) l
def opVB (f : FV3) (ag : Agent) (l : Nat) : Word := vsrc ag f.vb (FV3.selB f) (FV3.hi f) l
def opVC (f : FV3) (ag : Agent) (l : Nat) : Word := vsrc ag f.vc (FV3.selC f) (FV3.hi f) l

/-- The 32-bit operand B of every lane from IMM24 (R40). -/
def expandImm (ty : BitVec 4) (imm : BitVec 24) : Word :=
  match ty.toNat with
  | 0 => imm.signExtend 32
  | 1 => imm.setWidth 32
  | 2 => (imm ++ 0#8 : BitVec 32)
  | 7 | 8 =>
    let b : Byte := fld imm 0 8
    (b ++ b ++ b ++ b : BitVec 32)
  | _ =>
    let h : Half := fld imm 0 16
    (h ++ h : BitVec 32)

/-- The bits of IMM24 that must be zero (R40). -/
def immRsv (ty : BitVec 4) (imm : BitVec 24) : Bool :=
  match ty.toNat with
  | 0 | 1 | 2 => false
  | 7 | 8 => fld imm 8 16 ≠ 0
  | _ => fld imm 16 8 ≠ 0

/-- TY of a vector format is one of 0 to 8 (R49). -/
def tyVector (ty : BitVec 4) : Bool := decide (ty.toNat ≤ 8)

/-- Float types of R49. -/
def tyFloat (ty : BitVec 4) : Bool := ty = 2 || ty = 3 || ty = 4

/-- Elements of a lane value: bits of each (R49). -/
def elemBits (ty : BitVec 4) : Nat :=
  match ty.toNat with
  | 0 | 1 | 2 => 32
  | 7 | 8 => 8
  | _ => 16

/-- The type's elements are signed integers (R49). -/
def elemSgn (ty : BitVec 4) : Bool := ty = 0 || ty = 5 || ty = 7

/-- Elements of a lane value, from the least significant bits. -/
def elems (ty : BitVec 4) (x : Word) : List Nat :=
  (List.range (32 / elemBits ty)).map fun k => fldN x (k * elemBits ty) (elemBits ty)

/-- A lane value from its elements. -/
def ofElems (ty : BitVec 4) (es : List Nat) : Word :=
  BitVec.ofNat 32 (es.foldr (fun e acc => e % 2 ^ elemBits ty + 2 ^ elemBits ty * acc) 0)

/-- Signed value of an n-bit element. -/
def sx (n x : Nat) : Int := if x < 2 ^ (n - 1) then (x : Int) else (x : Int) - 2 ^ n

/-- An element's integer value under its type. -/
def elemVal (ty : BitVec 4) (x : Nat) : Int := if elemSgn ty then sx (elemBits ty) x else (x : Int)

/-- An integer modulo 2^n. -/
def wrapN (n : Nat) (x : Int) : Nat := (x % (2 ^ n : Int)).toNat

/-- `sat()` of R6: clamps to the range of the destination type. -/
def satN (n : Nat) (sgn : Bool) (x : Int) : Nat :=
  let lo : Int := if sgn then -(2 ^ (n - 1) : Int) else 0
  let hi : Int := if sgn then (2 ^ (n - 1) : Int) - 1 else (2 ^ n : Int) - 1
  wrapN n (max lo (min hi x))

/-! ## Memory operands -/

/-- Bytes of WIDTH (R42). -/
def widthBytes (w : BitVec 3) : Nat := 2 ^ w.toNat

/-- Registers of a lane that an access of this width uses (R42). -/
def widthRegs (w : BitVec 3) : Nat := if w.toNat ≤ 2 then 1 else if w = 3 then 2 else 4

def widthLegal (w : BitVec 3) : Bool := decide (w.toNat ≤ 4)

/-- The offset term of a lane (R224). -/
def voffOf (f : FMEM) (ag : Agent) (l : Nat) : Nat := if f.voff = 0x3FF then 0 else (ag.vr f.voff.toNat l).toNat

/-- addr[l] of R224, exact; `disp` is the displacement. -/
def laneAddr (f : FMEM) (ag : Agent) (disp : Int) (l : Nat) : Int :=
  ((ag.sr f.sbase.toNat).toNat : Int) + voffOf f ag l + disp

/-- IMM19 sign-extended, IMM13 sign-extended (R41, R44). -/
def disp19 (f : FMEM) : Int := f.imm.toInt
def disp13 (f : FMEM) : Int := (fld f.imm 0 13).toInt

end Sys2Proof.Machine
end

