-- ==== Sys2Proof/Machine/Flags.lean ====
section
/-!
DEFINITION. The device keeps no condition flags (R13). What other machines compute into flags it computes into a register or
a branch: the conditions of COND (R47), of SCMP (R87) and of VCMP (R177).
-/
namespace Sys2Proof.Machine

/-- COND of F-BR on s(SC) (R47); 9 to 15 are illegal. -/
def condHolds (cond : BitVec 4) (x : Dword) : Bool :=
  match cond.toNat with
  | 0 => true
  | 1 => x = 0
  | 2 => x ≠ 0
  | 3 => x.slt 0
  | 4 => !x.slt 0
  | 5 => (0#64).slt x
  | 6 => !(0#64).slt x
  | 7 => x.getLsbD 0
  | 8 => !x.getLsbD 0
  | _ => false

/-- CC of SCMP (R87) on integers: 0 EQ, 1 NE, 2 LT, 3 LE, 4 GT, 5 GE; 6 and 7 are illegal. -/
def ccHolds (cc : Nat) (a b : Int) : Bool :=
  match cc with
  | 0 => a = b
  | 1 => a ≠ b
  | 2 => a < b
  | 3 => a ≤ b
  | 4 => b < a
  | 5 => b ≤ a
  | _ => false

/-- Integer value of a w-bit operand, signed or unsigned (R82). -/
def ival (sgn : Bool) {w : Nat} (x : BitVec w) : Int := if sgn then x.toInt else (x.toNat : Int)

end Sys2Proof.Machine
end

