-- ==== Sys2Proof/Machine/Control.lean ====
section
/-!
DEFINITION. Control transfer (R91 to R95), the masks managed by the compiler (R138 to R140) and the split table
(R141 to R145).
-/
namespace Sys2Proof.Machine

/-! ## Branches -/

/-- Target of an F-BR branch from the header of its own clause, computed without wrap (R26, R92). -/
def brTarget (f : FBR) (fr : Frag) : Int := (fr.h : Int) + 8 * f.off.toInt

/-- ILLEGAL_ADDR of a computed address (R21). -/
def illegalAddr (x : Int) (lm : Dword := 0) : Flt := { code := 6, lm := lm, addr := (x % (2 ^ 64 : Int)).toNat }
def misalign (x : Nat) (lm : Dword := 0) : Flt := { code := 8, lm := lm, addr := x }

/-- A target from OFF32 lies at 0 to 2^48 - 8. -/
def targetOk (t : Int) : Bool := decide (0 ≤ t ∧ t ≤ 2 ^ 48 - 8)

def legalBR (f : FBR) (condFree usesSC usesSL usesOff : Bool) (leat : Bool := true) : Legal where
  all := f.all
  leat := leat
  rsv := f.rsv ≠ 0 || (!condFree && f.cond ≠ 0) || (!usesSC && f.sc ≠ 0) || (!usesSL && f.sl ≠ 0) || (!usesOff && f.off ≠ 0)
  bad := condFree && decide (8 < f.cond.toNat)
  sregs := [f.sc.toNat, f.sl.toNat]

/-- A relative branch (R92): what it writes, and where it goes when taken. -/
def relBranch (f : FBR) (lg : Legal) (reads writes : List Nat) (taken : Iss → Bool) (wr : Iss → List (Nat × Dword)) (s : State) :
    Out :=
  issueLocal s lg (fun _ => { reads := sregs reads, writes := sregs writes }) .one f.stl.toNat 2 fun _ c =>
    let t := brTarget f c.fr
    if taken c && !targetOk t then .error (illegalAddr t)
    else .ok
      { writes := (wr c).map fun p => (.s p.1, [(0, p.2)])
        go := if taken c then some t.toNat else none }

def execBra (f : FBR) (s : State) : Out := relBranch f (legalBR f false false false true) [] [] (fun _ => true) (fun _ => []) s

def execBrc (f : FBR) (s : State) : Out :=
  relBranch f (legalBR f true true false true) [f.sc.toNat] [] (fun c => condHolds f.cond (c.ag.sr f.sc.toNat)) (fun _ => []) s

def execCall (f : FBR) (s : State) : Out :=
  relBranch f (legalBR f false false true true) [] [f.sl.toNat] (fun _ => true)
    (fun c => [(f.sl.toNat, BitVec.ofNat 64 c.fr.nextHdr)]) s

def execLoop (f : FBR) (s : State) : Out :=
  relBranch f (legalBR f false true false true) [f.sc.toNat] [f.sc.toNat] (fun c => c.ag.sr f.sc.toNat - 1 ≠ 0)
    (fun c => [(f.sc.toNat, c.ag.sr f.sc.toNat - 1)]) s

/-- RET and JMP (R93): to an address held in a register. -/
def regBranch (f : FBR) (lg : Legal) (s : State) : Out :=
  issueLocal s lg (fun _ => { reads := sregs [f.sc.toNat] }) .one f.stl.toNat 2 fun _ c =>
    let t : Int := ((c.ag.sr f.sc.toNat).toNat : Int) + 8 * f.off.toInt
    if t < 0 ∨ 2 ^ 48 ≤ t then .error (illegalAddr t)
    else if t % 8 ≠ 0 then .error (misalign t.toNat)
    else .ok { go := some t.toNat }

def execRet (f : FBR) (s : State) : Out := regBranch f (legalBR f false true false false) s
def execJmp (f : FBR) (s : State) : Out := regBranch f (legalBR f false true false true) s

def execNop (f : FBR) (s : State) : Out :=
  issueLocal s (legalBR f false false false false) (fun _ => {}) .one f.stl.toNat 2 fun _ _ => .ok {}

/-! ## Masks (R139, R140) -/

def legalMask (f : FS3) (im usesD usesA usesB : Bool) : Legal where
  all := f.all
  rsv := (f.im = 1 && !im) || f.cc ≠ 0 || f.sc ≠ 0 || (!usesD && f.sd ≠ 0) || (!usesA && f.sa ≠ 0)
    || ((f.im = 1 || !usesB) && f.sb ≠ 0) || (f.im = 0 && f.aux ≠ 0)
  bad := f.ty ≠ 10

/-- Operand B of a mask instruction: AUX is zero-extended, whatever TY (R138). -/
def maskB (f : FS3) (ag : Agent) : Dword := if f.im = 1 then f.aux.setWidth 64 else ag.sr f.sb.toNat

/-- A mask instruction: the scalar result and the new em, from the issuer and b. -/
def maskOp (f : FS3) (lg : Legal) (useA useB : Bool) (res em : Iss → Dword → Option Dword) (s : State) : Out :=
  issueLocal s lg
    (fun c => { reads := sregs ((if useA then [f.sa.toNat] else []) ++ (if useB && f.im = 0 then [f.sb.toNat] else [])),
                writes := if (res c 0).isSome then sregs [f.sd.toNat] else [] }) .one f.stl.toNat 2 fun _ c =>
      let b := maskB f c.ag
      .ok { writes := match res c b with
              | some x => [(.s f.sd.toNat, [(0, x)])]
              | none => []
            em := em c b }

def execMset (f : FS3) (s : State) : Out :=
  maskOp f (legalMask f true false false true) false true (fun _ _ => none) (fun c b => some (b &&& c.fr.own)) s
def execMget (f : FS3) (s : State) : Out :=
  maskOp f (legalMask f false true false false) false false (fun c _ => some c.fr.em) (fun _ _ => none) s
def execMand (f : FS3) (s : State) : Out :=
  maskOp f (legalMask f true true false true) false true (fun c _ => some c.fr.em) (fun c b => some (c.fr.em &&& b)) s
def execMandn (f : FS3) (s : State) : Out :=
  maskOp f (legalMask f true true false true) false true (fun c _ => some c.fr.em) (fun c b => some (c.fr.em &&& ~~~b)) s
def execMor (f : FS3) (s : State) : Out :=
  maskOp f (legalMask f true true false true) false true (fun c _ => some c.fr.em)
    (fun c b => some ((c.fr.em ||| b) &&& c.fr.own)) s
def execMfirst (f : FS3) (s : State) : Out :=
  maskOp f (legalMask f false true true false) true false
    (fun c _ => some (BitVec.ofNat 64 (lowest (c.ag.sr f.sa.toNat &&& wmask c.ag.width) 64))) (fun _ _ => none) s
def execMcnt (f : FS3) (s : State) : Out :=
  maskOp f (legalMask f false true true false) true false
    (fun c _ => some (BitVec.ofNat 64 (popc (c.ag.sr f.sa.toNat &&& wmask c.ag.width)))) (fun _ _ => none) s

def execBrzm (f : FBR) (s : State) : Out :=
  relBranch f (legalBR f false true false true false) [f.sc.toNat] []
    (fun c => c.fr.em &&& c.ag.sr f.sc.toNat &&& wmask c.ag.width = 0) (fun _ => []) s

/-! ## Fragments (R141 to R145) -/

/-- A fragment number is in use while its fragment is live or a live entry names it (R143). -/
def Agent.fidUsed (ag : Agent) (x : Nat) : Bool :=
  (KMap.find? ag.frags x).isSome || ag.split.any fun e => e.2.pid = x || e.2.cid = x

/-- The live entries in which x takes part, innermost (most recently allocated) first (R142). -/
def Agent.entriesOf (ag : Agent) (x : Nat) : List (Nat × SplitEnt) :=
  sortBy (fun a b => decide (b.2.seq ≤ a.2.seq)) (ag.split.filter fun e => e.2.pid = x || e.2.cid = x)

def illegalSplit : Flt := { code := 7 }

def legalSplit (f : FS3) (usesA : Bool) : Legal where
  all := f.all
  rsv := f.im ≠ 0 || f.cc ≠ 0 || f.sb ≠ 0 || f.sc ≠ 0 || f.sd ≠ 0 || (!usesA && (f.sa ≠ 0 || f.aux ≠ 0))
  bad := f.ty ≠ 10

/-- SPLIT on the agent (R143); `t` the lanes that go to the label, `n` those that fall through. -/
def Agent.doSplit (ag : Agent) (fid : Nat) (fr : Frag) (e : Nat) (t n : Dword) (target clk stl : Nat) : Agent :=
  let seq := ag.splitSeq
  let takenAt := max (clk + 3) (clk + 1 + stl)
  if t = 0 ∨ n = 0 then
    let fr' := if n = 0 ∧ t ≠ 0 then { fr.goHdr target with next := takenAt } else fr.adv (clk + 1 + stl)
    { ag with splitSeq := seq + 1, frags := KMap.put ag.frags fid fr'
              split := KMap.put ag.split e { pmask := fr.own, cmask := 0, pid := fid, cid := 15, seq := seq } }
  else
    let minority := if popc t ≤ popc n then t else n
    let c := (firstNat (fun x => !ag.fidUsed x) 9 0).getD 8
    let own := fr.own &&& ~~~minority
    let fr0 := { fr with own := own, em := fr.em &&& ~~~minority }
    let fr' := if minority = t then fr0.adv (clk + 1 + stl) else { fr0.goHdr target with next := takenAt }
    let child : Frag := { h := if minority = t then target else fr.nextHdr, em := minority, own := minority, chk := fr.chk,
                          next := clk + 3 }
    { ag with splitSeq := seq + 1, frags := KMap.put (KMap.put ag.frags fid fr') c child
              split := KMap.put ag.split e { pmask := own, cmask := minority, pid := fid, cid := c, seq := seq } }

def execSplit (f : FS3) (s : State) : Out :=
  issueWith s (legalSplit f true) (fun _ => { reads := sregs [f.sa.toNat] }) .one 0 true fun s c _ =>
    let wm := wmask c.ag.width
    let t := c.fr.em &&& c.ag.sr f.sa.toNat &&& wm
    let n := c.fr.em &&& ~~~(c.ag.sr f.sa.toNat) &&& wm
    let target : Int := (c.fr.h : Int) + 8 * f.aux.toInt
    match firstNat (fun e => (KMap.find? c.ag.split e).isNone) 8 0 with
    | none => .next (s.raise c.a c.fid illegalSplit)
    | some e =>
      let p := 4 * c.ag.core + c.ag.part
      let q := (KMap.find? s.fragQ p).getD []
      if !targetOk target then .next (s.raise c.a c.fid (illegalAddr target))
      else if c.ag.task.isNone ∨ t = 0 ∨ n = 0 then
        .next (s.updAgent c.a fun ag => ag.doSplit c.fid c.fr e t n target.toNat s.clk f.stl.toNat)
      else if 64 ≤ q.length then
        -- R372: the fragment queue is full
        .next (s.updFrag c.a c.fid fun fr => { fr with wait := .room 5 p, phase := 4, iss := if fr.phase < 4 then s.clk else fr.iss })
      else
        let k := (firstNat (fun x => !c.ag.fidUsed x) 9 0).getD 8
        let s1 := s.updAgent c.a fun ag => (ag.doSplit c.fid c.fr e t n target.toNat s.clk f.stl.toNat).updFrag k fun fr =>
          { fr with wait := .queued }
        .next { s1 with fragQ := KMap.put s1.fragQ p (q ++ [(c.a, k)]) }

/-- The fragments of entry e fuse, the later arrival at `clk`, past the JOIN clause that ends at `nxt` (R144). A party that has
ended has no fragment; the other one continues with its own lanes (R145). -/
def Agent.fuse (ag : Agent) (e : Nat) (ent : SplitEnt) (nxt clk stl : Nat) : Agent :=
  let at' := max (clk + 3) (clk + 1 + stl)
  let ag1 := { ag with split := KMap.del ag.split e }
  match KMap.find? ag.frags ent.pid, KMap.find? ag.frags ent.cid with
  | some p, some _ =>
    { ag1 with frags := KMap.put (KMap.del ag.frags ent.cid) ent.pid
                 { p.goHdr nxt with own := ent.pmask ||| ent.cmask, em := ent.pem ||| ent.cem, next := at' } }
  | some p, none => ag1.putFrag ent.pid { p.goHdr nxt with em := ent.pem, next := at' }
  | none, some c => ag1.putFrag ent.cid { c.goHdr nxt with em := ent.cem, next := at' }
  | none, none => ag1

def execJoin (f : FS3) (s : State) : Out :=
  issueWith s (legalSplit f false) (fun _ => {}) .one 0 true fun s c _ =>
    match c.ag.entriesOf c.fid with
    | [] => .next (s.raise c.a c.fid illegalSplit)
    | (e, ent) :: _ =>
      if ent.jpc ≠ 0 ∧ ent.jpc ≠ c.fr.pc then .next (s.raise c.a c.fid illegalSplit)
      else
        let ent := { ent with jpc := c.fr.pc }
        let ent := if ent.pid = c.fid then { ent with pa := true, pem := c.fr.em } else { ent with ca := true, cem := c.fr.em }
        .next (s.updAgent c.a fun ag =>
          if ent.cid = 15 ∨ (ent.pa ∧ ent.ca) then ag.fuse e ent c.fr.nextHdr s.clk f.stl.toNat
          else
            ({ ag with split := KMap.put ag.split e ent }).updFrag c.fid fun fr =>
              { fr with wait := .join e, next := s.clk + 1 + f.stl.toNat })

/-- x's place in every entry but `e` goes to y (R145). -/
def Agent.takePlace (ag : Agent) (x y e : Nat) : Agent :=
  { ag with split := ag.split.map fun p =>
      if p.1 = e then p
      else (p.1, { p.2 with pid := if p.2.pid = x then y else p.2.pid, cid := if p.2.cid = x then y else p.2.cid }) }

/-- The end of fragment x counts as its arrival at entry e (R145). -/
def Agent.endAt (ag : Agent) (x clk : Nat) (e : Nat) : Agent :=
  match KMap.find? ag.split e with
  | none => ag
  | some ent =>
    if ent.pid ≠ x ∧ ent.cid ≠ x then ag
    else
      let ent := if ent.pid = x then { ent with pa := true, pem := 0 } else { ent with ca := true, cem := 0 }
      let other := if ent.pid = x then ent.cid else ent.pid
      match KMap.find? ag.frags other with
      | none => { ag with split := KMap.del ag.split e }
      | some o =>
        let ag := if ent.pid = x then ag.takePlace x other e else ag
        if o.wait = .join e then ag.fuse e ent o.nextHdr clk 0
        else { ag with split := KMap.put ag.split e ent }

/-- Fragment x ends its lanes (R145); the group ends with its last fragment. -/
def Agent.endFrag (ag : Agent) (x clk : Nat) : Agent :=
  let es := (ag.entriesOf x).map (·.1)
  let ag := es.foldl (fun g e => g.endAt x clk e) { ag with frags := KMap.del ag.frags x }
  if ag.frags.isEmpty then { ag with ended := true, split := [] } else ag

end Sys2Proof.Machine
end

