-- ==== Sys2Proof/Machine/Translate.lean ====
section
/-!
DEFINITION. Translation (R412 to R417), the writes that the erg performs and its watch map (R211, R378), the L1 data cache
(R209, R210), and where a scratchpad offset lies (R206).
-/
namespace Sys2Proof.Machine

/-! ## Walks (R412 to R414) -/

/-- A leaf found by a walk, or the DETAIL of its XLATE. -/
abbrev WalkRes := Except Nat Tlb

/-- The table lies in GDDR 7 or an erg window (R413). -/
def State.tableOk (s : State) (pa : Nat) : Bool := s.onCard pa && s.onCard (pa + 4095)

/-- Entry i of a 64 KiB run agrees with its run (R413). -/
def s64Run (s : State) (table va e : Nat) : Bool :=
  let first := va / 2 ^ 12 % 512 / 16 * 16
  (List.range 16).all fun i =>
    let x := s.readN 8 (table + 8 * (first + i))
    natFld x 0 1 = 1 && natFld x 4 1 = 1 && natFld x 2 2 = natFld e 2 2 && natFld x 16 36 = natFld e 16 36
      && natFld x 12 4 = i && natFld x 1 1 = 1 && natFld x 6 6 = 0 && natFld x 52 12 = 0

/-- The walk from a table of level `lv` (R412, R413). -/
def State.walkFrom (s : State) (ctx va : Nat) : (lv table : Nat) → WalkRes
  | lv, table =>
    if !s.tableOk table then .error 3
    else
      let e := s.readN 8 (table + 8 * (va / 2 ^ (12 + 9 * lv) % 512))
      let lg := 12 + 9 * lv
      let pa := natFld e 12 40 * 4096
      let leaf := natFld e 1 1 = 1
      if natFld e 0 1 = 0 then .error 0
      else if natFld e 6 6 ≠ 0 ∨ natFld e 52 12 ≠ 0 ∨ (natFld e 4 1 = 1 ∧ lv ≠ 0) then .error 1
      else
        match lv with
        | 0 =>
          if !leaf then .error 1
          else if natFld e 4 1 = 1 then
            if s64Run s table va e then
              .ok { ctx := ctx, va := va / 2 ^ 16 * 2 ^ 16, lg := 16, pa := pa / 2 ^ 16 * 2 ^ 16, w := natFld e 2 1 = 1, x := natFld e 3 1 = 1 }
            else .error 1
          else .ok { ctx := ctx, va := va / 2 ^ 12 * 2 ^ 12, lg := 12, pa := pa, w := natFld e 2 1 = 1, x := natFld e 3 1 = 1 }
        | lv' + 1 =>
          if leaf then
            if lv = 3 ∨ pa % 2 ^ lg ≠ 0 then .error 1
            else .ok { ctx := ctx, va := va / 2 ^ lg * 2 ^ lg, lg := lg, pa := pa, w := natFld e 2 1 = 1, x := natFld e 3 1 = 1 }
          else s.walkFrom ctx va lv' pa

def State.walk (s : State) (ctx va : Nat) : WalkRes := s.walkFrom ctx va 3 (s.ctxRoot ctx)

/-- The leaf entry's own physical address, for WATCH (R377). -/
def State.leafAddr (s : State) (va : Nat) : (lv table : Nat) → Nat
  | lv, table =>
    let a := table + 8 * (va / 2 ^ (12 + 9 * lv) % 512)
    let e := s.readN 8 a
    match lv with
    | 0 => a
    | lv' + 1 => if natFld e 1 1 = 1 then a else s.leafAddr va lv' (natFld e 12 40 * 4096)

/-! ## TLBs (R415, R503) -/

def Tlb.covers (t : Tlb) (ctx va : Nat) : Bool := t.ctx = ctx && t.va / 2 ^ t.lg = va / 2 ^ t.lg

def State.l1tlb (s : State) (core ctx va : Nat) : Option Tlb := (s.core core).tlb.find? fun t => t.covers ctx va
def State.l2at (s : State) (die ctx va : Nat) : Option Tlb := ((KMap.find? s.l2tlb die).getD []).find? fun t => t.covers ctx va

/-- Fills a core's L1 TLB; its 256 entries give way oldest first (R503 leaves the choice open). -/
def State.fillL1 (s : State) (core : Nat) (t : Tlb) : State :=
  let c := s.core core
  s.setCore core { c with tlb := (t :: c.tlb.filter fun u => !(u.ctx = t.ctx ∧ u.va = t.va ∧ u.lg = t.lg)).take 256 }
def State.fillL2 (s : State) (die : Nat) (t : Tlb) : State :=
  let l := (KMap.find? s.l2tlb die).getD []
  { s with l2tlb := KMap.put s.l2tlb die ((t :: l.filter fun u => !(u.ctx = t.ctx ∧ u.va = t.va ∧ u.lg = t.lg)).take 16384) }

/-- A valid leaf whose page lies partly or wholly at unpopulated addresses (R413). -/
def State.pageOk (s : State) (t : Tlb) : Bool :=
  s.paKind t.pa ≠ .none && s.paKind t.pa = s.paKind (t.pa + 2 ^ t.lg - 1)

/-- The translation that an access uses: a TLB's, or a walk's. -/
def State.translate (s : State) (core ctx va : Nat) : WalkRes :=
  let r : WalkRes := match s.l1tlb core ctx va with
    | some t => .ok t
    | none => match s.l2at (core / 64) ctx va with
      | some t => .ok t
      | none => s.walk ctx va
  match r with
  | .error d => .error d
  | .ok t => if s.pageOk t then .ok t else .error 2

def Tlb.phys (t : Tlb) (va : Nat) : Nat := t.pa + va % 2 ^ t.lg

/-- A device access of a context without a core's TLB (queue entries, records, the builder): through a walk. -/
def State.ctxPhys (s : State) (ctx va : Nat) (write : Bool) : Except Flt Nat :=
  match s.walk ctx va with
  | .error d => .error { code := 1, detail := d + (if write then 2 ^ 10 else 0), addr := va }
  | .ok t =>
    if !s.pageOk t then .error { code := 1, detail := 2 + (if write then 2 ^ 10 else 0), addr := va }
    else if write && !t.w then .error { code := 2, detail := 2 ^ 10, addr := va }
    else .ok (t.phys va)

/-! ## Writes at the erg and the watch map (R211, R378) -/

/-- Clears the WATCH bit of leaf entries that no valid entry names any more (R378). -/
def State.unwatch (s : State) (gone : List ReuseEnt) : State :=
  let kept := (s.reuse.map fun p => p.2.leaves).flatten
  let free := ((gone.map fun e => e.leaves).flatten).filter fun a => !kept.contains a
  { s with mem := free.foldl (fun m a => KMap.set memDefault m a (rdB m a &&& 0xDF#8)) s.mem }

/-- Invalidates the reuse entries that satisfy `p`. -/
def State.dropReuse (s : State) (p : ReuseEnt → Bool) : State :=
  let gone := (s.reuse.filter fun e => p e.2).map (·.2)
  if gone.isEmpty then s
  else ({ s with reuse := s.reuse.filter fun e => !p e.2 }).unwatch gone

/-- A write performed at the erg: bytes, and with them the entries and the running tasks that name the page (R376, R378).
`own` is the task whose own drain writes. -/
def State.devWrite (s : State) (pa : Nat) (bs : List Byte) (own : Nat := 0) : State :=
  let s1 := { s with mem := wrBytes s.mem pa bs }
  if s.reuse.isEmpty && s.tasks.isEmpty then s1
  else
    let pages := [pa / 4096, (pa + bs.length - 1) / 4096]
    let hit (l : List Nat) : Bool := l.any fun x => pages.contains x
    ({ s1 with tasks := s1.tasks.map fun (t : Nat × Task) => if t.1 ≠ own ∧ hit t.2.pages then (t.1, { t.2 with dirty := true }) else t }).dropReuse
      fun e => hit e.pages

/-! ## L1 data cache (R209, R210, R231) -/

def lineOf (pa : Nat) : Nat := pa / 128 * 128

def lineBytes (s : State) (pa : Nat) : Line := BitVec.ofNat 1024 (s.readN 128 pa)

/-- Looks a line up; a hit becomes the most recently used. -/
def cacheFind (l : List CLine) (pa : Nat) : Option (CLine × List CLine) :=
  match l.find? fun c => c.pa = lineOf pa with
  | none => none
  | some c => some (c, c :: l.filter fun d => d.pa ≠ lineOf pa)

/-- Puts a line into its set of `ways`, evicting a line marked first to evict, or else the least recently used. -/
def cacheFill (sets ways : Nat) (l : List CLine) (c : CLine) : List CLine :=
  let same := l.filter fun d => d.pa / 128 % sets = c.pa / 128 % sets && d.pa ≠ c.pa
  let l := l.filter fun d => d.pa ≠ c.pa
  if same.length < ways then c :: l
  else
    let out := (same.find? (·.first)).getD (same.getLast?.getD c)
    c :: l.filter fun d => d.pa ≠ out.pa

/-- n bytes at pa of a cached line. -/
def CLine.read (c : CLine) (pa n : Nat) : Nat := natFld c.data.toNat (8 * (pa % 128)) (8 * n)

/-- A cached line with bytes changed. -/
def CLine.write (c : CLine) (pa : Nat) (bs : List Byte) : CLine :=
  let sh := 8 * (pa % 128)
  let m : Line := BitVec.ofNat 1024 (2 ^ (8 * bs.length) - 1) <<< sh
  { c with data := (c.data &&& ~~~m) ||| ((BitVec.ofNat 1024 (numOf bs) <<< sh) &&& m) }

/-- A plain load's read of n bytes through a core's L1 under its hint (R210): 0 DEF, 1 STRM, 2 NOL1, 3 LAST. -/
def State.l1Read (s : State) (core pa n hint : Nat) : State × Nat :=
  let c := s.core core
  match cacheFind c.l1 pa with
  | some (ln, l) =>
    let l := if hint = 3 then l.filter fun d => d.pa ≠ ln.pa else if hint = 1 then { ln with first := true } :: l.drop 1 else l
    (s.setCore core { c with l1 := l }, ln.read pa n)
  | none =>
    let x := s.readN n pa
    if hint ≤ 1 then
      (s.setCore core { c with l1 := cacheFill 256 8 c.l1 { pa := lineOf pa, data := lineBytes s (lineOf pa), first := hint = 1 } }, x)
    else (s, x)

/-- A plain store at the issuing core's L1 (R210, R231). -/
def State.l1Store (s : State) (core pa hint : Nat) (bs : List Byte) : State :=
  let c := s.core core
  if !(c.l1.any fun d => d.pa = lineOf pa) then s
  else if hint ≤ 1 then s.setCore core { c with l1 := c.l1.map fun d => if d.pa = lineOf pa then d.write pa bs else d }
  else s.setCore core { c with l1 := c.l1.filter fun d => d.pa ≠ lineOf pa }

/-- Invalidates the lines of a core's L1 that satisfy `p`. -/
def State.l1Drop (s : State) (core : Nat) (p : Nat → Bool) : State :=
  let c := s.core core
  s.setCore core { c with l1 := c.l1.filter fun d => !p d.pa }

def State.l1Inval (s : State) (core : Nat) : State := s.l1Drop core fun _ => true

/-! ## Scratchpad (R204 to R207) -/

/-- Core and local offset of a team's offset (R206). -/
def Team.loc (t : Team) (off : Nat) : Nat × Nat :=
  if t.pair ∧ 2 ^ 20 ≤ off then (t.core + 1, t.base2 + off - 2 ^ 20) else (t.core, t.base + off)

/-- The other core of a team on a core pair, as seen from a core. -/
def Team.touchesPartner (t : Team) (core off : Nat) : Bool := (t.loc off).1 ≠ core

/-! ## Range locks (R321, R322) -/

def lockBase (b : BitVec 128) : Nat := fldN b 0 48
def lockSpace (b : BitVec 128) : Nat := fldN b 48 1
def lockKind (b : BitVec 128) : Nat := fldN b 49 1
def lockCtx (b : BitVec 128) : Nat := fldN b 50 6
def lockLen (b : BitVec 128) : Nat := fldN b 64 32

def mkLock (base space kind ctx len agent : Nat) : BitVec 128 :=
  BitVec.ofNat 128 (base % 2 ^ 48 + space * 2 ^ 48 + kind * 2 ^ 49 + ctx * 2 ^ 50 + 2 ^ 63 + (len % 2 ^ 32) * 2 ^ 64 + agent * 2 ^ 96)

def overlap (a n b m : Nat) : Bool := decide (a < b + m ∧ b < a + n)

/-- The live entries of a core's table. -/
def State.locksOf (s : State) (core : Nat) : List (Nat × RLock) := s.rlocks.filter fun p => p.1 / 64 = core

/-- The first entry that a group access conflicts with (R322). -/
def State.lockHit (s : State) (core ctx space base n : Nat) (write : Bool) : Option (BitVec 128) :=
  (s.locksOf core).findSome? fun p =>
    let b := p.2.bits
    if lockCtx b = ctx && lockSpace b = space && overlap base n (lockBase b) (lockLen b) && (write || lockKind b = 1) then some b
    else none

end Sys2Proof.Machine
end

