-- ==== Sys2Proof/Machine/Float.lean ====
section
/-!
DEFINITION. Number formats and rounding (R103 to R118): decoding to exact values, exact arithmetic, one rounding. A finite
value is (-1)^neg m 2^e; a value that is not dyadic is carried as its floor with a sticky mark, at a precision past every
format's.
-/
namespace Sys2Proof.Machine

/-- A binary floating-point format (R103, R106): exponent and fraction widths, bias, code of the largest finite magnitude,
kind (0: infinities and NaN as in IEEE 754; 1: E4M3, NaN only; 2: neither), canonical NaN. -/
structure Fmt where
  eb : Nat
  fb : Nat
  bias : Nat
  maxc : Nat
  kind : Nat
  nan : Nat
  deriving DecidableEq, Repr

def f32 : Fmt := ⟨8, 23, 127, 0x7F7F_FFFF, 0, 0x7FC0_0000⟩
def f16 : Fmt := ⟨5, 10, 15, 0x7BFF, 0, 0x7E00⟩
def bf16 : Fmt := ⟨8, 7, 127, 0x7F7F, 0, 0x7FC0⟩
def fa40 : Fmt := ⟨10, 29, 511, 0x7F_DFFF_FFFF, 0, 0x7F_F000_0000⟩
def e4m3 : Fmt := ⟨4, 3, 7, 0x7E, 1, 0x7F⟩
def e5m2 : Fmt := ⟨5, 2, 15, 0x7B, 0, 0x7E⟩
def e3m2 : Fmt := ⟨3, 2, 3, 0x1F, 2, 0⟩
def e2m3 : Fmt := ⟨2, 3, 1, 0x1F, 2, 0⟩
def e2m1 : Fmt := ⟨2, 1, 1, 0x7, 2, 0⟩

/-- Rounding modes, coded as RM (R50, R114). -/
inductive RM where
  | rne | rtz | rdn | rup
  deriving DecidableEq, Repr

def RM.ofBits (n : Nat) : RM :=
  match n % 4 with
  | 0 => .rne
  | 1 => .rtz
  | 2 => .rdn
  | _ => .rup

/-- A decoded value. -/
inductive FV where
  | nan
  | inf (neg : Bool)
  | fin (neg : Bool) (m : Nat) (e : Int)
  deriving DecidableEq, Repr

namespace Fmt
/-- Exponent of the minimum subnormal. -/
def qmin (D : Fmt) : Int := 1 - (D.bias : Int) - D.fb
def signBit (D : Fmt) : Nat := 2 ^ (D.eb + D.fb)
def infc (D : Fmt) : Nat := (2 ^ D.eb - 1) * 2 ^ D.fb
def withSign (D : Fmt) (neg : Bool) (code : Nat) : Nat := if neg then D.signBit + code else code

/-- Value of an encoding (R103, R106). -/
def decode (D : Fmt) (x : Nat) : FV :=
  let neg := x / D.signBit % 2 = 1
  let code := x % D.signBit
  let ex := code / 2 ^ D.fb
  let fr := code % 2 ^ D.fb
  if D.kind = 0 ∧ ex = 2 ^ D.eb - 1 then (if fr = 0 then .inf neg else .nan)
  else if D.kind = 1 ∧ code = 0x7F then .nan
  else if ex = 0 then .fin neg fr D.qmin
  else .fin neg (2 ^ D.fb + fr) (D.qmin + ex - 1)

/-- The bound of D on a side (R115). -/
def maxOf (D : Fmt) (neg : Bool) : Nat := D.withSign neg D.maxc

/-- Beyond D's range (R115); `sat` is a saturating conversion. -/
def overflow (D : Fmt) (rm : RM) (sat neg : Bool) : Nat :=
  let inf := D.withSign neg D.infc
  if sat || D.kind ≠ 0 then D.maxOf neg
  else match rm with
    | .rne => inf
    | .rtz => D.maxOf neg
    | .rdn => if neg then inf else D.maxOf neg
    | .rup => if neg then D.maxOf neg else inf

/-- Quantum, kept significand and remainder of m 2^e on D's grid (R114). -/
def split (D : Fmt) (m : Nat) (e : Int) : Int × Nat × Nat × Nat :=
  let len := if m = 0 then 0 else Nat.log2 m + 1
  let q := max D.qmin (e + len - (D.fb + 1))
  if q ≤ e then (q, m * 2 ^ (e - q).toNat, 0, 0)
  else
    let sh := (q - e).toNat
    (q, m / 2 ^ sh, m % 2 ^ sh, sh)

/-- Whether the magnitude rounds away from zero (R114). -/
def up (rm : RM) (neg : Bool) (sig rem sh : Nat) (sticky : Bool) : Bool :=
  match rm with
  | .rne => decide (2 ^ sh < 2 * rem) || (2 ^ sh = 2 * rem && 0 < sh && (sticky || sig % 2 = 1))
  | .rtz => false
  | .rdn => neg && (rem ≠ 0 || sticky)
  | .rup => !neg && (rem ≠ 0 || sticky)

/-- Rounds the exact value (-1)^neg m 2^e, or with `sticky` a value strictly between m 2^e and (m + 1) 2^e (R114, R115). -/
def round (D : Fmt) (rm : RM) (sat neg : Bool) (m : Nat) (e : Int) (sticky : Bool := false) : Nat :=
  match D.split m e with
  | (q, sig, rem, sh) =>
    let sig' := if up rm neg sig rem sh sticky then sig + 1 else sig
    let code := (q - D.qmin).toNat * 2 ^ D.fb + sig'
    if sig' = 0 then D.withSign neg 0
    else if D.maxc < code then D.overflow rm sat neg
    else D.withSign neg code

/-- Conversion to D (R115, R116): `sat` selects mode S. -/
def conv (D : Fmt) (rm : RM) (sat : Bool) : FV → Nat
  | .nan => D.nan
  | .inf neg =>
    if sat || D.kind = 2 then D.maxOf neg
    else if D.kind = 1 then D.nan
    else D.withSign neg D.infc
  | .fin neg m e => D.round rm sat neg m e

/-- Stochastic conversion (R118) with the 16-bit random value rnd. -/
def convSR (D : Fmt) (sat : Bool) (rnd : Nat) : FV → Nat
  | .fin neg m e =>
    match D.split m e with
    | (q, sig, rem, sh) =>
      let sig' := if rem ≠ 0 ∧ 2 ^ 16 ≤ rem * 2 ^ 16 / 2 ^ sh + rnd then sig + 1 else sig
      let code := (q - D.qmin).toNat * 2 ^ D.fb + sig'
      if sig' = 0 then D.withSign neg 0
      else if D.maxc < code then D.maxOf neg
      else D.withSign neg code
  | x => D.conv .rne sat x

end Fmt

/-! ## Exact arithmetic (R104) -/

/-- m 2^e as an integer multiple of 2^e0, for e0 ≤ e. -/
def scaled (neg : Bool) (m : Nat) (e e0 : Int) : Int :=
  let x : Int := (m * 2 ^ (e - e0).toNat : Nat)
  if neg then -x else x

namespace FV

def neg' : FV → FV
  | .nan => .nan
  | .inf n => .inf (!n)
  | .fin n m e => .fin (!n) m e

/-- Exact sum; an exact zero sum of operands with opposite signs is +0, but -0 in RDN (R104). -/
def add (rm : RM) : FV → FV → FV
  | .nan, _ => .nan
  | _, .nan => .nan
  | .inf a, .inf b => if a = b then .inf a else .nan
  | .inf a, _ => .inf a
  | _, .inf b => .inf b
  | .fin a m e, .fin b k g =>
    let e0 := min e g
    let x := scaled a m e e0 + scaled b k g e0
    if x = 0 then .fin (if a = b then a else decide (rm = .rdn)) 0 e0
    else .fin (decide (x < 0)) x.natAbs e0

/-- Exact product. -/
def mul : FV → FV → FV
  | .nan, _ => .nan
  | _, .nan => .nan
  | .inf a, .inf b => .inf (a != b)
  | .inf a, .fin b m _ => if m = 0 then .nan else .inf (a != b)
  | .fin a m _, .inf b => if m = 0 then .nan else .inf (a != b)
  | .fin a m e, .fin b k g => .fin (a != b) (m * k) (e + g)

/-- Scales a finite value by a power of two, exactly. -/
def scale (k : Int) : FV → FV
  | .fin n m e => .fin n m (e + k)
  | x => x

def isNan : FV → Bool
  | .nan => true
  | _ => false

/-- Order of two values that are not NaN: -1, 0, 1; +0 equals -0. -/
def cmp : FV → FV → Int
  | .inf a, .inf b => if a = b then 0 else if a then -1 else 1
  | .inf a, _ => if a then -1 else 1
  | _, .inf b => if b then 1 else -1
  | .fin a m e, .fin b k g =>
    let e0 := min e g
    let x := scaled a m e e0
    let y := scaled b k g e0
    if x < y then -1 else if x = y then 0 else 1
  | _, _ => 0

/-- Sign of a value. -/
def sgn : FV → Bool
  | .nan => false
  | .inf n => n
  | .fin n _ _ => n

/-- Exact value of an integer. -/
def ofInt (x : Int) : FV := .fin (decide (x < 0)) x.natAbs 0

/-- floor of m 2^e and whether a fraction is left. -/
def floorMag (m : Nat) (e : Int) : Nat × Bool :=
  if 0 ≤ e then (m * 2 ^ e.toNat, false)
  else
    let d := 2 ^ (-e).toNat
    (m / d, decide (m % d ≠ 0))

/-- Rounds to an integer magnitude (R114, integer targets). -/
def intMag (rm : RM) (neg : Bool) (m : Nat) (e : Int) : Nat :=
  if 0 ≤ e then m * 2 ^ e.toNat
  else
    let sh := (-e).toNat
    let sig := m / 2 ^ sh
    if Fmt.up rm neg sig (m % 2 ^ sh) sh false then sig + 1 else sig

/-- Float to integer (R117). -/
def toIntSat (rm : RM) (n : Nat) (sg : Bool) : FV → Nat
  | .nan => 0
  | .inf neg => satN n sg (if neg then -(2 ^ 200 : Int) else (2 ^ 200 : Int))
  | .fin neg m e =>
    let k : Int := (intMag rm neg m e : Nat)
    satN n sg (if neg then -k else k)

/-- Conversion to MXI8 (R107, R115, R116): element value times 2^6 rounded to an integer. `rnd`: stochastic (R118). -/
def toMxi8 (rm : RM) (rnd : Option Nat) : FV → Nat
  | .nan => 0
  | .inf neg => if neg then 0x80 else 0x7F
  | .fin neg m e =>
    let e := e + 6
    let k : Nat := match rnd with
      | none => intMag rm neg m e
      | some r =>
        if 0 ≤ e then m * 2 ^ e.toNat
        else
          let d := 2 ^ (-e).toNat
          if m % d ≠ 0 ∧ 2 ^ 16 ≤ m % d * 2 ^ 16 / d + r then m / d + 1 else m / d
    satN 8 true (if neg then -(k : Int) else (k : Int))

/-- Value of an MXI8 element (R107). -/
def ofMxi8 (x : Nat) : FV :=
  let i := sx 8 (x % 256)
  .fin (decide (i < 0)) i.natAbs (-6)

end FV

/-! ## Roots and reciprocals: floor with a sticky mark -/

/-- Integer square root, from bit i down. -/
def isqrtFrom (n : Nat) : (fuel r : Nat) → Nat
  | 0, r => r
  | i + 1, r => if (r + 2 ^ i) * (r + 2 ^ i) ≤ n then isqrtFrom n i (r + 2 ^ i) else isqrtFrom n i r

def isqrt (n : Nat) : Nat := isqrtFrom n (Nat.log2 n / 2 + 1) 0

/-- Working precision of the functions of R184, in bits (log entry 5). -/
def KP : Nat := 320

/-- 1 / (m 2^e). -/
def rcpMag (m : Nat) (e : Int) : Nat × Int × Bool :=
  let k := Nat.log2 m + KP
  (2 ^ k / m, -(k : Int) - e, decide (2 ^ k % m ≠ 0))

/-- m 2^e with an even exponent. -/
def evenExp (m : Nat) (e : Int) : Nat × Int := if e % 2 = 0 then (m, e) else (2 * m, e - 1)

/-- Square root of m 2^e. -/
def sqrtMag (m : Nat) (e : Int) : Nat × Int × Bool :=
  let p := evenExp m e
  let n := p.1 * 2 ^ (2 * KP)
  let r := isqrt n
  (r, p.2 / 2 - KP, decide (r * r ≠ n))

/-- 1 / sqrt (m 2^e). -/
def rsqMag (m : Nat) (e : Int) : Nat × Int × Bool :=
  let p := evenExp m e
  let k := Nat.log2 p.1 / 2 + 1 + KP
  let r := isqrt (2 ^ (2 * k) / p.1)
  (r, -(k : Int) - p.2 / 2, decide (r * r * p.1 ≠ 2 ^ (2 * k)))

/-! ## 2^f, log2 x and sin 2 pi r in fixed point of KP bits, each within `errP` of the exact value -/

/-- floor (2^320 ln 2). -/
def ln2P : Nat := 1480553391661173448385607439722553250922680800745876974795605978609098082859138712941075737848984
/-- 2 floor (2^320 pi). -/
def twoPiP : Nat := 13420802360424337830311681948440006481608388178854297901454212848703426437343610760199000777828078
def errP : Nat := 2 ^ 12

/-- Sum of t^k / k! from k on, `term` being t^(k-1) / (k-1)!. -/
def expSum (t : Nat) : (fuel k term acc : Nat) → Nat
  | 0, _, _, acc => acc
  | n + 1, k, term, acc =>
    let term' := term * t / 2 ^ KP / k
    expSum t n (k + 1) term' (acc + term')

/-- 2^f for f = x / 2^KP in [0, 1). -/
def exp2P (x : Nat) : Nat := expSum (x * ln2P / 2 ^ KP) 90 1 (2 ^ KP) (2 ^ KP)

/-- Sum of z^(2k+1) / (2k+1), `p` being z^(2k+1). -/
def atanhSum (z2 : Nat) : (fuel k p acc : Nat) → Nat
  | 0, _, _, acc => acc
  | n + 1, k, p, acc => atanhSum z2 n (k + 1) (p * z2 / 2 ^ KP) (acc + p / (2 * k + 1))

/-- log2 x for x = m / 2^b in [1, 2). -/
def log2P (m b : Nat) : Nat :=
  let z := (m - 2 ^ b) * 2 ^ KP / (m + 2 ^ b)
  2 * atanhSum (z * z / 2 ^ KP) 110 0 z 0 * 2 ^ KP / ln2P

/-- Alternating sum of sin x, `term` being the magnitude of the term of power k. -/
def sinSum (x2 : Nat) : (fuel k term : Nat) → (neg : Bool) → (acc : Int) → Int
  | 0, _, _, _, acc => acc
  | n + 1, k, term, neg, acc =>
    sinSum x2 n (k + 2) (term * x2 / 2 ^ KP / ((k + 1) * (k + 2))) (!neg) (if neg then acc - term else acc + term)

/-- sin (2 pi r) for r = x / 2^KP in [0, 1/4]. -/
def sinP (x : Nat) : Nat :=
  let t := x * twoPiP / 2 ^ KP
  (sinSum (t * t / 2 ^ KP) 50 1 t false 0).toNat

/-- Rounds an irrational value known within errP in fixed point of KP bits and scaled by 2^k (log entry 5). -/
def Fmt.roundP (D : Fmt) (rm : RM) (neg : Bool) (y : Nat) (k : Int) : Nat :=
  let lo := D.round rm false neg (y - errP) (k - KP) true
  let hi := D.round rm false neg (y + errP) (k - KP) true
  if lo = hi then lo else D.round rm false neg y (k - KP) true

/-- The functions of R184. -/
inductive Fun1 where
  | rcp | rsq | sqrt | exp2 | log2 | sin | cos
  deriving DecidableEq, Repr

/-- 2^a for a finite a. -/
def Fmt.exp2 (D : Fmt) (rm : RM) (neg : Bool) (m : Nat) (e : Int) : Nat :=
  if 2 ^ 12 ≤ (FV.floorMag m e).1 then
    D.round rm false false 1 (if neg then -(2 ^ 13 : Int) else (2 ^ 13 : Int)) true
  else
    let fl := FV.floorMag m e
    let fixed := if 0 ≤ e then 0 else m % 2 ^ (-e).toNat * 2 ^ KP / 2 ^ (-e).toNat
    if !fl.2 then D.round rm false false 1 (if neg then -(fl.1 : Int) else fl.1)
    else if neg then D.roundP rm false (exp2P (2 ^ KP - fixed)) (-(fl.1 : Int) - 1)
    else D.roundP rm false (exp2P fixed) fl.1

/-- log2 (m 2^e) for m ≠ 0. -/
def Fmt.log2 (D : Fmt) (rm : RM) (m : Nat) (e : Int) : Nat :=
  let b := Nat.log2 m
  let n : Int := e + b
  if m = 2 ^ b then D.conv rm false (FV.ofInt n)
  else
    let y : Int := n * 2 ^ KP + log2P m b
    D.roundP rm (decide (y < 0)) y.natAbs 0

/-- sin (2 pi x / 2^KP) for x in [0, 2^KP): sign, magnitude in fixed point, and whether it is exact. -/
def sinTurn (x : Nat) : Bool × Nat × Bool :=
  let h := 2 ^ (KP - 1)
  let q := 2 ^ (KP - 2)
  let neg := decide (h ≤ x)
  let y := x % h
  let y := if q < y then h - y else y
  if y = 0 then (false, 0, true)
  else if y = q then (neg, 2 ^ KP, true)
  else (neg, sinP y, false)

/-- The fraction of a turn of m 2^e, in fixed point of KP bits; exact for every format of R184. -/
def turnFrac (m : Nat) (e : Int) : Nat := if 0 ≤ e then 0 else m % 2 ^ (-e).toNat * 2 ^ KP / 2 ^ (-e).toNat

/-- VRCP to VCOS of one element (R184, R185). -/
def Fmt.fun1 (D : Fmt) (g : Fun1) (rm : RM) (x : Nat) : Nat :=
  let one := D.round .rne false false 1 0
  match g, D.decode x with
  | _, .nan => D.nan
  | .rcp, .inf n => D.withSign n 0
  | .rcp, .fin n m e =>
    if m = 0 then D.withSign n D.infc
    else
      let r := rcpMag m e
      D.round rm false n r.1 r.2.1 r.2.2
  | .rsq, .inf n => if n then D.nan else 0
  | .rsq, .fin n m e =>
    if m = 0 then D.withSign n D.infc
    else if n then D.nan
    else
      let r := rsqMag m e
      D.round rm false false r.1 r.2.1 r.2.2
  | .sqrt, .inf n => if n then D.nan else D.infc
  | .sqrt, .fin n m e =>
    if m = 0 then D.withSign n 0
    else if n then D.nan
    else
      let r := sqrtMag m e
      D.round rm false false r.1 r.2.1 r.2.2
  | .exp2, .inf n => if n then 0 else D.infc
  | .exp2, .fin n m e => if m = 0 then one else D.exp2 rm n m e
  | .log2, .inf n => if n then D.nan else D.infc
  | .log2, .fin n m e =>
    if m = 0 then D.withSign true D.infc else if n then D.nan else D.log2 rm m e
  | .sin, .inf _ => D.nan
  | .sin, .fin n m e =>
    if m = 0 then D.withSign n 0
    else
      match sinTurn (turnFrac m e) with
      | (g, y, true) => if y = 0 then 0 else D.round rm false (g != n) y (-(KP : Int))
      | (g, y, false) => D.roundP rm (g != n) y 0
  | .cos, .inf _ => D.nan
  | .cos, .fin _ m e =>
    match sinTurn ((turnFrac m e + 2 ^ (KP - 2)) % 2 ^ KP) with
    | (g, y, true) => if y = 0 then 0 else D.round rm false g y (-(KP : Int))
    | (g, y, false) => D.roundP rm g y 0

/-! ## Element operations -/

def Fmt.fadd (D : Fmt) (rm : RM) (a b : Nat) : Nat := D.conv rm false (FV.add rm (D.decode a) (D.decode b))
def Fmt.fsub (D : Fmt) (rm : RM) (a b : Nat) : Nat := D.conv rm false (FV.add rm (D.decode a) (FV.neg' (D.decode b)))
def Fmt.fmul (D : Fmt) (rm : RM) (a b : Nat) : Nat := D.conv rm false (FV.mul (D.decode a) (D.decode b))
def Fmt.ffma (D : Fmt) (rm : RM) (a b c : Nat) : Nat :=
  D.conv rm false (FV.add rm (FV.mul (D.decode a) (D.decode b)) (D.decode c))

/-- VMIN and VMAX of floats (R175): -0 below +0; a NaN gives way; two NaNs give the canonical one. -/
def Fmt.fminmax (D : Fmt) (isMax : Bool) (a b : Nat) : Nat :=
  let x := D.decode a
  let y := D.decode b
  if x.isNan && y.isNan then D.nan
  else if x.isNan then b
  else if y.isNan then a
  else
    let c := FV.cmp x y
    let less := if c = 0 then x.sgn && !y.sgn else decide (c < 0)
    if isMax then (if less then b else a) else (if less then a else b)

/-- VROUND (R183). -/
def Fmt.fround (D : Fmt) (rm : RM) (a : Nat) : Nat :=
  match D.decode a with
  | .nan => D.nan
  | .inf _ => a
  | .fin n m e => if 0 ≤ e then a else D.round rm false n (FV.intMag rm n m e) 0

/-- VFRACT (R183). -/
def Fmt.ffract (D : Fmt) (rm : RM) (a : Nat) : Nat :=
  match D.decode a with
  | .nan => D.nan
  | .inf _ => D.nan
  | .fin n m e =>
    let fl := FV.floorMag m e
    if !fl.2 then 0
    else
      let d := 2 ^ (-e).toNat
      let fr := if n then d - m % d else m % d
      let one := D.round .rne false false 1 0
      let r := D.round rm false false fr e
      if r = one then one - 1 else r

/-! ## Stochastic values (R119) -/

/-- The next state X. -/
def srNext (x : Dword) : Dword := x * 0x5851_F42D_4C95_7F2D#64 + 0x1405_7B7E_F767_814F#64

/-- rnd of lane or word l and element e. -/
def srRnd (x : Dword) (l e : Nat) : Nat :=
  let z := x + BitVec.ofNat 64 (4 * l + e + 1) * 0x9E37_79B9_7F4A_7C15#64
  let z := (z ^^^ (z >>> 30)) * 0xBF58_476D_1CE4_E5B9#64
  let z := (z ^^^ (z >>> 27)) * 0x94D0_49BB_1331_11EB#64
  let z := z ^^^ (z >>> 31)
  fldN z 48 16

end Sys2Proof.Machine
end

