-- ==== Sys2Proof/Machine/Scalar.lean ====
section
/-!
DEFINITION. The scalar integer instructions (R82 to R90).
-/
namespace Sys2Proof.Machine

/-- Which operands and fields a row of R83 uses. -/
structure S3Row where
  im : Bool := true
  usesB : Bool := true
  usesC : Bool := false
  usesCC : Bool := false
  ccMax : Nat := 7
  deriving DecidableEq, Repr

/-- Fates of an F-S3 scalar word (R58, R83). -/
def legalS3 (f : FS3) (r : S3Row) : Legal where
  all := f.all
  leat := true
  rsv := (f.im = 1 && !r.im) || (!r.usesCC && f.cc ≠ 0) || ((f.im = 1 || !r.usesB) && f.sb ≠ 0)
    || (!r.usesC && f.sc ≠ 0) || (f.im = 0 && f.aux ≠ 0)
  bad := !tyScalar f.ty || decide (r.ccMax < f.cc.toNat)
  sregs := [f.sd.toNat, f.sa.toNat, f.sb.toNat, f.sc.toNat]

def footS3 (f : FS3) (r : S3Row) (_ : Iss) : Foot where
  reads := sregs ([f.sa.toNat] ++ (if r.usesB && f.im = 0 then [f.sb.toNat] else []) ++ (if r.usesC then [f.sc.toNat] else []))
  writes := sregs [f.sd.toNat]

/-- The common frame of R82: `op` computes the w-bit result r from a, b, c. -/
def scalarS3 (f : FS3) (row : S3Row) (lat : Nat) (op : (w : Nat) → (sgn : Bool) → (a b c : BitVec w) → BitVec w)
    (s : State) : Out :=
  issueLocal s (legalS3 f row) (footS3 f row) .one f.stl.toNat lat fun _ c =>
    let w := tyWidth f.ty
    let r := op w (tySgn f.ty) ((c.ag.sr f.sa.toNat).setWidth w) ((opB f c.ag).setWidth w) ((c.ag.sr f.sc.toNat).setWidth w)
    .ok { writes := [(.s f.sd.toNat, [(0, extResult f.ty r)])] }

/-! ## Results (R83 to R89) -/

/-- Shift count n from b[6:0] (R84). -/
def shiftCount {w : Nat} (b : BitVec w) : Nat := b.toNat % 128

def sshlOp (w : Nat) (_ : Bool) (a b _ : BitVec w) : BitVec w := if shiftCount b < w then a <<< shiftCount b else 0
def sshrOp (w : Nat) (_ : Bool) (a b _ : BitVec w) : BitVec w := if shiftCount b < w then a >>> shiftCount b else 0
def ssarOp (w : Nat) (_ : Bool) (a b _ : BitVec w) : BitVec w := a.sshiftRight (min (shiftCount b) (w - 1))

/-- High half of the exact product (R85). -/
def smulhOp (w : Nat) (sgn : Bool) (a b _ : BitVec w) : BitVec w :=
  BitVec.ofInt w ((ival sgn a * ival sgn b) / (2 ^ w : Int))

/-- Quotient of R86. -/
def sdivOp (w : Nat) (sgn : Bool) (a b _ : BitVec w) : BitVec w :=
  if b = 0 then BitVec.allOnes w
  else if sgn && a = BitVec.intMin w && b = BitVec.allOnes w then a
  else BitVec.ofInt w ((ival sgn a).tdiv (ival sgn b))

/-- Remainder of R86. -/
def sremOp (w : Nat) (sgn : Bool) (a b _ : BitVec w) : BitVec w :=
  if b = 0 then a
  else if sgn && a = BitVec.intMin w && b = BitVec.allOnes w then 0
  else BitVec.ofInt w ((ival sgn a).tmod (ival sgn b))

def sminOp (w : Nat) (sgn : Bool) (a b _ : BitVec w) : BitVec w := if ival sgn b < ival sgn a then b else a
def smaxOp (w : Nat) (sgn : Bool) (a b _ : BitVec w) : BitVec w := if ival sgn a < ival sgn b then b else a
def scmpOp (cc : Nat) (w : Nat) (sgn : Bool) (a b _ : BitVec w) : BitVec w :=
  if ccHolds cc (ival sgn a) (ival sgn b) then 1 else 0
def sselOp (w : Nat) (_ : Bool) (a b c : BitVec w) : BitVec w := if c ≠ 0 then a else b

/-- Number of 1 bits among the lowest n bits. -/
def popFrom {w : Nat} (x : BitVec w) : Nat → Nat
  | 0 => 0
  | n + 1 => (if x.getLsbD n then 1 else 0) + popFrom x n

/-- Zeros above the highest 1 bit among the lowest n bits. -/
def clzFrom {w : Nat} (x : BitVec w) : Nat → Nat
  | 0 => 0
  | n + 1 => if x.getLsbD n then 0 else 1 + clzFrom x n

/-- Zeros below the lowest 1 bit from bit i on, n bits long. -/
def ctzFrom {w : Nat} (x : BitVec w) : (n i : Nat) → Nat
  | 0, _ => 0
  | n + 1, i => if x.getLsbD i then 0 else 1 + ctzFrom x n (i + 1)

def spopcOp (w : Nat) (_ : Bool) (a _ _ : BitVec w) : BitVec w := BitVec.ofNat w (popFrom a w)
def sclzOp (w : Nat) (_ : Bool) (a _ _ : BitVec w) : BitVec w := BitVec.ofNat w (clzFrom a w)
def sctzOp (w : Nat) (_ : Bool) (a _ _ : BitVec w) : BitVec w := BitVec.ofNat w (ctzFrom a w 0)

/-- pos' and len' of R88. -/
def bfPos (w : Nat) (b : BitVec w) : Nat := min (b.toNat % 64) w
def bfLen (w : Nat) (b : BitVec w) : Nat := min (b.toNat / 256 % 128) (w - bfPos w b)

def sbfeOp (w : Nat) (sgn : Bool) (a b _ : BitVec w) : BitVec w :=
  let p := bfPos w b
  let n := bfLen w b
  if n = 0 then 0
  else if sgn then (a.extractLsb' p n).signExtend w else (a.extractLsb' p n).setWidth w

def sbfiOp (w : Nat) (_ : Bool) (a b c : BitVec w) : BitVec w :=
  let p := bfPos w b
  let n := bfLen w b
  let m : BitVec w := BitVec.ofNat w (2 ^ n - 1)
  (c &&& ~~~(m <<< p)) ||| ((a &&& m) <<< p)

def sleaOp (cc : Nat) (w : Nat) (_ : Bool) (a b _ : BitVec w) : BitVec w := a + (b <<< cc)

/-! ## Instructions -/

def oneSrc : S3Row := { im := false, usesB := false }

def execSmov (f : FS3) (s : State) : Out := scalarS3 f oneSrc 2 (fun _ _ a _ _ => a) s
def execSadd (f : FS3) (s : State) : Out := scalarS3 f {} 2 (fun _ _ a b _ => a + b) s
def execSsub (f : FS3) (s : State) : Out := scalarS3 f {} 2 (fun _ _ a b _ => a - b) s
def execSmul (f : FS3) (s : State) : Out := scalarS3 f {} 4 (fun _ _ a b _ => a * b) s
def execSmulh (f : FS3) (s : State) : Out := scalarS3 f {} 4 smulhOp s
/-- Latency of the divider (R61). -/
def divLat (ty : BitVec 4) : Nat := if tyWidth ty = 32 then 20 else 36
def execSdiv (f : FS3) (s : State) : Out := scalarS3 f {} (divLat f.ty) sdivOp s
def execSrem (f : FS3) (s : State) : Out := scalarS3 f {} (divLat f.ty) sremOp s
def execSand (f : FS3) (s : State) : Out := scalarS3 f {} 2 (fun _ _ a b _ => a &&& b) s
def execSor (f : FS3) (s : State) : Out := scalarS3 f {} 2 (fun _ _ a b _ => a ||| b) s
def execSxor (f : FS3) (s : State) : Out := scalarS3 f {} 2 (fun _ _ a b _ => a ^^^ b) s
def execSnot (f : FS3) (s : State) : Out := scalarS3 f oneSrc 2 (fun _ _ a _ _ => ~~~a) s
def execSshl (f : FS3) (s : State) : Out := scalarS3 f {} 2 sshlOp s
def execSshr (f : FS3) (s : State) : Out := scalarS3 f {} 2 sshrOp s
def execSsar (f : FS3) (s : State) : Out := scalarS3 f {} 2 ssarOp s
def execSmin (f : FS3) (s : State) : Out := scalarS3 f {} 2 sminOp s
def execSmax (f : FS3) (s : State) : Out := scalarS3 f {} 2 smaxOp s
def execScmp (f : FS3) (s : State) : Out := scalarS3 f { usesCC := true, ccMax := 5 } 2 (scmpOp f.cc.toNat) s
def execSsel (f : FS3) (s : State) : Out := scalarS3 f { usesC := true } 2 sselOp s
def execSpopc (f : FS3) (s : State) : Out := scalarS3 f oneSrc 2 spopcOp s
def execSclz (f : FS3) (s : State) : Out := scalarS3 f oneSrc 2 sclzOp s
def execSctz (f : FS3) (s : State) : Out := scalarS3 f oneSrc 2 sctzOp s
def execSbfe (f : FS3) (s : State) : Out := scalarS3 f {} 2 sbfeOp s
def execSbfi (f : FS3) (s : State) : Out := scalarS3 f { usesC := true } 2 sbfiOp s
def execSlea (f : FS3) (s : State) : Out := scalarS3 f { usesCC := true } 2 (sleaOp f.cc.toNat) s

/-! ## Immediate forms (R90) -/

def legalSI (f : FSI) (usesA : Bool) : Legal where
  all := f.all
  leat := true
  rsv := f.rsv ≠ 0 || (!usesA && f.sa ≠ 0)
  bad := !tyScalar f.ty
  sregs := [f.sd.toNat, f.sa.toNat]

/-- The F-SI forms that compute as their F-S3 forms do, with b = imm[w-1:0]. -/
def scalarSI (f : FSI) (op : (w : Nat) → (a b : BitVec w) → BitVec w) (s : State) : Out :=
  issueLocal s (legalSI f true) (fun _ => { reads := sregs [f.sa.toNat], writes := sregs [f.sd.toNat] }) .one f.stl.toNat 2
    fun _ c =>
      let w := tyWidth f.ty
      let r := op w ((c.ag.sr f.sa.toNat).setWidth w) ((extImm f.ty f.imm).setWidth w)
      .ok { writes := [(.s f.sd.toNat, [(0, extResult f.ty r)])] }

def execSmovi (f : FSI) (s : State) : Out :=
  issueLocal s (legalSI f false) (fun _ => { writes := sregs [f.sd.toNat] }) .one f.stl.toNat 2 fun _ _ =>
    .ok { writes := [(.s f.sd.toNat, [(0, extImm f.ty f.imm)])] }

/-- SMOVH reads s(SD) as a source; TY must be N64. -/
def execSmovh (f : FSI) (s : State) : Out :=
  issueLocal s { legalSI f false with bad := f.ty ≠ 10 }
    (fun _ => { reads := sregs [f.sd.toNat], writes := sregs [f.sd.toNat] }) .one f.stl.toNat 2 fun _ c =>
      .ok { writes := [(.s f.sd.toNat, [(0, (f.imm ++ fld (c.ag.sr f.sd.toNat) 0 32 : BitVec 64))])] }

def execSaddFSi (f : FSI) (s : State) : Out := scalarSI f (fun _ a b => a + b) s
def execSandFSi (f : FSI) (s : State) : Out := scalarSI f (fun _ a b => a &&& b) s
def execSorFSi (f : FSI) (s : State) : Out := scalarSI f (fun _ a b => a ||| b) s
def execSxorFSi (f : FSI) (s : State) : Out := scalarSI f (fun _ a b => a ^^^ b) s

end Sys2Proof.Machine
end

