-- ==== Sys2Proof/Machine/Vector.lean ====
section
/-!
DEFINITION. The element-wise vector instructions (R170 to R188).
-/
namespace Sys2Proof.Machine

/-- What a row of R172 uses: its sources, its TY set, the TY values with which RM and SAT are used, and XOP. -/
structure V3Row where
  a : Bool := true
  b : Bool := true
  c : Bool := false
  ty : BitVec 4 → Bool := tyVector
  rm : BitVec 4 → Bool := fun _ => false
  sat : BitVec 4 → Bool := fun _ => false
  xop : Bool := false
  /-- The result is scalar: VD[6:0] names it and VD[9:7] is zero (R39). -/
  sres : Bool := false
  /-- MOD[3:1] is a condition (R177). -/
  cond : Bool := false

/-- Integer types of R171. -/
def tyInt (ty : BitVec 4) : Bool := tyVector ty && !tyFloat ty

def modRM (mod : BitVec 4) : Nat := mod.toNat / 4
def modSat (mod : BitVec 4) : Bool := mod.getLsbD 1
def modXop (mod : BitVec 4) : Bool := mod.getLsbD 0

/-- Fates of MOD (R50, R171, R177): reserved, illegal. -/
def modRsv (r : V3Row) (mod : BitVec 4) : Bool := !r.xop && modXop mod
def modBad (r : V3Row) (ty mod : BitVec 4) : Bool :=
  if r.cond then mod.toNat / 2 = 7 || (mod.toNat / 2 = 6 && !tyFloat ty)
  else (modRM mod ≠ 0 && !r.rm ty) || (modSat mod && !r.sat ty)

/-- A source field is reserved when unused, and its bits [9:7] when it names a scalar (R39, R171). -/
def srcRsv (used sel : Bool) (field : BitVec 10) : Bool :=
  if used then sel && decide (128 ≤ field.toNat) else sel || field ≠ 0

def legalV3 (f : FV3) (r : V3Row) : Legal where
  all := f.all
  rsv := srcRsv r.a (FV3.selA f) f.va || srcRsv r.b (FV3.selB f) f.vb || srcRsv r.c (FV3.selC f) f.vc
    || (FV3.hi f && !((r.a && FV3.selA f) || (r.b && FV3.selB f) || (r.c && FV3.selC f)))
    || modRsv r f.mod || (r.sres && decide (128 ≤ f.vd.toNat))
  bad := !r.ty f.ty || modBad r f.ty f.mod
  vregs := (if r.sres then [] else [f.vd.toNat]) ++ (if r.a && !FV3.selA f then [f.va.toNat] else [])
    ++ (if r.b && !FV3.selB f then [f.vb.toNat] else []) ++ (if r.c && !FV3.selC f then [f.vc.toNat] else [])

/-- A source's footprint: a scalar register, or lanes `m` of a vector register. -/
def srcFoot (used sel : Bool) (field : BitVec 10) (m : Dword) : Regs :=
  if !used then [] else if sel then [sreg (field.toNat % 128)] else [(.v field.toNat, m)]

def readsV3 (f : FV3) (r : V3Row) (m : Dword) : Regs :=
  srcFoot r.a (FV3.selA f) f.va m ++ srcFoot r.b (FV3.selB f) f.vb m ++ srcFoot r.c (FV3.selC f) f.vc m

def footV3 (f : FV3) (r : V3Row) (c : Iss) : Foot where
  reads := readsV3 f r (c.active f.all)
  writes := [(.v f.vd.toNat, c.active f.all)]

/-- The values of a vector destination: one for each active lane (R170). -/
def laneVals (m : Dword) (g : Nat → Word) : List (Nat × Dword) := (lanesOf m).map fun l => (l, (g l).setWidth 64)

/-- The common frame of R170 for F-V3: `g` computes a lane from its operands. -/
def vec3 (f : FV3) (r : V3Row) (lat : Nat) (g : (a b c : Word) → Word) (s : State) : Out :=
  issueLocal s (legalV3 f r) (footV3 f r) .lanes f.stl.toNat lat fun _ c =>
    .ok { writes := [(.v f.vd.toNat, laneVals (c.active f.all) fun l => g (opVA f c.ag l) (opVB f c.ag l) (opVC f c.ag l))] }

/-- The common frame for F-VI. -/
def vecI (f : FVI) (r : V3Row) (lat : Nat) (g : (a b : Word) → Word) (s : State) : Out :=
  issueLocal s
    { all := f.all
      rsv := (tyVector f.ty && immRsv f.ty f.imm) || modRsv r f.mod || (!r.a && f.va ≠ 0)
      bad := !r.ty f.ty || modBad r f.ty f.mod
      vregs := [f.vd.toNat] ++ (if r.a then [f.va.toNat] else []) }
    (fun c => { reads := if r.a then [(.v f.va.toNat, c.active f.all)] else [], writes := [(.v f.vd.toNat, c.active f.all)] })
    .lanes f.stl.toNat lat fun _ c =>
      .ok { writes := [(.v f.vd.toNat, laneVals (c.active f.all) fun l => g (c.ag.vr f.va.toNat l) (expandImm f.ty f.imm))] }

/-- Applies an element function (R170). -/
def emap (ty : BitVec 4) (g : (a b c : Nat) → Nat) (a b c : Word) : Word :=
  ofElems ty (((elems ty a).zip ((elems ty b).zip (elems ty c))).map fun p => g p.1 p.2.1 p.2.2)

/-- The format of a float type. -/
def tyFmt (ty : BitVec 4) : Fmt := if ty = 2 then f32 else if ty = 3 then f16 else bf16

/-- Writes an exact integer result (R173). -/
def intRes (ty mod : BitVec 4) (x : Int) : Nat :=
  if modSat mod then satN (elemBits ty) (elemSgn ty) x else wrapN (elemBits ty) x

/-- Integer or float element operation, by TY (R173, R174). -/
def arith (ty mod : BitVec 4) (i : (a b c : Int) → Int) (g : Fmt → RM → (a b c : Nat) → Nat) (a b c : Nat) : Nat :=
  if tyFloat ty then g (tyFmt ty) (RM.ofBits (modRM mod)) a b c
  else intRes ty mod (i (elemVal ty a) (elemVal ty b) (elemVal ty c))

def rowArith (c : Bool) : V3Row := { c := c, rm := tyFloat, sat := tyInt }
/-- L of a row with integer and float types (R61). -/
def latOf (ty : BitVec 4) : Nat := if tyFloat ty then 6 else 4

def addE (ty mod : BitVec 4) : Nat → Nat → Nat → Nat := arith ty mod (fun a b _ => a + b) fun D rm a b _ => D.fadd rm a b
def subE (ty mod : BitVec 4) : Nat → Nat → Nat → Nat := arith ty mod (fun a b _ => a - b) fun D rm a b _ => D.fsub rm a b
def mulE (ty mod : BitVec 4) : Nat → Nat → Nat → Nat := arith ty mod (fun a b _ => a * b) fun D rm a b _ => D.fmul rm a b
def madE (ty mod : BitVec 4) : Nat → Nat → Nat → Nat :=
  arith ty mod (fun a b c => a * b + c) fun D rm a b c => D.fadd rm (D.fmul rm a b) c
def mulhE (ty : BitVec 4) (a b _ : Nat) : Nat :=
  wrapN (elemBits ty) (elemVal ty a * elemVal ty b / (2 ^ elemBits ty : Int))

/-- VMIN, VMAX (R175). -/
def minmaxE (isMax : Bool) (ty : BitVec 4) (a b _ : Nat) : Nat :=
  if tyFloat ty then (tyFmt ty).fminmax isMax a b
  else
    let less := decide (elemVal ty a < elemVal ty b)
    if isMax then (if less then b else a) else (if less then a else b)

/-- VABS (R175). -/
def absE (ty mod : BitVec 4) (a _ _ : Nat) : Nat :=
  if tyFloat ty then
    (if ((tyFmt ty).decode a).isNan then (tyFmt ty).nan else a % (tyFmt ty).signBit)
  else if elemSgn ty then intRes ty mod (elemVal ty a).natAbs
  else a

/-- Shifts of an element (R84, R176): 0 left, 1 right, 2 right with the top bit. -/
def shiftE (kind : Nat) (ty : BitVec 4) (a b _ : Nat) : Nat :=
  let n := elemBits ty
  let k := b % 128
  match kind with
  | 0 => if k < n then a * 2 ^ k % 2 ^ n else 0
  | 1 => if k < n then a / 2 ^ k else 0
  | _ => wrapN n (sx n a / (2 ^ min k (n - 1) : Int))

/-- The condition of VCMP (R177). -/
def cmpHolds (ty : BitVec 4) (cc a b : Nat) : Bool :=
  if tyFloat ty then
    let x := (tyFmt ty).decode a
    let y := (tyFmt ty).decode b
    if x.isNan || y.isNan then cc = 1 || cc = 6
    else if cc = 6 then false
    else ccHolds cc (FV.cmp x y) 0
  else ccHolds cc (elemVal ty a) (elemVal ty b)

def cmpE (ty mod : BitVec 4) (a b _ : Nat) : Nat :=
  if cmpHolds ty (mod.toNat / 2) a b then 2 ^ elemBits ty - 1 else 0

/-! ## Instructions of R172 -/

def execVadd (f : FV3) (s : State) : Out := vec3 f (rowArith false) (latOf f.ty) (emap f.ty (addE f.ty f.mod)) s
def execVaddFVi (f : FVI) (s : State) : Out := vecI f (rowArith false) (latOf f.ty) (fun a b => emap f.ty (addE f.ty f.mod) a b 0) s
def execVsub (f : FV3) (s : State) : Out := vec3 f (rowArith false) (latOf f.ty) (emap f.ty (subE f.ty f.mod)) s
def execVsubFVi (f : FVI) (s : State) : Out := vecI f (rowArith false) (latOf f.ty) (fun a b => emap f.ty (subE f.ty f.mod) a b 0) s
def execVmul (f : FV3) (s : State) : Out := vec3 f (rowArith false) (latOf f.ty) (emap f.ty (mulE f.ty f.mod)) s
def execVmulFVi (f : FVI) (s : State) : Out := vecI f (rowArith false) (latOf f.ty) (fun a b => emap f.ty (mulE f.ty f.mod) a b 0) s
def execVmulh (f : FV3) (s : State) : Out := vec3 f { ty := tyInt } 4 (emap f.ty (mulhE f.ty)) s
def execVmad (f : FV3) (s : State) : Out := vec3 f (rowArith true) (latOf f.ty) (emap f.ty (madE f.ty f.mod)) s
def execVfma (f : FV3) (s : State) : Out :=
  vec3 f { c := true, ty := tyFloat, rm := tyFloat } 6 (emap f.ty ((tyFmt f.ty).ffma (RM.ofBits (modRM f.mod)))) s
def execVmin (f : FV3) (s : State) : Out := vec3 f {} (latOf f.ty) (emap f.ty (minmaxE false f.ty)) s
def execVminFVi (f : FVI) (s : State) : Out := vecI f {} (latOf f.ty) (fun a b => emap f.ty (minmaxE false f.ty) a b 0) s
def execVmax (f : FV3) (s : State) : Out := vec3 f {} (latOf f.ty) (emap f.ty (minmaxE true f.ty)) s
def execVmaxFVi (f : FVI) (s : State) : Out := vecI f {} (latOf f.ty) (fun a b => emap f.ty (minmaxE true f.ty) a b 0) s
def execVabs (f : FV3) (s : State) : Out := vec3 f { b := false, sat := tyInt } (latOf f.ty) (emap f.ty (absE f.ty f.mod)) s
def execVand (f : FV3) (s : State) : Out := vec3 f {} 4 (fun a b _ => a &&& b) s
def execVandFVi (f : FVI) (s : State) : Out := vecI f {} 4 (fun a b => a &&& b) s
def execVor (f : FV3) (s : State) : Out := vec3 f {} 4 (fun a b _ => a ||| b) s
def execVorFVi (f : FVI) (s : State) : Out := vecI f {} 4 (fun a b => a ||| b) s
def execVxor (f : FV3) (s : State) : Out := vec3 f {} 4 (fun a b _ => a ^^^ b) s
def execVxorFVi (f : FVI) (s : State) : Out := vecI f {} 4 (fun a b => a ^^^ b) s
def execVnot (f : FV3) (s : State) : Out := vec3 f { b := false } 4 (fun a _ _ => ~~~a) s
def execVshl (f : FV3) (s : State) : Out := vec3 f { ty := tyInt } 4 (emap f.ty (shiftE 0 f.ty)) s
def execVshlFVi (f : FVI) (s : State) : Out := vecI f { ty := tyInt } 4 (fun a b => emap f.ty (shiftE 0 f.ty) a b 0) s
def execVshr (f : FV3) (s : State) : Out := vec3 f { ty := tyInt } 4 (emap f.ty (shiftE 1 f.ty)) s
def execVshrFVi (f : FVI) (s : State) : Out := vecI f { ty := tyInt } 4 (fun a b => emap f.ty (shiftE 1 f.ty) a b 0) s
def execVsar (f : FV3) (s : State) : Out := vec3 f { ty := tyInt } 4 (emap f.ty (shiftE 2 f.ty)) s
def execVsarFVi (f : FVI) (s : State) : Out := vecI f { ty := tyInt } 4 (fun a b => emap f.ty (shiftE 2 f.ty) a b 0) s
def execVcmp (f : FV3) (s : State) : Out := vec3 f { cond := true } (latOf f.ty) (emap f.ty (cmpE f.ty f.mod)) s
def execVcmpFVi (f : FVI) (s : State) : Out := vecI f { cond := true } (latOf f.ty) (fun a b => emap f.ty (cmpE f.ty f.mod) a b 0) s
def execVsel (f : FV3) (s : State) : Out := vec3 f { c := true } 4 (emap f.ty fun a b c => if c ≠ 0 then a else b) s
def execVmov (f : FV3) (s : State) : Out := vec3 f { b := false } 4 (fun a _ _ => a) s
def execVmovFVi (f : FVI) (s : State) : Out := vecI f { a := false } 4 (fun _ b => b) s

/-- The transcendental rows, VFRACT and VROUND. -/
def vecFun (f : FV3) (lat : Nat) (g : Fmt → RM → Nat → Nat) (s : State) : Out :=
  vec3 f { b := false, ty := tyFloat, rm := tyFloat } lat (emap f.ty fun a _ _ => g (tyFmt f.ty) (RM.ofBits (modRM f.mod)) a) s

def execVrcp (f : FV3) (s : State) : Out := vecFun f 14 (fun D rm a => D.fun1 .rcp rm a) s
def execVrsq (f : FV3) (s : State) : Out := vecFun f 14 (fun D rm a => D.fun1 .rsq rm a) s
def execVsqrt (f : FV3) (s : State) : Out := vecFun f 14 (fun D rm a => D.fun1 .sqrt rm a) s
def execVexp2 (f : FV3) (s : State) : Out := vecFun f 14 (fun D rm a => D.fun1 .exp2 rm a) s
def execVlog2 (f : FV3) (s : State) : Out := vecFun f 14 (fun D rm a => D.fun1 .log2 rm a) s
def execVsin (f : FV3) (s : State) : Out := vecFun f 14 (fun D rm a => D.fun1 .sin rm a) s
def execVcos (f : FV3) (s : State) : Out := vecFun f 14 (fun D rm a => D.fun1 .cos rm a) s
def execVfract (f : FV3) (s : State) : Out := vecFun f 6 (fun D rm a => D.ffract rm a) s
def execVround (f : FV3) (s : State) : Out := vecFun f 6 (fun D rm a => D.fround rm a) s

/-- 1 bits of an element, leading zeros of an n-bit element. -/
def popN (x : Nat) : Nat → Nat
  | 0 => 0
  | n + 1 => x / 2 ^ n % 2 + popN x n
def clzN (x : Nat) : Nat → Nat
  | 0 => 0
  | n + 1 => if x / 2 ^ n % 2 = 1 then 0 else 1 + clzN x n

def execVpopc (f : FV3) (s : State) : Out := vec3 f { b := false, ty := tyInt } 4 (emap f.ty fun a _ _ => popN a (elemBits f.ty)) s
def execVclz (f : FV3) (s : State) : Out := vec3 f { b := false, ty := tyInt } 4 (emap f.ty fun a _ _ => clzN a (elemBits f.ty)) s

def ty01 (ty : BitVec 4) : Bool := ty = 0 || ty = 1

def execVbfe (f : FV3) (s : State) : Out := vec3 f { ty := ty01 } 4 (fun a b c => sbfeOp 32 (f.ty = 0) a b c) s
def execVbfi (f : FV3) (s : State) : Out := vec3 f { c := true, ty := ty01 } 4 (fun a b c => sbfiOp 32 (f.ty = 0) a b c) s

/-! ## R178, R180 to R182 -/

/-- VBCAST writes a register pair. -/
def execVbcast (f : FV3) (s : State) : Out :=
  issueLocal s
    { all := f.all
      rsv := decide (128 ≤ f.va.toNat ∧ FV3.selA f) || f.vb ≠ 0 || f.vc ≠ 0 || f.mod ≠ 0 || FV3.selB f || FV3.selC f || FV3.hi f
      bad := !FV3.selA f || f.vd.getLsbD 0 || !ty01 f.ty
      vregs := [f.vd.toNat, f.vd.toNat + 1] }
    (fun c => { reads := [sreg (f.va.toNat % 128)], writes := vregsOn [f.vd.toNat, f.vd.toNat + 1] (c.active f.all) })
    .lanes f.stl.toNat 4 fun _ c =>
      let x := c.ag.sr (f.va.toNat % 128)
      .ok { writes := [(.v f.vd.toNat, laneVals (c.active f.all) fun _ => fld x 0 32),
                       (.v (f.vd.toNat + 1), laneVals (c.active f.all) fun _ => fld x 32 32)] }

def execVlane (f : FV3) (s : State) : Out :=
  issueLocal s
    { legalV3 f { a := FV3.selA f, b := false, ty := ty01 } with
      rsv := (legalV3 f { a := FV3.selA f, b := false, ty := ty01 }).rsv || f.mod ≠ 0 }
    (footV3 f { a := FV3.selA f, b := false }) .lanes f.stl.toNat 4 fun _ c =>
      let k : Word := if FV3.selA f then opVA f c.ag 0 else 0
      .ok { writes := [(.v f.vd.toNat, laneVals (c.active f.all) fun l => BitVec.ofNat 32 l + k)] }

/-- Widens half of a packed register (R180). -/
def unpk (ty : BitVec 4) (h : Nat) (a : Word) : Word :=
  let es := (elems ty a).map (elemVal ty)
  if elemBits ty = 8 then ofElems 5 [wrapN 16 (es.getD (2 * h) 0), wrapN 16 (es.getD (2 * h + 1) 0)]
  else BitVec.ofInt 32 (es.getD h 0)

def tyPacked (ty : BitVec 4) : Bool := ty = 5 || ty = 6 || ty = 7 || ty = 8

def execVunpk (f : FV3) (s : State) : Out :=
  vec3 f { b := false, ty := tyPacked, xop := true } 4 (fun a _ _ => unpk f.ty (if modXop f.mod then 1 else 0) a) s

/-- The type twice as wide, of the same signedness. -/
def tyWide (ty : BitVec 4) : BitVec 4 := if ty = 5 then 0 else if ty = 6 then 1 else if ty = 7 then 5 else 6

/-- Narrows two registers into one (R180). -/
def pack (ty mod : BitVec 4) (a b : Word) : Word :=
  let w := tyWide ty
  ofElems ty (((elems w a).map fun x => intRes ty mod (elemVal w x)) ++ (elems w b).map fun x => intRes ty mod (elemVal w x))

def execVpack (f : FV3) (s : State) : Out := vec3 f { ty := tyPacked, sat := tyPacked } 4 (fun a b _ => pack f.ty f.mod a b) s

/-- Exact dot product of float pairs plus c; special values as for p in R122, an exact zero sum by R104 (R181). -/
def dotF (D : Fmt) (rm : RM) (a b : List Nat) (c : FV) : Nat :=
  f32.conv rm false ((a.zip b).foldl (fun acc p => FV.add .rne acc (FV.mul (D.decode p.1) (D.decode p.2)))
    (FV.fin true 0 0) |> fun p => FV.add rm p c)

/-- Exact dot product of integers plus c. -/
def dotI (ty mod : BitVec 4) (a b c : Word) : Word :=
  let ct : BitVec 4 := if elemSgn ty then 0 else 1
  let x := (((elems ty a).zip (elems ty b)).map fun p => elemVal ty p.1 * elemVal ty p.2).sum + elemVal ct c.toNat
  BitVec.ofNat 32 (intRes ct mod x)

def execVdot (f : FV3) (s : State) : Out :=
  vec3 f { c := true, ty := fun t => tyPacked t || t = 3 || t = 4, rm := tyFloat, sat := tyPacked } (latOf f.ty)
    (fun a b c =>
      if tyFloat f.ty then
        BitVec.ofNat 32 (dotF (tyFmt f.ty) (RM.ofBits (modRM f.mod)) (elems f.ty a) (elems f.ty b) (f32.decode c.toNat))
      else dotI f.ty f.mod a b c) s

/-- Looks the elements up in the 16-byte table (R182). -/
def lut (ty : BitVec 4) (t : Nat) (a : Word) : Word :=
  if ty = 8 then ofElems 8 ((elems 8 a).map fun x => natFld t (8 * (x % 16)) 8)
  else ofElems 6 ((elems 6 a).map fun x => natFld t (16 * (x % 8)) 16)

def execVlut (f : FV3) (s : State) : Out :=
  issueLocal s
    { all := f.all
      rsv := srcRsv true (FV3.selA f) f.va || decide (128 ≤ f.vb.toNat ∧ FV3.selB f) || f.vc ≠ 0 || FV3.selC f || f.mod ≠ 0 || FV3.hi f
      bad := !FV3.selB f || f.vb.getLsbD 0 || !(f.ty = 8 || f.ty = 6)
      vregs := [f.vd.toNat] ++ (if FV3.selA f then [] else [f.va.toNat]) }
    (fun c => { reads := srcFoot true (FV3.selA f) f.va (c.active f.all) ++ sregs [f.vb.toNat % 128, f.vb.toNat % 128 + 1],
                writes := [(.v f.vd.toNat, c.active f.all)] })
    .lanes f.stl.toNat 8 fun _ c =>
      let b := f.vb.toNat % 128
      let t := (c.ag.sr b).toNat + 2 ^ 64 * (c.ag.sr (b + 1)).toNat
      .ok { writes := [(.v f.vd.toNat, laneVals (c.active f.all) fun l => lut f.ty t (opVA f c.ag l))] }

/-! ## Conversions (R186 to R188) -/

/-- A row of R187: whether it uses operand C, RM, SAT (P/S) and XOP, and whether its result is four bytes. -/
structure CvRow where
  c : Bool := false
  rm : Bool := true
  ps : Bool := false
  deriving DecidableEq, Repr

def cvRow (cv : Nat) : CvRow :=
  match cv with
  | 0 | 1 | 2 | 3 | 12 | 13 => {}
  | 4 | 5 | 14 | 15 | 16 => { c := true, ps := true }
  | 10 | 11 => { ps := true }
  | _ => { rm := false }

/-- One element into a destination of R187, by its rounding. -/
def cvElem (D : Fmt) (rm : RM) (sat : Bool) (sr : Option Nat) (x : FV) : Nat :=
  match sr with
  | none => D.conv rm sat x
  | some r => D.convSR sat r x

/-- A lane of VCVT (R187); `sr e` is rnd of element e when XOP selects stochastic rounding. -/
def cvLane (cv : Nat) (rm : RM) (sat : Bool) (sr : Nat → Option Nat) (a c : Word) : Word :=
  let h (x : Word) (k : Nat) : Nat := fldN x (16 * k) 16
  let b (k : Nat) : Nat := fldN a (8 * k) 8
  let pair (x y : Nat) : Word := ofElems 6 [x, y]
  let quad (g : Nat → FV → Nat) (D : Fmt) : Word :=
    ofElems 8 [g 0 (D.decode (h a 0)), g 1 (D.decode (h a 1)), g 2 (D.decode (h c 0)), g 3 (D.decode (h c 1))]
  match cv with
  | 0 => BitVec.ofNat 32 (f32.conv rm false (FV.ofInt a.toInt))
  | 1 => BitVec.ofNat 32 (f32.conv rm false (FV.ofInt a.toNat))
  | 2 => BitVec.ofNat 32 (FV.toIntSat rm 32 true (f32.decode a.toNat))
  | 3 => BitVec.ofNat 32 (FV.toIntSat rm 32 false (f32.decode a.toNat))
  | 4 => pair (cvElem f16 rm sat (sr 0) (f32.decode a.toNat)) (cvElem f16 rm sat (sr 1) (f32.decode c.toNat))
  | 5 => pair (cvElem bf16 rm sat (sr 0) (f32.decode a.toNat)) (cvElem bf16 rm sat (sr 1) (f32.decode c.toNat))
  | 6 | 7 => BitVec.ofNat 32 (f32.conv .rne false (f16.decode (h a (cv - 6))))
  | 8 | 9 => BitVec.ofNat 32 (f32.conv .rne false (bf16.decode (h a (cv - 8))))
  | 10 => pair (cvElem f16 rm sat (sr 0) (bf16.decode (h a 0))) (cvElem f16 rm sat (sr 1) (bf16.decode (h a 1)))
  | 11 => pair (cvElem bf16 rm sat (sr 0) (f16.decode (h a 0))) (cvElem bf16 rm sat (sr 1) (f16.decode (h a 1)))
  | 12 => pair (FV.toIntSat rm 16 true (f16.decode (h a 0))) (FV.toIntSat rm 16 true (f16.decode (h a 1)))
  | 13 => pair (f16.conv rm false (FV.ofInt (sx 16 (h a 0)))) (f16.conv rm false (FV.ofInt (sx 16 (h a 1))))
  | 14 => quad (fun e x => cvElem e4m3 rm sat (sr e) x) f16
  | 15 => quad (fun e x => cvElem e5m2 rm sat (sr e) x) f16
  | 16 => quad (fun e x => FV.toMxi8 rm (sr e) x) f16
  | 17 | 18 =>
    let k := 2 * (cv - 17)
    pair (f16.conv .rne false (e4m3.decode (b k))) (f16.conv .rne false (e4m3.decode (b (k + 1))))
  | 19 | 20 =>
    let k := 2 * (cv - 19)
    pair (f16.conv .rne false (e5m2.decode (b k))) (f16.conv .rne false (e5m2.decode (b (k + 1))))
  | 21 | 22 =>
    let k := 2 * (cv - 21)
    pair (f16.conv .rne false (FV.ofMxi8 (b k))) (f16.conv .rne false (FV.ofMxi8 (b (k + 1))))
  | _ => 0

def purity : Flt := { code := 14 }

def execVcvt (f : FV3) (s : State) : Out :=
  let cv := f.vb.toNat % 64
  let r := cvRow cv
  let usesC := r.c || decide (23 ≤ cv)
  issueLocal s
    { all := f.all
      rsv := srcRsv true (FV3.selA f) f.va || decide (64 ≤ f.vb.toNat) || FV3.selB f || f.ty ≠ 0 || srcRsv usesC (FV3.selC f) f.vc
        || (FV3.hi f && !(FV3.selA f || (usesC && FV3.selC f)))
      bad := decide (23 ≤ cv) || (modRM f.mod ≠ 0 && !r.rm) || (modSat f.mod && !r.ps) || (modXop f.mod && !r.ps)
        || (modXop f.mod && modRM f.mod ≠ 0)
      vregs := [f.vd.toNat] ++ (if FV3.selA f then [] else [f.va.toNat]) ++ (if usesC && !FV3.selC f then [f.vc.toNat] else []) }
    (footV3 f { b := false, c := usesC }) .lanes f.stl.toNat 6 fun _ c =>
      if modXop f.mod && c.ag.pure then .error purity
      else
        let x := srNext c.ag.srx
        let sr := fun l e => if modXop f.mod then some (srRnd x l e) else none
        .ok
          { writes := [(.v f.vd.toNat, laneVals (c.active f.all) fun l =>
              cvLane cv (RM.ofBits (modRM f.mod)) (modSat f.mod) (sr l) (opVA f c.ag l) (opVC f c.ag l))]
            srx := if modXop f.mod then some x else none }

end Sys2Proof.Machine
end

