-- ==== Sys2Proof/Machine/Memory.lean ====
section
/-!
DEFINITION. The machinery of every memory access: the checks of R225, the scope checker (R252, R269 to R272), the issue of a
counted operation (R218), its uncontended latency (R221), and the performing of its lanes (R219, R228 to R230, R235).
-/
namespace Sys2Proof.Machine

/-! ## The checks of R225 -/

/-- What an instruction asks of memory, before the checks. -/
structure Req where
  sp : Space
  n : Nat
  write : Bool := false
  atomic : Bool := false
  /-- Step 7: must lie in the host aperture (true), must not (false). -/
  host : Option Bool := none
  /-- Lane and exact address, lanes ascending. -/
  accs : List (Nat × Int)

inductive Chk where
  | fault (f : Flt)
  | hold (s : State) (w : Wait)
  | ok (accs : List (Nat × Nat × Nat))
  deriving DecidableEq

/-- The team of an agent. -/
def State.teamOf (s : State) (ag : Agent) : Team := (s.team? ag.team).getD { grid := 0, ctx := 0, idx := 0, core := 0 }

/-- A step of R225: the fault that names every lane that fails it. -/
def failAt {α : Type} (accs : List (Nat × α)) (bad : Nat × α → Bool) (mk : Dword → Nat × α → Flt) : Option Flt :=
  match accs.filter bad with
  | [] => none
  | x :: xs => some (mk (maskOf ((x :: xs).map (·.1))) x)

/-- Address outside the space (R21, R204). -/
def outside (sp : Space) (size n : Nat) (a : Int) : Bool :=
  match sp with
  | .glob => decide (a < 0 ∨ 2 ^ 48 ≤ a)
  | .scr => decide (a < 0 ∨ (size : Int) < a + n)

/-- Some declared input range of a pure task holds all n bytes (R379). -/
def Agent.declared (ag : Agent) (a n : Nat) : Bool := ag.pureIn.any fun r => decide (r.1 ≤ a ∧ a + n ≤ r.1 + r.2)

/-- Steps 1 to 4 of R225. -/
def Req.early (q : Req) (s : State) (ag : Agent) : Option Flt :=
  let tm := s.teamOf ag
  match failAt q.accs (fun p => outside q.sp tm.size q.n p.2) (fun m p => illegalAddr p.2 m) with
  | some f => some f
  | none =>
    match failAt q.accs (fun p => p.2 % q.n ≠ 0) (fun m p => misalign p.2.toNat m) with
    | some f => some f
    | none =>
      let lock (a : Int) : Option (BitVec 128) :=
        if ag.isLeat then none
        else match q.sp with
          | .glob => s.lockHit ag.core ag.ctx 1 a.toNat q.n q.write
          | .scr => let l := tm.loc a.toNat; s.lockHit l.1 ag.ctx 0 l.2 q.n q.write
      match failAt q.accs (fun p => (lock p.2).isSome)
          (fun m p => { code := 10, lm := m, addr := p.2.toNat, info := ((lock p.2).getD 0).toNat }) with
      | some f => some f
      | none =>
        if ag.pure then
          failAt q.accs (fun p => q.atomic || (q.sp = .glob && (q.write || !ag.declared p.2.toNat q.n)))
            (fun m p => { purity with lm := m, addr := p.2.toNat })
        else none

/-! ## Latencies (R221) -/

def otherDie (s : State) (core pa : Nat) : Bool :=
  match s.paKind pa with
  | .gddr d => d ≠ core / 64
  | .erg d => d ≠ core / 64
  | .host => core / 64 ≠ 0
  | _ => false

/-- Channel of a physical address of GDDR 7 (R215), its bank there and its row (R498). -/
def gddrChan (pa : Nat) : Nat := 8 * (pa / 2 ^ 36) + (natFld pa 8 3 ^^^ natFld pa 11 3 ^^^ natFld pa 14 3)
def gddrBank (pa : Nat) : Nat := 16 * gddrChan pa + natFld pa 14 4
def gddrRow (pa : Nat) : Nat := natFld pa 18 18

/-- What is left of a refresh of a bank in progress (R222, R498): refresh k of a channel is the k-th from the end of training. -/
def State.refreshRest (s : State) (pa : Nat) : Nat :=
  match KMap.find? s.refresh (gddrChan pa) with
  | none => 0
  | some r =>
    let rest (k : Nat) : Nat := if 1 ≤ k ∧ (k - 1) % 16 = natFld pa 14 4 then r.start + 304 * k + 350 - s.clk else 0
    max (rest r.count) (rest (r.count - 1))

/-- Whether the erg of its die holds a line of GDDR 7: free, because evictions are (R499). -/
def State.ergHit (s : State) (pa : Nat) : Bool := Config.freeBit (s.free * 2 ^ 46 + pa / 128)

/-- Latency of the erg for a line of GDDR 7 (R221, R222). -/
def State.gddrLat (s : State) (pa : Nat) : Nat :=
  if s.ergHit pa then 150
  else (if KMap.find? s.openRows (gddrBank pa) = some (gddrRow pa) then 380 else 470) + s.refreshRest pa

/-- The lines that a request read are drawn: those that missed have opened their rows (R498). -/
def State.openLines (s : State) (pas : List Nat) : State :=
  let miss := pas.filter fun pa => match s.paKind pa with
    | .gddr _ => !s.ergHit pa
    | _ => false
  { s with openRows := miss.foldl (fun m pa => KMap.put m (gddrBank pa) (gddrRow pa)) s.openRows, free := s.free + 1 }

/-- Latency of a line without contention, and beyond the card the port's own part. -/
def lineLat (s : State) (core pa : Nat) (kind : Nat) : Nat :=
  let o := if otherDie s core pa then 32 else 0
  match s.paKind pa with
  | .host => (if kind = 1 then 60 else 100) + o
  | .peer => (if kind = 1 then 70 else 110) + (if core / 64 = 0 then 0 else 32)
  | .gddr _ => (if kind = 1 then 150 else s.gddrLat pa) + o + (if kind = 2 then 10 else 0)
  | _ => 150 + o + (if kind = 2 then 10 else 0)

/-! ## Misses of the L1 TLB (R225, R415) -/

/-- The entries that a walk reads, from a table of level `lv` down. -/
def State.walkReads (s : State) (va : Nat) : (lv table : Nat) → List Nat
  | lv, table =>
    if !s.tableOk table then []
    else
      let a := table + 8 * (va / 2 ^ (12 + 9 * lv) % 512)
      let e := s.readN 8 a
      a :: match lv with
        | 0 => []
        | lv' + 1 => if natFld e 0 1 = 0 ∨ natFld e 1 1 = 1 then [] else s.walkReads va lv' (natFld e 12 40 * 4096)

/-- The load latency of R221 for each level's entry line. -/
def State.walkTime (s : State) (core ctx va : Nat) : Nat :=
  (s.walkReads va 3 (s.ctxRoot ctx)).foldl (fun n a => n + lineLat s core a 0) 0

/-- One translation that misses the L1 TLB: a hit in the L2 TLB takes 16 clk; else a walk, joined where the context and VA[47:16]
match one in progress on the die. The walk waited for, if there is one. -/
def State.missOne (s : State) (core ctx va : Nat) : State × Option Nat :=
  match s.l2at (core / 64) ctx va with
  | some t => (s.fillL1 core t, none)
  | none =>
    match List.find? (fun (w : Nat × Walk) => w.2.core / 64 = core / 64 && w.2.ctx = ctx && w.2.va / 2 ^ 16 = va / 2 ^ 16) s.walks with
    | some w => (s, some w.1)
    | none =>
      let mine := sortBy (fun a b => decide (a ≤ b)) ((s.walks.filter fun w => w.2.core / 64 = core / 64).map fun w => w.2.due)
      let start := if mine.length < 64 then s.clk else (mine[mine.length - 64]?).getD s.clk
      (({ s with walks := KMap.put s.walks s.ids { core := core, ctx := ctx, va := va, due := start + 16 + s.walkTime core ctx va },
                 ids := s.ids + 1 }).openLines (s.walkReads va 3 (s.ctxRoot ctx)), some s.ids)

/-- Translations that miss hold the issue: all of them are requested at once. -/
def State.missHold (s : State) (core ctx : Nat) (vas : List Nat) : State × Wait :=
  let r := vas.foldl (init := (s, (none : Option Nat))) fun acc va =>
    let m := acc.1.missOne core ctx va
    (m.1, acc.2 <|> m.2)
  match r.2 with
  | some w => (r.1, .walk w)
  | none => (r.1, .clk (s.clk + 16))

/-- Card number of this card (R459). -/
def State.card (s : State) : Nat :=
  s.barFld blkFab 0 6 + (s.barFld blkFab 18 6 + 1) * (s.barFld blkFab 6 6 + (s.barFld blkFab 24 6 + 1) * s.barFld blkFab 12 6)

/-- A request of this card to itself through the wall aperture (R461, R463, R464): the physical address, or the rejection. -/
def State.window (s : State) (src pa : Nat) (write : Bool) : Except Nat Nat :=
  let b := blkFab + 0x100 / 8 + 4 * natFld pa 40 4
  let off := natFld pa 0 40
  if s.barFld b 0 1 = 0 ∨ !((s.barRd (b + 3)).getLsbD src) ∨ 4096 * s.barFld (b + 2) 0 28 ≤ off then .error 1
  else
    match s.walk (s.barFld b 2 6) (s.barFld (b + 1) 0 48 + off) with
    | .error _ => .error 1
    | .ok t =>
      if !s.pageOk t then .error 1
      else if write ∧ (s.barFld b 1 1 = 0 ∨ !t.w) then .error 2
      else .ok (t.phys (s.barFld (b + 1) 0 48 + off))

/-- A physical address in this card's own aperture that its window admits is the local address (R461). -/
def State.selfPa (s : State) (pa : Nat) (write : Bool) : Nat :=
  if s.paKind pa = .peer ∧ natFld pa 44 6 = s.card then
    match s.window s.card pa write with
    | .ok p => p
    | .error _ => pa
  else pa

/-- R225 as a whole. `again` when a walk for this very issue has ended without a translation: the tables then decide. -/
def Req.check (q : Req) (s : State) (ag : Agent) (again : Bool) : Chk :=
  match q.early s ag with
  | some f => .fault f
  | none =>
    match q.sp with
    | .scr => .ok (q.accs.map fun p => (p.1, p.2.toNat, p.2.toNat))
    | .glob =>
      let gone (a : Nat) : Bool := again && (match s.walk ag.ctx a with
        | .error _ => true
        | .ok _ => false)
      match q.accs.filter fun p => (s.l1tlb ag.core ag.ctx p.2.toNat).isNone && !gone p.2.toNat with
      | p :: ps => let h := s.missHold ag.core ag.ctx ((p :: ps).map fun x => x.2.toNat); .hold h.1 h.2
      | [] =>
        let wr : Nat := if q.write then 2 ^ 10 else 0
        let ts := q.accs.map fun p => (p.1, p.2.toNat, s.translate ag.core ag.ctx p.2.toNat)
        let isErr (t : WalkRes) : Bool := match t with
          | .error _ => true
          | .ok _ => false
        match failAt ts (fun p => isErr p.2.2)
            (fun m p => { code := 1, detail := wr + (match p.2.2 with
              | .error d => d
              | .ok _ => 0), lm := m, addr := p.2.1 }) with
        | some f => .fault f
        | none =>
          match failAt ts (fun p => q.write && (match p.2.2 with
              | .ok t => !t.w
              | .error _ => false)) (fun m p => { code := 2, detail := 2 ^ 10, lm := m, addr := p.2.1 }) with
          | some f => .fault f
          | none =>
            let ps := ts.map fun p => (p.1, p.2.1, match p.2.2 with
              | .ok t => s.selfPa (t.phys p.2.1) q.write
              | .error _ => 0)
            match failAt ps (fun p => match q.host with
                | none => false
                | some h => decide (s.paKind p.2.2 = .host) ≠ h) (fun m p => illegalAddr p.2.1 m) with
            | some f => .fault f
            | none => .ok ps

/-! ## The scope checker -/

/-- Identity of an agent in a line record, with SCP and KIND zero (R270). -/
def State.identOf (s : State) (ag : Agent) : Dword :=
  match ag.kind with
  | .group => BitVec.ofNat 64 (ag.ctx * 2 ^ 6 + ag.gidx * 2 ^ 12 + (s.teamOf ag).idx % 2 ^ 24 * 2 ^ 18 + ag.grid % 2 ^ 16 * 2 ^ 42
      + s.card * 2 ^ 58)
  | .leat t => BitVec.ofNat 64 (2 ^ 4 + ag.ctx * 2 ^ 6 + (if t then 2 ^ 12 else 0) + ag.core * 2 ^ 18 + s.card * 2 ^ 58)

/-- The host at `.sys`, a peer card (R274, R276). -/
def hostIdent (card : Nat) : Dword := BitVec.ofNat 64 (2 * 2 ^ 4 + card * 2 ^ 58)
def peerIdent (card : Nat) : Dword := BitVec.ofNat 64 (3 * 2 ^ 4 + card * 2 ^ 58)

def idAgent (r : Dword) : Nat := fldN r 4 2
def idCtx (r : Dword) : Nat := fldN r 6 6
def idTeam (r : Dword) : Nat := fldN r 18 24
def idGrid (r : Dword) : Nat := fldN r 42 16
def idCard (r : Dword) : Nat := fldN r 58 6

/-- The cores on which the team of a group's record is resident; a leat's core and its partner (R252). -/
def State.idCores (s : State) (r : Dword) : List Nat :=
  if idAgent r = 1 then [idTeam r, if idTeam r % 2 = 0 then idTeam r + 1 else idTeam r - 1]
  else (s.teams.filter fun t => t.2.grid = idGrid r && t.2.idx % 2 ^ 24 = idTeam r && t.2.ctx = idCtx r).flatMap fun t =>
    if t.2.pair then [t.2.core, t.2.core + 1] else [t.2.core]

/-- y lies in the scope-instance of x (R252), by the fields of their records. -/
def State.inInst (s : State) (scope : Nat) (x y : Dword) : Bool :=
  let same := x >>> 4 = y >>> 4
  if scope = 4 then true
  else if idAgent x = 2 then idCard x = idCard y && idAgent y ≠ 3
  else if idAgent x = 3 ∨ idAgent y = 3 then idAgent x = idAgent y && idCard x = idCard y && (decide (2 ≤ scope) || same)
  else if idCard x ≠ idCard y then false
  else if idAgent y = 2 then scope = 3
  else if 2 ≤ scope then true
  else if scope = 0 then same
  else if idAgent x = 0 ∧ idAgent y = 0 then idCtx x = idCtx y && idTeam x = idTeam y && idGrid x = idGrid y
  else if idAgent y = 1 ∧ idAgent x = 1 then (s.idCores x).contains (idTeam y)
  else if idAgent y = 1 then (s.idCores x).contains (idTeam y)
  else (s.idCores x).any fun c => (s.idCores y).contains c

def lineRec (s : State) (pa : Nat) : Dword := KMap.get 7#64 s.lines (pa / 64)

/-- R271 for one lane: whether it passes, and the line records after it. `kind`: none an acquire load, 0 a release store, 1 an
atomic. -/
def State.scopeOne (s : State) (me : Dword) (scope : Nat) (kind : Option Nat) (pa : Nat) : Bool × State :=
  if !s.onCard pa then (true, s)
  else
    let r := lineRec s pa
    let scp := if idAgent r = 0 ∧ (KMap.find? s.grids (idGrid r)).isNone then 7 else fldN r 0 3
    if scp ≠ 7 ∧ !(s.inInst scp r me && s.inInst scope me r) then (false, s)
    else match kind with
      | none => (true, s)
      | some k => (true, { s with lines := KMap.set 7#64 s.lines (pa / 64) (me + BitVec.ofNat 64 (scope + 8 * k)) })

/-- The fault of a failing lane (R272). -/
def scopeFlt (s : State) (a : Acc) : Flt :=
  { code := 9, addr := a.va / 64 * 64, info := (lineRec s a.pa).toNat }

/-- R271 over the lanes of an instruction in ascending order: the state, and the failing accesses with their faults. -/
def State.scopeAll (s : State) (me : Dword) (scope : Nat) (kind : Option Nat) : List Acc → State × List (Nat × Flt)
  | [] => (s, [])
  | a :: as =>
    let r := s.scopeOne me scope kind a.pa
    let t := r.2.scopeAll me scope kind as
    (t.1, if r.1 then t.2 else (a.lane, scopeFlt s a) :: t.2)

/-- Bank passes of R207 for the words (core, local word) of a pass. -/
def bankPasses (words : List (Nat × Nat)) : Nat :=
  let ws := words.eraseDups
  (ws.map fun w => (ws.filter fun v => v.1 = w.1 && v.2 % 32 = w.2 % 32).length).foldl max 1

def wordsOf (tm : Team) (off n : Nat) : List (Nat × Nat) :=
  let l := tm.loc off
  (List.range ((l.2 + n - 1) / 4 - l.2 / 4 + 1)).map fun k => (l.1, l.2 / 4 + k)

/-- Latency of the accesses of one pass. `kind`: 0 load, 1 store, 2 atomic; `plain` may be served by the L1. -/
def passLat (s : State) (ag : Agent) (sp : Space) (kind : Nat) (plain : Bool) (accs : List Acc) : Nat :=
  match sp with
  | .scr =>
    let tm := s.teamOf ag
    let ws := accs.flatMap fun a => wordsOf tm a.pa a.n
    (if kind = 2 then 24 else 20) + (if ws.any fun w => w.1 ≠ ag.core then 16 else 0) + bankPasses ws - 1
  | .glob =>
    let lines := (accs.map fun a => lineOf a.pa).eraseDups
    let hit (pa : Nat) : Bool := plain && (s.core ag.core).l1.any fun c => c.pa = pa
    (lines.map fun pa => if hit pa then 36 else lineLat s ag.core pa kind).foldl max 0 + lines.length - 1

/-- The clk at which an operation returns at the earliest (R221). -/
def dueOf (s : State) (ag : Agent) (p : Bool × Bool) (sp : Space) (kind : Nat) (plain : Bool) (accs : List Acc) : Nat :=
  let part (f : Acc → Bool) (i : Nat) : Nat :=
    let l := accs.filter f
    if l.isEmpty then s.clk + 1 else i + passLat s ag sp kind plain l
  if p.1 && p.2 then max (part (fun a => a.lane < 32) s.clk) (part (fun a => 32 ≤ a.lane) (s.clk + 1))
  else part (fun _ => true) s.clk

/-! ## Issue of a counted operation (R218) -/

/-- Registers of a lane that an access of n bytes uses from r on (R42). -/
def dataRegs (scalar : Bool) (r n : Nat) : List Reg :=
  if scalar then (List.range (if n = 16 then 2 else 1)).map fun k => .s (r + k)
  else (List.range (if n ≤ 4 then 1 else n / 4)).map fun k => .v (r + k)

/-- The words of a lane value as registers take them. -/
def dataVals (scalar : Bool) (r n : Nat) (x : BitVec 128) : List (Reg × Dword) :=
  if scalar then
    (List.range (if n = 16 then 2 else 1)).map fun k => (.s (r + k), fld x (64 * k) 64)
  else (List.range (if n ≤ 4 then 1 else n / 4)).map fun k => (.v (r + k), (fld x (32 * k) 32).setWidth 64)

/-- The lane value that registers hold, low n bytes. -/
def dataOf (ag : Agent) (scalar : Bool) (r n l : Nat) : BitVec 128 :=
  let x : Nat :=
    if scalar then (ag.sr r).toNat + (if n = 16 then 2 ^ 64 * (ag.sr (r + 1)).toNat else 0)
    else (List.range (if n ≤ 4 then 1 else n / 4)).foldl (fun x k => x + 2 ^ (32 * k) * (ag.vr (r + k) l).toNat) 0
  BitVec.ofNat 128 (x % 2 ^ (8 * n))

/-- The fields of a request on the host link (R457): the lanes of one pass in one 128-byte line form one request. -/
def State.addHostReqs (s : State) (a op : Nat) (each : Bool) (accs : List Acc) : State :=
  let key (x : Acc) : Nat := if each then x.lane else 2 * lineOf x.pa + x.lane / 32
  let keys := (accs.map key).eraseDups
  -- the PCIe port lies on die 0 (R221)
  let far := if ((s.agent? a).map (·.core)).getD 0 / 64 = 0 then 0 else 32
  keys.foldl (init := s) fun s k =>
    let mine := accs.filter fun x => key x = k
    { s with
      hostReqs := KMap.put s.hostReqs s.ids
        { agent := a, op := op, lanes := maskOf (mine.map (·.lane)), pa := ((mine.head?).map (·.pa)).getD 0, due := s.clk + 100 + far }
      ids := s.ids + 1 }

/-- An operation joins its agent's list (R218) and the registers it will write are pending (R30). -/
def State.startOp (s : State) (a : Nat) (o : Op) : State :=
  s.updAgent a fun ag => { markWrites ag o.dsts with ops := ag.ops.map (fun q =>
      { q with clash := q.clash ++ (hitOf o.dsts q.dsts), winClash := q.winClash ++ hitOf o.dsts q.win }) ++ [o] }
where
  hitOf (writes rs : Regs) : Regs := rs.filterMap fun d =>
    let m := Regs.lanes writes d.1 &&& d.2
    if m = 0 then none else some (d.1, m)

/-- Operations of the agent that FENCE and its like wait for (R242, R301): every load, store, atomic, sweep, LDB, STB, AST, AADD. -/
def OpKind.isAccess : OpKind → Bool
  | .load .. => true
  | .store .. => true
  | .atomic .. => true
  | .hostAtomic .. => true
  | .image .. => true
  | .sweep .. => true
  | .matrix opc .. => opc = 9 || opc = 10
  | _ => false

def Agent.openAccesses (ag : Agent) : List Nat := (ag.ops.filter fun o => o.kind.isAccess && !o.returned).map (·.id)

/-- Peer stores of an agent that their targets have not acknowledged (R242, R466). -/
def State.unacked (s : State) (a : Nat) : Bool := s.fabReqs.any fun r => r.2.agent = a && r.2.kind = 1

/-- A peer line that a release of this context on this core must order (R243). -/
def State.heldPeer (s : State) (core ctx : Nat) : Option Flt :=
  (((KMap.find? s.peerBuf core).getD []).find? fun l => l.ctx = ctx).map fun l =>
    { code := l.code, detail := if l.code = 1 then 5 + 2 ^ 10 else 1 + 2 ^ 10, addr := l.va }

/-- What a release first waits for (R242, R256): none when its condition holds. -/
def State.releaseWait (s : State) (a : Nat) (ag : Agent) (scope : Nat) : Option Wait :=
  let ids := ag.openAccesses
  let wall := scope = 4
  if ids.isEmpty ∧ ¬(wall ∧ s.unacked a) then none else some (.ops ids wall)

/-- The oldest operation with rejected lanes (R465) or parked rays (R357) that must be counted off for counter c to be at
most t. -/
def Agent.rejectedCtr (ag : Agent) (c : Ctr) (t : Nat) : Option Flt :=
  ((((ag.ops.filter fun o => o.ctr = some c).take (ag.ctrVal c - t)).find? fun o => o.rej.isSome).bind (·.rej))

/-- The oldest such operation among those that satisfy `p`. -/
def Agent.rejected (ag : Agent) (p : Op → Bool) : Option Flt :=
  (ag.ops.find? fun o => o.rej.isSome && p o).bind (·.rej)

/-- The held instruction lets the next one issue (R241): at the later of e + extra and i + 1 + STL. -/
def State.finishHold (s : State) (c : Iss) (stl extra : Nat) : State :=
  s.updFrag c.a c.fid fun fr => fr.adv (max (s.clk + extra) (fr.iss + 1 + stl))

/-- Holds the issue from now on (R226). -/
def State.hold (s : State) (c : Iss) (w : Wait) (phase : Nat) : State :=
  s.updFrag c.a c.fid fun fr => { fr with wait := w, phase := phase, iss := if fr.phase < 4 then s.clk else fr.iss }

/-- The same, with the operation that the hold is for. -/
def State.holdOp (s : State) (c : Iss) (id : Nat) : State :=
  s.updFrag c.a c.fid fun fr => { fr with wait := .ops [id] false, phase := 4, iss := s.clk, hop := id }

/-- What a memory instruction is, beyond its addresses. -/
structure MemIns where
  lg : Legal
  stl : Nat
  pm : Pm := .lanes
  ctr : Ctr
  foot : Iss → Foot
  req : Iss → Req
  kind : OpKind
  /-- 0 load, 1 store, 2 atomic; may be served by the L1. -/
  rw : Nat
  plain : Bool := false
  /-- Operand values of a lane. -/
  val : Iss → Nat → BitVec 128 × BitVec 128 := fun _ _ => (0, 0)
  dsts : Iss → Regs := fun _ => []
  /-- Scope of an ordered event, whether it is a release, whether it is an acquire. -/
  scope : Option Nat := none
  rel : Bool := false
  acq : Bool := false
  /-- ATOMH holds issue until it returns (R238). -/
  holds : Bool := false
  /-- More clk on the latency of R221. -/
  add : Nat := 0

/-- The operation issues: counters, scope checker, requests beyond the card, and the issuer's next instruction or hold. -/
def State.issueMem (s : State) (m : MemIns) (c : Iss) (p : Bool × Bool) (accs : List Acc) : State :=
  let sp : Space := match m.kind with
    | .load sp .. => sp
    | .store sp .. => sp
    | .atomic sp .. => sp
    | _ => .glob
  -- R269: accesses to the scratchpad are not examined
  let r := match m.scope with
    | some sc => if m.acq ∨ sp = Space.scr then (s, []) else s.scopeAll (s.identOf c.ag) sc (some (if m.rw = 2 then 1 else 0)) accs
    | none => (s, [])
  let bad := r.2.map (·.1)
  let s1 := r.1
  let live := accs.filter fun a => !bad.contains a.lane
  let id := s1.ids
  let dead := maskOf bad
  let o : Op :=
    { id := id, fid := c.fid, ctr := if c.ag.isLeat then none else some m.ctr, issue := s.clk,
      due := dueOf s1 c.ag p sp m.rw (m.plain && !c.ag.isLeat) live + m.add, kind := m.kind, acc := live,
      todo := maskOf (live.map (·.lane)), dsts := (m.dsts c).map (fun d => (d.1, d.2 &&& ~~~dead)), pc := c.fr.pc }
  let s1b := if sp = .glob ∧ m.rw ≠ 1 then s1.openLines (live.map (·.pa)) else s1
  let s2 := ({ s1b with ids := s1.ids + 1 }).startOp c.a o
  -- R209: ordered writes and atomics drop the lines they may write
  let s3 := if sp = .glob ∧ !c.ag.isLeat ∧ (m.rw = 2 ∨ (m.rw = 1 ∧ m.scope.isSome)) then
      s2.l1Drop c.ag.core fun pa => live.any fun a => lineOf a.pa = pa
    else s2
  let host := if sp = .glob then live.filter fun a => s3.paKind a.pa = .host else []
  let s4 := match m.kind with
    | .hostAtomic .. => s3
    | _ => if m.rw = 0 ∧ !host.isEmpty then s3.addHostReqs c.a id false host else s3
  -- R272: SCOPE is precise, so an atomic that a target card examines (R269) holds issue until it returns
  let far := m.rw = 2 && m.scope.isSome && sp = .glob && live.any fun a => s3.paKind a.pa = .peer
  if m.acq ∨ m.holds ∨ far ∨ c.ag.isLeat then s4.holdOp c id
  else
    match r.2 with
    | [] => s4.updFrag c.a c.fid fun fr => fr.adv (s.clk + extraPass p + 1 + m.stl)
    | x :: _ => s4.raise c.a c.fid { x.2 with lm := dead }

/-- A memory instruction (R224 to R229, R256). -/
def memIns (m : MemIns) (s : State) : Out :=
  match s.issuer with
  | none => .fault .noIssuer
  | some c =>
    if 4 ≤ c.fr.phase then
      -- the held operation has returned
      match c.fr.fault with
      | some f => .next (s.raise c.a c.fid f)
      | none =>
        let wide := m.acq && decide (1 ≤ m.scope.getD 0)
        let s1 := if wide then s.l1Inval c.ag.core else s
        .next (s1.finishHold c m.stl (if wide then 8 else 1))
    else
      let early : Option State :=
        if (m.lg.fate c).isSome then none
        else if !c.ag.isLeat ∧ c.ag.ctrVal m.ctr = 63 then some (s.hold c (.ctr m.ctr 62) c.fr.phase)
        else if m.rel then
          match s.releaseWait c.a c.ag (m.scope.getD 0) with
          | some w => some (s.hold c w c.fr.phase)
          | none => (s.heldPeer c.ag.core c.ag.ctx).map fun f => s.raise c.a c.fid f
        else none
      match early with
      | some s1 => .next s1
      | none =>
        issueWith s m.lg m.foot m.pm 0 false fun s c p =>
          let q := m.req c
          match q.check s c.ag (c.fr.phase = 2) with
          | .fault f => .next (s.raise c.a c.fid f)
          | .hold s1 w => .next (s1.hold c w c.fr.phase)
          | .ok l =>
            let peer := m.rw = 1 && q.sp = .glob && l.any fun x => s.paKind x.2.2 = .peer
            if peer ∧ 64 ≤ ((KMap.find? s.peerBuf c.ag.core).getD []).length then .next (s.hold c (.room 0 c.ag.core) c.fr.phase)
            else
              let accs : List Acc := l.map fun x =>
                let v := m.val c x.1
                { lane := x.1, va := x.2.1, pa := x.2.2, n := q.n, x := v.1, y := v.2 }
              .next (s.issueMem m c p accs)

/-! ## Performing (R219, R229) -/

/-- Bytes that an access touches meet those of another one of the same space. -/
def Acc.meets (a b : Acc) : Bool := overlap a.pa a.n b.pa b.n

def OpKind.space : OpKind → Option Space
  | .load sp .. => some sp
  | .store sp .. => some sp
  | .atomic sp .. => some sp
  | .hostAtomic .. => some .glob
  | .image .. => some .glob
  | _ => none

def OpKind.isLdc : OpKind → Bool
  | .load _ _ _ _ _ b => b
  | _ => false

/-- An earlier access of the agent to a byte of these lanes has not been performed (R229). -/
def Agent.blocked (ag : Agent) (o : Op) (lanes : Dword) : Bool :=
  if o.kind.isLdc || o.kind.space.isNone then false
  else
    let mine := o.acc.filter fun a => lanes.getLsbD a.lane
    ag.ops.any fun q =>
      decide (q.id < o.id) && q.kind.space = o.kind.space && !q.kind.isLdc && q.todo ≠ 0 &&
        q.acc.any fun b => q.todo.getLsbD b.lane && mine.any fun a => a.meets b

/-- The agent that an operation belongs to. -/
def State.opOwner (s : State) (id : Nat) : Option (Nat × Agent × Op) :=
  s.agents.findSome? fun p => (p.2.findOp id).map fun o => (p.1, p.2, o)

/-- Writes results of an operation into its registers, lane by lane; where the register was written since the issue, either
value remains (R30 row 4, log entry 2). -/
def State.landVals (s : State) (a : Nat) (o : Op) (vals : List (Reg × Nat × Dword)) : State :=
  vals.foldl (init := s) fun s v =>
    if (Regs.lanes o.clash v.1).getLsbD v.2.1 then
      let s1 := { s with free := s.free + 1 }
      if Config.freeBit s.free then s1 else s1.updAgent a fun ag => ag.setReg v.1 [(v.2.1, v.2.2)]
    else s.updAgent a fun ag => ag.setReg v.1 [(v.2.1, v.2.2)]

/-- An operation has returned (R219). A fragment held for it learns what it must raise. -/
def State.returnOp (s : State) (a id : Nat) : State :=
  s.updAgent a fun ag =>
    match ag.findOp id with
    | none => ag
    | some o =>
      let flt := o.flt.map fun f => { f.2 with lm := o.failed }
      ({ ag with
          ops := ag.ops.map fun (q : Op) => if q.id = id then { q with returned := true } else q
          frags := ag.frags.map fun (p : Nat × Frag) => if p.2.hop = id ∧ p.2.phase = 4 then (p.1, { p.2 with fault := flt }) else p }).countOff

/-- Marks lanes performed; the operation returns with its last lane, once it is due. -/
def State.laneDone (s : State) (a id : Nat) (lanes : Dword) : State :=
  let s1 := s.updAgent a fun ag => ag.updOp id fun o => { o with todo := o.todo &&& ~~~lanes }
  match (s1.agent? a).bind fun ag => ag.findOp id with
  | some o => if o.todo = 0 ∧ o.rej.isNone ∧ o.due ≤ s1.clk then s1.returnOp a id else s1
  | none => s1

/-- Lanes that failed at their performing (R239, R272): no effect, no result. -/
def State.laneFail (s : State) (a id : Nat) (bad : List (Nat × Flt)) : State :=
  s.updAgent a fun ag => ag.updOp id fun o =>
    bad.foldl (init := o) fun o b =>
      { o with
        failed := o.failed ||| laneBit b.1
        flt := match o.flt with
          | some f => if b.1 < f.1 then some b else some f
          | none => some b }

/-- The bytes of one access as read now, and the state after it: the L1 for a plain load of a group (R209, R263). -/
def State.readAcc (s : State) (ag : Agent) (sp : Space) (plain : Bool) (hint : Nat) (x : Acc) : State × Nat :=
  match sp with
  | .scr => (s, rdN (s.teamOf ag).scr x.n x.pa)
  | .glob => if plain && !ag.isLeat then s.l1Read ag.core x.pa x.n hint else (s, s.readN x.n x.pa)

/-- The accesses of some lanes that the card itself performs: scratchpad, GDDR 7, erg windows. An image's lane has several, or none,
and those in host memory count once their line has arrived. -/
def Op.localLanes (o : Op) (s : State) : Dword :=
  match o.kind with
  | .image .. => maskOf ((lanesOf o.todo).filter fun l => o.acc.all fun a => a.lane ≠ l || s.onCard a.pa || a.k = 1)
  | _ => if o.kind.space = some .scr then o.todo else maskOf ((o.acc.filter fun a => o.todo.getLsbD a.lane && s.onCard a.pa).map (·.lane))

/-- Values of the lanes of a load, in ascending order, from memory or from what arrived. -/
def State.loadVals (s : State) (ag : Agent) (sp : Space) (plain : Bool) (hint : Nat) (ext : List Byte) :
    List Acc → State × List (Nat × Nat)
  | [] => (s, [])
  | x :: xs =>
    let r := if ext.isEmpty then s.readAcc ag sp plain hint x else (s, numOf (ext.take x.n))
    let t := r.1.loadVals ag sp plain hint (ext.drop x.n) xs
    (t.1, (x.lane, r.2) :: t.2)

/-- Memory errors met when data is read (R492): a correctable one is counted and corrected; an uncorrectable one is counted,
logged, and fatal to the context that consumes the data. -/
def State.eccRead (s : State) (r : Raiser) (pas : List Nat) : State :=
  if s.bad.isEmpty then s
  else
    let met := s.bad.filter fun (q : Nat × Bool) => pas.any fun pa => pa / 128 = q.1
    let s1 := met.foldl (fun (s : State) (q : Nat × Bool) => s.eccNote (128 * q.1) q.2) s
    let s2 := { s1 with bad := s1.bad.filter fun (q : Nat × Bool) => q.2 || !met.contains q }
    match List.find? (fun (q : Nat × Bool) => q.2) met with
    | some q => s2.fatal r { code := 33, detail := eccStruct s (128 * q.1), addr := 128 * q.1 }
    | none => s2

/-- A load's lanes are performed and land (R230); an acquire's are examined by the scope checker first. -/
def State.performLoad (s : State) (a : Nat) (ag : Agent) (o : Op) (sp : Space) (data : Nat) (scalar : Bool) (hint : Nat)
    (ord : Option Nat) (lanes : Dword) (ext : List Byte) : State :=
  let accs := o.acc.filter fun x => lanes.getLsbD x.lane
  let chk := match ord with
    | some sc => s.scopeAll (s.identOf ag) sc none accs
    | none => (s, [])
  let bad := chk.2.map (·.1)
  let r := chk.1.loadVals ag sp ord.isNone hint ext (accs.filter fun x => !bad.contains x.lane)
  let vals := r.2.flatMap fun v =>
    (dataVals scalar data (((accs.head?).map (·.n)).getD 4) (BitVec.ofNat 128 v.2)).map fun d => (d.1, v.1, d.2)
  let s1 := ((r.1.laneFail a o.id chk.2).landVals a o vals).laneDone a o.id lanes
  if sp = .glob ∧ ext.isEmpty then s1.eccRead (ag.raiser o.fid o.pc) (accs.map (·.pa)) else s1

/-- One store access is performed (R210, R219, R231). -/
def State.storeAcc (s : State) (a : Nat) (ag : Agent) (o : Op) (sp : Space) (hint : Nat) (ordered : Bool) (x : Acc) : State :=
  let bs := bytesOf x.n x.x.toNat
  match sp with
  | .scr => s.updTeam ag.team fun t => { t with scr := wrBytes t.scr x.pa bs }
  | .glob =>
    match s.paKind x.pa with
    | .host => { s with hostOut := s.hostOut ++ [(x.pa % 2 ^ 51, bs)] }
    | .peer =>
      let held := (KMap.find? s.peerBuf ag.core).getD []
      if held.any fun l => l.pa = lineOf x.pa then
        { s with peerBuf := KMap.put s.peerBuf ag.core (held.map fun l =>
            if l.pa = lineOf x.pa then { l with bytes := wrList l.bytes x.pa bs } else l) }
      else if natFld x.pa 44 6 = s.card then
        -- this card's own window rejects it (R464, R243)
        let code := match s.window s.card x.pa true with
          | .error d => d
          | .ok _ => 1
        let l : PeerLine := { ctx := ag.ctx, va := lineOf x.va, pa := lineOf x.pa, code := code, bytes := wrList [] x.pa bs }
        { s with peerBuf := KMap.put s.peerBuf ag.core (held ++ [l]) }
      else
        { s with
          fabOut := s.fabOut ++ [(x.pa, bs)]
          fabReqs := KMap.put s.fabReqs s.ids { agent := a, op := o.id, lanes := laneBit x.lane, kind := 1, pa := x.pa, due := s.clk + 150,
                                                      va := lineOf x.va, data := wrList [] x.pa bs,
                                                      ctx := ag.ctx, core := ag.core }
          ids := s.ids + 1 }
    | _ =>
      let s1 := s.devWrite x.pa bs
      if ag.isLeat then s1
      else if ordered then s1.l1Drop ag.core fun pa => pa = lineOf x.pa
      else s1.l1Store ag.core x.pa hint bs
where
  wrList (m : List (Nat × Byte)) (pa : Nat) : List Byte → List (Nat × Byte)
    | [] => m
    | b :: bs => wrList (KMap.put m pa b) (pa + 1) bs

/-- No lower lane of the same store that overlaps these lanes is left out (R228). -/
def Op.storeOrder (o : Op) (lanes : Dword) : Bool :=
  let mine := o.acc.filter fun x => lanes.getLsbD x.lane
  let rest := o.acc.filter fun x => o.todo.getLsbD x.lane && !lanes.getLsbD x.lane
  !(mine.any fun x => rest.any fun y => decide (y.lane < x.lane) && x.meets y)

def State.performStore (s : State) (a : Nat) (ag : Agent) (o : Op) (sp : Space) (hint : Nat) (ordered : Bool) (lanes : Dword) :
    State :=
  ((o.acc.filter fun x => lanes.getLsbD x.lane).foldl (fun s x => s.storeAcc a ag o sp hint ordered x) s).laneDone a o.id lanes

/-! ## Atomics (R44, R235) -/

/-- The value that an atomic writes, none when a CAS finds another value. -/
def atomVal (aop n old x y : Nat) : Option Nat :=
  let w := 8 * n
  match aop with
  | 0 => some ((old + x) % 2 ^ w)
  | 1 => some (if sx w x < sx w old then x else old)
  | 2 => some (if sx w old < sx w x then x else old)
  | 3 => some (min old x)
  | 4 => some (max old x)
  | 5 => some (old &&& x)
  | 6 => some (old ||| x)
  | 7 => some (old ^^^ x)
  | 8 => some x
  | 9 => if old = x then some y else none
  | 10 => some (f32.fadd .rne old x)
  | 11 => some (pairAdd f16 old x)
  | 12 => some (pairAdd bf16 old x)
  | 13 => some (f32.fminmax false old x)
  | _ => some (f32.fminmax true old x)
where
  pairAdd (D : Fmt) (a b : Nat) : Nat :=
    D.fadd .rne (a % 2 ^ 16) (b % 2 ^ 16) + 2 ^ 16 * D.fadd .rne (a / 2 ^ 16) (b / 2 ^ 16)

/-- One lane's read-modify-write on the card: the state and the old value. -/
def State.atomAcc (s : State) (ag : Agent) (sp : Space) (aop : Nat) (x : Acc) : State × Nat :=
  match sp with
  | .scr =>
    let old := rdN (s.teamOf ag).scr x.n x.pa
    match atomVal aop x.n old x.x.toNat x.y.toNat with
    | some v => (s.updTeam ag.team fun t => { t with scr := wrN t.scr x.n x.pa v }, old)
    | none => (s, old)
  | .glob =>
    let old := s.readN x.n x.pa
    match atomVal aop x.n old x.x.toNat x.y.toNat with
    | some v => ((s.devWrite x.pa (bytesOf x.n v)).l1Drop ag.core fun pa => pa = lineOf x.pa, old)
    | none => (s, old)

def State.atomAll (s : State) (ag : Agent) (sp : Space) (aop : Nat) : List Acc → State × List (Nat × Nat)
  | [] => (s, [])
  | x :: xs =>
    let r := s.atomAcc ag sp aop x
    let t := r.1.atomAll ag sp aop xs
    (t.1, (x.lane, r.2) :: t.2)

/-- The lanes of one 128-byte line of the erg or of one word of scratchpad are performed together (R235). -/
def Op.atomWhole (o : Op) (sp : Space) (lanes : Dword) : Bool :=
  let unit (a : Nat) : Nat := if sp = .scr then a / 4 else a / 128
  let mine := o.acc.filter fun x => lanes.getLsbD x.lane
  let rest := o.acc.filter fun x => o.todo.getLsbD x.lane && !lanes.getLsbD x.lane
  !(mine.any fun x => rest.any fun y => unit x.pa = unit y.pa)

/-- Lanes of an ATOMG or ATOMS are performed and land; `ext` holds the old values that a target card answered. -/
def State.performAtomic (s : State) (a : Nat) (ag : Agent) (o : Op) (sp : Space) (aop ord sch data : Nat) (lanes : Dword)
    (ext : List Byte) : State :=
  let accs := o.acc.filter fun x => lanes.getLsbD x.lane
  let chk := if sp = .glob ∧ ord % 2 = 1 then s.scopeAll (s.identOf ag) sch (some 1) accs else (s, [])
  let bad := chk.2.map (·.1)
  let live := accs.filter fun x => !bad.contains x.lane
  let n := ((accs.head?).map (·.n)).getD 4
  let r := if ext.isEmpty then chk.1.atomAll ag sp aop live
    else (chk.1, (live.zipIdx).map fun p => (p.1.lane, numOf ((ext.drop (n * p.2)).take n)))
  let vals := r.2.flatMap fun v => (dataVals false data n (BitVec.ofNat 128 v.2)).map fun d => (d.1, v.1, d.2)
  let s1 := ((r.1.laneFail a o.id chk.2).landVals a o vals).laneDone a o.id lanes
  if sp = .glob ∧ ext.isEmpty then s1.eccRead (ag.raiser o.fid o.pc) (accs.map (·.pa)) else s1

end Sys2Proof.Machine
end

