-- ==== Sys2Proof/Machine/MemInst.lean ====
section
/-!
DEFINITION. The memory, atomic and fence instructions (R223 to R243) and the sweeps (R189 to R193).
-/
namespace Sys2Proof.Machine

/-- Use of F-MEM by a row of R223. -/
structure MemRow where
  scalar : Bool := false
  /-- SCH values admitted; none: reserved. -/
  sch : Option Nat
  leat : Bool := false

def alignOf (scalar : Bool) (w : BitVec 3) : Nat := if scalar then (if w = 4 then 2 else 1) else widthRegs w

/-- Legality of loads and stores (R223, R41, R42, R57). -/
def legalMem (f : FMEM) (r : MemRow) : Legal where
  all := if r.scalar then 0 else f.all
  leat := r.leat
  rsv := (r.scalar && (fld f.data 7 3 ≠ 0 || f.voff ≠ 0x3FF)) || (r.sch.isNone && f.sch ≠ 0)
  bad := !widthLegal f.width || (match r.sch with
      | some m => decide (m < f.sch.toNat)
      | none => false) || decide (f.data.toNat % alignOf r.scalar f.width ≠ 0)
  vregs := (if r.scalar then [] else (List.range (widthRegs f.width)).map fun k => f.data.toNat + k)
    ++ (if r.scalar || f.voff = 0x3FF then [] else [f.voff.toNat])
  sregs := f.sbase.toNat :: (if r.scalar then f.data.toNat :: (if f.width = 4 then [f.data.toNat + 1] else []) else [])

/-- Addresses of the active lanes, or the one address of a scalar form (R224). -/
def memAddrs (f : FMEM) (scalar : Bool) (disp : Int) (c : Iss) : List (Nat × Int) :=
  if scalar then [(0, ((c.ag.sr f.sbase.toNat).toNat : Int) + disp)]
  else (lanesOf (c.active f.all)).map fun l => (l, laneAddr f c.ag disp l)

/-- Registers that name the addresses. -/
def addrReads (f : FMEM) (scalar : Bool) (c : Iss) : Regs :=
  sreg f.sbase.toNat :: (if scalar || f.voff = 0x3FF then [] else [(.v f.voff.toNat, c.active f.all)])

def dataFoot (f : FMEM) (scalar : Bool) (c : Iss) : Regs :=
  (dataRegs scalar f.data.toNat (widthBytes f.width)).map fun r => (r, if scalar then 1 else c.active f.all)

/-- A load (R230, R232, R233). -/
def loadIns (f : FMEM) (r : MemRow) (sp : Space) (ctr : Ctr) (ord : Option Nat) (ldc : Bool) : MemIns where
  lg := legalMem f r
  stl := f.stl.toNat
  pm := if r.scalar then .one else .lanes
  ctr := ctr
  foot := fun c => { reads := addrReads f r.scalar c, writes := dataFoot f r.scalar c }
  req := fun c => { sp := sp, n := widthBytes f.width, accs := memAddrs f r.scalar (disp19 f) c }
  kind := .load sp f.data.toNat r.scalar f.sch.toNat ord ldc
  rw := 0
  plain := sp = .glob && ord.isNone
  dsts := dataFoot f r.scalar
  scope := ord
  acq := ord.isSome

/-- A store (R230, R232). -/
def storeIns (f : FMEM) (r : MemRow) (sp : Space) (ctr : Ctr) (ord : Option Nat) : MemIns where
  lg := legalMem f r
  stl := f.stl.toNat
  pm := if r.scalar then .one else .lanes
  ctr := ctr
  foot := fun c => { reads := addrReads f r.scalar c ++ dataFoot f r.scalar c }
  req := fun c => { sp := sp, n := widthBytes f.width, write := true, accs := memAddrs f r.scalar (disp19 f) c }
  kind := .store sp r.scalar f.sch.toNat ord
  rw := 1
  val := fun c l => (dataOf c.ag r.scalar f.data.toNat (widthBytes f.width) l, 0)
  scope := ord
  rel := ord.isSome

def execLdg (f : FMEM) (s : State) : Out := memIns (loadIns f { sch := some 3 } .glob .g none false) s
def execLdgAcq (f : FMEM) (s : State) : Out := memIns (loadIns f { sch := some 4 } .glob .g (some f.sch.toNat) false) s
def execStg (f : FMEM) (s : State) : Out := memIns (storeIns f { sch := some 3 } .glob .g none) s
def execStgRel (f : FMEM) (s : State) : Out := memIns (storeIns f { sch := some 4 } .glob .g (some f.sch.toNat)) s
def execLdgs (f : FMEM) (s : State) : Out :=
  memIns (loadIns f { scalar := true, sch := some 3, leat := true } .glob .g none false) s
def execLdgsAcq (f : FMEM) (s : State) : Out :=
  memIns (loadIns f { scalar := true, sch := some 4, leat := true } .glob .g (some f.sch.toNat) false) s
def execStgs (f : FMEM) (s : State) : Out := memIns (storeIns f { scalar := true, sch := some 3, leat := true } .glob .g none) s
def execStgsRel (f : FMEM) (s : State) : Out :=
  memIns (storeIns f { scalar := true, sch := some 4, leat := true } .glob .g (some f.sch.toNat)) s
def execLdc (f : FMEM) (s : State) : Out := memIns (loadIns f { sch := some 1 } .glob .g none true) s
def execLds (f : FMEM) (s : State) : Out := memIns (loadIns f { sch := none } .scr .s none false) s
def execSts (f : FMEM) (s : State) : Out := memIns (storeIns f { sch := none } .scr .s none) s
def execLdss (f : FMEM) (s : State) : Out :=
  memIns (loadIns f { scalar := true, sch := none, leat := true } .scr .s none false) s
def execStss (f : FMEM) (s : State) : Out := memIns (storeIns f { scalar := true, sch := none, leat := true } .scr .s none) s

/-! ## Atomics -/

def aopOf (f : FMEM) : Nat := fldN f.imm 15 4
def ordOf (f : FMEM) : Nat := fldN f.imm 13 2

/-- Registers of the operand (R235): CAS takes the compare value and the new value. -/
def atomSpan (f : FMEM) : Nat := widthRegs f.width * (if aopOf f = 9 then 2 else 1)

/-- Legality of an atomic (R44, R235); `maxSch` its widest scope, `only` that it admits only this one. -/
def legalAtom (f : FMEM) (maxSch : Nat) (only : Bool) (host stat : Bool) : Legal where
  all := f.all
  rsv := stat && fld f.imm 0 6 ≠ 0
  bad := !(f.width = 2 || f.width = 3) || decide (15 ≤ aopOf f) || (f.width = 3 && decide (10 ≤ aopOf f))
    || (host && decide (10 ≤ aopOf f)) || decide (maxSch < f.sch.toNat) || (only && f.sch.toNat ≠ maxSch)
    || decide (f.data.toNat % atomSpan f ≠ 0)
  vregs := ((List.range (atomSpan f)).map fun k => f.data.toNat + k) ++ (if f.voff = 0x3FF then [] else [f.voff.toNat])
  sregs := [f.sbase.toNat]

def atomReads (f : FMEM) (c : Iss) : Regs :=
  addrReads f false c ++ (List.range (atomSpan f)).map fun k => (.v (f.data.toNat + k), c.active f.all)

/-- Operand and new value of a lane. -/
def atomOperand (f : FMEM) (c : Iss) (l : Nat) : BitVec 128 × BitVec 128 :=
  (dataOf c.ag false f.data.toNat (widthBytes f.width) l,
   if aopOf f = 9 then dataOf c.ag false (f.data.toNat + widthRegs f.width) (widthBytes f.width) l else 0)

/-- ATOMG and ATOMS (R235 to R237). -/
def atomIns (f : FMEM) (sp : Space) (ctr : Ctr) (maxSch : Nat) : MemIns where
  lg := legalAtom f maxSch false false false
  stl := f.stl.toNat
  ctr := ctr
  foot := fun c => { reads := atomReads f c, writes := dataFoot f false c }
  req := fun c =>
    { sp := sp, n := widthBytes f.width, write := true, atomic := true, host := some false, accs := memAddrs f false (disp13 f) c }
  kind := .atomic sp (aopOf f) (ordOf f) f.sch.toNat f.data.toNat
  rw := 2
  val := atomOperand f
  dsts := dataFoot f false
  scope := some f.sch.toNat
  rel := decide (2 ≤ ordOf f)
  acq := ordOf f % 2 = 1

def execAtomg (f : FMEM) (s : State) : Out := memIns (atomIns f .glob .e 4) s
def execAtoms (f : FMEM) (s : State) : Out := memIns (atomIns f .scr .s 1) s

/-- The lanes whose requests are on the link: those with no lower lane at the same address still to do (R238). -/
def Op.onLink (o : Op) : List Acc :=
  o.acc.filter fun x => o.todo.getLsbD x.lane &&
    !(o.acc.any fun y => o.todo.getLsbD y.lane && decide (y.lane < x.lane) && y.pa = x.pa)

/-- A lane of a host atomic fails (R239), which may list its page (R240). -/
def State.hostFail (s : State) (a : Nat) (o : Op) (x : Acc) (detail : Nat) : State :=
  let page := x.pa % 2 ^ 51 / 4096
  let s1 := if detail ≤ 1 ∧ !s.habl.contains page then
      { s with habl := (if 256 ≤ s.habl.length then s.habl.drop 1 else s.habl) ++ [page] } else s
  s1.laneFail a o.id [(x.lane, { code := 13, detail := detail, addr := x.va })]

/-- The scalar status of ATOMH.F at its return (R239). -/
def State.hostReturn (s : State) (a id : Nat) : State :=
  match (s.agent? a).bind fun ag => ag.findOp id with
  | none => s
  | some o =>
    if o.todo ≠ 0 then s
    else
      let s1 := match o.kind with
        | .hostAtomic _ _ (some r) => s.landVals a o [(.s r, 0, o.failed)]
        | _ => s
      (match o.kind with
        | .hostAtomic _ _ (some _) => s1.updAgent a fun ag => ag.updOp id fun q => { q with flt := none }
        | _ => s1).returnOp a id

/-- Puts on the link the requests that may go (R238); a lane to a listed page fails at once (R240). -/
def State.hostIssue (s : State) (a id : Nat) : Nat → State
  | 0 => s
  | fuel + 1 =>
    match (s.agent? a).bind fun ag => ag.findOp id with
    | none => s
    | some o =>
      match o.onLink.find? fun x => s.habl.contains (x.pa % 2 ^ 51 / 4096) && x.k = 0 &&
          !(s.hostReqs.any fun r => r.2.op = id && r.2.lanes.getLsbD x.lane) with
      | some x =>
        let s1 := (s.hostFail a o x 3).updAgent a fun ag => ag.updOp id fun q => { q with todo := q.todo &&& ~~~(laneBit x.lane) }
        s1.hostIssue a id fuel
      | none =>
        s.addHostReqs a id true (o.onLink.filter fun x =>
          !(s.hostReqs.any fun r => r.2.op = id && r.2.lanes.getLsbD x.lane))

/-- ATOMH and ATOMH.F (R238, R239). -/
def hostAtomIns (f : FMEM) (stat : Bool) : MemIns where
  lg := legalAtom f 3 true true stat
  stl := f.stl.toNat
  ctr := .e
  foot := fun c => { reads := atomReads f c, writes := dataFoot f false c ++ (if stat then [sreg (fldN f.imm 6 7)] else []) }
  req := fun c =>
    { sp := .glob, n := widthBytes f.width, write := true, atomic := true, host := some true,
      accs := memAddrs f false (if stat then 0 else disp13 f) c }
  kind := .hostAtomic (aopOf f) f.data.toNat (if stat then some (fldN f.imm 6 7) else none)
  rw := 2
  val := atomOperand f
  dsts := fun c => dataFoot f false c ++ (if stat then [sreg (fldN f.imm 6 7)] else [])
  scope := some 3
  rel := decide (2 ≤ ordOf f)
  acq := ordOf f % 2 = 1
  holds := !stat

/-- The newest operation of an agent, once it is issued, puts its requests on the link. -/
def startHostAtomic (before : Nat) (o : Out) (s : State) : Out :=
  match o with
  | .next t =>
    match (t.agent? s.cur.1).bind fun ag => ag.ops.find? fun q => decide (before ≤ q.id) with
    | some q => .next (t.hostIssue s.cur.1 q.id 65)
    | none => .next t
  | r => r

def execAtomh (f : FMEM) (s : State) : Out := startHostAtomic s.ids (memIns (hostAtomIns f false) s) s
def execAtomhF (f : FMEM) (s : State) : Out := startHostAtomic s.ids (memIns (hostAtomIns f true) s) s

/-! ## PREF (R234) -/

def execPref (f : FMEM) (s : State) : Out :=
  issueWith s
    { all := f.all, rsv := f.data ≠ 0 || f.width ≠ 0, bad := decide (2 < f.sch.toNat),
      vregs := if f.voff = 0x3FF then [] else [f.voff.toNat], sregs := [f.sbase.toNat] }
    (fun c => { reads := addrReads f false c }) .lanes 0 true fun s c p =>
      let accs := (memAddrs f false (disp19 f) c).filterMap fun q =>
        match ({ sp := .glob, n := 1, accs := [q] } : Req).early s c.ag with
        | some _ => none
        | none => if c.ag.pure then none else match s.translate c.ag.core c.ag.ctx q.2.toNat with
          | .error _ => none
          | .ok t => if s.onCard (t.phys q.2.toNat) then some (t.phys q.2.toNat) else none
      let s1 := if f.sch = 2 then s else accs.foldl (fun s pa => (s.l1Read c.ag.core pa 1 f.sch.toNat).1) s
      .next (s1.updFrag c.a c.fid fun fr => fr.adv (s.clk + extraPass p + 1 + f.stl.toNat))

/-! ## Waiting and fences -/

def ctrOfCode (n : Nat) : Ctr := if n = 0 then .g else if n = 1 then .s else if n = 2 then .e else .m

/-- WAITC (R241). -/
def execWaitc (f : FMEM) (s : State) : Out :=
  issueWith s
    { all := f.all, rsv := f.data ≠ 0 || f.voff ≠ 0 || f.width ≠ 0 || f.sch ≠ 0 || fld f.imm 2 17 ≠ 0, sregs := [f.sbase.toNat] }
    (fun _ => { reads := [sreg f.sbase.toNat] }) .one 0 true fun s c _ =>
      let k := ctrOfCode (fldN f.imm 0 2)
      let t := if 4 ≤ c.fr.phase then c.fr.hop else min (c.ag.sr f.sbase.toNat).toNat 63
      if c.ag.ctrVal k ≤ t then
        .next (if 4 ≤ c.fr.phase then s.finishHold c f.stl.toNat 1
          else s.updFrag c.a c.fid fun fr => fr.adv (s.clk + 1 + f.stl.toNat))
      else match c.ag.rejectedCtr k t with
        | some flt => .next (s.raise c.a c.fid flt)
        | none => .next ((s.hold c (.ctr k t) 4).updFrag c.a c.fid fun fr => { fr with hop := t })

/-- FENCE (R242): kind 1 acquire, 2 release, 3 both. -/
def execFence (f : FMEM) (s : State) : Out :=
  issueWith s
    { all := f.all, leat := true, rsv := f.data ≠ 0 || f.voff ≠ 0x3FF || f.width ≠ 0 || fld f.imm 2 17 ≠ 0 || f.sbase ≠ 0,
      bad := decide (4 < f.sch.toNat) || fld f.imm 0 2 = 0 }
    (fun _ => {}) .one 0 true fun s c _ =>
      let kind := fldN f.imm 0 2
      match s.releaseWait c.a c.ag (if 2 ≤ kind then f.sch.toNat else 0) with
      | some w =>
        match c.ag.rejected (fun o => o.kind.isAccess) with
        | some flt => .next (s.raise c.a c.fid flt)
        | none => .next (s.hold c w 4)
      | none =>
        match (if 2 ≤ kind then s.heldPeer c.ag.core c.ag.ctx else none) with
        | some flt => .next (s.raise c.a c.fid flt)
        | none =>
          let wide := kind % 2 = 1 ∧ f.sch.toNat ≠ 0
          let s1 := if wide then s.l1Inval c.ag.core else s
          let e := s.clk + if wide then 9 else 1
          .next (s1.updFrag c.a c.fid fun fr =>
            fr.adv (max (if c.fr.phase < 4 ∧ ¬wide then s.clk else e) ((if c.fr.phase < 4 then s.clk else fr.iss) + 1 + f.stl.toNat)))

/-! ## Sweeps (R189 to R193) -/

/-- Opcode group of a sweep: 0 SWADD, 1 SWMUL, 2 SWFMA, 3 SWMAX, 4 SWCVT. -/
def sweepLegal (f : FSWP) (kind : Nat) : Legal where
  all := 0
  rsv := (kind = 4 && (f.sb ≠ 0 || f.stepb ≠ 0)) || (f.sr = 1 && !(kind = 4 && decide (f.ty.toNat ≤ 1)))
  bad := f.cnt = 0

/-- Bytes of a segment of each operand (R189): destination, sources A and B. -/
def segBytes (kind ty : Nat) : Nat × Nat × Nat :=
  if kind < 4 then (128, 128, 128) else if ty ≤ 1 then (64, 128, 0) else (128, 64, 0)

/-- Base offsets of a repetition (R190). -/
def segAt (base : Nat) (step : Int) (i : Nat) : Int := (base : Int) + 32 * i * step

/-- The first and last byte of a base's segments. -/
def segSpan (base : Nat) (step : Int) (cnt n : Nat) : Int × Int :=
  let e := segAt base step (cnt - 1)
  (min (base : Int) e, max (base : Int) e + n - 1)

/-- Number of accesses of a repetition (R192). -/
def sweepAccs (kind : Nat) : Nat := if kind = 2 then 4 else if kind = 4 then 2 else 3

/-- A sweep's segments: destination, A, B, by base register, step and bytes. -/
def sweepOps (f : FSWP) (kind : Nat) (ag : Agent) : List (Dword × Int × Nat × Bool) :=
  let n := segBytes kind f.ty.toNat
  (ag.sr f.sd.toNat, f.stepd.toInt, n.1, true) :: (ag.sr f.sa.toNat, f.stepa.toInt, n.2.1, false) ::
    (if kind = 4 then [] else [(ag.sr f.sb.toNat, f.stepb.toInt, n.2.2, false)])

/-- R191. -/
def sweepCheck (f : FSWP) (kind : Nat) (s : State) (ag : Agent) : Option Flt :=
  let tm := s.teamOf ag
  let os := sweepOps f kind ag
  let out (o : Dword × Int × Nat × Bool) : Bool :=
    let sp := segSpan o.1.toNat o.2.1 f.cnt.toNat o.2.2.1
    decide (2 ^ 32 ≤ o.1.toNat) || decide (sp.1 < 0 ∨ (tm.size : Int) ≤ sp.2)
  match os.find? out with
  | some o => some (illegalAddr o.1.toNat)
  | none =>
    match os.find? fun o => o.1.toNat % 4 ≠ 0 with
    | some o => some (misalign o.1.toNat)
    | none =>
      let hit (o : Dword × Int × Nat × Bool) : Option (BitVec 128) :=
        (List.range f.cnt.toNat).findSome? fun i =>
          let a := (segAt o.1.toNat o.2.1 i).toNat
          let l := tm.loc a
          match s.lockHit l.1 ag.ctx 0 l.2 o.2.2.1 o.2.2.2 with
          | some b => some b
          | none => let e := tm.loc (a + o.2.2.1 - 4); if e.1 = l.1 then none else s.lockHit e.1 ag.ctx 0 e.2 4 o.2.2.2
      match os.findSome? fun o => (hit o).map fun b => (o, b) with
      | some (o, b) => some { code := 10, addr := o.1.toNat, info := b.toNat }
      | none => none

/-- A sweep (R190 to R192): checked as a whole, then one access a clk. -/
def sweep (f : FSWP) (kind : Nat) (s : State) : Out :=
  match s.issuer with
  | none => .fault .noIssuer
  | some c =>
    if (sweepLegal f kind |>.fate c).isNone ∧ c.ag.ctrVal .s = 63 then .next (s.hold c (.ctr .s 62) 0)
    else
      issueWith s (sweepLegal f kind)
        (fun _ => { reads := sregs ([f.sd.toNat, f.sa.toNat] ++ (if kind = 4 then [] else [f.sb.toNat])) }) .one 0 false
        fun s c _ =>
          if c.ag.pure ∧ f.sr = 1 then .next (s.raise c.a c.fid purity)
          else
            match sweepCheck f kind s c.ag with
            | some flt => .next (s.raise c.a c.fid flt)
            | none =>
              let sr := f.sr = 1
              let o : Op :=
                { id := s.ids, fid := c.fid, ctr := some .s, issue := s.clk, due := s.clk + 1,
                  kind := .sweep kind f.ty.toNat sr f.cnt.toNat 0 0 (c.ag.sr f.sd.toNat).toNat (c.ag.sr f.sa.toNat).toNat
                    (c.ag.sr f.sb.toNat).toNat f.stepd.toInt f.stepa.toInt f.stepb.toInt [] [] []
                  sc := [c.ag.srx] }
              let s1 := ({ s with ids := s.ids + 1 }).startOp c.a o
              .next (s1.updAgent c.a fun ag =>
                let ag1 := if sr then { ag with srx := (List.range f.cnt.toNat).foldl (fun x _ => srNext x) ag.srx } else ag
                ag1.updFrag c.fid fun fr => fr.adv (s.clk + 1 + f.stl.toNat))

def execSwadd (f : FSWP) (s : State) : Out := sweep f 0 s
def execSwmul (f : FSWP) (s : State) : Out := sweep f 1 s
def execSwfma (f : FSWP) (s : State) : Out := sweep f 2 s
def execSwmax (f : FSWP) (s : State) : Out := sweep f 3 s
def execSwcvt (f : FSWP) (s : State) : Out := sweep f 4 s

end Sys2Proof.Machine
end

