-- ==== Sys2Proof/Machine/Image.lean ====
section
/-!
DEFINITION. Images: SAMPLE and TXLD (R244 to R249). Real numbers are kept as integers in units of 2^-160, in which every F32
value, level of detail and texel position is exact.
-/
namespace Sys2Proof.Machine

/-! ## Descriptors -/

def imBase (d : BitVec 512) : Nat := fldN d 0 48
def imFmt (d : BitVec 512) : Nat := fldN d 48 4
def imLevM1 (d : BitVec 512) : Nat := fldN d 52 4
def imWm1 (d : BitVec 512) : Nat := fldN d 64 14
def imHm1 (d : BitVec 512) : Nat := fldN d 80 14
def imLayM1 (d : BitVec 512) : Nat := fldN d 96 11
def imLStride (d : BitVec 512) : Nat := fldN d 128 48

/-- A descriptor that R244 calls invalid; the sampler's under R247. -/
def imBad (d : BitVec 512) (smp : Option (BitVec 256)) : Bool :=
  fldN d 56 8 ≠ 0 || fldN d 78 2 ≠ 0 || fldN d 94 2 ≠ 0 || fldN d 107 21 ≠ 0 || fldN d 176 336 ≠ 0 || imBase d % 256 ≠ 0
    || imLStride d % 256 ≠ 0 || decide (13 ≤ imFmt d) || imLevM1 d = 15
    || (match smp with
      | none => false
      | some s => fldN s 8 8 ≠ 0 || fldN s 48 208 ≠ 0 || fldN s 6 2 = 3)

/-- Bytes of a texel (R245). -/
def texelBytes (fmt : Nat) : Nat :=
  match fmt with
  | 0 => 1
  | 1 | 5 | 7 => 2
  | 2 | 3 | 4 | 8 | 10 => 4
  | 6 | 9 | 11 => 8
  | _ => 16

def levW (d : BitVec 512) (k : Nat) : Nat := max 1 ((imWm1 d + 1) >>> k)
def levH (d : BitVec 512) (k : Nat) : Nat := max 1 ((imHm1 d + 1) >>> k)
def pitchOf (d : BitVec 512) (k : Nat) : Nat := (texelBytes (imFmt d) * levW d k + 255) / 256 * 256
def ofsOf (d : BitVec 512) : Nat → Nat
  | 0 => 0
  | k + 1 => ofsOf d k + pitchOf d k * levH d k

/-- Address of texel (x, y) of level k of layer z (R244). -/
def texelAddr (d : BitVec 512) (x y k z : Nat) : Nat :=
  imBase d + z * imLStride d + ofsOf d k + y * pitchOf d k + x * texelBytes (imFmt d)

/-! ## Texel formats (R245) -/

/-- round_rne of the positive rational p / q to F32. -/
def ratF32 (p q : Nat) : Nat := f32.round .rne false false (p * 2 ^ 64 / q) (-64) (p * 2 ^ 64 % q ≠ 0)

def unorm (n c : Nat) : Nat := ratF32 c (2 ^ n - 1)

/-- Largest y below 2^fuel more than y0 with y^5 q at most p. -/
def root5 (p q : Nat) : (fuel y : Nat) → Nat
  | 0, y => y
  | f + 1, y => let z := y + 2 ^ f; root5 p q f (if z ^ 5 * q ≤ p then z else y)

/-- An sRGB component: s / 12.92 for c up to 10, else ((s + 0.055) / 1.055)^2.4, whose base is (40 c + 561) / 10761. -/
def srgb (c : Nat) : Nat :=
  if c ≤ 10 then ratF32 (5 * c) 16473
  else
    let p := (40 * c + 561) ^ 12 * 2 ^ 320
    let q := 10761 ^ 12
    let y := root5 p q 65 0
    f32.round .rne false false y (-64) (y ^ 5 * q ≠ p)

def f16to32 (x : Nat) : Nat := f32.conv .rne false (f16.decode x)

def oneF : Nat := 0x3F80_0000

/-- Components red, green, blue, alpha of a stored texel. -/
def texelDecode (fmt x : Nat) : List Nat :=
  let f (n k : Nat) : Nat := natFld x (n * k) n
  match fmt with
  | 0 => [unorm 8 (f 8 0), 0, 0, oneF]
  | 1 => [unorm 8 (f 8 0), unorm 8 (f 8 1), 0, oneF]
  | 2 => [unorm 8 (f 8 0), unorm 8 (f 8 1), unorm 8 (f 8 2), unorm 8 (f 8 3)]
  | 3 => [srgb (f 8 0), srgb (f 8 1), srgb (f 8 2), unorm 8 (f 8 3)]
  | 4 => [unorm 10 (f 10 0), unorm 10 (f 10 1), unorm 10 (f 10 2), unorm 2 (natFld x 30 2)]
  | 5 => [unorm 16 (f 16 0), 0, 0, oneF]
  | 6 => [unorm 16 (f 16 0), unorm 16 (f 16 1), unorm 16 (f 16 2), unorm 16 (f 16 3)]
  | 7 => [f16to32 (f 16 0), 0, 0, oneF]
  | 8 => [f16to32 (f 16 0), f16to32 (f 16 1), 0, oneF]
  | 9 => [f16to32 (f 16 0), f16to32 (f 16 1), f16to32 (f 16 2), f16to32 (f 16 3)]
  | 10 => [f 32 0, 0, 0, oneF]
  | 11 => [f 32 0, f 32 1, 0, oneF]
  | _ => [f 32 0, f 32 1, f 32 2, f 32 3]

/-! ## Sampling (R248) -/

/-- One, and the value of an F32 word, in units of 2^-160; NaN is 0 and an infinity ±`inf`. -/
def uOne : Int := 2 ^ 160
def uOf (inf : Int) (w : Word) : Int :=
  match f32.decode w.toNat with
  | .nan => 0
  | .inf n => if n then -inf else inf
  | .fin n m e => let x : Int := (m : Int) * 2 ^ (e + 160).toNat; if n then -x else x

/-- Nearest integer, ties to even. -/
def uRound (x : Int) : Int :=
  let q := x / uOne
  let r := 2 * (x % uOne)
  if uOne < r ∨ (r = uOne ∧ q % 2 = 1) then q + 1 else q

/-- q8: the fraction in units of 1/256. -/
def uQ8 (x : Int) : Nat := (x * 256 / uOne).toNat

/-- Texel addressing: none is OUT. -/
def texAddr (i : Int) (n mode : Nat) : Option Nat :=
  match mode with
  | 0 => some (i % n).toNat
  | 1 => some (min (max i 0) (n - 1)).toNat
  | 2 => let m := i % (2 * n); some (if m < n then m else 2 * n - 1 - m).toNat
  | _ => if 0 ≤ i ∧ i < n then some i.toNat else none

/-- lerp4 for one component; t in units of 1/256. -/
def lerp1 (a b t : Nat) : Nat :=
  match f32.decode a, f32.decode b with
  | .fin na ma ea, .fin nb mb eb =>
    let v (n : Bool) (m : Nat) (e : Int) : Int := scaled n m e (-149)
    let x := 256 * v na ma ea + t * (v nb mb eb - v na ma ea)
    if x = 0 then 0 else f32.round .rne false (decide (x < 0)) x.natAbs (-157)
  | _, _ =>
    if t = 0 then a
    else f32.fadd .rne (f32.fmul .rne a (ratF32 (256 - t) 256)) (f32.fmul .rne b (ratF32 t 256))

def lerp4 (a b : List Nat) (t : Nat) : List Nat := (a.zip b).map fun p => lerp1 p.1 p.2 t

/-- The positions that a lane of SAMPLE reads, as levels, layer and weights (R248). -/
structure SampPos where
  k0 : Nat
  k1 : Nat
  f : Nat
  z : Nat
  deriving DecidableEq, Repr

def sampPos (d : BitVec 512) (smp : BitVec 256) (lay lod : Word) : SampPos :=
  let big : Int := 2 ^ 400
  let hi := min ((fldN smp 32 16 : Int) * uOne / 256) ((imLevM1 d : Int) * uOne)
  let l := max ((fldN smp 16 16 : Int) * uOne / 256) (min (uOf big lod) hi)
  let z := (min (max (uRound (uOf big lay)) 0) (imLayM1 d)).toNat
  if fldN smp 1 1 = 0 then
    let k := ((l + uOne / 2) / uOne).toNat
    { k0 := k, k1 := k, f := 0, z := z }
  else
    let k := (l / uOne).toNat
    { k0 := k, k1 := min (k + 1) (imLevM1 d), f := uQ8 (l - k * uOne), z := z }

/-- The texel positions that filt(k) names, and its weights: FILT 0 names one. -/
def filtPos (d : BitVec 512) (smp : BitVec 256) (u v : Word) (k : Nat) : List (Int × Int) × Nat × Nat :=
  let inf : Int := 2 ^ 24 * uOne
  let x := uOf inf u * levW d k - uOne / 2
  let y := uOf inf v * levH d k - uOne / 2
  if fldN smp 0 1 = 0 then ([((x + uOne / 2) / uOne, (y + uOne / 2) / uOne)], 0, 0)
  else
    let i := x / uOne
    let j := y / uOne
    ([(i, j), (i + 1, j), (i, j + 1), (i + 1, j + 1)], uQ8 (x - i * uOne), uQ8 (y - j * uOne))

/-- Address of a texel position of a level under the sampler, none when it is OUT. -/
def sampAddr (d : BitVec 512) (smp : BitVec 256) (k z : Nat) (p : Int × Int) : Option Nat :=
  match texAddr p.1 (levW d k) (fldN smp 2 2), texAddr p.2 (levH d k) (fldN smp 4 2) with
  | some i, some j => some (texelAddr d i j k z)
  | _, _ => none

def borderOf (smp : BitVec 256) : List Nat :=
  match fldN smp 6 2 with
  | 0 => [0, 0, 0, 0]
  | 1 => [0, 0, 0, oneF]
  | _ => [oneF, oneF, oneF, oneF]

/-- filt(k) with the texels as `rd` gives them. -/
def filt (d : BitVec 512) (smp : BitVec 256) (c : List Word) (k z : Nat) (rd : Nat → Nat) : List Nat :=
  let q := filtPos d smp (c.getD 0 0) (c.getD 1 0) k
  let tx := q.1.map fun p => match sampAddr d smp k z p with
    | some a => texelDecode (imFmt d) (rd a)
    | none => borderOf smp
  match tx with
  | [a, b, e, g] => lerp4 (lerp4 a b q.2.1) (lerp4 e g q.2.1) q.2.2
  | a :: _ => a
  | [] => []

/-- Addresses that a lane reads. -/
def imgAddrs (d : BitVec 512) (smp : Option (BitVec 256)) (c : List Word) : List Nat :=
  match smp with
  | none =>
    let x := (c.getD 0 0).toInt
    let y := (c.getD 1 0).toInt
    let z := (c.getD 2 0).toNat
    let k := (c.getD 3 0).toNat
    if x < 0 ∨ imLevM1 d < k ∨ imLayM1 d < z ∨ y < 0 ∨ (levW d k : Int) ≤ x ∨ (levH d k : Int) ≤ y then []
    else [texelAddr d x.toNat y.toNat k z]
  | some smp =>
    let p := sampPos d smp (c.getD 2 0) (c.getD 3 0)
    (([p.k0, p.k1].flatMap fun k =>
      (filtPos d smp (c.getD 0 0) (c.getD 1 0) k).1.filterMap fun q => sampAddr d smp k p.z q)).eraseDups

/-- The four components of a lane (R246, R248). -/
def imgValue (d : BitVec 512) (smp : Option (BitVec 256)) (c : List Word) (rd : Nat → Nat) : List Nat :=
  match smp with
  | none =>
    match imgAddrs d none c with
    | a :: _ => texelDecode (imFmt d) (rd a)
    | [] => [0, 0, 0, 0]
  | some sm =>
    let p := sampPos d sm (c.getD 2 0) (c.getD 3 0)
    lerp4 (filt d sm c p.k0 p.z rd) (filt d sm c p.k1 p.z rd) p.f

/-- The result in the form of WIDTH (R246). -/
def imgWords (w128 : Bool) (v : List Nat) : List Word :=
  if w128 then v.map (BitVec.ofNat 32)
  else
    let h (k : Nat) : Nat := f16.conv .rne false (f32.decode (v.getD k 0))
    [ofElems 6 [h 0, h 1], ofElems 6 [h 2, h 3]]

/-! ## The instructions -/

def legalImage (f : FMEM) : Legal where
  all := f.all
  rsv := f.imm ≠ 0
  bad := !(f.width = 3 || f.width = 4) || decide (3 < f.sch.toNat) || f.voff = 0x3FF || decide (f.voff.toNat % 4 ≠ 0)
    || decide (f.data.toNat % widthRegs f.width ≠ 0)
  vregs := ((List.range (widthRegs f.width)).map fun k => f.data.toNat + k) ++ (List.range 4).map fun k => f.voff.toNat + k
  sregs := [f.sbase.toNat]

/-- The coordinate group of a lane. -/
def coordOf (f : FMEM) (ag : Agent) (l : Nat) : List Word := (List.range 4).map fun k => ag.vr (f.voff.toNat + k) l

/-- The checks on a descriptor's address, and on that of the sampler after it, for every active lane (R225). -/
def descCheck (s : State) (c : Iss) (lanes : Dword) (sample : Bool) (addr : Int) : Chk :=
  let chk (n : Nat) (a : Int) : Chk :=
    ({ sp := .glob, n := n, accs := (lanesOf lanes).map fun l => (l, a) } : Req).check s c.ag (c.fr.phase = 2)
  match chk 64 addr with
  | .ok l =>
    if sample then
      match chk 32 (addr + 64) with
      | .ok l2 => .ok (l.take 1 ++ l2.take 1)
      | r => r
    else .ok (l.take 1)
  | r => r

/-- SAMPLE and TXLD. -/
def image (f : FMEM) (sample : Bool) (s : State) : Out :=
  match s.issuer with
  | none => .fault .noIssuer
  | some c =>
    if (legalImage f |>.fate c).isNone ∧ c.ag.ctrVal .g = 63 then .next (s.hold c (.ctr .g 62) 0)
    else
      issueWith s (legalImage f)
        (fun c =>
          { reads := sreg f.sbase.toNat :: vregsOn ((List.range 4).map fun k => f.voff.toNat + k) (c.active f.all),
            writes := dataFoot f false c }) .lanes 0 false fun s c p =>
          let act := c.active f.all
          let addr : Int := (c.ag.sr f.sbase.toNat).toNat
          let w128 := f.width = 4
          let go (s : State) (d : BitVec 768) : Out :=
            let im := d.setWidth 512
            let smp : Option (BitVec 256) := if sample then some (fld d 512 256) else none
            if imBad im smp then .next (s.raise c.a c.fid (illegalOp 5))
            else
              let co := (lanesOf act).map fun l => (l, coordOf f c.ag l)
              let q : Req := { sp := .glob, n := texelBytes (imFmt im),
                               accs := co.flatMap fun x => (imgAddrs im smp x.2).map fun (a : Nat) => (x.1, (a : Int)) }
              match q.check s c.ag (c.fr.phase = 2) with
              | .fault flt => .next (s.raise c.a c.fid flt)
              | .hold s1 w => .next (s1.hold c w c.fr.phase)
              | .ok l =>
                let accs : List Acc := l.map fun x => { lane := x.1, va := x.2.1, pa := x.2.2, n := q.n }
                let s1 := s.issueMem
                  { lg := legalImage f, stl := f.stl.toNat, ctr := .g, foot := fun _ => {}, req := fun _ => q,
                    kind := .image f.data.toNat w128 f.sch.toNat im smp co, rw := 0, plain := true,
                    dsts := dataFoot f false, add := if sample then 12 else 4 } c p accs
                .next (s1.updAgent c.a fun ag => ag.updOp s.ids fun o => { o with todo := act })
          if act = 0 then go s 0
          else
            match descCheck s c act sample addr with
            | .fault flt => .next (s.raise c.a c.fid flt)
            | .hold s1 w => .next (s1.hold c w c.fr.phase)
            | .ok l =>
              let core := s.core c.ag.core
              match core.dsc.find? fun e => e.1 = c.ag.ctx && e.2.1 = addr.toNat with
              | some e => go s e.2.2
              | none =>
                let pa := (l.getD 0 (0, 0, 0)).2.2
                let bits := BitVec.ofNat 768 (s.readN 64 pa + (if sample then 2 ^ 512 * s.readN 32 (l.getD 1 (0, 0, 0)).2.2 else 0))
                let s1 := s.setCore c.ag.core { core with dsc := ((c.ag.ctx, addr.toNat, bits) :: core.dsc).take 64 }
                .next (s1.hold c (.clk (s.clk + lineLat s c.ag.core pa 0)) c.fr.phase)

def execSample (f : FMEM) (s : State) : Out := image f true s
def execTxld (f : FMEM) (s : State) : Out := image f false s

/-- A lane's texels are read and land (R246, R249): those of the card now, those of the host from what its lines brought, those of a
peer from what the target card answers. -/
def State.performImage (s : State) (a : Nat) (ag : Agent) (o : Op) (data : Nat) (w128 : Bool) (hint : Nat) (d : BitVec 512)
    (smp : Option (BitVec 256)) (co : List (Nat × List Word)) (lanes : Dword) (ext : List Byte) : State :=
  let accs := o.acc.filter fun x => lanes.getLsbD x.lane
  let rec rd (s : State) (ext : List Byte) : List Acc → State × List (Nat × Nat)
    | [] => (s, [])
    | x :: xs =>
      let far := s.paKind x.pa = .peer
      let r := if x.k = 1 then (s, x.x.toNat) else if far then (s, numOf (ext.take x.n)) else s.readAcc ag .glob true hint x
      let t := rd r.1 (if far then ext.drop x.n else ext) xs
      (t.1, (x.va, r.2) :: t.2)
  let r := rd s ext accs
  let look (va : Nat) : Nat := ((r.2.find? fun p => p.1 = va).map (·.2)).getD 0
  let vals := (co.filter fun c => lanes.getLsbD c.1).flatMap fun c =>
    (imgWords w128 (imgValue d smp c.2 look)).zipIdx.map fun w => (Reg.v (data + w.2), c.1, w.1.setWidth 64)
  (r.1.landVals a o vals).laneDone a o.id lanes

end Sys2Proof.Machine
end

