-- ==== Sys2Proof/Machine/MemEvents.lean ====
section
/-!
DEFINITION. The events of memory (R192, R219, R235, R238 to R243, R274, R415, R456 to R458, R464, R465). An event that is not
enabled leaves the state as it is.
-/
namespace Sys2Proof.Machine

/-! ## Operations -/

/-- STORE_ACCEPT: lanes of a store are accepted where their bytes lie; with no lane left, the end of a sweep. -/
def execStoreAccept (op : Nat) (lanes : Dword) (s : State) : Out :=
  match s.opOwner op with
  | none => .next s
  | some (a, ag, o) =>
    if s.clk < o.due ∨ o.returned then .next s
    else match o.kind with
      | .store sp _ hint ord =>
        if o.todo = 0 then .next (s.returnOp a op)
        else if lanes = 0 ∨ lanes &&& ~~~o.todo ≠ 0 ∨ ag.blocked o lanes ∨ !o.storeOrder lanes then .next s
        else .next (s.performStore a ag o sp hint ord.isSome lanes)
      | .sweep _ _ _ cnt rep .. => if rep = cnt then .next (s.returnOp a op) else .next s
      | _ => .next s

/-- ATOMIC_RETURN: lanes of an atomic are performed on the card; with `ext`, the old values that a target card answers. -/
def execAtomicReturn (op : Nat) (lanes : Dword) (ext : List Byte) (s : State) : Out :=
  match s.opOwner op with
  | none => .next s
  | some (a, ag, o) =>
    if s.clk < o.due ∨ o.returned then .next s
    else match o.kind with
      | .atomic sp aop ord sch data =>
        if o.todo = 0 then .next (s.returnOp a op)
        else if lanes = 0 ∨ lanes &&& ~~~o.todo ≠ 0 ∨ ag.blocked o lanes ∨ !o.atomWhole sp lanes then .next s
        else if ext.isEmpty ∧ lanes &&& ~~~(o.localLanes s) ≠ 0 then .next s
        else if !ext.isEmpty ∧ lanes &&& o.localLanes s ≠ 0 then .next s
        else .next (s.performAtomic a ag o sp aop ord sch data lanes ext)
      | .hostAtomic .. => if o.todo = 0 then .next (s.hostReturn a op) else .next s
      | _ => .next s

/-! ## Sweeps (R190, R192) -/

/-- n consecutive words of a team's space. -/
def scrWords (tm : Team) (off n : Nat) : List Word := (List.range n).map fun k => BitVec.ofNat 32 (rdN tm.scr 4 (off + 4 * k))

/-- The words that a repetition writes (R189). -/
def sweepOut (kind ty : Nat) (sr : Option Dword) (a b d : List Word) : List Word :=
  let vty : BitVec 4 := if ty = 0 then 2 else if ty = 1 then 3 else if ty = 2 then 4 else 0
  let lane (g : Nat → Nat → Nat → Nat) : List Word :=
    ((a.zip b).zip (if d.isEmpty then a else d)).map fun p => emap vty g p.1.1 p.1.2 p.2
  match kind with
  | 0 => lane (addE vty 0)
  | 1 => lane (mulE vty 0)
  | 2 => lane (arith vty 0 (fun x y z => x * y + z) fun D rm x y z => D.ffma rm x y z)
  | 3 => lane (minmaxE true vty)
  | _ =>
    if ty ≤ 1 then
      let D := if ty = 0 then f16 else bf16
      (List.range 16).map fun k =>
        let e (j : Nat) : Nat := cvElem D .rne false (sr.map fun x => srRnd x k j) (f32.decode (a.getD (2 * k + j) 0).toNat)
        ofElems 6 [e 0, e 1]
    else
      let D := if ty = 2 then f16 else bf16
      a.flatMap fun w => [BitVec.ofNat 32 (f32.conv .rne false (D.decode (fldN w 0 16))),
                          BitVec.ofNat 32 (f32.conv .rne false (D.decode (fldN w 16 16)))]

/-- The accesses of the group's own earlier operation to the scratchpad are served: a sweep observes them (R193). The operation
returns when it is due. -/
def State.serveScr (s : State) (a : Nat) (o : Op) : State :=
  match s.agent? a with
  | none => s
  | some ag =>
    match o.kind with
    | .load .scr data scalar hint ord _ => s.performLoad a ag o .scr data scalar hint ord o.todo []
    | .store .scr _ hint ord => s.performStore a ag o .scr hint ord.isSome o.todo
    | .atomic .scr aop ord sch data => s.performAtomic a ag o .scr aop ord sch data o.todo []
    | _ => s

/-- SWEEP_SEGMENT_ACCESS: the next access of the repetition, its reads before its write. -/
def execSweepSegmentAccess (op : Nat) (s : State) : Out :=
  match s.opOwner op with
  | none => .next s
  | some (a, ag, o) =>
    match o.kind with
    | .sweep kind ty sr cnt rep stage d x y sd sx sy ga gb gd =>
      if rep = cnt ∨ s.clk < o.due then .next s
      else
        let n := segBytes kind ty
        let last := sweepAccs kind - 1
        let tm := s.teamOf ag
        -- operand of the access: the write is the last; SWFMA reads its destination before
        let off := if stage = last ∨ (kind = 2 ∧ stage = 2) then (segAt d.toNat sd rep).toNat
          else if stage = 0 then (segAt x.toNat sx rep).toNat else (segAt y.toNat sy rep).toNat
        let bytes := if stage = last ∨ (kind = 2 ∧ stage = 2) then n.1 else if stage = 0 then n.2.1 else n.2.2
        let me : Acc := { lane := 0, va := off, pa := off, n := bytes }
        let own := ag.ops.filter fun (q : Op) => decide (q.id < op) && q.kind.space = some .scr && q.todo ≠ 0
        let early := own.any fun (q : Op) => q.acc.any fun b => q.todo.getLsbD b.lane && me.meets b
        let older := ag.ops.any fun (q : Op) => decide (q.id < op) && match q.kind with
          | .sweep _ _ _ c r .. => decide (r < c)
          | _ => false
        if older then .next s
        else if early then .next (s.serveScr a (own.foldl (fun m q => if q.id < m.id then q else m) (own.headD o)))
        else
          let far := tm.touchesPartner ag.core off || tm.touchesPartner ag.core (off + bytes - 1)
          let x0 := o.sc.headD 0
          let rd := scrWords tm off (bytes / 4)
          let wr := sweepOut kind ty (if sr then some ((List.range (rep + 1)).foldl (fun z _ => srNext z) x0) else none) ga gb gd
          let s1 := if stage = last then
              s.updTeam ag.team fun t => { t with scr := wrBytes t.scr off (wr.flatMap fun w => bytesOf 4 w.toNat) }
            else s
          let rep' := if stage = last then rep + 1 else rep
          let fars := (if far then 1#64 else 0) ||| o.em
          let kind' : OpKind :=
            if stage = last then .sweep kind ty sr cnt rep' 0 d x y sd sx sy [] [] []
            else if kind = 2 ∧ stage = 2 then .sweep kind ty sr cnt rep 3 d x y sd sx sy ga gb rd
            else if stage = 0 then .sweep kind ty sr cnt rep 1 d x y sd sx sy rd gb gd
            else .sweep kind ty sr cnt rep 2 d x y sd sx sy ga rd gd
          .next (s1.updAgent a fun g => g.updOp op fun q =>
            { q with kind := kind', em := fars, due := if rep' = cnt then s.clk + 20 + (if fars = 0 then 0 else 16) else s.clk + 1 })
    | _ => .next s

/-! ## Host link -/

/-- Logs an error of a host read (R458): 0 UR, 1 CA, 2 TMO. -/
def State.logHerr (s : State) (bit pa : Nat) : State :=
  let h := s.barFld (blkHost + 1) 0 4
  if h = 0 then (s.barPut (blkHost + 1) bit 1 1).barPut (blkHost + 2) 0 51 (pa % 2 ^ 51)
  else (s.barPut (blkHost + 1) bit 1 1).barPut (blkHost + 1) 3 1 1

/-- A host atomic request of a lane has been answered (R238): 0 success with the value `val`, 1 Unsupported Request, 2 Completer
Abort, 3 timed out. -/
def State.hostAnswer (s : State) (a : Nat) (o : Op) (x : Acc) (status : Nat) (val : Dword) : State :=
  match o.kind with
  | .hostAtomic aop data _ =>
    let done (s : State) : State :=
      ((s.updAgent a fun ag => ag.updOp o.id fun q => { q with todo := q.todo &&& ~~~(laneBit x.lane) }).hostIssue a o.id 65)
    let win (s : State) (old : Nat) : State :=
      done (s.landVals a o ((dataVals false data x.n (BitVec.ofNat 128 old)).map fun d => (d.1, x.lane, d.2)))
    if status ≠ 0 then done (s.hostFail a o x (status - 1))
    else if aop = 0 ∨ 8 ≤ aop then win s (val.toNat % 2 ^ (8 * x.n))
    else
      let v := val.toNat % 2 ^ (8 * x.n)
      if v = x.v.toNat then win s v
      else if x.k + 1 = 64 then done (s.hostFail a o x 4)
      else
        (s.updAgent a fun ag => ag.updOp o.id fun q =>
          { q with acc := q.acc.map fun y => if y.lane = x.lane then { y with v := BitVec.ofNat 64 v, k := y.k + 1 } else y }).hostIssue
            a o.id 65
  | _ => s

/-- HOST_ATOMIC_COMPLETION. -/
def execHostAtomicCompletion (op lane status : Nat) (val : Dword) (s : State) : Out :=
  match s.opOwner op with
  | none => .next s
  | some (a, _, o) =>
    match List.find? (fun (r : Nat × HostReq) => r.2.op = op && r.2.lanes.getLsbD lane) s.hostReqs,
          o.acc.find? fun x => x.lane = lane && o.todo.getLsbD lane with
    | some r, some x =>
      if s.clk < r.2.due then .next s
      else .next (({ s with hostReqs := KMap.del s.hostReqs r.1 }).hostAnswer a o x status val)
    | _, _ => .next s

/-- A read of the host link has its bytes: they land in the lanes of the request, from the 128-byte line of `pa` (R457). The texels
of an image are kept until its lane has them all; the adder of R249 counts from the arrival. -/
def State.hostLand (s : State) (a : Nat) (ag : Agent) (o : Op) (lanes : Dword) (pa : Nat) (line : List Byte) : State :=
  let accs := o.acc.filter fun x => lanes.getLsbD x.lane
  let ext := accs.flatMap fun x => (List.range x.n).map fun k => line.getD ((x.pa + k) % 128) 0xFF
  match o.kind with
  | .load sp data scalar hint ord _ => s.performLoad a ag o sp data scalar hint ord lanes ext
  | .image _ _ _ _ smp _ => s.updAgent a fun ag => ag.updOp o.id fun q =>
      { q with
        due := max q.due (s.clk + if smp.isSome then 12 else 4)
        acc := q.acc.map fun x =>
          if lanes.getLsbD x.lane ∧ lineOf x.pa = lineOf pa then
            { x with x := BitVec.ofNat 128 (numOf ((List.range x.n).map fun k => line.getD ((x.pa + k) % 128) 0xFF)), k := 1 }
          else x }
  | _ => s

/-- HABL_CLEAR. -/
def execHablClear (s : State) : Out := .next { s with habl := [] }

/-! ## Peers -/

/-- PEER_STORE_REJECT (R243): the line of a lane's store is held. `code` 1 XLATE, 2 PROT; `op` names the fabric request. -/
def execPeerStoreReject (op _lane code : Nat) (s : State) : Out :=
  match KMap.find? s.fabReqs op with
  | none => .next s
  | some r =>
    if r.kind = 3 then
      -- a piece of a collective: its operation parks (R473)
      let f : Flt := { code := if code = 2 then 2 else 1, detail := if code = 2 then 1 + 2 ^ 10 else 5 + 2 ^ 10, addr := r.pa % 2 ^ 44 }
      .next { s with
        fabReqs := s.fabReqs.filter (fun (q : Nat × FabReq) => !(q.2.kind = 3 ∧ q.2.op = r.op ∧ q.2.va = r.va))
        xops := KMap.upd s.xops r.op fun x =>
          if x.out.any fun q => q.1 = r.va then
            { x with out := x.out.filter (fun q => q.1 ≠ r.va), pas := x.pas.filter (fun q => q.1 ≠ r.va), todo := r.va :: x.todo,
                     fault := some (x.fault.getD f) }
          else x }
    else if r.kind ≠ 1 then .next s
    else
      let held := (KMap.find? s.peerBuf r.core).getD []
      let s1 := { s with fabReqs := KMap.del s.fabReqs op }
      if held.any fun l => l.pa = lineOf r.pa then
        .next { s1 with peerBuf := KMap.put s.peerBuf r.core (held.map fun l =>
          if l.pa = lineOf r.pa then { l with bytes := r.data.foldl (fun m b => KMap.put m b.1 b.2) l.bytes } else l) }
      else
        let l : PeerLine := { ctx := r.ctx, va := r.va, pa := lineOf r.pa, code := if code = 2 then 2 else 1, bytes := r.data }
        .next { s1 with peerBuf := KMap.put s.peerBuf r.core (held ++ [l]) }

/-- Wakes every fragment of an agent that waits for operations or a counter, so that it judges its wait again (R465). -/
def Agent.wakeWaits (ag : Agent) : Agent :=
  { ag with frags := ag.frags.map fun (p : Nat × Frag) =>
      match p.2.wait with
      | .ops .. => (p.1, { p.2 with wait := .none })
      | .ctr .. => (p.1, { p.2 with wait := .none })
      | .yield => (p.1, { p.2 with wait := .none })
      | .ended => (p.1, { p.2 with wait := .none })
      | _ => p }

/-- PEER_LOAD_REJECT (R465): `code` 1 XLATE, 2 PROT: rejected lanes write nothing and the operation is not counted off. 9 SCOPE:
the lanes fail at the target's checker (R269, R272); the line's record there is a free value (log entry 2). -/
def execPeerLoadReject (op : Nat) (lanes : Dword) (code : Nat) (s : State) : Out :=
  match s.opOwner op with
  | none => .next s
  | some (a, ag, o) =>
    let mine := o.acc.filter fun x => lanes.getLsbD x.lane && o.todo.getLsbD x.lane && s.paKind x.pa = .peer
    match mine with
    | [] => .next s
    | x :: _ =>
      if s.clk < o.due then .next s
      else if code = 9 then
        let flt (x : Acc) : Flt :=
          { code := 9, addr := x.va / 64 * 64, info := (Config.freeDword s.free).toNat }
        .next ((({ s with free := s.free + 1 }).laneFail a op (mine.map fun (x : Acc) => (x.lane, flt x))).laneDone a op (maskOf (mine.map fun (x : Acc) => x.lane)))
      else
        let m := maskOf (mine.map (·.lane)) ||| ((o.rej.map (·.lm)).getD 0)
        let f : Flt := match o.rej with
          | some f => { f with lm := m }
          | none => { code := if code = 2 then 2 else 1, detail := if code = 2 then 1 + 2 ^ 10 else 5, lm := m, addr := x.va, pc := some o.pc }
        .next (s.putAgent a ((ag.updOp op fun q => { q with rej := some f }).wakeWaits))

/-- FABRIC_RESPONSE_TIMEOUT (R464): rejected as XLATE detail 5. -/
def execFabricResponseTimeout (req : Nat) (s : State) : Out :=
  match KMap.find? s.fabReqs req with
  | none => .next s
  | some r => if s.clk < r.due + 1250000 then .next s else execPeerStoreReject req 0 1 s

/-! ## Walks (R415) -/

/-- Every valid translation of a 64 KiB region, as the line of 16 level-0 entries gives them. -/
def State.lineWalks (s : State) (ctx va : Nat) : List Tlb :=
  ((List.range 16).filterMap fun i => match s.walk ctx (va / 2 ^ 16 * 2 ^ 16 + 4096 * i) with
    | .ok t => some t
    | .error _ => none).eraseDups

/-- TLB_WALK_DONE: the TLBs are filled and the accesses that wait issue; one that finds no translation faults then. -/
def execTlbWalkDone (walk : Nat) (s : State) : Out :=
  match KMap.find? s.walks walk with
  | none => .next s
  | some w =>
    if s.clk < w.due then .next s
    else
      let ts := s.lineWalks w.ctx w.va
      let s1 := ts.foldl (fun s t => s.fillL2 (w.core / 64) t) { s with walks := KMap.del s.walks walk }
      let waits := s.agents.filter fun p => p.2.frags.any fun f => f.2.wait = .walk walk
      let pieces := (s.xops.filter fun (q : Nat × Xop) => q.2.hold = .walk walk).map fun q => q.2.core
      let s2 := (w.core :: (waits.map fun p => p.2.core) ++ pieces).eraseDups.foldl (fun s c => ts.foldl (fun s t => s.fillL1 c t) s) s1
      let bad := match s.walk w.ctx w.va with
        | .ok _ => false
        | .error _ => true
      .next (waits.foldl (init := s2) fun s p => s.updAgent p.1 fun ag =>
        { ag with frags := ag.frags.map fun (f : Nat × Frag) =>
            if f.2.wait = .walk walk then (f.1, { f.2 with wait := .none, phase := if bad then 2 else f.2.phase }) else f })

/-! ## Requests of the host (R274, R455, R456) -/

/-- Physical address of a BAR 0 offset in its memory ranges. -/
def State.barMem (s : State) (off : Nat) : Option Nat :=
  if off < 0x20_0000_0000 then some off
  else if 0x20_0000_0000 ≤ off ∧ off < 0x20_0000_0000 + s.ergSize 0 then some (off - 0x20_0000_0000 + 0x100_0000_0000)
  else if 0x20_2000_0000 ≤ off ∧ off < 0x20_2000_0000 + s.ergSize 1 then some (off - 0x20_2000_0000 + 0x100_2000_0000)
  else none

/-- Base of the register blocks, and one past their end. -/
def barRegs : Nat := 0x3F_0000_0000
def isReg (off : Nat) : Bool := decide (barRegs ≤ off ∧ off < barRegs + 0x80_0000)

/-- Register blocks that the runner alone writes: flow descriptors (R381), context descriptors (R411), wall windows (R463). -/
def runnerOnly (i : Nat) : Bool :=
  decide ((blkMedia ≤ i ∧ i < blkMedia + 512) ∨ (blkCtx ≤ i ∧ i < blkCtx + 512) ∨ (blkFab + 0x20 ≤ i ∧ i < blkFab + 0x60))

/-- INBOUND_MEM_WRITE: to memory, performed at the erg, from stage 5 on (R497); to a register block, a register write of 4 or 8
bytes that is naturally aligned (R456). -/
def execInboundMemWrite (off : Nat) (bytes : List Byte) (s : State) : Out :=
  match s.barMem off, s.barMem (off + bytes.length - 1) with
  | some pa, some _ => if bytes.isEmpty ∨ s.stage ≠ 5 then .next s else .next (s.devWrite pa bytes)
  | _, _ =>
    let n := bytes.length
    if isReg off ∧ (n = 8 ∨ n = 4) ∧ off % n = 0 ∧ !runnerOnly ((off - barRegs) / 8) then
      if (off - barRegs) / 8 = blkHost + 0x21 then .next (s.happen [.lvcapWrite (BitVec.ofNat 64 (numOf bytes)) false])
      else .next (s.happen [.registerWrite (off - barRegs) n (BitVec.ofNat 64 (numOf bytes))])
    else .next s

/-- What a read of a register block returns: write-only fields read zero; COUNT of HABL, USED of the reuse quotas, the quote in the
mailbox; zero outside the host block before stage 5 (R497). -/
def State.regRead (s : State) (i : Nat) : Dword :=
  if s.stage ≠ 5 ∧ !(decide (blkHost ≤ i ∧ i < blkFab)) then 0
  else if i = blkHost + 3 then BitVec.ofNat 64 (s.habl.length * 2 ^ 8)
  else if 0x201 ≤ i ∧ i < 0x211 then
    putFld (s.barRd i) 16 16 (s.reuse.filter fun (e : Nat × ReuseEnt) => e.2.tenant = i - 0x201).length
  else if 0x220 ≤ i ∧ i < 0x260 then 0
  else if blkHost + 0x800 ≤ i ∧ i < blkHost + 0x1000 then
    BitVec.ofNat 64 (numOf ((s.quote.drop (8 * (i - blkHost - 0x800))).take 8))
  else s.barRd i

/-- INBOUND_MEM_READ: the completion carries the bytes; all ones for another size of a register read. -/
def execInboundMemRead (off n : Nat) (s : State) : Out :=
  match s.barMem off, s.barMem (off + n - 1) with
  | some pa, some _ =>
    .next { s with answers := s.answers ++ [(off, if s.stage ≠ 5 then List.replicate n 0 else rdBytes s.mem n pa)] }
  | _, _ =>
    if isReg off then
      let x := (s.regRead ((off - barRegs) / 8)).toNat
      let bs := if n = 8 ∧ off % 8 = 0 then bytesOf 8 x
        else if n = 4 ∧ off % 4 = 0 then bytesOf 4 (x / 2 ^ (8 * (off % 8)))
        else List.replicate n 0xFF
      .next { s with answers := s.answers ++ [(off, bs)] }
    else .next { s with answers := s.answers ++ [(off, [])] }

/-- INBOUND_ATOMICOP: kind 0 FetchAdd, 8 Swap, 9 CAS of 32 or 64 bits, examined as an atomic of the host at `.sys` (R269, R274);
the completion carries the old value, none for Unsupported Request. -/
def execInboundAtomicop (off kind width : Nat) (x y : Dword) (s : State) : Out :=
  match s.barMem off with
  | some pa =>
    if s.stage = 5 ∧ (width = 4 ∨ width = 8) ∧ (kind = 0 ∨ kind = 8 ∨ kind = 9) ∧ off % width = 0 then
      let r := s.scopeOne (hostIdent s.card) 3 (some 1) pa
      if !r.1 then .next { s with answers := s.answers ++ [(off, [])] }
      else
        let old := s.readN width pa
        let s1 := match atomVal kind width old (x.toNat % 2 ^ (8 * width)) (y.toNat % 2 ^ (8 * width)) with
          | some v => r.2.devWrite pa (bytesOf width v)
          | none => r.2
        .next { s1 with answers := s1.answers ++ [(off, bytesOf width old)] }
    else .next { s with answers := s.answers ++ [(off, [])] }
  | none => .next { s with answers := s.answers ++ [(off, [])] }

end Sys2Proof.Machine
end

