-- ==== Sys2Proof/Machine/Handles.lean ====
section
/-!
DEFINITION. Buffer handles (R314 to R320): their states, headers, layouts and waits, HDESC, and the group instructions on them
(R331, R332). Handle h of core c stands at key 256 c + h; a team's handles are entries of its first core's table (R314).
-/
namespace Sys2Proof.Machine

/-! ## Layouts (R320) -/

def phi (layout t : Nat) : Nat :=
  match layout with
  | 0 => t
  | 1 => t / 128 * 128 + (t / 16 % 8 ^^^ t / 128 % 8) * 16 + t % 16
  | 2 => t / 64 * 64 + (t / 16 % 4 ^^^ t / 64 % 4) * 16 + t % 16
  | _ => t / 256 * 256 + (t / 32 % 8 ^^^ t / 256 % 8) * 32 + t % 32

/-! ## The table and the header (R314 to R318) -/

def hkey (core h : Nat) : Nat := 256 * core + h

/-- Handle h as the team of an agent names it (R319). -/
def State.handleOf (s : State) (ag : Agent) (h : Nat) : Option (Nat × Handle) :=
  let k := hkey (s.teamOf ag).core h
  match KMap.find? s.handles k with
  | some x => if x.team = ag.team then some (k, x) else none
  | none => none

def State.setHandle (s : State) (k : Nat) (x : Handle) : State := { s with handles := KMap.put s.handles k x }

/-- Bytes of sector j that lie below EXPECT (R318). -/
def sectorBytes (expect j : Nat) : Nat := min 512 (expect - 512 * j)

def State.hdrN (s : State) (x : Handle) (off n : Nat) : Nat :=
  match s.team? x.team with
  | some t => rdN t.scr n (x.roff + off)
  | none => 0

def State.hdrPut (s : State) (x : Handle) (off n v : Nat) : State :=
  s.updTeam x.team fun t => { t with scr := wrN t.scr n (x.roff + off) v }

/-- Writes ARRIVED and EXPECT of the header from the table's own copies. -/
def State.hdrCounts (s : State) (x : Handle) : State := (s.hdrPut x 32 4 x.arrived).hdrPut x 36 4 x.expect

/-- The start of an opening fill: FREE to FILLING. -/
def State.openFill (s : State) (k : Nat) (x : Handle) (expect : Nat) : State :=
  let y := { x with st := 1, phase := 1 - x.phase, expect := expect, arrived := 0, rels := 0 }
  (((s.setHandle k y).hdrPut y 0 32 0).hdrPut y 40 4 0).hdrCounts y

/-- Sector j has arrived: its bit, ARRIVED, and FULL when ARRIVED reaches EXPECT. -/
def State.sectorIn (s : State) (k j : Nat) : State :=
  match KMap.find? s.handles k with
  | none => s
  | some x =>
    let b := s.hdrN x 0 32
    if natFld b j 1 = 1 then s
    else
      let y := { x with arrived := x.arrived + sectorBytes x.expect j }
      let y := if y.arrived = y.expect ∧ y.st = 1 then { y with st := 2, rels := y.nrel } else y
      ((s.setHandle k y).hdrPut y 0 32 (b + 2 ^ j)).hdrCounts y

/-- The last write of sector j of a drain is accepted: its bit clears, and FREE when ARRIVED reaches 0. -/
def State.sectorOut (s : State) (k j : Nat) : State :=
  match KMap.find? s.handles k with
  | none => s
  | some x =>
    let b := s.hdrN x 0 32
    if natFld b j 1 = 0 then s
    else
      let y := { x with arrived := x.arrived - sectorBytes x.expect j }
      let y := if y.arrived = 0 ∧ y.st = 3 then { y with st := 0 } else y
      ((s.setHandle k y).hdrPut y 0 32 (b - 2 ^ j)).hdrCounts y

/-- PADCNT grows (R327, R328). -/
def State.padAdd (s : State) (x : Handle) (n : Nat) : State := s.hdrPut x 40 4 (s.hdrN x 40 4 + n)

/-- Some matrix operation in flight reads the handle (R304): its source entry stands in the table. -/
def State.matrixReads (s : State) (k : Nat) (x : Handle) : Bool :=
  match s.team? x.team with
  | none => false
  | some t =>
    (s.locksOf (k / 256)).any fun p =>
      let b := p.2.bits
      decide (4 ≤ fldN b 96 4) && lockKind b = 0 && lockSpace b = 0
        && overlap (t.loc (x.roff + 64)).2 (512 * x.dsec) (lockBase b) (lockLen b)

/-- RELS falls by 1; at 0 the handle becomes FREE, or its change is deferred (R304, R332). -/
def State.consume (s : State) (k : Nat) (x : Handle) : State :=
  let y := { x with rels := x.rels - 1 }
  if y.rels ≠ 0 then s.setHandle k y
  else if s.matrixReads k x then s.setHandle k { y with deferred := true }
  else s.setHandle k { y with st := 0, deferred := false }

/-- The deferred changes that no matrix operation holds back any more. -/
def State.deferDone (s : State) : State :=
  s.handles.foldl (init := s) fun s p =>
    if p.2.deferred ∧ !s.matrixReads p.1 p.2 then s.setHandle p.1 { p.2 with st := 0, deferred := false } else s

/-- BUFREL.PUB: FREE to FULL with a published count (R317). -/
def State.publish (s : State) (k : Nat) (x : Handle) (n : Nat) : State :=
  let y := { x with st := 2, phase := 1 - x.phase, expect := n, arrived := n, rels := x.nrel }
  (((s.setHandle k y).hdrPut y 0 32 (2 ^ ((n + 511) / 512) - 1)).hdrPut y 40 4 0).hdrCounts y

/-- An operation on the handle that has started and not completed. -/
def State.opsOn (s : State) (k : Nat) : Bool := s.xops.any fun p => hkey p.2.core p.2.h = k && p.2.st ≠ .waiting

/-! ## HDESC (R314, R315) -/

def hdescOf (x : Handle) : Dword :=
  BitVec.ofNat 64 (x.roff + x.dsec * 2 ^ 32 + x.layout * 2 ^ 41 + (x.nrel - 1) * 2 ^ 45 + 2 ^ 63)

def badHdesc : Flt := illegalOp 9

/-- A write of HDESCh by the bound team's leat. -/
def State.hdescWr (s : State) (ag : Agent) (h : Nat) (v : Dword) : Except Flt State :=
  let t := s.teamOf ag
  let k := hkey t.core h
  let old := KMap.find? s.handles k
  let en : Bool := fldN v 63 1 = 1
  let rsv := fldN v 20 12 ≠ 0 || fldN v 44 1 ≠ 0 || fldN v 51 12 ≠ 0
  let mine := match old with
    | some x => x.team = ag.team && x.st = 0 && !s.opsOn k
    | none => false
  if rsv || !(mine || (en && old.isNone)) then .error badHdesc
  else if !en then .ok { s with handles := KMap.del s.handles k }
  else
    let roff := fldN v 0 20
    let dsec := fldN v 32 9
    if roff % 64 ≠ 0 ∨ dsec = 0 ∨ 256 < dsec ∨ 3 < fldN v 41 3 ∨ min t.size (2 ^ 20) < roff + 64 + 512 * dsec then .error badHdesc
    else
      let y : Handle :=
        { roff := roff, dsec := dsec, layout := fldN v 41 3, nrel := fldN v 45 6 + 1, team := ag.team,
          phase := (old.map (·.phase)).getD 0 }
      .ok ((s.setHandle k y).updTeam ag.team fun t => { t with scr := wrN t.scr 64 roff 0 })

/-- HDESC_WRITE: an SWR of a leat to HDESCh. -/
def execHdescWrite (a h : Nat) (v : Dword) (s : State) : Out :=
  match s.agent? a with
  | none => .next s
  | some ag =>
    if !ag.isLeat then .next s
    else match s.hdescWr ag h v with
      | .ok s1 => .next s1
      | .error f => .next (s.raise a 0 f)

/-! ## Waits (R267, R319) -/

/-- The handle is held by the agent's team in a state and phase; phase 2 stands for either. -/
def State.handleIn (s : State) (ag : Agent) (h st ph : Nat) : Bool :=
  match s.handleOf ag h with
  | some (_, x) => x.st = st && (ph = 2 || x.phase = ph)
  | none => false

/-- A handle wait that has ended is an acquire at `.team` or wider: the core's L1 is invalidated (R265, R267). -/
def State.handleAcquire (s : State) (ag : Agent) : State := if ag.isLeat then s else s.l1Inval ag.core

/-- A deadline that no pt reaches (R19). -/
def never : Dword := 0xFFFF_FFFF_FFFF_FFFF#64

/-! ## LDB and STB (R331) -/

def bufHandle (f : FMEM) : Nat := fldN f.imm 11 8

def legalBuf (f : FMEM) : Legal where
  all := f.all
  rsv := f.sbase ≠ 0
  bad := !widthLegal f.width || decide (3 < f.sch.toNat) || decide (f.data.toNat % widthRegs f.width ≠ 0)
  vregs := ((List.range (widthRegs f.width)).map fun k => f.data.toNat + k) ++ (if f.voff = 0x3FF then [] else [f.voff.toNat])

/-- Logical offsets of the active lanes. -/
def bufOffs (f : FMEM) (c : Iss) : List (Nat × Int) :=
  (lanesOf (c.active f.all)).map fun l => (l, (voffOf f c.ag l : Int) + (fld f.imm 0 11).toInt)

def bufAccess (f : FMEM) (store : Bool) (s : State) : Out :=
  match s.issuer with
  | none => .fault .noIssuer
  | some c =>
    if (legalBuf f |>.fate c).isNone ∧ c.ag.ctrVal .s = 63 then .next (s.hold c (.ctr .s 62) 0)
    else
      let n := widthBytes f.width
      let offs (c : Iss) : Regs := if f.voff = 0x3FF then [] else [(.v f.voff.toNat, c.active f.all)]
      issueWith s (legalBuf f)
        (fun c => if store then { reads := offs c ++ dataFoot f false c } else { reads := offs c, writes := dataFoot f false c })
        .lanes 0 false fun s c p =>
          match s.handleOf c.ag (bufHandle f) with
          | none => .next (s.raise c.a c.fid { code := 4 })
          | some (_, x) =>
            if x.layout ≠ f.sch.toNat then .next (s.raise c.a c.fid { code := 11 })
            else if x.st ≠ (if store then 0 else 2) then
              .next (s.hold c (.handle (bufHandle f) (if store then 0 else 2) 2 never) 0)
            else
              let ts := bufOffs f c
              match failAt ts (fun p => decide (p.2 < 0 ∨ (512 * x.dsec : Int) < p.2 + n)) (fun m p => illegalAddr p.2 m) with
              | some flt => .next (s.raise c.a c.fid flt)
              | none =>
                match failAt ts (fun p => p.2 % n ≠ 0) (fun m p => misalign p.2.toNat m) with
                | some flt => .next (s.raise c.a c.fid flt)
                | none =>
                  let q : Req := { sp := .scr, n := n, write := store,
                                   accs := ts.map fun p => (p.1, ((x.roff + 64 + phi x.layout p.2.toNat : Nat) : Int)) }
                  match q.early s c.ag with
                  | some flt => .next (s.raise c.a c.fid flt)
                  | none =>
                    let accs : List Acc := q.accs.map fun p =>
                      { lane := p.1, va := p.2.toNat, pa := p.2.toNat, n := n,
                        x := if store then dataOf c.ag false f.data.toNat n p.1 else 0 }
                    let m : MemIns :=
                      { lg := legalBuf f, stl := f.stl.toNat, ctr := .s, foot := fun _ => {}, req := fun _ => q,
                        kind := if store then .store .scr false 0 none else .load .scr f.data.toNat false 0 none false,
                        rw := if store then 1 else 0, dsts := fun c => if store then [] else dataFoot f false c }
                    .next ((s.handleAcquire c.ag).issueMem m c p accs)

def execLdb (f : FMEM) (s : State) : Out := bufAccess f false s
def execStb (f : FMEM) (s : State) : Out := bufAccess f true s

/-! ## BUFWAIT, BUFREL, BUFSTAT (R332) -/

/-- Which operand fields of an F-SYS row are used. -/
structure SysRow where
  sd : Bool := false
  sa : Bool := false
  sb : Bool := false
  res : Bool := false
  /-- Bits of IMM19 that are used. -/
  imm : BitVec 19 := 0
  leat : Bool := false
  grp : Bool := true
  hnd : Bool := false
  noHnd : Bool := false
  bad : Bool := false
  rsv : Bool := false
  /-- SUB values listed; `subRsv`: SUB is a reserved field. -/
  subs : List Nat := [0]
  subRsv : Bool := false
  deriving DecidableEq, Repr

/-- Legality of an F-SYS instruction: a reserved field is every one that the row does not use. -/
def legalSys (f : FSYS) (r : SysRow) : Legal where
  all := f.all
  leat := r.leat
  grp := r.grp
  hnd := r.hnd
  noHnd := r.noHnd
  rsv := (!r.sd && f.sd ≠ 0) || (!r.sa && f.sa ≠ 0) || (!r.sb && f.sb ≠ 0) || (!r.res && f.res ≠ 0) || f.imm &&& ~~~r.imm ≠ 0 || r.rsv
    || (r.subRsv && f.sub ≠ 0)
  bad := r.bad || (!r.subRsv && !r.subs.contains f.sub.toNat)
  sregs := (if r.sd then [f.sd.toNat] else []) ++ (if r.sa then [f.sa.toNat] else []) ++ (if r.sb then [f.sb.toNat] else [])

/-- A fixed-latency scalar result, readable from a clk (R63). -/
def State.putS (s : State) (c : Iss) (r : Nat) (x : Dword) (ready : Nat) : State :=
  s.updAgent c.a fun ag =>
    let ag := markWrites ag [sreg r]
    { ag with pend := ag.pend ++ [{ fid := c.fid, dst := .s r, vals := [(0, x)], ready := ready }] }

/-- The instruction completes: at once, or at the end of its hold (R241). -/
def State.sysDone (s : State) (c : Iss) (stl : Nat) : State :=
  if 4 ≤ c.fr.phase then s.finishHold c stl 1 else s.updFrag c.a c.fid fun fr => fr.adv (s.clk + 1 + stl)

/-- BUFWAIT. -/
def execBufwait (f : FSYS) (s : State) : Out :=
  issueWith s (legalSys f { sd := true, sa := true, res := true, imm := 7 })
    (fun _ => { reads := [sreg f.sa.toNat], writes := [sreg f.sd.toNat] }) .one 2 true fun s c _ =>
      let h := f.res.toNat
      let dl := match c.fr.phase, c.fr.hop with
        | 4, t => BitVec.ofNat 64 t
        | _, _ => c.ag.sr f.sa.toNat
      match s.handleOf c.ag h with
      | none => .next (s.raise c.a c.fid { code := 4 })
      | some _ =>
        if s.handleIn c.ag h (fldN f.imm 0 2) (fldN f.imm 2 1) then
          .next (((s.handleAcquire c.ag).putS c f.sd.toNat 0 (s.clk + 2)).sysDone c f.stl.toNat)
        else if dl.toNat ≤ s.pt then .next ((s.putS c f.sd.toNat 1 (s.clk + 2)).sysDone c f.stl.toNat)
        else
          .next ((s.hold c (.handle h (fldN f.imm 0 2) (fldN f.imm 2 1) dl) 4).updFrag c.a c.fid fun fr => { fr with hop := dl.toNat })

/-- BUFREL: the checks, the release, then the action on the handle. -/
def bufrel (f : FSYS) (pub : Bool) (s : State) : Out :=
  issueWith s (legalSys f { sa := pub, res := true, subs := if pub then [1] else [0] }) (fun _ => { reads := if pub then [sreg f.sa.toNat] else [] }) .one 0 true
    fun s c _ =>
      match s.handleOf c.ag f.res.toNat with
      | none => .next (s.raise c.a c.fid { code := 4 })
      | some (k, x) =>
        let n := if c.fr.phase = 4 then c.fr.hop else (c.ag.sr f.sa.toNat).toNat
        let ok := if pub then decide (x.st = 0 ∧ 1 ≤ n ∧ n ≤ 512 * x.dsec) else decide (x.st = 2 ∧ 1 ≤ x.rels)
        if !ok then .next (s.raise c.a c.fid (illegalOp 8))
        else match s.releaseWait c.a c.ag 0 with
          | some w => .next ((s.hold c w 4).updFrag c.a c.fid fun fr => { fr with hop := n })
          | none => .next ((if pub then s.publish k x n else s.consume k x).sysDone c f.stl.toNat)

def execBufrelCons (f : FSYS) (s : State) : Out := bufrel f false s
def execBufrelPub (f : FSYS) (s : State) : Out := bufrel f true s

/-- The status word of BUFSTAT. -/
def State.bufStatus (s : State) (ag : Agent) (h : Nat) : Dword :=
  match s.handleOf ag h with
  | none => 0
  | some (k, x) =>
    let pks := s.xops.filter fun p => hkey p.2.core p.2.h = k && p.2.pk
    let pk := if pks.isEmpty then 0 else 1
    let sv := if !pks.isEmpty && pks.all (fun p => p.2.sv) then 1 else 0
    BitVec.ofNat 64 (x.st + x.phase * 4 + pk * 8 + sv * 16 + 32 + 64 + x.arrived * 2 ^ 8 + x.expect * 2 ^ 26
      + (if x.st = 2 then x.rels else 0) * 2 ^ 44)

def execBufstat (f : FSYS) (s : State) : Out :=
  issueLocal s (legalSys f { sd := true, res := true, leat := true }) (fun _ => { writes := [sreg f.sd.toNat] }) .one f.stl.toNat 2
    fun s c => .ok { writes := [(.s f.sd.toNat, [(0, s.bufStatus c.ag f.res.toNat)])] }

end Sys2Proof.Machine
end

