-- ==== Sys2Proof/Machine/Matrix.lean ====
section
/-!
DEFINITION. Accumulator banks (R281 to R286, R422), range-lock registration (R268, R321, R322), the sums of the matrix engines
(R108 to R124, R292, R293), and the matrix instructions (R287 to R304).
-/
namespace Sys2Proof.Machine

/-! ## Reads by the device's own units -/

/-- n bytes at a physical address as a unit of the device reads them; bytes beyond the card are what the host or another card
answers: free values (log entry 2). -/
def State.unitRead (s : State) (pa n : Nat) : State × Nat :=
  if s.onCard pa then (s, s.readN n pa)
  else
    let k := (n + 7) / 8
    ({ s with free := s.free + k },
      (List.range k).foldl (fun x i => x + (Config.freeDword (s.free + i)).toNat * 2 ^ (64 * i)) 0 % 2 ^ (8 * n))

/-- A unit's write of bytes: on the card at the erg, to the host as a posted write, to a peer as a store. -/
def State.unitWrite (s : State) (pa : Nat) (bs : List Byte) (own : Nat := 0) : State :=
  match s.paKind pa with
  | .host => { s with hostOut := s.hostOut ++ [(pa % 2 ^ 51, bs)] }
  | .peer => { s with fabOut := s.fabOut ++ [(pa, bs)] }
  | .none => s
  | _ => s.devWrite pa bs own

/-- Splits n bytes at a virtual address at its 4 KiB pages: (address, bytes). -/
def pageParts (va n : Nat) : List (Nat × Nat) :=
  (List.range ((va % 4096 + n + 4095) / 4096)).map fun i =>
    let lo := max va (va / 4096 * 4096 + 4096 * i)
    (lo, min (va + n) (va / 4096 * 4096 + 4096 * (i + 1)) - lo)

/-! ## Range locks of engines (R268, R321, R322) -/

/-- Two engine ranges of one core's table conflict. -/
def lockMeets (a b : BitVec 128) : Bool :=
  lockSpace a = lockSpace b && overlap (lockBase a) (lockLen a) (lockBase b) (lockLen b) && (lockKind a = 1 || lockKind b = 1)
    && (lockSpace a = 0 || lockCtx a = lockCtx b)

/-- The first live entry of a core that a range conflicts with. -/
def State.lockConf (s : State) (core : Nat) (b : BitVec 128) : Option (BitVec 128) :=
  (s.locksOf core).findSome? fun p => if lockMeets p.2.bits b then some p.2.bits else none

/-- Registers one entry in the lowest free place of its core. -/
def State.lockPut (s : State) (op : Nat) (x : Nat × BitVec 128) : Option State :=
  (firstNat (fun i => (KMap.find? s.rlocks (64 * x.1 + i)).isNone) 64 0).map fun i =>
    { s with rlocks := KMap.put s.rlocks (64 * x.1 + i) { op := op, bits := x.2 } }

/-- Registers all entries of an operation, or none. -/
def State.lockAll (s : State) (op : Nat) : List (Nat × BitVec 128) → Option State
  | [] => some s
  | x :: xs => (s.lockPut op x).bind fun t => t.lockAll op xs

/-- Physical pieces of a range of a context's virtual space, where it translates. -/
def State.rangePas (s : State) (ctx va n : Nat) : List (Nat × Nat) :=
  (pageParts va n).filterMap fun p => match s.walk ctx p.1 with
    | .ok t => some (t.phys p.1, p.2)
    | .error _ => none

/-- Removes an operation's entries (R268): lines of global ranges leave the core's L1 first. -/
def State.unlock (s : State) (op : Nat) : State :=
  let mine := s.rlocks.filter fun p => p.2.op = op
  let s1 := mine.foldl (init := s) fun s p =>
    if lockSpace p.2.bits = 1 then
      let rs := s.rangePas (lockCtx p.2.bits) (lockBase p.2.bits) (lockLen p.2.bits)
      s.l1Drop (p.1 / 64) fun pa => rs.any fun r => overlap pa 128 r.1 r.2
    else s
  { s1 with rlocks := s1.rlocks.filter fun p => p.2.op ≠ op }

/-- A group access in flight, issued before operation `op`, meets a range registered on a core (R193, R227). -/
def State.lockBusy (s : State) (op : Nat) (x : Nat × BitVec 128) : Bool :=
  s.agents.any fun p => !p.2.isLeat && p.2.ops.any fun o =>
    decide (o.id < op) && !o.returned &&
      match o.kind, lockSpace x.2 with
      | .sweep _ _ _ cnt _ _ d a b sd sa sb .., 0 =>
        let tm := s.teamOf p.2
        let spans := [(d, sd), (a, sa), (b, sb)].map fun q =>
          let lo := min q.1 (q.1 + 32 * (cnt - 1 : Int) * q.2)
          let hi := max q.1 (q.1 + 32 * (cnt - 1 : Int) * q.2) + 128
          (lo.toNat, (hi - lo).toNat)
        spans.any fun q => (tm.loc q.1).1 = x.1 && overlap (tm.loc q.1).2 q.2 (lockBase x.2) (lockLen x.2)
      | k, sp =>
        if k.space = some .scr ∧ sp = 0 then
          let tm := s.teamOf p.2
          o.acc.any fun b => (tm.loc b.pa).1 = x.1 && overlap (tm.loc b.pa).2 b.n (lockBase x.2) (lockLen x.2)
        else if k.space = some .glob ∧ sp = 1 then
          p.2.core = x.1 && p.2.ctx = lockCtx x.2 && o.acc.any fun b => overlap b.va b.n (lockBase x.2) (lockLen x.2)
        else false

/-- Some entry of the operation waits for a group access. -/
def State.opBusy (s : State) (op : Nat) : Bool :=
  (s.rlocks.filter fun p => p.2.op = op).any fun p => s.lockBusy op (p.1 / 64, p.2.bits)

/-! ## Banks (R281 to R286) -/

def State.bank (s : State) (core p : Nat) : Bank := (KMap.find? s.accs (64 * core + p)).getD {}
def State.setBank (s : State) (core p : Nat) (b : Bank) : State :=
  { s with accs := if b = {} then KMap.del s.accs (64 * core + p) else KMap.put s.accs (64 * core + p) b }
def State.eng (s : State) (core part : Nat) : Eng := (KMap.find? s.engs (4 * core + part)).getD {}
def State.setEng (s : State) (core part : Nat) (e : Eng) : State := { s with engs := KMap.put s.engs (4 * core + part) e }

/-- Banks that a request may take, in the order of R284. -/
def State.freeBanks (s : State) (core : Nat) : List Nat :=
  let of (st : BankSt) : List Nat := (List.range 64).filter fun p => (s.bank core p).st = st
  of .free ++ sortBy (fun a b => decide ((s.bank core a).at' ≤ (s.bank core b).at')) (of .parked)

/-- An array operation that uses a bank and has not ended. -/
def State.bankBusy (s : State) (core p : Nat) : Bool :=
  s.agents.any fun a => a.2.ops.any fun o =>
    match o.kind with
    | .matrix opc _ m => m.core = core && m.phys = p && !o.returned && decide (2 ≤ opc ∧ opc ≠ 7 ∧ opc ≠ 11)
    | _ => false

/-- Spill (R422): the contents go to the save area of the tag's context; the bank holds +0 and bears the tag given. -/
def State.spillBank (s : State) (core p tag : Nat) : State :=
  let b := s.bank core p
  let s1 := s.updAgent b.own.1 fun ag => { ag with spill := KMap.put ag.spill b.own.2 b.vals }
  let lb := ((s.agent? b.holder).bind fun ag => (List.find? (fun (q : Nat × Nat) => q.2 = p) ag.banks).map (·.1)).getD 0
  s1.setBank core p { b with vals := [], tag := tag, own := (b.holder, lb) }

/-- A bank leaves its holder (R281, R303): spilled when foreign, then zeroed. -/
def State.dropBank (s : State) (ctx core p : Nat) : State :=
  let s1 := if (s.bank core p).tag ≠ ctx then s.spillBank core p ctx else s
  s1.setBank core p { st := .zeroing, vals := (s1.bank core p).vals, at' := s.clk + 16 }

/-- BANK_ZERO_DONE: 16 clk after the last array operation on the bank. -/
def execBankZeroDone (core bank : Nat) (s : State) : Out :=
  let b := s.bank core bank
  if b.st = .zeroing ∧ b.at' ≤ s.clk ∧ !s.bankBusy core bank then .next (s.setBank core bank {}) else .next s

/-- BANK_SPILL: a foreign bank in use is spilled and takes its holder's tag; a PARKED one is spilled and zeroed. -/
def execBankSpill (core bank : Nat) (s : State) : Out :=
  let b := s.bank core bank
  match b.st, s.agent? b.holder with
  | .held, some ag => if b.tag ≠ ag.ctx then .next (s.spillBank core bank ag.ctx) else .next s
  | .parked, _ => .next ((s.spillBank core bank b.tag).setBank core bank { st := .zeroing, at' := s.clk + 16 })
  | _, _ => .next s

/-- Grants n banks to a group from a logical bank on (R284). -/
def State.grantBanks (s : State) (a core first n ctx : Nat) : State :=
  ((s.freeBanks core).take n).zipIdx.foldl (init := s) fun s q =>
    let b := s.bank core q.1
    let b := if b.st = .parked then { b with st := .held, holder := a }
      else { st := .held, holder := a, tag := ctx, own := (a, first + q.2), vals := [] }
    (s.setBank core q.1 b).updAgent a fun ag => { ag with banks := KMap.put ag.banks (first + q.2) q.1 }

/-! ## Operand strings (R292, R293) -/

/-- Element format by its code (R290). -/
def mxVal (fmt x : Nat) : FV :=
  match fmt with
  | 0 => e4m3.decode x
  | 1 => e5m2.decode x
  | 2 => e3m2.decode x
  | 3 => e2m3.decode x
  | 4 => e2m1.decode x
  | 5 => FV.ofMxi8 x
  | 6 => f16.decode x
  | _ => bf16.decode x

/-- Bits of an element. -/
def mxBits (fmt : Nat) : Nat :=
  match fmt with
  | 0 | 1 | 5 => 8
  | 2 | 3 => 6
  | 4 => 4
  | 6 | 7 => 16
  | _ => 3

/-- Element t of e bits of a packed string that starts at a byte (R109, R112). -/
def elemAt (str : Nat → Nat) (base e t : Nat) : Nat :=
  let o := e * t
  (str (base + o / 8) + 256 * str (base + o / 8 + 1)) / 2 ^ (o % 8) % 2 ^ e

/-- Byte t of a register string of a group of w lanes. -/
def regByte (m : KMap Word) (w first t : Nat) : Nat :=
  fldN (KMap.get 0 m (64 * (first + t / (4 * w)) + t % (4 * w) / 4)) (8 * (t % 4)) 8

/-- Byte t of the string of lane l (MMAV's A). -/
def laneByte (m : KMap Word) (first l t : Nat) : Nat := fldN (KMap.get 0 m (64 * (first + t / 4) + l)) (8 * (t % 4)) 8

/-- Byte t of a handle's data in logical order. -/
def hndByte (tm : Team) (off layout t : Nat) : Nat := (rdB tm.scr (off + phi layout t)).toNat

/-- The least and one past the greatest physical offset of the first n bytes from byte `ofs` on. -/
def hndSpan (layout ofs n : Nat) : Nat × Nat :=
  let cs := (List.range ((n + 15) / 16)).map fun i =>
    let p := phi layout (ofs + 16 * i)
    (p, p + min 16 (n - 16 * i))
  ((cs.map (·.1)).foldl min (((cs.head?).map (·.1)).getD 0), (cs.map (·.2)).foldl max 0)

/-! ### The format-block record (R290, R291) -/

namespace Blk
def afmt (b : BitVec 256) : Nat := fldN b 0 4
def abl (b : BitVec 256) : Nat := if fldN b 4 1 = 0 then 32 else 128
def asl (b : BitVec 256) : Nat := fldN b 5 2
def aconst (b : BitVec 256) : Nat := fldN b 8 8
def asoff (b : BitVec 256) : Nat := fldN b 32 32
def bfmt (b : BitVec 256) : Nat := fldN b 64 4
def bbl (b : BitVec 256) : Nat := if fldN b 68 1 = 0 then 32 else 128
def bsl (b : BitVec 256) : Nat := fldN b 69 2
def bconst (b : BitVec 256) : Nat := fldN b 72 8
def bsoff (b : BitVec 256) : Nat := fldN b 96 32

/-- R291, for the multiply with this opcode: 3 MMA, 4 MMAQ, 5 MMAV, 6 MMAC. -/
def ok (b : BitVec 256) (opc : Nat) : Bool :=
  fldN b 7 1 = 0 && fldN b 16 16 = 0 && fldN b 71 1 = 0 && fldN b 80 16 = 0 && fldN b 128 128 = 0
    && decide (afmt b ≤ 7) && decide (bfmt b ≤ 8)
    && (if afmt b ≤ 5 then asl b ≠ 0 else asl b = 0 && abl b = 32)
    && (if bfmt b ≤ 5 then bsl b ≠ 0 else bsl b = 0 && bbl b = 32)
    && (bfmt b = 8) == (opc = 6) && !(bsl b = 2 && opc = 5)

/-- Summation span (R111). -/
def span (b : BitVec 256) : Nat :=
  if afmt b ≤ 5 ∧ bfmt b ≤ 5 then min (abl b) (bbl b)
  else if afmt b ≤ 5 then abl b else if bfmt b ≤ 5 then bbl b else 32

/-- Panel bytes of a step (R292). -/
def pa (b : BitVec 256) (opc : Nat) : Nat := if opc = 5 then 16 * mxBits (afmt b) else 1024 * mxBits (afmt b)
def pb (b : BitVec 256) (opc : Nat) : Nat := if opc = 6 then 1536 else if opc = 4 then 128 * mxBits (bfmt b) else 512 * mxBits (bfmt b)

/-- Scale bytes of S steps: of A, and of B as a whole. -/
def sna (b : BitVec 256) (S : Nat) : Nat := S * 64 * (128 / abl b)
def snb (b : BitVec 256) (S : Nat) : Nat := if bbl b = 32 then S * 128 else S

/-- Scale bytes in line with quarter q of MMAQ. -/
def snq (b : BitVec 256) (S q : Nat) : Nat := if bbl b = 32 then S * 32 else if q = 0 then S else 0

/-- Bytes of the strings. -/
def la (b : BitVec 256) (opc S : Nat) : Nat := S * pa b opc + (if asl b = 1 then sna b S else 0)
def lb (b : BitVec 256) (opc S q : Nat) : Nat :=
  S * pb b opc + (if bsl b = 1 then (if opc = 4 then snq b S q else snb b S) else 0)

/-- clk of a step (R305). -/
def stepClk (b : BitVec 256) : Nat :=
  if 6 ≤ afmt b ∨ 6 ≤ bfmt b then 128 else if afmt b = 4 ∧ bfmt b = 4 then 32 else 64
end Blk

/-! ## The sum (R122, R123) -/

/-- Exact sum of a span. -/
def spanSum (as bs : List FV) : FV :=
  match List.zipWith FV.mul as bs with
  | [] => .fin false 0 0
  | p :: ps => ps.foldl (FV.add .rne) p

/-- One span added to an accumulator; `sa` and `sb` are E8M0 scales, 127 where there is none. -/
def accStep (acc : Nat) (p : FV) (sa sb : Nat) : Nat :=
  let c := if sa = 255 ∨ sb = 255 then fa40.nan else fa40.conv .rne false (p.scale ((sa : Int) + sb - 254))
  fa40.fadd .rne acc c

/-- The spans of one element: the K values of each step, and the scales of step s from K index k0 on. -/
def accElem (L : Nat) (as bs : List (List FV)) (sa sb : Nat → Nat → Nat) (acc : Nat) : Nat :=
  (List.zip as bs).zipIdx.foldl (init := acc) fun acc q =>
    (List.range (128 / L)).foldl (init := acc) fun acc i =>
      accStep acc (spanSum ((q.1.1.drop (i * L)).take L) ((q.1.2.drop (i * L)).take L)) (sa q.2 (i * L)) (sb q.2 (i * L))

/-- The operands of a multiply: the K values of row m and of column n in step s, and the scales. -/
structure MOps where
  a : Nat → Nat → List FV
  b : Nat → Nat → List FV
  sa : Nat → Nat → Nat → Nat
  sb : Nat → Nat → Nat → Nat

/-- The rows `rows` of a bank after a multiply of S steps. -/
def multBank (L S : Nat) (clr : Bool) (rows : List Nat) (o : MOps) (old : KMap (BitVec 40)) : KMap (BitVec 40) :=
  let cols := (List.range 32).map fun n => (List.range S).map fun s => o.b s n
  rows.foldl (init := old) fun m r =>
    let as := (List.range S).map fun s => o.a s r
    cols.zipIdx.foldl (init := m) fun m q =>
      let i := 32 * r + q.2
      let x := accElem L as q.1 (fun s k => o.sa s r k) (fun s k => o.sb s q.2 k) (if clr then 0 else (KMap.get 0 old i).toNat)
      KMap.set 0 m i (BitVec.ofNat 40 x)

/-! ## Legality (R289) -/

/-- Bytes of the MTX words that a row leaves reserved. -/
def legalMtx (f : FMTX) (b fb kst ah clr : Bool) (a : Bool) (mopt : BitVec 9) (bad : Bool) (bank : Bool := true) : Legal where
  all := f.all
  rsv := (!bank && f.abank ≠ 0) || (!a && f.a ≠ 0) || (!b && f.b ≠ 0) || (!fb && f.fb ≠ 0) || (!kst && f.kst ≠ 0)
    || (!ah && f.ah ≠ 0) || (!clr && f.clr ≠ 0) || f.mopt &&& ~~~mopt ≠ 0 || (f.ah = 1 && ah && fld f.a 8 2 ≠ 0)
  bad := bad

/-- n of AALLOC and AFREE. -/
def mtxN (f : FMTX) : Nat := fldN f.mopt 0 7

def illegalReg : Flt := { code := 4 }
def illegalRec : Flt := illegalOp 5

/-- The lanes of every register of a string. -/
def winRegs (w first bytes per : Nat) : Regs := vregsOn ((List.range ((bytes + per - 1) / per)).map fun k => first + k) (wmask w)

/-- v registers of a range as they stand. -/
def snapRegs (ag : Agent) (first n : Nat) : KMap Word :=
  ag.vregs.filter fun p => decide (64 * first ≤ p.1 ∧ p.1 < 64 * (first + n))

/-- The group has a multiply that is not counted off (R287). -/
def Agent.multiplies (ag : Agent) : Bool := ag.ops.any fun o =>
  match o.kind with
  | .matrix opc .. => decide (3 ≤ opc ∧ opc ≤ 6)
  | _ => false

/-- Operations of an engine, in issue order, that have not ended: array operations only. -/
def State.engOps (s : State) (core part : Nat) : List (Nat × Op) :=
  sortBy (fun (x y : Nat × Op) => decide (x.2.id ≤ y.2.id)) <| s.agents.flatMap fun p => (p.2.ops.filter fun o => match o.kind with
    | .matrix opc _ m => m.core = core && m.part = part && !o.returned && decide (2 ≤ opc ∧ opc ≠ 7 ∧ opc ≠ 8)
    | _ => false).map fun o => (p.1, o)

/-- What the checks of R295 find out about a matrix operation. -/
structure MPlan where
  phys : Nat := 0
  blk : BitVec 256 := 0
  locks : List (Nat × BitVec 128) := []
  hlock : Option (Nat × BitVec 128) := none
  hnd : Option (Nat × Handle) := none
  win : Regs := []
  snap : KMap Word := []
  far : Bool := false
  pages : List (Nat × Nat) := []
  act : Dword := 0

/-- An entry of the matrix engine of a partition (R304). -/
def mtxLock (ag : Agent) (base space kind len : Nat) : BitVec 128 := mkLock base space kind ag.ctx len (4 + ag.part)

/-- The operation enters its engine: locks, counter M, read window. -/
def State.startMtx (s : State) (c : Iss) (opc : Nat) (f : FMTX) (pl : MPlan) (addr : Nat) (dsts : Regs) (due : Nat) : State :=
  let id := s.ids
  let e := s.eng c.ag.core c.ag.part
  let m : Mtx :=
    { core := c.ag.core, part := c.ag.part, phys := pl.phys, act := pl.act, blk := pl.blk, addr := addr, pages := pl.pages,
      snap := pl.snap, hoff := (pl.hnd.map fun h => h.2.roff + 64).getD 0, layout := (pl.hnd.map fun h => h.2.layout).getD 0,
      far := pl.far, ask := (s.engOps c.ag.core c.ag.part).isEmpty && decide (e.last + 256 ≤ s.clk) }
  let o : Op :=
    { id := id, fid := c.fid, ctr := some .m, issue := s.clk, due := due, kind := .matrix opc f m, dsts := dsts, win := pl.win }
  ({ s with ids := id + 1 }).startOp c.a o

/-- The instruction has issued: the next one follows (R28), or its hold ends. -/
def State.mtxNext (s : State) (c : Iss) (stl : Nat) : State := s.updFrag c.a c.fid fun fr => fr.adv (s.clk + 1 + stl)

/-! ## AALLOC and AFREE (R284, R303) -/

def legalAlloc (f : FMTX) : Legal :=
  legalMtx f false false false false false false 0x7F (mtxN f = 0 || decide (64 < mtxN f) || decide (64 < f.abank.toNat + mtxN f))

/-- The grant of the request at the head of a core's queue (R284, R303): counter M rises, and falls 4 clk later. -/
def State.grantHead (s : State) (core : Nat) : State :=
  match (KMap.find? s.aq core).getD [] with
  | [] => s
  | (a, fid) :: rest =>
    let s1 := { s with aq := if rest.isEmpty then KMap.del s.aq core else KMap.put s.aq core rest }
    match s.agent? a with
    | none => s1
    | some ag =>
      match KMap.find? ag.frags fid with
      | none => s1
      | some fr =>
        match decodeIn .mtx (fr.code.getD (fr.k - 1) 0), fr.wait with
        | some (.aalloc f), .aalloc n =>
          if (s.freeBanks core).length < n ∨ ag.ctrVal .m = 63 then s
          else
            let c : Iss := { a := a, fid := fid, ag := ag, fr := fr }
            ((s1.startMtx c 0 f {} 0 [] (s.clk + 4)).grantBanks a core f.abank.toNat n ag.ctx).finishHold c f.stl.toNat 1
        | _, _ => s1

/-- AALLOC_GRANT. -/
def execAallocGrant (core : Nat) (s : State) : Out := .next (s.grantHead core)

def execAalloc (f : FMTX) (s : State) : Out :=
  issueWith s (legalAlloc f) (fun _ => {}) .one 0 true fun s c _ =>
    let n := mtxN f
    if (List.range n).any fun k => (KMap.find? c.ag.banks (f.abank.toNat + k)).isSome then .next (s.raise c.a c.fid illegalReg)
    else
      let q := (KMap.find? s.aq c.ag.core).getD []
      let s1 := (s.hold c (.aalloc n) 4)
      .next (({ s1 with aq := KMap.put s1.aq c.ag.core (q ++ [(c.a, c.fid)]) }).grantHead c.ag.core)

def execAfree (f : FMTX) (s : State) : Out :=
  issueWith s (legalAlloc f) (fun _ => {}) .one 0 true fun s c _ =>
    let ls := (List.range (mtxN f)).map fun k => f.abank.toNat + k
    if ls.any fun l => (KMap.find? c.ag.banks l).isNone then .next (s.raise c.a c.fid illegalReg)
    else
      let s1 := ls.foldl (init := s) fun s l =>
        match KMap.find? c.ag.banks l with
        | some p => (s.dropBank c.ag.ctx c.ag.core p).updAgent c.a fun ag => { ag with banks := KMap.del ag.banks l }
        | none => s
      .next (s1.mtxNext c f.stl.toNat)

/-! ## The checks of R295 -/

/-- ACC_TAG (R285); without a handler the bank is spilled and the instruction issues again (R421). -/
def State.tagFault (s : State) (c : Iss) (p : Nat) : Option State :=
  let b := s.bank c.ag.core p
  if b.tag = c.ag.ctx then none
  else if s.ctxHandler c.ag.ctx = 0 ∧ !c.inHandler then some (s.happen [.bankSpill c.ag.core p])
  else some (s.raise c.a c.fid { code := 16, info := p + 64 * b.tag })

/-- A page of the strings or ranges of an instruction that the L1 TLB lacks holds the issue (R225, R415). -/
def State.pagesMiss (s : State) (c : Iss) (vas : List Nat) : Option State :=
  let gone (a : Nat) : Bool := c.fr.phase = 2 && (match s.walk c.ag.ctx a with
    | .error _ => true
    | .ok _ => false)
  match vas.filter fun a => (s.l1tlb c.ag.core c.ag.ctx a).isNone && !gone a with
  | [] => none
  | a :: as =>
    let h := s.missHold c.ag.core c.ag.ctx (a :: as)
    some (h.1.hold c h.2 c.fr.phase)

/-- The pages of a range, or the fault of its first byte that does not translate; `lm` 0. -/
def State.pagesOf (s : State) (ag : Agent) (va n : Nat) (write : Bool) : Except Flt (List (Nat × Nat)) :=
  (pageParts va n).foldl (init := .ok []) fun r p =>
    match r with
    | .error f => .error f
    | .ok l => match s.translate ag.core ag.ctx p.1 with
      | .error d => .error { code := 1, detail := d + (if write then 2 ^ 10 else 0), addr := p.1 }
      | .ok t => .ok (l ++ [(p.1 / 4096, s.selfPa (t.phys p.1) write / 4096)])

/-- A page of a range that may not be written. -/
def State.protFault (s : State) (ag : Agent) (va n : Nat) : Option Flt :=
  (pageParts va n).findSome? fun p => match s.translate ag.core ag.ctx p.1 with
    | .ok t => if t.w then none else some { code := 2, detail := 2 ^ 10, addr := p.1 }
    | .error _ => none

/-- Physical address of a byte of an operation's pages. -/
def Mtx.phys? (m : Mtx) (va : Nat) : Nat :=
  ((m.pages.find? fun p => p.1 = va / 4096).map fun p => 4096 * p.2 + va % 4096).getD 0

/-- The pointer of lane l (R298). -/
def mmavPtr (f : FMTX) (ag : Agent) (l : Nat) : Nat :=
  (ag.vr f.b.toNat l).toNat + 2 ^ 32 * (ag.vr (f.b.toNat + 1) l).toNat

def legalMul (f : FMTX) (opc : Nat) : Legal :=
  match opc with
  | 3 => legalMtx f true true true true true true 0 false
  | 4 => legalMtx f true true true true true true 0xF false
  | 5 => { legalMtx f true true true true true true 0x7F (f.ah = 1 || f.b.toNat % 2 = 1) with sregs := [fldN f.mopt 0 7] }
  | _ => legalMtx f true true true true true true 1 (decide (1 < f.kst.toNat))

def mulS (f : FMTX) : Nat := f.kst.toNat + 1

/-- The slot that step s of an MMAC reads (R299). -/
def mmacSlot (f : FMTX) (st : Nat) : Nat := (fldN f.mopt 0 1 + st) % 2

/-- Lanes of an MMAV with a pointer that is not null. -/
def mmavLanes (f : FMTX) (c : Iss) : List (Nat × Nat) :=
  ((lanesOf (c.active f.all)).map fun l => (l, mmavPtr f c.ag l)).filter fun p => p.2 ≠ 0

/-- The table of R295 for a multiply, `blk` its record when it could be read; the handle's range is judged in the end. -/
def State.mulChecks (s : State) (c : Iss) (opc : Nat) (f : FMTX) (blk : Option (BitVec 256)) : Except Flt MPlan :=
  let ag := c.ag
  let S := mulS f
  let a := (ag.sr f.fb.toNat).toNat
  let w := ag.width
  let b := blk.getD 0
  let ok := blk.isSome && Blk.ok b opc
  let la := Blk.la b opc S
  let lb := Blk.lb b opc S ag.part
  let apr := if opc = 5 then 4 else 4 * w
  let nA := if f.ah = 1 || !ok then 0 else (la + apr - 1) / apr
  let nB := if opc = 5 then 2 else if ok then (lb + 4 * w - 1) / (4 * w) else 0
  let h := if f.ah = 1 then s.handleOf ag (f.a.toNat % 256) else none
  let ptrs := if opc = 5 then mmavLanes f c else []
  let tm := s.teamOf ag
  let tabs : List (Nat × Nat) := if ok then (if Blk.asl b = 2 then [(Blk.asoff b, Blk.sna b S)] else [])
      ++ (if Blk.bsl b = 2 then [(Blk.bsoff b, Blk.snb b S)] else []) else []
  match KMap.find? ag.banks f.abank.toNat with
  | none => .error illegalReg
  | some phys =>
    if ag.nv < f.a.toNat + nA ∧ f.ah = 0 ∨ ag.nv < f.b.toNat + nB ∨ (f.ah = 1 ∧ h.isNone) then .error illegalReg
    else if 2 ^ 48 < a + 32 then .error (illegalAddr a)
    else if (ok && (match h with
        | some x => decide (512 * x.2.dsec < la)
        | none => false)) || (tabs.any fun t => decide (tm.size < t.1 + t.2)) then .error (illegalAddr 0)
    else match failAt ptrs (fun p => ok && decide (2 ^ 48 < p.2 + lb)) (fun m p => illegalAddr p.2 m) with
    | some x => .error x
    | none =>
      if a % 32 ≠ 0 then .error (misalign a)
      else match failAt ptrs (fun p => p.2 % 128 ≠ 0) (fun m p => misalign p.2 m) with
      | some x => .error x
      | none =>
        if blk.isSome ∧ !ok then .error illegalRec
        else if opc = 6 ∧ (List.range S).any fun st => KMap.find? (s.eng ag.core ag.part).own (mmacSlot f st) ≠ some c.a then
          .error (illegalOp 6)
        else if (match h with
            | some x => decide (x.2.layout = 2)
            | none => false) then .error { code := 11 }
        else
          let locks := tabs.map fun t => ((tm.loc t.1).1, mtxLock ag (tm.loc t.1).2 0 0 t.2)
          let hl := h.map fun x =>
            let sp := hndSpan x.2.layout 0 la
            let l := tm.loc (x.2.roff + 64 + sp.1)
            (l.1, mtxLock ag l.2 0 0 (sp.2 - sp.1))
          match locks.findSome? fun l => s.lockConf l.1 l.2 with
          | some e => .error { code := 10, addr := lockBase e, info := e.toNat }
          | none =>
            let lines (p : Nat) : List (Nat × Nat) := pageParts p lb
            if ag.pure ∧ !ag.declared a 32 then .error { purity with addr := a }
            else match (if ag.pure then failAt ptrs (fun p => !ag.declared p.2 lb) (fun m p => { purity with lm := m, addr := p.2 })
                else none) with
            | some x => .error x
            | none =>
              match s.translate ag.core ag.ctx a with
              | .error d => .error { code := 1, detail := d, addr := a }
              | .ok _ =>
                let bad (v : Nat) : Option Nat := match s.translate ag.core ag.ctx v with
                  | .error d => some d
                  | .ok _ => none
                match failAt ptrs (fun p => (lines p.2).any fun q => (bad q.1).isSome)
                    (fun m p => { code := 1, detail := ((lines p.2).findSome? fun q => bad q.1).getD 0, lm := m,
                                  addr := (((lines p.2).find? fun q => (bad q.1).isSome).map (·.1)).getD p.2 }) with
                | some x => .error x
                | none =>
                  let pgs := (ptrs.flatMap fun p => lines p.2).map fun q => (q.1 / 4096, match s.translate ag.core ag.ctx q.1 with
                    | .ok t => s.selfPa (t.phys q.1) false / 4096
                    | .error _ => 0)
                  .ok { phys := phys, blk := b, locks := locks, hlock := hl, hnd := h,
                        win := (if f.ah = 1 then [] else winRegs w f.a.toNat la apr) ++
                          (if opc = 5 then vregsOn [f.b.toNat, f.b.toNat + 1] (wmask w) else winRegs w f.b.toNat lb (4 * w)),
                        snap := (if f.ah = 1 then [] else snapRegs ag f.a.toNat nA) ++ [],
                        far := (locks ++ hl.toList).any fun l => l.1 ≠ ag.core,
                        pages := pgs.eraseDups, act := c.active f.all }

/-- The registers that a multiply reads, as they stand at issue. -/
def mulSnap (ag : Agent) (pl : MPlan) : KMap Word :=
  let rs := pl.win.filterMap fun p => match p.1 with
    | .v n => some n
    | .s _ => none
  ag.vregs.filter fun p => rs.contains (p.1 / 64)

/-- The record of a multiply (R290): from the core's record cache, or after the erg path; none where the checks must fail. -/
def State.blkFetch (s : State) (c : Iss) (a : Nat) : (Option State) × State × Option (BitVec 256) :=
  if a % 32 ≠ 0 ∨ 2 ^ 48 < a + 32 ∨ (c.ag.pure ∧ !c.ag.declared a 32) then (none, s, none)
  else
    match s.pagesMiss c [a] with
    | some t => (some t, s, none)
    | none =>
      match s.translate c.ag.core c.ag.ctx a with
      | .error _ => (none, s, none)
      | .ok t =>
        let k := s.core c.ag.core
        match k.rcd.find? fun e => e.1 = c.ag.ctx && e.2.1 = a with
        | some e => (none, s.setCore c.ag.core { k with rcd := e :: k.rcd.erase e }, some e.2.2)
        | none =>
          let pa := t.phys a
          if c.fr.phase = 3 then
            let r := s.unitRead pa 32
            let b : BitVec 256 := BitVec.ofNat 256 r.2
            (none, r.1.setCore c.ag.core { k with rcd := ((c.ag.ctx, a, b) :: k.rcd).take 16 }, some b)
          else (some (s.hold c (.clk (s.clk + lineLat s c.ag.core pa 0)) 3), s, none)

/-- The wait for a rendezvous joins its partition's list (R297). -/
def State.quadJoin (s : State) (c : Iss) (tag : Nat) : State :=
  let k := 16 * (4 * c.ag.core + c.ag.part) + tag
  let q := (KMap.find? s.quads k).getD []
  if q.contains (c.a, c.fid) then s else { s with quads := KMap.put s.quads k (q ++ [(c.a, c.fid)]) }

/-- A multiply (R287, R290, R295): its waits and checks in order, then its issue. -/
def mulIns (opc : Nat) (f : FMTX) (s : State) : Out :=
  match s.issuer with
  | none => .fault .noIssuer
  | some c =>
    let lg := legalMul f opc
    if (lg.fate c).isNone ∧ c.ag.ctrVal .m = 63 then .next (s.hold c (.ctr .m 62) c.fr.phase)
    else if (lg.fate c).isNone ∧ c.ag.multiplies then .next (s.hold c (.room 2 0) c.fr.phase)
    else
      let a := (c.ag.sr f.fb.toNat).toNat
      match (if (lg.fate c).isSome then (none, s, none) else s.blkFetch c a) with
      | (some t, _, _) => .next t
      | (none, s0, blk) =>
        let pl0 : Except Flt MPlan := s0.mulChecks c opc f blk
        let regs : Regs := match pl0 with
          | .ok p => p.win
          | .error _ => []
        issueWith s0 lg (fun _ => { reads := sreg f.fb.toNat :: regs, writes := if opc = 5 then [sreg (fldN f.mopt 0 7)] else [] })
          .one 0 false fun s c _ =>
            match s.pagesMiss c ((if opc = 5 then mmavLanes f c else []).flatMap fun p =>
                if p.2 % 128 = 0 ∧ p.2 < 2 ^ 48 then (pageParts p.2 (Blk.lb (blk.getD 0) opc (mulS f) 0)).map (·.1) else []) with
            | some t => .next t
            | none =>
              match s.mulChecks c opc f blk with
              | .error x => .next (s.raise c.a c.fid x)
              | .ok pl =>
                match s.tagFault c pl.phys with
                | some t => .next t
                | none =>
                  match (match pl.hnd with
                    | some h => h.2.st ≠ 2
                    | none => false : Bool) with
                  | true => .next (s.hold c (.handle (f.a.toNat % 256) 2 2 never) c.fr.phase)
                  | false =>
                    match pl.hlock.bind fun l => s.lockConf l.1 l.2 with
                    | some e => .next (s.raise c.a c.fid { code := 10, addr := lockBase e, info := e.toNat })
                    | none =>
                      if opc = 4 then
                        .next ((s.quadJoin c (fldN f.mopt 0 4)).hold c (.room 1 (fldN f.mopt 0 4)) 4)
                      else
                        match s.lockAll s.ids (pl.locks ++ pl.hlock.toList) with
                        | none => .next (s.hold c (.room 3 c.ag.core) c.fr.phase)
                        | some s1 =>
                          .next ((s1.startMtx c opc f { pl with snap := mulSnap c.ag pl } a
                            (if opc = 5 then [sreg (fldN f.mopt 0 7)] else []) s.clk).mtxNext c f.stl.toNat)

def execMma (f : FMTX) (s : State) : Out := mulIns 3 f s
def execMmaq (f : FMTX) (s : State) : Out := mulIns 4 f s
def execMmav (f : FMTX) (s : State) : Out := mulIns 5 f s
def execMmac (f : FMTX) (s : State) : Out := mulIns 6 f s

/-! ## MMAQ_RENDEZVOUS (R297) -/

/-- The MMAQ at which a waiting fragment stands. -/
def Frag.mmaqAt (fr : Frag) : Option FMTX :=
  match decodeIn .mtx (fr.code.getD (fr.k - 1) 0) with
  | some (.mmaq f) => some f
  | _ => none

/-- The oldest MMAQ with a tag on a partition: its issuer, word and checks. -/
def State.quadHead (s : State) (core part tag : Nat) : Option (Iss × FMTX × Except Flt MPlan) :=
  match (KMap.find? s.quads (16 * (4 * core + part) + tag)).getD [] with
  | [] => none
  | (a, fid) :: _ =>
    (s.agent? a).bind fun ag => (KMap.find? ag.frags fid).bind fun fr => fr.mmaqAt.map fun f =>
      let c : Iss := { a := a, fid := fid, ag := ag, fr := fr }
      let blk := ((s.core core).rcd.find? fun e => e.1 = ag.ctx && e.2.1 = (ag.sr f.fb.toNat).toNat).map (·.2.2)
      (c, f, s.mulChecks c 4 f (some (blk.getD (BitVec.ofNat 256 (match s.translate core ag.ctx (ag.sr f.fb.toNat).toNat with
        | .ok t => s.readN 32 (t.phys (ag.sr f.fb.toNat).toNat)
        | .error _ => 0)))))

/-- Four MMAQs of one tag meet: they agree and issue together, or all four fault. -/
def execMmaqRendezvous (core tag : Nat) (s : State) : Out :=
  match s.quadHead core 0 tag, s.quadHead core 1 tag, s.quadHead core 2 tag, s.quadHead core 3 tag with
  | some q0, some q1, some q2, some q3 =>
    let qs := [q0, q1, q2, q3]
    let s1 := (List.range 4).foldl (init := s) fun s p =>
      let k := 16 * (4 * core + p) + tag
      let r := ((KMap.find? s.quads k).getD []).drop 1
      { s with quads := if r.isEmpty then KMap.del s.quads k else KMap.put s.quads k r }
    let plans := qs.filterMap fun q => match q.2.2 with
      | .ok p => some (q.1, q.2.1, p)
      | .error _ => none
    match plans.head? with
    | none => .next s
    | some p0 =>
      if plans.length ≠ 4 then
        -- a check of one of them fails by now: it issues again and faults, the others wait on
        .next (qs.foldl (init := s) fun s q => match q.2.2 with
          | .ok _ => s
          | .error _ => { s.updFrag q.1.a q.1.fid fun fr => { fr with wait := .none, phase := 0 } with
              quads := s.quads.map fun (e : Nat × List (Nat × Nat)) => (e.1, e.2.filter fun x => x ≠ (q.1.a, q.1.fid)) })
      else if plans.any fun p => p.2.1.kst ≠ p0.2.1.kst || fldN p.2.2.blk 64 64 ≠ fldN p0.2.2.blk 64 64 then
        .next (qs.foldl (fun s q => (s.raise q.1.a q.1.fid (illegalOp 7))) s1)
      else
        let ids := (List.range 4).map fun p => s1.ids + p
        let r := plans.foldl (init := some s1) fun acc p => acc.bind fun s =>
          (s.lockAll s.ids (p.2.2.locks ++ p.2.2.hlock.toList)).map fun s =>
            let id := s.ids
            let s := s.startMtx p.1 4 p.2.1 { p.2.2 with snap := mulSnap p.1.ag p.2.2 } (p.1.ag.sr p.2.1.fb.toNat).toNat [] s.clk
            (s.updAgent p.1.a fun ag => ag.updOp id fun o => { o with kind := match o.kind with
              | .matrix opc f m => .matrix opc f { m with quad := ids }
              | k => k }).finishHold p.1 p.2.1.stl.toNat 1
        match r with
        | some t => .next t
        | none => .next s
  | _, _, _, _ => .next s

/-! ## CBLD (R299) -/

def execCbld (f : FMTX) (s : State) : Out :=
  match s.issuer with
  | none => .fault .noIssuer
  | some c =>
    let ofs := fldN f.mopt 2 7
    let n := if fldN f.mopt 1 1 = 1 then 16 else 512
    let lg := legalMtx f false false false true false true 0x1FF (f.ah = 0 && decide (ofs ≠ 0)) false
    if (lg.fate c).isNone ∧ c.ag.ctrVal .m = 63 then .next (s.hold c (.ctr .m 62) c.fr.phase)
    else
      let win := if f.ah = 1 then [] else winRegs c.ag.width f.a.toNat n (4 * c.ag.width)
      issueWith s lg (fun _ => { reads := win }) .one 0 false fun s c _ =>
        let tm := s.teamOf c.ag
        let h := if f.ah = 1 then s.handleOf c.ag (f.a.toNat % 256) else none
        if f.ah = 1 ∧ h.isNone ∨ f.ah = 0 ∧ c.ag.nv < f.a.toNat + win.length then .next (s.raise c.a c.fid illegalReg)
        else match (match h with
          | some x => if 512 * x.2.dsec < 16 * ofs + n then some (illegalAddr 0) else if x.2.layout = 2 then some { code := 11 } else none
          | none => none : Option Flt) with
        | some x => .next (s.raise c.a c.fid x)
        | none =>
          match (match h with
            | some x => x.2.st ≠ 2
            | none => false : Bool) with
          | true => .next (s.hold c (.handle (f.a.toNat % 256) 2 2 never) c.fr.phase)
          | false =>
            let hl := h.map fun x =>
              let sp := hndSpan x.2.layout (16 * ofs) n
              let l := tm.loc (x.2.roff + 64 + sp.1)
              (l.1, mtxLock c.ag l.2 0 0 (sp.2 - sp.1))
            match hl.bind fun l => s.lockConf l.1 l.2 with
            | some e => .next (s.raise c.a c.fid { code := 10, addr := lockBase e, info := e.toNat })
            | none =>
              match s.lockAll s.ids hl.toList with
              | none => .next (s.hold c (.room 3 c.ag.core) c.fr.phase)
              | some s1 =>
                let pl : MPlan := { hlock := hl, hnd := h, win := win, snap := if f.ah = 1 then [] else snapRegs c.ag f.a.toNat win.length }
                let s2 := (s1.startMtx c 7 f pl 0 [] (s.clk + 24)).mtxNext c f.stl.toNat
                let e := s2.eng c.ag.core c.ag.part
                .next (s2.setEng c.ag.core c.ag.part { e with own := KMap.put e.own (fldN f.mopt 0 1) c.a })

/-! ## AZERO, AST, AADD, ASTAT (R301, R302) -/

def execAzero (f : FMTX) (s : State) : Out :=
  match s.issuer with
  | none => .fault .noIssuer
  | some c =>
    let lg := legalMtx f false false false false false false 0 false
    if (lg.fate c).isNone ∧ c.ag.ctrVal .m = 63 then .next (s.hold c (.ctr .m 62) c.fr.phase)
    else issueWith s lg (fun _ => {}) .one 0 false fun s c _ =>
      match KMap.find? c.ag.banks f.abank.toNat with
      | none => .next (s.raise c.a c.fid illegalReg)
      | some p => match s.tagFault c p with
        | some t => .next t
        | none => .next ((s.startMtx c 2 f { phys := p } 0 [] s.clk).mtxNext c f.stl.toNat)

/-- AST and AADD. -/
def bankMem (f : FMTX) (store : Bool) (s : State) : Out :=
  match s.issuer with
  | none => .fault .noIssuer
  | some c =>
    let lg := legalMtx f false true false false (!store) false 0 false
    if (lg.fate c).isNone ∧ c.ag.ctrVal .m = 63 then .next (s.hold c (.ctr .m 62) c.fr.phase)
    else issueWith s lg (fun _ => { reads := [sreg f.fb.toNat] }) .one 0 false fun s c _ =>
      let a := (c.ag.sr f.fb.toNat).toNat
      let l := mtxLock c.ag a 1 (if store then 1 else 0) 10240
      match KMap.find? c.ag.banks f.abank.toNat with
      | none => .next (s.raise c.a c.fid illegalReg)
      | some p =>
        if 2 ^ 48 < a + 10240 then .next (s.raise c.a c.fid (illegalAddr a))
        else if a % 128 ≠ 0 then .next (s.raise c.a c.fid (misalign a))
        else match s.lockConf c.ag.core l with
        | some e => .next (s.raise c.a c.fid { code := 10, addr := lockBase e, info := e.toNat })
        | none =>
          if c.ag.pure ∧ (store ∨ !c.ag.declared a 10240) then .next (s.raise c.a c.fid { purity with addr := a })
          else match s.pagesMiss c ((pageParts a 10240).map (·.1)) with
          | some t => .next t
          | none => match s.pagesOf c.ag a 10240 store with
            | .error x => .next (s.raise c.a c.fid x)
            | .ok pgs => match (if store then s.protFault c.ag a 10240 else none) with
              | some x => .next (s.raise c.a c.fid x)
              | none => match s.tagFault c p with
                | some t => .next t
                | none => match s.lockAll s.ids [(c.ag.core, l)] with
                  | none => .next (s.hold c (.room 3 c.ag.core) c.fr.phase)
                  | some s1 =>
                    .next ((s1.startMtx c (if store then 9 else 10) f { phys := p, pages := pgs } a [] s.clk).mtxNext c f.stl.toNat)

def execAst (f : FMTX) (s : State) : Out := bankMem f true s
def execAadd (f : FMTX) (s : State) : Out := bankMem f false s

def execAstat (f : FMTX) (s : State) : Out :=
  match s.issuer with
  | none => .fault .noIssuer
  | some c =>
    let lg := legalMtx f false false false false false false 0x7F false
    let sd := fldN f.mopt 0 7
    if (lg.fate c).isNone ∧ c.ag.ctrVal .m = 63 then .next (s.hold c (.ctr .m 62) c.fr.phase)
    else issueWith s lg (fun _ => { writes := [sreg sd] }) .one 0 false fun s c _ =>
      .next ((s.startMtx c 11 f {} 0 [sreg sd] s.clk).mtxNext c f.stl.toNat)

/-- The word that ASTAT writes (R302). -/
def State.astat (s : State) (a : Nat) (ag : Agent) (l : Nat) : Dword :=
  let cnt (st : BankSt) : Nat := ((List.range 64).filter fun p => (s.bank ag.core p).st = st).length
  let own := (s.eng ag.core ag.part).own
  let slots := (if KMap.find? own 0 = some a then 1 else 0) + (if KMap.find? own 1 = some a then 2 else 0)
  let h := match KMap.find? ag.banks l with
    | none => 0
    | some p =>
      let b := s.bank ag.core p
      let tx : Bool := b.tag ≠ ag.ctx
      let spec := !tx && b.vals.any fun v => match fa40.decode v.2.toNat with
        | .fin .. => false
        | _ => true
      2 ^ 16 + (if tx then 2 ^ 17 else 0) + (if spec then 2 ^ 18 else 0) + p * 2 ^ 24
  BitVec.ofNat 64 (cnt .free + cnt .parked * 2 ^ 8 + h + ag.banks.length * 2 ^ 32 + slots * 2 ^ 40)

/-! ## ALD (R300) -/

def aldFmt (o : Nat) : Fmt :=
  match o with
  | 0 => f32
  | 1 => f16
  | 2 => bf16
  | 3 => e4m3
  | _ => e5m2

/-- Values of a lane by OFMT. -/
def aldP (o : Nat) : Nat := if o = 0 then 1 else if o ≤ 2 then 2 else 4

/-- Converts an FA40 value to OFMT (R115, R116). -/
def aldConv (o : Nat) (rm : RM) (sat : Bool) (x : FV) : Nat :=
  if o = 5 then FV.toMxi8 rm none x else (aldFmt o).conv rm sat x

/-- emax of the 8-bit output formats. -/
def aldEmax (o : Nat) : Int := if o = 3 then 8 else if o = 4 then 15 else 0

/-- floor(log2) of the largest finite magnitude of a block, none when it is 0. -/
def blockLog (xs : List FV) : Option Int :=
  (xs.filterMap fun x => match x with
    | .fin _ m e => if m = 0 then none else some (e + Nat.log2 m)
    | _ => none).max?

/-- Scale and elements of a block (R121). -/
def blockScale (o : Nat) (rm : RM) (sat : Bool) (xs : List FV) : Nat × List Nat :=
  if xs.any (·.isNan) then (0xFF, xs.map fun _ => 0)
  else
    let sc := match blockLog xs with
      | none => 0x7F
      | some g => (max 0 (min 254 (g - aldEmax o + 127))).toNat
    (sc, xs.map fun x => match x with
      | .fin .. => aldConv o rm true (x.scale (127 - (sc : Int)))
      | _ => aldConv o rm sat x)

/-- A control word that breaks a limit. -/
def aldBad (ctl : Dword) (scl : Bool) (w : Nat) : Bool :=
  fldN ctl 7 1 ≠ 0 || fldN ctl 14 50 ≠ 0 || decide (5 < fldN ctl 8 3) || decide (2048 < 16 * fldN ctl 0 7 + w * aldP (fldN ctl 8 3))
    || (scl && (aldP (fldN ctl 8 3) ≠ 4 || fldN ctl 0 1 = 1))

/-- The bank as an ALD reads it (R294): while an operation that writes it is not counted off, each element is its value now or
one that is not known yet. -/
def State.bankRead (s : State) (core p first n : Nat) (busy : Bool) : State × List Nat :=
  let b := s.bank core p
  if !busy then (s, (List.range n).map fun i => (KMap.get 0 b.vals (first + i)).toNat)
  else ({ s with free := s.free + n }, (List.range n).map fun i =>
    if Config.freeBit (s.free + i) then (KMap.get 0 b.vals (first + i)).toNat else fldN (Config.freeDword (s.free + i)) 0 40)

def execAld (f : FMTX) (s : State) : Out :=
  let scl := f.mopt.getLsbD 7
  let ss := fldN f.mopt 0 7
  let lg := { legalMtx f false true false false false true (if scl then 0xFF else 0x80) (f.ah = 1) with
                rsv := f.b ≠ 0 || f.kst ≠ 0 || f.clr ≠ 0 || f.mopt &&& ~~~(if scl then 0xFF else 0x80) ≠ 0 }
  issueWith s lg
    (fun c => { reads := [sreg f.fb.toNat],
                writes := (.v f.a.toNat, c.active f.all) :: (if scl then [sreg ss] else []) }) .lanes 10 true fun s c p =>
      let ctl := c.ag.sr f.fb.toNat
      match KMap.find? c.ag.banks f.abank.toNat with
      | none => .next (s.raise c.a c.fid illegalReg)
      | some ph =>
        if c.ag.nv ≤ f.a.toNat then .next (s.raise c.a c.fid illegalReg)
        else if aldBad ctl scl c.ag.width then .next (s.raise c.a c.fid illegalRec)
        else match s.tagFault c ph with
        | some t => .next t
        | none =>
          let busy := c.ag.ops.any fun o => match o.kind with
            | .matrix opc _ m => m.phys = ph && decide (2 ≤ opc ∧ opc ≤ 6 ∨ opc = 10)
            | _ => false
          if c.fr.chk && busy then .next (s.raise c.a c.fid { code := 12, detail := 1 })
          else
            let o := fldN ctl 8 3
            let P := aldP o
            let rm := RM.ofBits (fldN ctl 12 2)
            let sat : Bool := fldN ctl 11 1 = 1
            let i0 := 16 * fldN ctl 0 7
            let n := c.ag.width * P
            let r0 := i0 / 32
            let rows := (i0 + n + 31) / 32 - r0
            let rd := s.bankRead c.ag.core ph (if scl then 32 * r0 else i0) (if scl then 32 * rows else n) busy
            let xs := rd.2.map fa40.decode
            let blocks := (List.range rows).map fun k => blockScale o rm sat ((xs.drop (32 * k)).take 32)
            let es := if scl then (blocks.flatMap (·.2)).drop (i0 % 32) else xs.map (aldConv o rm sat)
            let word (l : Nat) : Word :=
              BitVec.ofNat 32 ((List.range P).foldl (fun x j => x + es.getD (P * l + j) 0 * 2 ^ (32 / P * j)) 0)
            let sc := blocks.zipIdx.foldl (fun x b => x + b.1.1 * 2 ^ (8 * b.2)) 0
            let lanes := lanesOf (c.active f.all)
            .next (rd.1.updAgent c.a fun ag =>
              let ag := ag.commit c.fid c.fr p s.clk f.stl.toNat 10
                { writes := [(.v f.a.toNat, lanes.map fun l => (l, (word l).setWidth 64))] }
              if scl then
                let ag := markWrites ag [sreg ss]
                { ag with pend := ag.pend ++ [{ fid := c.fid, dst := .s ss, vals := [(0, BitVec.ofNat 64 sc)],
                                                                 ready := s.clk + extraPass p + 10 : Pend }] }
              else ag)

end Sys2Proof.Machine
end

