-- ==== Sys2Proof/Machine/MatrixEvents.lean ====
section
/-!
DEFINITION. The events of the matrix engines (R287, R288, R296 to R299, R301, R302, R305). An event that is not enabled leaves
the state as it is.
-/
namespace Sys2Proof.Machine

def State.leave (s : State) (h : Nat) : Leave := (KMap.find? s.leaves h).getD {}
def State.setLeave (s : State) (h : Nat) (l : Leave) : State :=
  { s with leaves := if l = {} then KMap.del s.leaves h else KMap.put s.leaves h l }

/-- Changes a matrix operation. -/
def State.updMtx (s : State) (a id : Nat) (due : Nat) (f : Mtx → Mtx) : State :=
  s.updAgent a fun ag => ag.updOp id fun o => { o with due := due, kind := match o.kind with
    | .matrix opc w m => .matrix opc w (f m)
    | k => k }

/-- A CBLD to slot x of an engine, issued before operation `id`, that has not finished loading (R299). -/
def State.loadsPending (s : State) (core part x id : Nat) : Bool :=
  s.agents.any fun p => p.2.ops.any fun o => match o.kind with
    | .matrix 7 f m => m.core = core && m.part = part && fldN f.mopt 0 1 = x && decide (o.id < id) && !o.returned
    | _ => false

/-- Step st of an MMAC has ended. -/
def mmacStepEnded (o : Op) (f : FMTX) (m : Mtx) (clk st : Nat) : Bool :=
  decide (st < m.step) || (st = m.step && m.begun.isSome && decide (o.due - (if st + 1 = mulS f then 4 else 0) ≤ clk))

/-- An MMAC issued before operation `id` still reads slot x. -/
def State.slotRead (s : State) (core part x id : Nat) : Bool :=
  s.agents.any fun p => p.2.ops.any fun o => match o.kind with
    | .matrix 6 f m => m.core = core && m.part = part && decide (o.id < id) && !o.returned &&
        (List.range (mulS f)).any fun st => mmacSlot f st = x && !mmacStepEnded o f m s.clk st
    | _ => false

/-- A step that read slot x ended at clk e: later CBLDs to the slot load from then on. -/
def State.slotFree (s : State) (core part x id e : Nat) : State :=
  { s with agents := s.agents.map fun (p : Nat × Agent) => (p.1, { p.2 with ops := p.2.ops.map fun o => match o.kind with
      | .matrix 7 f m => if m.core = core ∧ m.part = part ∧ fldN f.mopt 0 1 = x ∧ id < o.id ∧ !o.returned then
          { o with due := max o.due (e + 24) } else o
      | _ => o }) }

/-- The tables of slot x, as step st of an MMAC keeps them. -/
def slotTabs (e : Eng) (x st : Nat) (old : KMap Half) : KMap Half :=
  (List.range 256).foldl (fun m i => KMap.set 0 m (256 * st + i) (KMap.get 0 e.tabs (256 * x + i))) old

/-- Distinct pointers of an MMAV with the number of lanes that share each. -/
def mmavShares (m : Mtx) (f : FMTX) : List (Nat × Nat) :=
  let ps := (lanesOf m.act).filterMap fun l =>
    let p := (KMap.get 0 m.snap (64 * f.b.toNat + l)).toNat + 2 ^ 32 * (KMap.get 0 m.snap (64 * (f.b.toNat + 1) + l)).toNat
    if p = 0 then none else some p
  ps.eraseDups.map fun p => (p, (ps.filter (· = p)).length)

/-- Byte ranges of the strings that step st needs: its panel, and its scales. -/
def mmavRanges (m : Mtx) (f : FMTX) (st : Nat) : List (Nat × Nat) :=
  let S := mulS f
  let pb := Blk.pb m.blk 5
  let one := Blk.snb m.blk S / S
  (mmavShares m f).flatMap fun p =>
    (p.1 + st * pb, pb) :: (if Blk.bsl m.blk = 1 then [(p.1 + S * pb + st * one, one)] else [])

/-- Latency of the slowest line of the ranges. -/
def State.rangesLat (s : State) (m : Mtx) (rs : List (Nat × Nat)) : Nat :=
  (rs.flatMap fun r => (pageParts r.1 r.2).map fun q => lineLat s m.core (m.phys? q.1) 0).foldl max 0

/-- The leave of R306 lets an operation begin, and from when on. -/
def State.leaveFrom (s : State) (m : Mtx) (ready : Nat) : Option Nat :=
  let l := s.leave (4 * m.core + m.part)
  match l.start with
  | some t => some (max t ready)
  | none => if l.held && !m.ask then some ready else none

/-- One engine lets its head begin at the clk that is now. -/
def State.mayBegin (s : State) (o : Op) (f : FMTX) (m : Mtx) (opc : Nat) : Bool :=
  let ready := max (o.issue + 4) (s.eng m.core m.part).last
  (match (s.engOps m.core m.part).head? with
    | some x => x.2.id = o.id
    | none => false) && m.begun.isNone && !s.opBusy o.id
    && (match s.leaveFrom m ready with
      | some t => decide (t + (if m.far then 16 else 0) ≤ s.clk)
      | none => false)
    && !(opc = 6 && s.loadsPending m.core m.part (mmacSlot f 0) o.id)

/-- An operation begins. -/
def State.beginMtx (s : State) (a : Nat) (ag : Agent) (o : Op) (f : FMTX) (m : Mtx) (opc : Nat) : State :=
  let h := 4 * m.core + m.part
  let s := s.setLeave h { s.leave h with start := none }
  let S := mulS f
  let T := Blk.stepClk m.blk
  let m1 := { m with begun := some s.clk }
  match opc with
  | 2 => s.updMtx a o.id (s.clk + 16) fun _ => m1
  | 3 => s.updMtx a o.id (s.clk + S * T + 4) fun _ => m1
  | 4 => s.updMtx a o.id (s.clk + 4 + S * T + 4) fun _ => m1
  | 5 => s.updMtx a o.id (s.clk + s.rangesLat m (mmavRanges m f 0)) fun _ => m1
  | 6 => s.updMtx a o.id (s.clk + T + if S = 1 then 4 else 0) fun _ =>
      { m1 with tabs := slotTabs (s.eng m.core m.part) (mmacSlot f 0) 0 [] }
  | 9 => s.updMtx a o.id (s.clk + 80 + lineLat s m.core (m.phys? m.addr) 1) fun _ => m1
  | 10 => s.updMtx a o.id (s.clk + 84 + lineLat s m.core (m.phys? m.addr) 0) fun _ => m1
  | _ => (s.updMtx a o.id (s.clk + 2) fun _ => m1).updAgent a fun g => g.updOp o.id fun q =>
      { q with sc := [s.astat a ag f.abank.toNat] }

/-- ARRAY_OP_BEGIN: the head of an engine begins; the four of a rendezvous begin together. -/
def execArrayOpBegin (op : Nat) (s : State) : Out :=
  match s.opOwner op with
  | none => .next s
  | some (a, ag, o) =>
    match o.kind with
    | .matrix opc f m =>
      if m.quad.isEmpty then
        if s.mayBegin o f m opc then .next (s.beginMtx a ag o f m opc) else .next s
      else
        let qs := m.quad.filterMap fun id => s.opOwner id
        let ok := qs.all fun q => match q.2.2.kind with
          | .matrix opc f m => s.mayBegin q.2.2 f m opc
          | _ => false
        if !ok then .next s
        else .next (qs.foldl (init := s) fun s q => match q.2.2.kind with
          | .matrix opc f m => s.beginMtx q.1 q.2.1 q.2.2 f m opc
          | _ => s)
    | _ => .next s

/-! ## Results -/

/-- The register operands that an operation uses (R294): as at issue, or, where a write fell into the window, either value. -/
def State.winVals (s : State) (ag : Agent) (o : Op) (m : Mtx) : State × KMap Word :=
  o.winClash.foldl (init := (s, m.snap)) fun acc d =>
    match d.1 with
    | .s _ => acc
    | .v r => (lanesOf d.2).foldl (init := acc) fun acc l =>
      let s := { acc.1 with free := acc.1.free + 1 }
      if Config.freeBit acc.1.free then (s, KMap.set 0 acc.2 (64 * r + l) (ag.vr r l)) else (s, acc.2)

/-- Scale byte of an operand: `loc` 0 none, 1 in line, 2 in a table, 3 constant. -/
def scaleOf (loc const : Nat) (inl tab : Nat → Nat) (i j : Nat) : Nat :=
  match loc with
  | 1 => inl i
  | 2 => tab j
  | 3 => const
  | _ => 127

/-- A's string of an operation that is no MMAV. -/
def aStr (tm : Team) (w : Nat) (f : FMTX) (m : Mtx) (regs : KMap Word) : Nat → Nat :=
  if f.ah = 1 then hndByte tm m.hoff m.layout else regByte regs w f.a.toNat

/-- The operands of MMA, MMAV and MMAC. -/
def mulOps (tm : Team) (w : Nat) (opc : Nat) (f : FMTX) (m : Mtx) (regs : KMap Word) : MOps :=
  let b := m.blk
  let S := mulS f
  let pa := Blk.pa b opc
  let pb := Blk.pb b opc
  let ea := mxBits (Blk.afmt b)
  let eb := mxBits (Blk.bfmt b)
  let tab (off i : Nat) : Nat := (rdB tm.scr (off + i)).toNat
  let sA (r : Nat) : Nat → Nat := if opc = 5 then laneByte regs f.a.toNat r else aStr tm w f m regs
  let sB : Nat → Nat := regByte regs w f.b.toNat
  { a := fun s r => (List.range 128).map fun k => mxVal (Blk.afmt b) (elemAt (sA r) (s * pa) ea (if opc = 5 then k else 128 * r + k))
    b := fun s n => (List.range 128).map fun k =>
      if opc = 6 then
        mxVal 7 (KMap.get 0 m.tabs (256 * s + 8 * n + elemAt sB (s * pb + 48 * n) 3 k)).toNat
      else mxVal (Blk.bfmt b) (elemAt sB (s * pb) eb (128 * n + k))
    sa := fun s r k =>
      let i := (64 * s + r) * (128 / Blk.abl b) + k / Blk.abl b
      scaleOf (Blk.asl b) (Blk.aconst b) (fun i => sA r (S * pa + i)) (tab (Blk.asoff b)) i i
    sb := fun s n k =>
      let i := if Blk.bbl b = 32 then (32 * s + n) * 4 + k / 32 else s
      scaleOf (Blk.bsl b) (Blk.bconst b) (fun i => sB (S * pb + i)) (tab (Blk.bsoff b)) i i }

/-- MMAV's operands of one lane: B comes from memory, at the lane's pointer. -/
def mmavOps (tm : Team) (f : FMTX) (m : Mtx) (regs : KMap Word) (l : Nat) : MOps :=
  let o := mulOps tm 1 5 f m regs
  let b := m.blk
  let S := mulS f
  let pb := Blk.pb b 5
  let p := (KMap.get 0 regs (64 * f.b.toNat + l)).toNat + 2 ^ 32 * (KMap.get 0 regs (64 * (f.b.toNat + 1) + l)).toNat
  let str (t : Nat) : Nat := (rdB m.buf (p + t)).toNat
  { o with
    b := fun s n => (List.range 128).map fun k => mxVal (Blk.bfmt b) (elemAt str (s * pb) (mxBits (Blk.bfmt b)) (128 * n + k))
    sb := fun s n k =>
      let i := if Blk.bbl b = 32 then (32 * s + n) * 4 + k / 32 else s
      scaleOf (Blk.bsl b) (Blk.bconst b) (fun i => str (S * pb + i)) (fun _ => 0) i i }

/-- MMAQ's operands: B is the four quarters assembled, `qr` their registers by partition. -/
def mmaqOps (tm : Team) (w : Nat) (f : FMTX) (m : Mtx) (regs : KMap Word) (qr : List (Nat × KMap Word)) : MOps :=
  let o := mulOps tm w 4 f m regs
  let b := m.blk
  let S := mulS f
  let pb := Blk.pb b 4
  let str (q : Nat) : Nat → Nat := match qr[q]? with
    | some r => regByte r.2 w r.1
    | none => fun _ => 0
  { o with
    b := fun s n => (List.range 128).map fun k =>
      mxVal (Blk.bfmt b) (elemAt (str (k / 32)) (s * pb) (mxBits (Blk.bfmt b)) (32 * n + k % 32))
    sb := fun s n k =>
      let j := k / 32
      let tabI := if Blk.bbl b = 32 then (32 * s + n) * 4 + j else s
      let inI := if Blk.bbl b = 32 then 32 * s + n else s
      scaleOf (Blk.bsl b) (Blk.bconst b) (fun i => str (if Blk.bbl b = 32 then j else 0) (S * pb + i))
        (fun i => (rdB tm.scr (Blk.bsoff b + i)).toNat) inI tabI }

/-- The operation leaves its engine and is counted off: locks, deferred releases, idle time, the zeroing of its bank. -/
def State.endMtx (s : State) (a : Nat) (o : Op) (m : Mtx) (array : Bool) : State :=
  let s1 := ((s.unlock o.id).returnOp a o.id).deferDone
  if !array then s1
  else
    let h := 4 * m.core + m.part
    let s2 := (s1.setEng m.core m.part { s1.eng m.core m.part with last := s.clk }).setLeave h { s1.leave h with idle := s.clk }
    let b := s2.bank m.core m.phys
    if b.st = .zeroing then s2.setBank m.core m.phys { b with at' := max b.at' (s.clk + 16) } else s2

def State.putVals (s : State) (core p : Nat) (v : KMap (BitVec 40)) : State := s.setBank core p { s.bank core p with vals := v }

/-- 2048 FA40 values of 5 bytes each (R105). -/
def bankBytes (v : KMap (BitVec 40)) : List Byte := (List.range 2048).flatMap fun i => bytesOf 5 (KMap.get 0 v i).toNat

/-- Writes bytes at virtual addresses of an operation's pages, as plain writes of the group with hint DEF (R301). -/
def State.storeLines (s : State) (a : Nat) (ag : Agent) (o : Op) (m : Mtx) (va : Nat) (bs : List Byte) : State :=
  (List.range ((bs.length + 15) / 16)).foldl (init := s) fun s i =>
    s.storeAcc a ag o .glob 0 false
      { lane := 0, va := va + 16 * i, pa := m.phys? (va + 16 * i), n := 16, x := BitVec.ofNat 128 (numOf ((bs.drop (16 * i)).take 16)) }

/-- Reads the ranges of an operation into its buffer. -/
def State.fetchRanges (s : State) (a id : Nat) (m : Mtx) (rs : List (Nat × Nat)) : State :=
  let r := rs.foldl (init := (s, m.buf)) fun acc r =>
    (pageParts r.1 r.2).foldl (init := acc) fun acc q =>
      let x := acc.1.unitRead (m.phys? q.1) q.2
      (x.1, wrBytes acc.2 q.1 (bytesOf q.2 x.2))
  r.1.updAgent a fun ag => ag.updOp id fun o => { o with kind := match o.kind with
    | .matrix opc w m => .matrix opc w { m with buf := r.2 }
    | k => k }

/-- What AADD makes of the bank (R301). -/
def addBank (clr : Bool) (buf : KMap Byte) (addr : Nat) (old : KMap (BitVec 40)) : KMap (BitVec 40) :=
  (List.range 2048).foldl (init := old) fun m i =>
    let v := rdN buf 5 (addr + 5 * i)
    let x := if clr then (if (fa40.decode v).isNan then fa40.nan else v) else fa40.fadd .rne (KMap.get 0 old i).toNat v
    KMap.set 0 m i (BitVec.ofNat 40 x)

/-- MMAV_LINE_ARRIVAL: every line of the step's strings is there; the step begins. -/
def execMmavLineArrival (op : Nat) (s : State) : Out :=
  match s.opOwner op with
  | none => .next s
  | some (a, _, o) =>
    match o.kind with
    | .matrix 5 f m =>
      if m.begun.isNone ∨ m.lines ∨ s.clk < o.due then .next s
      else
        let s1 := s.fetchRanges a op m (mmavRanges m f m.step)
        let t := (mmavShares m f).foldl (fun t p => t + 8 * ((p.2 + 7) / 8)) 0 * Blk.stepClk m.blk / 64
        .next (s1.updMtx a op (s.clk + t + if m.step + 1 = mulS f then 4 else 0) fun m => { m with lines := true })
    | _ => .next s

/-- The results of the four multiplies of a rendezvous. -/
def State.quadEnd (s : State) (qs : List (Nat × Agent × Op)) : State :=
  let regs := qs.foldl (init := (s, ([] : List (Nat × KMap Word)))) fun acc q =>
    match q.2.2.kind with
    | .matrix _ f m => let r := acc.1.winVals q.2.1 q.2.2 m; (r.1, acc.2 ++ [(f.b.toNat, r.2)])
    | _ => acc
  (qs.zipIdx).foldl (init := regs.1) fun s q =>
    match q.1.2.2.kind with
    | .matrix _ f m =>
      let tm := s.teamOf q.1.2.1
      let mine := ((regs.2[q.2]?).map (·.2)).getD []
      let v := multBank (Blk.span m.blk) (mulS f) (f.clr = 1) (List.range 64)
        (mmaqOps tm q.1.2.1.width f m mine regs.2) (s.bank m.core m.phys).vals
      (s.putVals m.core m.phys v).endMtx q.1.1 q.1.2.2 m true
    | _ => s

/-- MATRIX_OP_END: a step of an MMAV or an MMAC that is not the last passes to the next one; else the operation ends, writes
its bank once and is counted off. -/
def execMatrixOpEnd (op : Nat) (s : State) : Out :=
  match s.opOwner op with
  | none => .next s
  | some (a, ag, o) =>
    match o.kind with
    | .matrix opc f m =>
      if s.clk < o.due ∨ o.returned then .next s
      else if opc = 0 then .next (s.returnOp a op)
      else if m.begun.isNone then .next s
      else
        let tm := s.teamOf ag
        let S := mulS f
        let rows (n : Nat) : List Nat := List.range n
        let old := (s.bank m.core m.phys).vals
        match opc with
        | 2 => .next ((s.putVals m.core m.phys []).endMtx a o m true)
        | 3 =>
          let r := s.winVals ag o m
          let v := multBank (Blk.span m.blk) S (f.clr = 1) (rows 64) (mulOps tm ag.width 3 f m r.2) old
          .next ((r.1.putVals m.core m.phys v).endMtx a o m true)
        | 4 =>
          let qs := m.quad.filterMap fun id => s.opOwner id
          if qs.length = 4 then .next (s.quadEnd qs) else .next s
        | 5 =>
          if !m.lines then .next s
          else if m.step + 1 < S then
            .next (s.updMtx a op (s.clk + s.rangesLat m (mmavRanges m f (m.step + 1))) fun m => { m with step := m.step + 1, lines := false })
          else
            let r := s.winVals ag o m
            let ptr (l : Nat) : Nat := (KMap.get 0 m.snap (64 * f.b.toNat + l)).toNat + 2 ^ 32 * (KMap.get 0 m.snap (64 * (f.b.toNat + 1) + l)).toNat
            let ls := lanesOf m.act
            let v := (ls.filter fun l => ptr l ≠ 0).foldl (init := old) fun v l =>
              multBank (Blk.span m.blk) S (f.clr = 1) [l] (mmavOps tm f m (keepPtrs f m r.2) l) v
            let null := maskOf (ls.filter fun l => ptr l = 0)
            .next (((r.1.putVals m.core m.phys v).landVals a o [(.s (fldN f.mopt 0 7), 0, null)]).endMtx a o m true)
        | 6 =>
          if m.step + 1 < S then
            if s.loadsPending m.core m.part (mmacSlot f (m.step + 1)) op then .next s
            else
              let s1 := s.slotFree m.core m.part (mmacSlot f m.step) op o.due
              .next (s1.updMtx a op (s.clk + Blk.stepClk m.blk + if m.step + 2 = S then 4 else 0) fun m =>
                { m with step := m.step + 1, tabs := slotTabs (s.eng m.core m.part) (mmacSlot f (m.step + 1)) (m.step + 1) m.tabs })
          else
            let r := s.winVals ag o m
            let v := multBank (Blk.span m.blk) S (f.clr = 1) (rows 64) (mulOps tm ag.width 6 f m r.2) old
            .next (((r.1.putVals m.core m.phys v).slotFree m.core m.part (mmacSlot f m.step) op (o.due - 4)).endMtx a o m true)
        | 9 => .next ((s.storeLines a ag o m m.addr (bankBytes old)).endMtx a o m true)
        | 10 =>
          let s1 := s.fetchRanges a op m [(m.addr, 10240)]
          match s1.opOwner op with
          | none => .next s1
          | some q =>
            match q.2.2.kind with
            | .matrix _ _ m1 => .next ((s1.putVals m.core m.phys (addBank (f.clr = 1) m1.buf m.addr old)).endMtx a o m true)
            | _ => .next s1
        | 11 => .next ((s.landVals a o [(.s (fldN f.mopt 0 7), 0, o.sc.headD 0)]).endMtx a o m true)
        | _ => .next s
    | _ => .next s
where
  /-- The pointers are those read at issue, whatever was written in the window: the strings were fetched through them. -/
  keepPtrs (f : FMTX) (m : Mtx) (r : KMap Word) : KMap Word :=
    (List.range 64).foldl (init := r) fun r l =>
      KMap.set 0 (KMap.set 0 r (64 * f.b.toNat + l) (KMap.get 0 m.snap (64 * f.b.toNat + l))) (64 * (f.b.toNat + 1) + l)
        (KMap.get 0 m.snap (64 * (f.b.toNat + 1) + l))

/-- CBLD_LOAD_DONE: the slot holds its tables (R299); the CBLD is counted off. -/
def execCbldLoadDone (op : Nat) (s : State) : Out :=
  match s.opOwner op with
  | none => .next s
  | some (a, ag, o) =>
    match o.kind with
    | .matrix 7 f m =>
      let x := fldN f.mopt 0 1
      if s.clk < o.due ∨ o.returned ∨ s.slotRead m.core m.part x op ∨ s.opBusy op then .next s
      else
        let r := s.winVals ag o m
        let tm := s.teamOf ag
        let ofs := if f.ah = 1 then 16 * fldN f.mopt 2 7 else 0
        let bc : Bool := fldN f.mopt 1 1 = 1
        let str (t : Nat) : Nat := if f.ah = 1 then hndByte tm m.hoff m.layout (ofs + t) else regByte r.2 ag.width f.a.toNat t
        let e := s.eng m.core m.part
        let tabs := (List.range 256).foldl (init := e.tabs) fun t i =>
          let j := 2 * (i % 8) + if bc then 0 else 16 * (i / 8)
          KMap.set 0 t (256 * x + i) (BitVec.ofNat 16 (str j + 256 * str (j + 1)))
        .next ((r.1.setEng m.core m.part { e with tabs := tabs }).endMtx a o m false)
    | _ => .next s

end Sys2Proof.Machine
end

