-- ==== Sys2Proof/Machine/System.lean ====
section
/-!
DEFINITION. Group and leat control registers (R14 to R18, R96 to R98, R134 to R137, R157, R282, R283, R311, R312, R383, R395,
R420, R459, R474), time (R99 to R101), barriers (R148 to R150), and the instructions of faults and traps (R432 to R438).
-/
namespace Sys2Proof.Machine

/-! ## Control registers -/

/-- What an index names. -/
inductive CReg where
  | unassigned
  /-- Readable only in a handler. -/
  | handlerOnly
  | plain
  deriving DecidableEq, Repr

/-- Indices of a group (R14, R134, R157, R282, R383, R395, R420). -/
def groupIndex (i : Nat) : CReg :=
  if i ≤ 3 ∨ (0x10 ≤ i ∧ i ≤ 0x12) ∨ (0x20 ≤ i ∧ i ≤ 0x23) ∨ (0x30 ≤ i ∧ i ≤ 0x38) ∨ (0x40 ≤ i ∧ i ≤ 0x50) ∨ i = 0x60
      ∨ i = 0x80 ∨ i = 0x81 then .plain
  else if i = 0x61 ∨ i = 0x62 ∨ (0x68 ≤ i ∧ i ≤ 0x6F) then .handlerOnly
  else .unassigned

/-- Indices of a leat (R311). -/
def leatIndex (i : Nat) : CReg :=
  if i ≤ 3 ∨ i = 0x10 ∨ i = 0x80 ∨ (0x100 ≤ i ∧ i ≤ 0x1FF) then .plain else .unassigned

def ofN (x : Nat) : Dword := BitVec.ofNat 64 x

/-- GID (R16). -/
def gid (ag : Agent) : Nat := ag.core + ag.part * 2 ^ 7 + ag.slot * 2 ^ 9 + ag.ctx * 2 ^ 17 + ag.tenant * 2 ^ 23

/-- STRIP, STRIPLEN and STRIPPOS of a team. -/
def stripLen (tm : Team) : Nat := tm.strip.length - 1

/-- GPOS (R135). -/
def gpos (ag : Agent) (tm : Team) : Nat :=
  ag.gidx + (tm.ngroups - 1) * 2 ^ 6 + (if ag.width = 16 then 0 else if ag.width = 32 then 1 else 2) * 2 ^ 12
    + (if tm.pair then 2 ^ 14 else 0) + tm.pos * 2 ^ 15 + stripLen tm * 2 ^ 18 + (if tm.strip.isEmpty then 0 else 2 ^ 21)
    + (ag.nv / 16 - 1) * 2 ^ 32

/-- APMAPk (R283). -/
def apmap (ag : Agent) (k : Nat) : Nat :=
  (List.range 8).foldl (fun x j => x + (match KMap.find? ag.banks (8 * k + j) with
    | some p => (p + 128) * 2 ^ (8 * j)
    | none => 0)) 0

/-- CARDPOS (R459). -/
def State.cardpos (s : State) : Nat := s.barFld blkFab 0 39

/-- WALLST (R474). -/
def State.wallst (s : State) : Nat :=
  s.barFld (blkWall + 6) s.card 1 + (if s.wallOut then 2 else 0) + min 3 (KMap.get 0 s.wallRuns s.card) * 4

/-- A group control register as the executing fragment reads it. -/
def State.groupReg (s : State) (c : Iss) (i : Nat) : Dword :=
  let ag := c.ag
  if i = 0 then (if ag.gchk then 1 else 0)
  else if i = 1 then ofN (gid ag)
  else if i = 2 then ofN s.pt
  else if i = 3 then ofN c.fr.pc
  else if i = 0x10 then ofN (gpos ag (s.teamOf ag))
  else if i = 0x11 then ofN (s.teamOf ag).idx
  else if i = 0x12 then ofN (c.fid + ag.split.length * 16)
  else if i = 0x20 then ag.lrec
  else if i = 0x21 then ag.dln
  else if i = 0x22 then ag.lcls
  else if i = 0x23 then ag.srx
  else if i = 0x30 then maskOf (KMap.keys ag.banks)
  else if 0x31 ≤ i ∧ i ≤ 0x38 then ofN (apmap ag (i - 0x31))
  else if 0x40 ≤ i ∧ i ≤ 0x4F then KMap.get 0 ag.qb (i - 0x40)
  else if i = 0x50 then s.pstat
  else if i = 0x60 then ag.lm
  else if i = 0x61 then (ag.handler.map (·.emSave)).getD 0
  else if 0x68 ≤ i ∧ i ≤ 0x6F then (ag.handler.map fun h => h.shadow.getD (i - 0x68) 0).getD 0
  else if i = 0x80 then ofN s.cardpos
  else if i = 0x81 then ofN s.wallst
  else 0

/-- LID and LTEAM (R312). -/
def lid (ag : Agent) : Nat := ag.core + (if ag.kind = .leat true then 2 ^ 7 else 0) + ag.ctx * 2 ^ 17 + ag.tenant * 2 ^ 23
def lteam (tm : Team) : Nat :=
  tm.idx % 2 ^ 32 + (if tm.pair then 2 ^ 32 else 0) + tm.pos * 2 ^ 33 + stripLen tm * 2 ^ 36 + (if tm.strip.isEmpty then 0 else 2 ^ 39)

/-- HDESC of handle h as a leat reads it: zero while the handle is not held (R314). -/
def State.hdescRd (s : State) (ag : Agent) (h : Nat) : Dword :=
  match KMap.find? s.handles (hkey (s.teamOf ag).core h) with
  | some x => hdescOf x
  | none => 0

/-- A leat control register (R311). -/
def State.leatReg (s : State) (c : Iss) (i : Nat) : Dword :=
  if i = 0 then (if c.ag.gchk then 1 else 0)
  else if i = 1 then ofN (lid c.ag)
  else if i = 2 then ofN s.pt
  else if i = 3 then ofN c.fr.pc
  else if i = 0x10 then ofN (lteam (s.teamOf c.ag))
  else if i = 0x80 then ofN s.cardpos
  else if 0x100 ≤ i ∧ i ≤ 0x1FF then s.hdescRd c.ag (i - 0x100)
  else 0

def sysIndex (f : FSYS) : Nat := fldN f.imm 0 12

/-- What an SRD or SWR of this index first meets: an unassigned index, or a handler's register outside one (R97, R420). -/
def Iss.indexFault (c : Iss) (i : Nat) : Option Flt :=
  match if c.ag.isLeat then leatIndex i else groupIndex i with
  | .unassigned => some (illegalOp 3)
  | .handlerOnly => if c.inHandler then none else some (illegalOp 1)
  | .plain => none

/-- SRD (R97, R379). -/
def execSrd (f : FSYS) (s : State) : Out :=
  issueLocal s (legalSys f { sd := true, imm := 0xFFF, leat := true, subRsv := true })
    (fun _ => { writes := [sreg f.sd.toNat] }) .one f.stl.toNat 2 fun s c =>
      let i := sysIndex f
      match c.indexFault i with
      | some x => .error x
      | none =>
        if c.ag.pure ∧ ¬(i = 0 ∨ i = 0x10 ∨ i = 0x11 ∨ i = 0x12) then .error purity
        else .ok { writes := [(.s f.sd.toNat, [(0, if c.ag.isLeat then s.leatReg c i else s.groupReg c i)])] }

/-- A group control register is written (R98, R15, R157, R383, R420); registers and fields that are RO ignore it. -/
def Agent.setGroupReg (ag : Agent) (i : Nat) (v : Dword) : Agent :=
  if i = 0 then { ag with gchk := v.getLsbD 0 }
  else if i = 0x23 then { ag with srx := v }
  else if 0x40 ≤ i ∧ i ≤ 0x4F then { ag with qb := KMap.set 0 ag.qb (i - 0x40) (v &&& 0x8000_0000_0000_003F#64) }
  else if i = 0x61 then { ag with handler := ag.handler.map fun h => { h with emSave := v } }
  else if 0x68 ≤ i ∧ i ≤ 0x6F then { ag with handler := ag.handler.map fun h => { h with shadow := h.shadow.set (i - 0x68) v } }
  else ag

/-- A bank that the group maps and that is foreign (R422). -/
def State.foreignBank (s : State) (ag : Agent) (p : Nat) : Bool :=
  (ag.banks.any fun b => b.2 = p) && (s.bank ag.core p).tag ≠ ag.ctx

/-- SWR (R98). ASPILL holds issue for 80 clk and the store latency of the save area (R422). -/
def execSwr (f : FSYS) (s : State) : Out :=
  issueWith s (legalSys f { sa := true, imm := 0xFFF, leat := true, subRsv := true })
    (fun _ => { reads := [sreg f.sa.toNat] }) .one 0 true fun s c _ =>
      let i := sysIndex f
      let v := c.ag.sr f.sa.toNat
      match c.indexFault i with
      | some x => .next (s.raise c.a c.fid x)
      | none =>
        if c.ag.isLeat then
          if 0x100 ≤ i ∧ i ≤ 0x1FF then
            match s.hdescWr c.ag (i - 0x100) v with
            | .ok s1 => .next (s1.sysDone c f.stl.toNat)
            | .error x => .next (s.raise c.a c.fid x)
          else .next ((s.updAgent c.a fun ag => if i = 0 then { ag with gchk := v.getLsbD 0 } else ag).sysDone c f.stl.toNat)
        else if c.ag.pure ∧ i = 0x23 then .next (s.raise c.a c.fid purity)
        else if i = 0x62 then
          let p := if c.fr.phase = 4 then c.fr.hop else fldN v 0 6
          if !s.foreignBank c.ag p then .next (s.sysDone c f.stl.toNat)
          else if c.fr.phase = 4 then .next ((s.spillBank c.ag.core p c.ag.ctx).sysDone c f.stl.toNat)
          else
            let t := s.clk + 80 + lineLat s c.ag.core (s.ctxSave (s.bank c.ag.core p).tag) 1
            .next ((s.hold c (.clk t) 4).updFrag c.a c.fid fun fr => { fr with hop := p })
        else .next ((s.updAgent c.a fun ag => ag.setGroupReg i v).sysDone c f.stl.toNat)

/-! ## Time (R99 to R101) -/

/-- SLEEPPT: the target is kept from the first issue on. -/
def sleepUntil (f : FSYS) (rel : Bool) (s : State) : Out :=
  issueWith s (legalSys f { sa := true, leat := true, subs := if rel then [1] else [0] })
    (fun _ => { reads := [sreg f.sa.toNat] }) .one 0 true fun s c _ =>
      let x := (c.ag.sr f.sa.toNat).toNat
      let t := if c.fr.phase = 4 then c.fr.hop else if rel then min (s.pt + x) (2 ^ 64 - 1) else x
      if c.ag.pure then .next (s.raise c.a c.fid purity)
      else if t ≤ s.pt then .next (s.sysDone c f.stl.toNat)
      else .next ((s.hold c (.sleep t) 4).updFrag c.a c.fid fun fr => { fr with hop := t })

def execSleeppt (f : FSYS) (s : State) : Out := sleepUntil f false s
def execSleepptRel (f : FSYS) (s : State) : Out := sleepUntil f true s

/-! ## Barriers (R148 to R150) -/

/-- TBAR and SBAR: the group arrives, whatever its em holds. -/
def barrier (f : FSYS) (kind : Nat) (s : State) : Out :=
  issueWith s (legalSys f { subRsv := true }) (fun _ => {}) .one 0 true fun s c _ =>
    if !c.ag.split.isEmpty then .next (s.raise c.a c.fid illegalSplit)
    else
      let n := if kind = 0 then c.ag.tbar + 1 else c.ag.sbar + 1
      .next ((s.hold c (.barrier kind n) 4).updAgent c.a fun ag => if kind = 0 then { ag with tbar := n } else { ag with sbar := n })

def execTbar (f : FSYS) (s : State) : Out := barrier f 0 s
def execSbar (f : FSYS) (s : State) : Out := barrier f 1 s

/-- The teams that take part in a barrier of a team. -/
def barrierTeams (t : Nat) (tm : Team) (kind : Nat) : List Nat := if kind = 1 ∧ !tm.strip.isEmpty then tm.strip else [t]

/-- An operation that writes memory and is not performed. -/
def Op.writes (o : Op) : Bool :=
  !o.returned && match o.kind with
    | .store .. => true
    | .atomic .. => true
    | .hostAtomic .. => true
    | .sweep .. => true
    | .matrix opc .. => opc = 9
    | _ => false

/-- The group has ended, but for operations that are not counted off (R95). -/
def Agent.over (ag : Agent) : Bool := ag.ended || ag.frags.all fun f => f.2.wait = .ended

/-- The group has arrived at the n-th barrier of a kind, or has ended, and its writes are performed. -/
def Agent.atBarrier (ag : Agent) (kind n : Nat) : Bool :=
  (ag.over || decide (n ≤ (if kind = 0 then ag.tbar else ag.sbar))) && !(ag.ops.any Op.writes)

/-- Barriers of a kind completed by a team. -/
def Team.barDone (t : Team) (kind : Nat) : Nat := if kind = 0 then t.tdone else t.sdone

/-- A fragment that waits at the n-th barrier of a kind goes on, not before a clk. -/
def Frag.passBarrier (f : Frag) (kind n at' : Nat) : Frag :=
  if f.wait = Wait.barrier kind n then f.adv (max at' (f.iss + 1 + fldN (f.code.getD (f.k - 1) 0) 53 3)) else f

def Agent.passBarrier (ag : Agent) (kind n at' : Nat) : Agent :=
  { ag with frags := ag.frags.map fun (f : Nat × Frag) => (f.1, f.2.passBarrier kind n at') }

/-- BARRIER_COMPLETE: every participant has arrived and its writes are performed; each becomes eligible again, its core's L1
invalidated by the acquire (R265). -/
def execBarrierComplete (team kind : Nat) (s : State) : Out :=
  match s.team? team with
  | none => .next s
  | some tm =>
    let ts := barrierTeams team tm kind
    let n := tm.barDone kind + 1
    let gs := ts.flatMap fun t => ((s.team? t).map (·.groups)).getD []
    let ags := gs.filterMap fun a => s.agent? a
    let waits (ag : Agent) : Bool := ag.frags.any fun f => f.2.wait = .barrier kind n
    if !(ts.all fun t => match s.team? t with
        | some x => x.barDone kind + 1 = n && decide (x.ngroups ≤ x.groups.length)
        | none => false) || !(ags.all fun ag => ag.atBarrier kind n) || !(ags.any waits) then .next s
    else
      let lat := if kind = 1 then 40 else if tm.pair then 22 else 6
      let s1 := ts.foldl (init := s) fun s t => s.updTeam t fun x => if kind = 0 then { x with tdone := n } else { x with sdone := n }
      .next (gs.foldl (init := s1) fun s a =>
        match s.agent? a with
        | none => s
        | some ag =>
          if !waits ag then s
          else (s.putAgent a (ag.passBarrier kind n (s.clk + lat))).l1Inval ag.core)

/-! ## Faults and traps (R432 to R438) -/

/-- A context with a pre-emption pending. -/
def State.preempting (s : State) (ctx : Nat) : Bool := (KMap.find? s.preempts ctx).isSome

/-- Used scratchpad ranges of a liveness record (R79): offset, length. -/
def liveRanges (r : Nat) : List (Nat × Nat) :=
  ((List.range 4).map fun i => (natFld r (192 + 64 * i) 32, natFld r (224 + 64 * i) 32)).filter fun p => p.2 ≠ 0

/-- R433: the record is valid. -/
def liveOk (ag : Agent) (tm : Team) (bytes : List Byte) : Bool :=
  let r := numOf bytes
  let rs := liveRanges r
  let all := (List.range 4).map fun i => (natFld r (192 + 64 * i) 32, natFld r (224 + 64 * i) 32)
  natFld r 449 63 = 0 && decide (natFld r 0 64 < 2 ^ (ag.nv / 16)) && (all.all fun p => p.1 % 4 = 0 && p.2 % 4 = 0)
    && (rs.all fun p => decide (p.1 + p.2 ≤ tm.size))
    && (rs.zipIdx.all fun p => rs.zipIdx.all fun q => p.2 = q.2 || !overlap p.1.1 p.1.2 q.1.1 q.1.2)

def handlerRow : SysRow := { subs := [0], hnd := true }

/-- YIELD (R433). -/
def execYield (f : FSYS) (s : State) : Out :=
  issueWith s (legalSys f { noHnd := true }) (fun _ => {}) .one 0 true fun s c _ =>
    if !liveOk c.ag (s.teamOf c.ag) c.fr.live then .next (s.raise c.a c.fid (illegalOp 5))
    else match c.ag.rejected fun _ => true with
    | some flt => .next (s.raise c.a c.fid flt)
    | none =>
    if s.preempting c.ag.ctx then .next (s.hold c .yield 4)
    else
      let i := if 4 ≤ c.fr.phase then c.fr.iss else s.clk
      .next (s.updFrag c.a c.fid fun fr => { fr.goHdr (fr.nextHdr + 64) with next := max (s.clk + 3) (i + 1 + f.stl.toNat) })

/-- TRAP (R434). -/
def execTrap (f : FSYS) (s : State) : Out :=
  issueWith s (legalSys f { imm := 0xFFFF, leat := true }) (fun _ => {}) .one 0 true fun s c _ =>
    .next (s.raise c.a c.fid { code := 15, detail := fldN f.imm 0 16 })

/-- BRK (R434). -/
def execBrk (f : FSYS) (s : State) : Out :=
  issueWith s (legalSys f { imm := 0xFFFF, leat := true }) (fun _ => {}) .one 0 true fun s c _ =>
    if s.ctxDbg c.ag.ctx ∨ c.inHandler then .next (s.raise c.a c.fid { code := 17, detail := fldN f.imm 0 16 })
    else .next (s.sysDone c f.stl.toNat)

/-- Where TRET sends the faulting fragment. -/
inductive Tret where
  | retry | skip | jmp (t : Nat)
  deriving DecidableEq, Repr

/-- TRET (R435): waits for the handler's fixed-latency writes, then restores s120 to s127 and em. -/
def tret (f : FSYS) (k : Nat) (s : State) : Out :=
  issueWith s (legalSys f { handlerRow with sa := k = 2, subs := [k] }) (fun _ => { reads := if k = 2 then [sreg f.sa.toNat] else [] })
    .one 0 true fun s c _ =>
      let t := if 4 ≤ c.fr.phase then c.fr.hop else (c.ag.sr f.sa.toNat).toNat
      if k = 2 ∧ 2 ^ 48 - 8 < t then .next (s.raise c.a c.fid (illegalAddr t))
      else if k = 2 ∧ t % 8 ≠ 0 then .next (s.raise c.a c.fid (misalign t))
      else
        let mine := c.ag.pend.filter fun q => q.fid = c.fid
        let rdy := mine.foldl (fun m q => max m q.ready) 0
        if s.clk < rdy then .next ((s.hold c (.clk rdy) 4).updFrag c.a c.fid fun fr => { fr with hop := t })
        else
          match c.ag.handler with
          | none => .next s
          | some h =>
            let i := if 4 ≤ c.fr.phase then c.fr.iss else s.clk
            let nxt := max s.clk (max (i + 3) (i + 1 + f.stl.toNat))
            let fr0 := h.frag
            let fr1 := match k with
              | 0 => if fr0.k = 0 then { fr0.goHdr fr0.h with next := nxt } else { fr0 with next := nxt, phase := 0, wait := .none }
              | 1 =>
                if fr0.k = fr0.code.length ∧ !fr0.live.isEmpty then { fr0.goHdr (fr0.nextHdr + 64) with next := nxt }
                else if fr0.k = 0 then { fr0.goHdr fr0.nextHdr with next := nxt }
                else fr0.adv nxt
              | _ => { fr0.goHdr t with next := nxt }
            .next (s.updAgent c.a fun ag =>
              { (h.shadow.zipIdx.foldl (fun g x => g.setS (120 + x.2) x.1) ag) with
                handler := none, frags := KMap.put ag.frags c.fid { fr1 with em := h.emSave, own := c.fr.own } })

def execTretRetry (f : FSYS) (s : State) : Out := tret f 0 s
def execTretSkip (f : FSYS) (s : State) : Out := tret f 1 s
def execTretJmp (f : FSYS) (s : State) : Out := tret f 2 s

/-- Register index and lane of XLMR and XLMW, and the faults of R436. -/
def laneReg (f : FSYS) (c : Iss) : Except Flt (Nat × Nat) :=
  let i := fldN (c.ag.sr f.sa.toNat) 0 10
  let p := f.sub.toNat % 2 = 1
  if p ∧ i % 2 = 1 then .error (illegalOp 3)
  else if c.ag.nv < i + (if p then 2 else 1) then .error { code := 4 }
  else .ok (i, fldN (c.ag.sr f.sb.toNat) 0 6)

/-- XLMR. -/
def execXlmr (f : FSYS) (s : State) : Out :=
  let row : SysRow := { handlerRow with sd := true, sa := true, sb := true, subs := [0, 1] }
  let i (c : Iss) : Nat := fldN (c.ag.sr f.sa.toNat) 0 10
  let l (c : Iss) : Nat := fldN (c.ag.sr f.sb.toNat) 0 6
  issueLocal s (legalSys f row)
    (fun c => { reads := [sreg f.sa.toNat, sreg f.sb.toNat, (.v (i c), laneBit (l c))] ++
                  (if f.sub = 1 then [(.v (i c + 1), laneBit (l c))] else []), writes := [sreg f.sd.toNat] }) .one f.stl.toNat 8 fun _ c =>
      match laneReg f c with
      | .error x => .error x
      | .ok (r, ln) =>
        let v := if c.ag.width ≤ ln then 0
          else (c.ag.vr r ln).toNat + (if f.sub = 1 then 2 ^ 32 * (c.ag.vr (r + 1) ln).toNat else 0)
        .ok { writes := [(.s f.sd.toNat, [(0, ofN v)])] }

/-- XLMW. -/
def execXlmw (f : FSYS) (s : State) : Out :=
  let row : SysRow := { handlerRow with sd := true, sa := true, sb := true, subs := [0, 1] }
  let i (c : Iss) : Nat := fldN (c.ag.sr f.sa.toNat) 0 10
  let l (c : Iss) : Nat := fldN (c.ag.sr f.sb.toNat) 0 6
  issueLocal s (legalSys f row)
    (fun c => { reads := sregs [f.sa.toNat, f.sb.toNat, f.sd.toNat],
                writes := (.v (i c), laneBit (l c)) :: (if f.sub = 1 then [(.v (i c + 1), laneBit (l c))] else []) }) .one f.stl.toNat 8
    fun _ c =>
      match laneReg f c with
      | .error x => .error x
      | .ok (r, ln) =>
        let v := c.ag.sr f.sd.toNat
        if c.ag.width ≤ ln then .ok {}
        else .ok { writes := (.v r, [(ln, v &&& 0xFFFF_FFFF#64)]) :: (if f.sub = 1 then [(.v (r + 1), [(ln, v >>> 32)])] else []) }

/-- A dword of a split-table entry (R142): the masks, JPC, and the identities. -/
def SplitEnt.dword (e : SplitEnt) (d : Nat) : Dword :=
  match d with
  | 0 => e.pmask
  | 1 => e.cmask
  | 2 => ofN (e.jpc + e.pid * 2 ^ 48 + e.cid * 2 ^ 52 + (if e.pa then 2 ^ 56 else 0) + (if e.ca then 2 ^ 57 else 0) + 2 ^ 58)
  | _ => 0

/-- FLTRD (R437). -/
def fltrd (f : FSYS) (k : Nat) (s : State) : Out :=
  let d := fldN f.imm 0 3
  let e := fldN f.imm 3 6
  let bad : Bool := match k with
    | 0 => e ≠ 0
    | 1 => decide (7 < e ∨ 3 < d)
    | _ => decide (1 < d)
  issueLocal s (legalSys f { handlerRow with sd := true, imm := 0x1FF, subs := [k], bad := bad })
    (fun _ => { writes := [sreg f.sd.toNat] }) .one f.stl.toNat 2 fun s c =>
      let x : Dword := match k with
        | 0 => (c.ag.handler.map fun h => ofN (fldN h.record (64 * d) 64)).getD 0
        | 1 => ((KMap.find? c.ag.split e).map fun x => x.dword d).getD 0
        | _ => ((KMap.find? s.rlocks (64 * c.ag.core + e)).map fun x => ofN (fldN x.bits (64 * d) 64)).getD 0
      .ok { writes := [(.s f.sd.toNat, [(0, x)])] }

def execFltrdRec (f : FSYS) (s : State) : Out := fltrd f 0 s
def execFltrdSpl (f : FSYS) (s : State) : Out := fltrd f 1 s
def execFltrdRng (f : FSYS) (s : State) : Out := fltrd f 2 s

/-- The last fragment of a group ends: the group waits for its counters (R95), and stops where a rejected operation must be
counted off (R357, R465). -/
def State.endLast (s : State) (c : Iss) (done : State → State) : State :=
  match c.ag.rejected fun _ => true with
  | some flt => s.raise c.a c.fid flt
  | none => if c.ag.ops.isEmpty then done s else s.hold c .ended 4

/-- END (R95, R145, R310): in a leat it stops the leat. -/
def execEnd (f : FBR) (s : State) : Out :=
  issueWith s { legalBR f false false false false with noHnd := true } (fun _ => {}) .one 0 true fun s c _ =>
    let fin (s : State) : State := s.updAgent c.a fun ag => ag.endFrag c.fid s.clk
    if c.ag.frags.length ≤ 1 then .next (s.endLast c fin) else .next (fin s)

/-- HALT (R438): every fragment ends, a trap being handled is abandoned. -/
def execHalt (f : FSYS) (s : State) : Out :=
  issueWith s (legalSys f { leat := true }) (fun _ => {}) .one 0 true fun s c _ =>
    let s1 := s.updAgent c.a fun ag =>
      { ag with frags := ag.frags.filter (fun (p : Nat × Frag) => p.1 = c.fid), split := [], handler := none }
    .next (s1.endLast c fun s => s.updAgent c.a fun ag => { ag with frags := [], ended := true })

/-- HALT.FATAL (R438). -/
def execHaltFatal (f : FSYS) (s : State) : Out :=
  issueWith s (legalSys f { imm := 0xFFFF, leat := true, subs := [1], rsv := decide (2 ^ 16 ≤ f.imm.toNat) }) (fun _ => {}) .one 0 true
    fun s c _ => .next (s.raise c.a c.fid { code := 35, detail := fldN f.imm 0 16 })

end Sys2Proof.Machine
end

