-- ==== Sys2Proof/Machine/Issue.lean ====
section
/-!
DEFINITION. Fetch (R22 to R26, R56 to R60, R308, R500), the header's conditions (R27), and the choice of the issuer (R168).
-/
namespace Sys2Proof.Machine

/-! ## Fetch -/

/-- Words and bytes of a clause as fetched. -/
structure Clause where
  hdr : Dword
  code : List Dword
  live : List Byte
  deriving DecidableEq, Repr

inductive Fetch where
  | fault (f : Flt)
  | hold (s : State) (w : Wait)
  | ok (s : State) (c : Clause)

/-- Bytes of a clause by its header (R23). -/
def clauseBytes (hdr : Dword) : Nat := 8 * ((Header.dec hdr).count.toNat + 2)

/-- The word is a YIELD of its clause: its liveness record follows the clause (R79). -/
def endsInYield (hdr w : Dword) : Bool := (Header.dec hdr).cls = .sys && fldN w 56 8 = 0x20

/-- A leat's fetch, from its own store (R308). -/
def leatFetch (s : State) (ag : Agent) (h : Nat) : Fetch :=
  let hdr : Dword := BitVec.ofNat 64 (rdN ag.store 8 h)
  if 65536 < h + 8 then .fault (illegalAddr h)
  else
    let n := clauseBytes hdr
    if 65536 < h + n then .fault (illegalAddr 65536)
    else .ok s { hdr := hdr, code := (List.range (n / 8 - 1)).map (fun j => BitVec.ofNat 64 (rdN ag.store 8 (h + 8 * (j + 1)))), live := [] }

def fetchBit : Nat := 2 ^ 9

/-- Translation of the n bytes at va for fetch (R412 to R415): the physical addresses of their dwords, or a fault at the first
page that fails, or a hold. `again` when a walk for this fetch has ended without a translation. -/
def State.fetchPages (s : State) (ag : Agent) (va n : Nat) (again : Bool) : Except (Flt ⊕ (State × Wait)) (List Nat) :=
  if 2 ^ 48 < va + n then .error (.inl (illegalAddr (max va (2 ^ 48))))
  else
    (pageParts va n).foldl (init := .ok []) fun acc p =>
      match acc with
      | .error e => .error e
      | .ok ws =>
        let dead := again && (match s.walk ag.ctx p.1 with
          | .error _ => true
          | .ok _ => false)
        if (s.l1tlb ag.core ag.ctx p.1).isNone && !dead then .error (.inr (s.missHold ag.core ag.ctx [p.1]))
        else match s.translate ag.core ag.ctx p.1 with
          | .error d => .error (.inl { code := 1, detail := d + fetchBit, addr := p.1 })
          | .ok t =>
            if !t.x then .error (.inl { code := 1, detail := 4 + fetchBit, addr := p.1 })
            else .ok (ws ++ (List.range (p.2 / 8)).map fun j => s.selfPa (t.phys (p.1 + 8 * j)) false)

/-- The dword at a physical address, of a core's clause cache or of the card's memory; none where it must first arrive. -/
def State.peek (s : State) (core pa : Nat) : Option Dword :=
  match (s.core core).cc.find? fun l => l.pa = lineOf pa with
  | some l => some (BitVec.ofNat 64 (l.read pa 8))
  | none => if s.onCard pa then some (BitVec.ofNat 64 (s.readN 8 pa)) else none

/-- Lines of these addresses that the clause cache does not hold. -/
def State.ccMissing (s : State) (core : Nat) (ws : List Nat) : List Nat :=
  ((ws.map lineOf).eraseDups).filter fun l => !((s.core core).cc.any fun c => c.pa = l)

/-- The lines used become the most recently used ones. -/
def State.ccTouch (s : State) (core : Nat) (ws : List Nat) : State :=
  let c := s.core core
  let use (l : List CLine) (pa : Nat) : List CLine := match cacheFind l pa with
    | some r => r.2
    | none => l
  s.setCore core { c with cc := ((ws.map lineOf).eraseDups).foldl use c.cc }

/-- A group's fetch of the clause at h: its header, then its words, then the liveness record after a YIELD. -/
def State.groupFetch (s : State) (ag : Agent) (h : Nat) (again : Bool) : Fetch :=
  let need (ws : List Nat) : Option Fetch :=
    match s.ccMissing ag.core ws with
    | [] => none
    | ls => some (.hold s (.fetch ls))
  let out (r : Flt ⊕ (State × Wait)) : Fetch := match r with
    | .inl f => .fault f
    | .inr p => .hold p.1 p.2
  let pk (ws : List Nat) (i : Nat) : Option Dword := (ws[i]?).bind fun pa => s.peek ag.core pa
  let stop (ws : List Nat) : Fetch := (need ws).getD (.hold s .none)
  match s.fetchPages ag h 8 again with
  | .error r => out r
  | .ok w0 =>
    match pk w0 0 with
    | none => stop w0
    | some hdr =>
      match s.fetchPages ag h (clauseBytes hdr) again with
      | .error r => out r
      | .ok ws =>
        match pk ws (ws.length - 1) with
        | none => stop ws
        | some last =>
          match s.fetchPages ag h (clauseBytes hdr + if endsInYield hdr last then 64 else 0) again with
          | .error r => out r
          | .ok all =>
            match need all with
            | some f => f
            | none =>
              let xs := all.map fun pa => (s.peek ag.core pa).getD 0
              .ok (s.ccTouch ag.core all)
                { hdr := hdr, code := (xs.take ws.length).drop 1, live := (xs.drop ws.length).flatMap fun w => bytesOf 8 w.toNat }

/-! ## The check of a clause (R24, R25, R56, R57) -/

/-- Legal only as the last instruction of its clause (R25, R56). -/
def endsClause (i : Instr) : Bool :=
  match i with
  | .bra _ => true
  | .brc _ => true
  | .call _ => true
  | .ret _ => true
  | .jmp _ => true
  | .loop _ => true
  | .endGroup _ => true
  | .brzm _ => true
  | .split _ => true
  | .joinI _ => true
  | .tend _ => true
  | .yield _ => true
  | .tretRetry _ => true
  | .tretSkip _ => true
  | .tretJmp _ => true
  | .halt _ => true
  | .haltFatal _ => true
  | _ => false

/-- The opcode of a † instruction, whatever its SUB. -/
def daggerWord (cls : Cls) (w : Dword) : Bool :=
  (match decodeIn cls w with
    | some i => endsClause i
    | none => false)

def clauseBad (leat : Bool) (c : Clause) : Bool :=
  let h := Header.dec c.hdr
  h.rsv ≠ 0 || (h.hw = 0 && (h.h ≠ 0 || h.hst ≠ 0 || h.hph ≠ 0))
    || (c.code.any fun w => decodeWord h.cls w = .otherClass) || ((c.code.dropLast).any fun w => daggerWord h.cls w)
    || (leat && (h.cls = .mtx || h.hw = 1 || h.wg ≠ 15 || h.ws ≠ 15 || h.we ≠ 15 || h.wm ≠ 15))

def illegalClause : Flt := { code := 5 }

/-! ## The header's conditions (R27) -/

/-- The counter conditions: threshold by counter, 15 places none. -/
def headerCtrs (h : Header) : List (Ctr × Nat) :=
  ([(Ctr.g, h.wg.toNat), (.s, h.ws.toNat), (.e, h.we.toNat), (.m, h.wm.toNat)]).filter fun p => p.2 ≠ 15

def headerHandle (s : State) (ag : Agent) (h : Header) : Bool := h.hw = 0 || s.handleIn ag h.h.toNat h.hst.toNat h.hph.toNat

def headerMet (s : State) (ag : Agent) (hdr : Dword) : Bool :=
  let h := Header.dec hdr
  (headerCtrs h).all (fun p => decide (ag.ctrVal p.1 ≤ p.2)) && headerHandle s ag h

/-- A condition that needs a rejected operation or a parked ray's operation counted off (R357, R465). -/
def headerStop (ag : Agent) (hdr : Dword) : Option Flt :=
  (headerCtrs (Header.dec hdr)).findSome? fun p => ag.rejectedCtr p.1 p.2

/-! ## Who may issue (R146, R168, R425) -/

/-- The agent's fragments may issue: resident and started, not ended, stopped or held; in a handler, its fragment only. -/
def State.mayIssue (s : State) (ag : Agent) (fid : Nat) : Bool :=
  let tm := s.teamOf ag
  ag.started && tm.started && !tm.saved && !ag.ended && !ag.latched && ag.stop.isNone && (KMap.find? s.fatals ag.ctx).isNone
    && (match ag.handler with
      | none => true
      | some h => h.fid = fid)

/-- One candidate of the issue selection: agent, fragment. -/
structure Cand where
  a : Nat
  fid : Nat
  ag : Agent
  fr : Frag

/-- The issuers of a partition that may issue. -/
def State.issuersOf (s : State) (p : Nat) : List Cand :=
  s.agents.flatMap fun (q : Nat × Agent) =>
    if q.2.isLeat || 4 * q.2.core + q.2.part ≠ p then []
    else (q.2.frags.filter fun f => s.mayIssue q.2 f.1).map fun f => { a := q.1, fid := f.1, ag := q.2, fr := f.2 : Cand }

/-- In the middle of a clause and not parked. -/
def Cand.running (c : Cand) : Bool := c.fr.k ≠ 0 && c.fr.wait = .none && decide (c.fr.phase < 4)

/-- Ready to start the clause that it has fetched. -/
def Cand.ready (s : State) (c : Cand) : Bool :=
  c.fr.k = 0 && c.fr.wait = .none && !c.fr.code.isEmpty && decide (c.fr.next ≤ s.clk) && headerMet s c.ag c.fr.hdr

/-- x comes before y among those that start (R168 step 2). -/
def Cand.before (x y : Cand) : Bool :=
  let age (c : Cand) : Nat := if c.fr.aged then (c.fr.readyAt.getD 0) + 1 else 0
  let lex (l : List (Nat × Nat)) : Bool := ((l.find? fun p => p.1 ≠ p.2).map fun p => decide (p.1 < p.2)).getD false
  if x.fr.aged ∧ !y.fr.aged then true
  else if y.fr.aged ∧ !x.fr.aged then false
  else lex [(age x, age y), (fldN x.ag.lcls 0 2, fldN y.ag.lcls 0 2), (x.fr.started, y.fr.started), (x.ag.slot, y.ag.slot), (x.fid, y.fid)]

/-- The least element of a list under an order. -/
def leastBy {α : Type} (lt : α → α → Bool) : List α → Option α
  | [] => none
  | x :: xs => match leastBy lt xs with
    | none => some x
    | some y => if lt y x then some y else some x

/-- What partition p's pipe takes in this clk: a pass of a clause in progress, or a start. -/
def State.choose (s : State) (p : Nat) : Option Cand :=
  if s.clk < (KMap.find? s.slots p).getD 0 then none
  else
    let cs := s.issuersOf p
    let run := cs.filter Cand.running
    match leastBy (fun x y => decide (x.fr.started < y.fr.started)) (run.filter fun c => decide (c.fr.next ≤ s.clk)) with
    | some c => some c
    | none => if run.length < 4 then leastBy Cand.before (cs.filter fun c => c.ready s) else none

def State.chosen (s : State) (p a fid : Nat) : Bool :=
  match s.choose p with
  | some c => c.a = a && c.fid = fid
  | none => false

/-! ## CLAUSE_START -/

/-- The clause has been fetched and checked: its words wait at the header. -/
def Frag.fetched (f : Frag) (c : Clause) : Frag := { f with hdr := c.hdr, code := c.code, live := c.live, phase := 0 }

/-- The first instruction comes next (R27, R18: CHK as it stands now). -/
def Frag.start (f : Frag) (chk : Bool) (order : Nat) : Frag :=
  { f with k := 1, chk := chk, started := order, phase := 0, readyAt := none, aged := false }

/-- The clause is in order, or the fault that is taken at its header. -/
def State.fetchClause (s : State) (a fid : Nat) (ag : Agent) (fr : Frag) : State :=
  match if ag.isLeat then leatFetch s ag fr.h else s.groupFetch ag fr.h (fr.phase = 2) with
  | .fault f => s.raise a fid f
  | .hold s1 w => s1.updFrag a fid fun f => { f with wait := w, iss := s.clk }
  | .ok s1 c =>
    let s2 := s1.updFrag a fid fun f => f.fetched c
    if clauseBad ag.isLeat c then s2.raise a fid illegalClause else s2

/-- CLAUSE_START: the clause is fetched and checked; once its header's conditions hold and the partition selects it, its first
instruction comes next. -/
def execClauseStart (a fid : Nat) (s : State) : Out :=
  match s.agent? a with
  | none => .next s
  | some ag =>
    match KMap.find? ag.frags fid with
    | none => .next s
    | some fr =>
      if !s.mayIssue ag fid ∨ fr.k ≠ 0 ∨ fr.wait ≠ .none ∨ s.clk < fr.next then .next s
      else if fr.code.isEmpty then .next (s.fetchClause a fid ag fr)
      else if !headerMet s ag fr.hdr then
        match headerStop ag fr.hdr with
        | some f => .next (s.raise a fid f)
        | none => .next s
      else if ag.isLeat || s.chosen (4 * ag.core + ag.part) a fid then
        let s1 := if (Header.dec fr.hdr).hw = 1 then s.handleAcquire ag else s
        .next (({ s1 with ids := s1.ids + 1 }).updFrag a fid fun f => f.start ag.gchk s.ids)
      else .next s

/-- CLAUSE_LINE_ARRIVAL: a missing line reaches the clause cache. -/
def execClauseLineArrival (a fid line : Nat) (s : State) : Out :=
  match (s.agent? a).bind fun ag => (KMap.find? ag.frags fid).map fun fr => (ag, fr) with
  | none => .next s
  | some (ag, fr) =>
    match fr.wait with
    | .fetch ls =>
      if !ls.contains line ∨ s.clk < fr.iss + lineLat s ag.core line 0 then .next s
      else
        let r := s.unitRead line 128
        let c := r.1.core ag.core
        let s1 := (r.1.eccRead (ag.raiser fid fr.pc) [line]).setCore ag.core { c with cc := cacheFill 128 4 c.cc { pa := line, data := BitVec.ofNat 1024 r.2 } }
        let rest := ls.filter (· ≠ line)
        .next (s1.updFrag a fid fun f => { f with wait := if rest.isEmpty then .none else .fetch rest })
    | _ => .next s

/-- ISSUER_AGED: ready without a start for 512 clk. -/
def execIssuerAged (a fid : Nat) (s : State) : Out :=
  match (s.agent? a).bind fun ag => (KMap.find? ag.frags fid) with
  | none => .next s
  | some fr =>
    match fr.readyAt with
    | some t => if t + 512 ≤ s.clk then .next (s.updFrag a fid fun f => { f with aged := true }) else .next s
    | none => .next s

/-- Since when a fragment has been ready to start. -/
def State.markFrag (s : State) (a : Nat) (ag : Agent) (fid : Nat) (fr : Frag) : Frag :=
  let c : Cand := { a := a, fid := fid, ag := ag, fr := fr }
  if fr.k ≠ 0 then fr
  else if s.mayIssue ag fid && c.ready s then { fr with readyAt := some (fr.readyAt.getD s.clk) }
  else { fr with readyAt := none, aged := false }

/-- From clk to clk: since when each issuer has been ready to start. -/
def State.markReady (s : State) : State :=
  { s with agents := s.agents.map fun (q : Nat × Agent) =>
      if q.2.isLeat then q
      else (q.1, { q.2 with frags := q.2.frags.map fun (f : Nat × Frag) => (f.1, s.markFrag q.1 q.2 f.1 f.2) }) }

end Sys2Proof.Machine
end

