-- ==== Sys2Proof/Machine/Unit.lean ====
section
/-!
DEFINITION. Records that units of the device and holding instructions read and write through a context's translation (R412 to
R415, R501), and the latencies of such accesses (R221).
-/
namespace Sys2Proof.Machine

/-- The pages of n bytes at va, translated by walks: (virtual address, physical address, bytes) of each part. -/
def State.ctxParts (s : State) (ctx va n : Nat) (write : Bool) : Except Flt (List (Nat × Nat × Nat)) :=
  (pageParts va n).foldl (init := .ok []) fun acc p =>
    match acc with
    | .error e => .error e
    | .ok l => match s.ctxPhys ctx p.1 write with
      | .error f => .error f
      | .ok pa => .ok (l ++ [(p.1, s.selfPa pa write, p.2)])

/-- The bytes of translated parts as one number. -/
def State.partsRead (s : State) : List (Nat × Nat × Nat) → State × Nat
  | [] => (s, 0)
  | p :: ps =>
    let r := s.unitRead p.2.1 p.2.2
    let t := r.1.partsRead ps
    (t.1, r.2 + 2 ^ (8 * p.2.2) * t.2)

/-- Writes bytes to translated parts. `own` is the task whose drain writes. -/
def State.partsWrite (s : State) (own : Nat) : List (Nat × Nat × Nat) → List Byte → State
  | [], _ => s
  | p :: ps, bs => (s.unitWrite p.2.1 (bs.take p.2.2) own).partsWrite own ps (bs.drop p.2.2)

def State.ctxRead (s : State) (ctx va n : Nat) : Except Flt (State × Nat) :=
  match s.ctxParts ctx va n false with
  | .error f => .error f
  | .ok ps => .ok (s.partsRead ps)

def State.ctxWrite (s : State) (ctx va : Nat) (bs : List Byte) (own : Nat := 0) : Except Flt State :=
  match s.ctxParts ctx va bs.length true with
  | .error f => .error f
  | .ok ps => .ok (s.partsWrite own ps bs)

/-- Latency of the slowest line of n bytes at va, as an access of a core; 0 load, 1 store. -/
def State.ctxLat (s : State) (core ctx va n kind : Nat) : Nat :=
  match s.ctxParts ctx va n (kind = 1) with
  | .error _ => 0
  | .ok ps => (ps.map fun p => lineLat s core p.2.1 kind).foldl max 0

/-- An instruction's own record access through its core's TLB: translated parts; or the fault; or the hold on a miss. `again`
when a walk for this issue has ended without a translation. -/
def State.recParts (s : State) (ag : Agent) (va n : Nat) (write again : Bool) :
    Except (Flt ⊕ (State × Wait)) (List (Nat × Nat × Nat)) :=
  let wr := if write then 2 ^ 10 else 0
  (pageParts va n).foldl (init := .ok []) fun acc p =>
    match acc with
    | .error e => .error e
    | .ok l =>
      let dead := again && (match s.walk ag.ctx p.1 with
        | .error _ => true
        | .ok _ => false)
      if (s.l1tlb ag.core ag.ctx p.1).isNone && !dead then .error (.inr (s.missHold ag.core ag.ctx [p.1]))
      else match s.translate ag.core ag.ctx p.1 with
        | .error d => .error (.inl { code := 1, detail := d + wr, addr := p.1 })
        | .ok t =>
          if write && !t.w then .error (.inl { code := 2, detail := 2 ^ 10, addr := p.1 })
          else .ok (l ++ [(p.1, s.selfPa (t.phys p.1) write, p.2)])

/-- What an instruction with a fault or a hold of `recParts` does. -/
def State.recStop (s : State) (c : Iss) (r : Flt ⊕ (State × Wait)) : State :=
  match r with
  | .inl f => s.raise c.a c.fid f
  | .inr h => h.1.hold c h.2 c.fr.phase

/-- Latency of the slowest line of translated parts. -/
def State.partsLat (s : State) (core kind : Nat) (ps : List (Nat × Nat × Nat)) : Nat :=
  (ps.map fun p => lineLat s core p.2.1 kind).foldl max 0

/-- What a release at up to `.sys` by an instruction that holds for it first does: waits, or meets a held peer line (R242, R243). -/
def State.relStop (s : State) (c : Iss) (phase : Nat) : Option State :=
  match s.releaseWait c.a c.ag 0 with
  | some w => some (s.hold c w phase)
  | none => (s.heldPeer c.ag.core c.ag.ctx).map fun f => s.raise c.a c.fid f

/-- Raiser of a unit that is no group and no leat. -/
def State.unitRaiser (s : State) (agent ctx core : Nat) (opk handle arrived : Nat := 0) : Raiser :=
  { agent := agent, ctx := ctx, tenant := s.ctxTenant ctx, core := core, opk := opk, handle := handle, arrived := arrived }

/-- RECORD_LOST (R407, R501): address, kind, and whether it is misaligned rather than outside R21. -/
def State.recordLost (s : State) (agent ctx addr kind : Nat) : State :=
  s.notice (s.unitRaiser agent ctx 0)
    { code := 50, addr := addr, info := addr % 2 ^ 48 + kind * 2 ^ 48 + (if addr % 32 ≠ 0 then 2 ^ 52 else 0) }

/-- A completion record's address cannot be used (R501). -/
def badComp (a n : Nat) : Bool := a ≠ 0 && (a % 32 ≠ 0 || decide (2 ^ 48 < a + n))

end Sys2Proof.Machine
end

