-- ==== Sys2Proof/Machine/Sched.lean ====
section
/-!
DEFINITION. Launch queues, admission, graphs, the placement arbiter and completion records (R151 to R167, R309, R501, R502),
and the LAUNCH instruction.
-/
namespace Sys2Proof.Machine

/-! ## Launch records and descriptors (R153, R154, R361) -/

def lrDesc (l : BitVec 1024) : Nat := fldN l 0 48
def lrClass (l : BitVec 1024) : Nat := fldN l 56 2
def lrChk (l : BitVec 1024) : Bool := fldN l 58 1 = 1
def lrGraph (l : BitVec 1024) : Bool := fldN l 59 1 = 1
def lrNbef (l : BitVec 1024) : Nat := fldN l 64 64
def lrDline (l : BitVec 1024) : Nat := fldN l 128 64
def lrTeams (l : BitVec 1024) : Nat := fldN l 192 32
def lrConc (l : BitVec 1024) : Nat := fldN l 224 16
def lrPrio (l : BitVec 1024) : Nat := fldN l 240 8
def lrEst (l : BitVec 1024) : Nat := fldN l 256 32
def lrCores (l : BitVec 1024) : Nat := fldN l 320 128
def lrArgs (l : BitVec 1024) : Nat := fldN l 448 64
def lrComp (l : BitVec 1024) : Nat := fldN l 512 64
def lrSeed (l : BitVec 1024) : Nat := fldN l 576 64
def lrRsv (l : BitVec 1024) : Bool :=
  fldN l 48 8 ≠ 0 || fldN l 60 4 ≠ 0 || fldN l 248 8 ≠ 0 || fldN l 288 32 ≠ 0 || fldN l 640 384 ≠ 0

def kdEntry (d : BitVec 512) : Nat := fldN d 0 48
def kdWidth (d : BitVec 512) : Nat := 16 * 2 ^ fldN d 64 2
def kdNv (d : BitVec 512) : Nat := 16 * (fldN d 66 6 + 1)
def kdGroups (d : BitVec 512) : Nat := fldN d 72 6 + 1
def kdPair (d : BitVec 512) : Bool := fldN d 78 1 = 1
def kdStrip (d : BitVec 512) : Bool := fldN d 79 1 = 1
def kdStripN (d : BitVec 512) : Nat := fldN d 80 3 + 1
def kdPure (d : BitVec 512) : Bool := fldN d 83 1 = 1
def kdAcc (d : BitVec 512) : Nat := fldN d 84 7
def kdScratch (d : BitVec 512) : Nat := fldN d 96 32
def kdIprog (d : BitVec 512) : Nat := fldN d 128 48
def kdTprog (d : BitVec 512) : Nat := fldN d 192 48
def kdIlen (d : BitVec 512) : Nat := min 65536 (fldN d 256 17)
def kdTlen (d : BitVec 512) : Nat := min 65536 (fldN d 288 17)
def kdDecl (d : BitVec 512) : Nat := fldN d 320 48
def kdRsv (d : BitVec 512) : Bool :=
  fldN d 48 16 ≠ 0 || fldN d 91 5 ≠ 0 || fldN d 176 16 ≠ 0 || fldN d 240 16 ≠ 0 || fldN d 273 15 ≠ 0 || fldN d 305 15 ≠ 0
    || fldN d 368 16 ≠ 0 || fldN d 448 64 ≠ 0

/-- REASON 2 of R155, but for the team that fits no core. -/
def kdBad (d : BitVec 512) : Bool :=
  fldN d 64 2 = 3 || kdScratch d % 64 ≠ 0 || (!kdPair d && decide (2 ^ 20 < kdScratch d)) || decide (2 ^ 21 < kdScratch d)
    || (kdPair d && decide (4 < kdStripN d)) || decide (64 < kdAcc d) || decide (524288 < 4 * kdWidth d * kdNv d)

/-! ## What is free on a core (R130, R165, R205) -/

/-- Groups that hold a slot of a core, with their partition. -/
def State.held (s : State) : List Agent :=
  (s.agents.filter fun p => !p.2.isLeat && !(s.teamOf p.2).saved).map (·.2)

def groupBytes (w nv : Nat) : Nat := 4 * w * nv

def slotsUsed (gs : List Agent) (core part : Nat) : Nat := (gs.filter fun g => g.core = core && g.part = part).length
def bytesUsed (gs : List Agent) (core part : Nat) : Nat :=
  (gs.filter fun g => g.core = core && g.part = part).foldl (fun n g => n + groupBytes g.width g.nv) 0

def roundPage (n : Nat) : Nat := (n + 4095) / 4096 * 4096

/-- Scratchpad runs reserved on a core: first byte, bytes (R205, R206). -/
def State.runsOf (s : State) (core : Nat) : List (Nat × Nat) :=
  s.teams.filterMap fun p =>
    let t := p.2
    if t.saved then none
    else if t.core = core then some (t.base, roundPage (if t.pair then min t.size (2 ^ 20) else t.size))
    else if t.pair ∧ t.core + 1 = core then some (t.base2, roundPage (t.size - 2 ^ 20))
    else none

/-- The lowest free run of n bytes on a core (R205; which run is taken is open, log entry 21). -/
def State.freeRun (s : State) (core n : Nat) : Option Nat :=
  let need := roundPage n
  if need = 0 then some 0
  else
    let rs := s.runsOf core
    let starts := sortBy (fun a b => decide (a ≤ b)) (0 :: rs.map fun r => r.1 + r.2)
    starts.find? fun b => decide (b + need ≤ 2 ^ 20) && rs.all fun r => decide (r.2 = 0) || !overlap b need r.1 r.2

/-- What a team needs. -/
structure Need where
  width : Nat
  nv : Nat
  groups : Nat
  pair : Bool := false
  size : Nat := 0
  leats : Bool := false
  cores : Nat := 0
  ctx : Nat
  bulk : Bool := false
  strip : Nat := 1
  /-- Handles that the table of its core must not hold (R429, R333). -/
  hs : List Nat := []
  /-- Accumulator banks held by each group, by GIDX (R429). -/
  banks : List Nat := []
  deriving DecidableEq, Repr

/-- Where one team goes: its core, the partition b of R165, and the starts of its runs. -/
structure Spot where
  core : Nat
  b : Nat
  base : Nat
  base2 : Nat := 0
  deriving DecidableEq, Repr

/-- Core and partition of group g of a team (R165). -/
def Spot.place (p : Spot) (pair : Bool) (g : Nat) : Nat × Nat :=
  if pair then (p.core + g % 2, (g / 2 + p.b) % 4) else (p.core, (g + p.b) % 4)

/-- The cores that a mask and a context's allowance permit. -/
def State.coreOk (s : State) (n : Need) (core : Nat) : Bool :=
  let c := s.ctxCores n.ctx
  (n.cores = 0 || natFld n.cores core 1 = 1) && (c = 0 || natFld c core 1 = 1)

/-- Every group of the team meets R130, given the groups that are there. -/
def groupsFit (gs : List Agent) (n : Need) (p : Spot) : Bool :=
  (if n.pair then [p.core, p.core + 1] else [p.core]).all fun c =>
    (List.range 4).all fun q =>
      let k := ((List.range n.groups).filter fun g => p.place n.pair g = (c, q)).length
      k = 0 || (decide (slotsUsed gs c q + k ≤ 64) && decide (bytesUsed gs c q + k * groupBytes n.width n.nv ≤ 524288))

/-- Each bank that the groups of a saved team held can be had on its core (R429). -/
def State.banksFit (s : State) (n : Need) (p : Spot) : Bool :=
  (if n.pair then [p.core, p.core + 1] else [p.core]).all fun c =>
    let k := (n.banks.zipIdx.filter fun x => (p.place n.pair x.2).1 = c).foldl (fun m x => m + x.1) 0
    k = 0 || decide (k ≤ (s.freeBanks c).length)

/-- The team fits a core, or the pair that begins there. -/
def State.fitAt (s : State) (gs : List Agent) (n : Need) (core : Nat) : Option Spot :=
  if n.pair ∧ core % 2 = 1 then none
  else if !s.coreOk n core ∨ (n.pair ∧ !s.coreOk n (core + 1)) then none
  else if n.leats ∧ (s.teams.any fun t => !t.2.saved && !t.2.leats.isEmpty && t.2.core = core) then none
  else if n.hs.any fun h => (KMap.find? s.handles (hkey core h)).isSome then none
  else
    let fr (q : Nat) : Nat := 64 - slotsUsed gs core q
    let b := (leastBy (fun x y => decide (fr y < fr x)) [0, 1, 2, 3]).getD 0
    match s.freeRun core (if n.pair then min n.size (2 ^ 20) else n.size), (if n.pair then s.freeRun (core + 1) (n.size - 2 ^ 20) else some 0) with
    | some x, some y =>
      let p : Spot := { core := core, b := b, base := x, base2 := y }
      if groupsFit gs n p && s.banksFit n p then some p else none
    | _, _ => none

/-- BULK's own limits on a core (R161, R490). -/
def State.bulkOk (s : State) (gs : List Agent) (n : Need) (others : Nat → Bool) (core : Nat) : Bool :=
  if !n.bulk then true
  else
    let used := (gs.filter fun g => g.core = core && fldN g.lcls 0 2 = 3).foldl (fun k g => k + groupBytes g.width g.nv) 0
    s.barFld (blkHost + 0x22) 0 1 = 0 && !others core
      && decide (used + n.groups * groupBytes n.width n.nv ≤ s.barFld (0x1408 / 8) 0 5 * 131072)

/-- Where a strip of teams goes, from the core that took the grid's previous team on (R132, R165). -/
def State.fit (s : State) (n : Need) (last : Nat) (others : Nat → Bool) (dieOk : Nat → Bool) : Option (List Spot) :=
  let gs := s.held
  let one (c : Nat) : Option Spot := if dieOk (c / 64) && s.bulkOk gs n others c then s.fitAt gs n c else none
  if n.strip ≤ 1 then
    ((List.range 128).findSome? fun i => one ((last + i) % 128)).map fun p => [p]
  else
    let w := if n.pair then 2 else 1
    (List.range 16).findSome? fun i =>
      let row := (last / 8 + i) % 16
      (List.range 8).findSome? fun col =>
        if col % w ≠ 0 ∨ 8 < col + w * n.strip then none
        else
          let ps := (List.range n.strip).map fun j => one (8 * row + col + w * j)
          if ps.all Option.isSome then some (ps.filterMap id) else none

/-- A team that no allowed core could take even when it is empty (R165). -/
def State.neverFits (s : State) (n : Need) : Bool :=
  !((List.range 128).any fun c => (!(n.pair && c % 2 = 1)) && s.coreOk n c && (!n.pair || s.coreOk n (c + 1)) &&
    groupsFit [] n { core := c, b := 0, base := 0 })

/-! ## Grids -/

def never' : Nat := 2 ^ 64 - 1

/-- What each team of a grid needs. -/
def Grid.need (g : Grid) : Need :=
  let d := g.desc
  { width := kdWidth d, nv := kdNv d, groups := kdGroups d, pair := kdPair d, size := kdScratch d,
    leats := decide (kdIlen d ≠ 0 ∨ kdTlen d ≠ 0), cores := lrCores g.lr, ctx := g.ctx, bulk := g.cls = 3,
    strip := if kdStrip d then min (kdStripN d) (lrTeams g.lr - g.run) else 1 }

def State.updGrid (s : State) (g : Nat) (f : Grid → Grid) : State := { s with grids := KMap.upd s.grids g f }

/-- A new serial, skipping those in use (R270). -/
def State.newSerial (s : State) : Nat :=
  (firstNat (fun i => (KMap.find? s.grids (i % 65536)).isNone) 65536 s.serialNext).getD 0 % 65536

def State.addGrid (s : State) (g : Grid) : State :=
  let k := s.newSerial
  { s with grids := KMap.put s.grids k { g with seq := s.gridSeq }, serialNext := (k + 1) % 65536, gridSeq := s.gridSeq + 1 }

/-- A context whose work is admitted and placed (R411, R423, R425). -/
def State.ctxLive (s : State) (c : Nat) : Bool :=
  s.ctxEn c && !s.ctxDead c && (KMap.find? s.fatals c).isNone

/-- The descriptor of a launch as the device reads it: 64 bytes. -/
def State.readDesc (s : State) (ctx a : Nat) : Except Unit (State × BitVec 512) :=
  if a % 64 ≠ 0 then .error ()
  else match s.ctxRead ctx a 64 with
    | .error _ => .error ()
    | .ok r => .ok (r.1, BitVec.ofNat 512 r.2)

/-- REASON of a launch of a kernel (R155), 0 when it is in order; 3 is judged by the caller. -/
def State.kernelReason (s : State) (ctx : Nat) (lr : BitVec 1024) (d : Except Unit (State × BitVec 512)) (low : Bool) : Nat :=
  let comp := badComp (lrComp lr) 32
  match d with
  | .error _ => if lrRsv lr then 1 else if low then 3 else 4
  | .ok r =>
    let g : Grid := { ctx := ctx, queue := 0, lr := lr, addr := 0, desc := r.2, cls := lrClass lr, nbef := 0, dline := 0, seq := 0 }
    if lrRsv lr ∨ kdRsv r.2 then 1
    else if kdBad r.2 ∨ s.neverFits g.need then 2
    else if low then 3
    else if comp then 4 else 0

/-- A rejected or shed grid goes to its completion record. -/
def Grid.close (g : Grid) (code reason clk : Nat) : Grid :=
  { g with code := code, reason := reason, st := .rec1, due := clk + 1, lost := badComp (lrComp g.lr) 32 }

/-! ## Graphs (R163, R164) -/

def gvNodes (d : BitVec 512) : Nat := fldN d 0 12 + 1
def gvReent (d : BitVec 512) : Bool := fldN d 12 1 = 1
def gvTable (d : BitVec 512) : Nat := fldN d 64 48
def gvRsv (d : BitVec 512) : Bool := fldN d 13 51 ≠ 0 || fldN d 112 400 ≠ 0

/-- Half-words of a list of n. -/
def halvesOf : (n x : Nat) → List Nat
  | 0, _ => []
  | n + 1, x => x % 65536 :: halvesOf n (x / 65536)

/-- Reads the node table: the nodes; or the REASON. -/
def State.readNodes (s : State) (ctx table : Nat) : (n i : Nat) → Except Nat (State × List GNode)
  | 0, _ => .ok (s, [])
  | n + 1, i =>
    match s.ctxRead ctx (table + 192 * i) 192 with
    | .error _ => .error 4
    | .ok r =>
      let e : BitVec 1536 := BitVec.ofNat 1536 r.2
      let lr : BitVec 1024 := BitVec.ofNat 1024 r.2
      let nsucc := fldN e 1040 16
      let succ := fldN e 1088 64
      if fldN e 1056 32 ≠ 0 ∨ fldN e 1152 384 ≠ 0 then .error 1
      else if succ % 2 ≠ 0 ∨ 2 ^ 48 < succ + 2 * nsucc then .error 4
      else match r.1.ctxRead ctx succ (2 * nsucc) with
        | .error _ => .error 4
        | .ok q =>
          match q.1.readNodes ctx table n (i + 1) with
          | .error x => .error x
          | .ok t => .ok (t.1, { left := fldN e 1024 16, lr := lr, succ := halvesOf nsucc q.2 } :: t.2)

/-- REASON of a graph launch. -/
def graphReason (lr : BitVec 1024) (d : Except Unit (State × BitVec 512)) (ns : Except Nat (State × List GNode)) (low : Bool) : Nat :=
  let table : Nat := match d with
    | .error _ => 0
    | .ok r => gvTable r.2
  let rsv := lrRsv lr || (match d with
    | .error _ => false
    | .ok r => gvRsv r.2)
  let nodes : Nat := match ns with
    | .error x => x
    | .ok _ => 0
  let bad := (match d with
    | .error _ => true
    | .ok _ => false) || table % 64 ≠ 0 || badComp (lrComp lr) 32 || nodes = 4
  if rsv ∨ nodes = 1 then 1 else if low then 3 else if bad then 4 else 0

/-- Node i of a graph launch starts as a grid of its own. -/
def State.spawnNode (s : State) (p i : Nat) : State :=
  match KMap.find? s.grids p with
  | none => s
  | some g =>
    match g.nodes[i]? with
    | none => s
    | some n =>
      let lr := n.lr
      let d := s.readDesc g.ctx (lrDesc lr)
      let why := if lrGraph lr then (if lrRsv lr then 1 else if badComp (lrComp lr) 32 then 4 else 5)
        else s.kernelReason g.ctx lr d false
      let r : State × BitVec 512 := match d with
        | .ok r => r
        | .error _ => (s, 0)
      let h : Grid :=
        { ctx := g.ctx, queue := g.queue, lr := lr, addr := g.addr, desc := r.2, cls := g.cls,
          nbef := if lrNbef lr = 0 then g.nbef else lrNbef lr, dline := if lrDline lr = 0 then g.dline else lrDline lr,
          seq := 0, due := s.clk + 1, node := some (p, i) }
      let h := if n.bad then h.close 2 0 s.clk else if why ≠ 0 then h.close 4 why s.clk else h
      let k := r.1.newSerial
      (r.1.addGrid h).updGrid p fun q => { q with nodes := q.nodes.set i { n with grid := some k } }

/-- A node has completed: its successors' counts fall, and those at 0 start; the launch completes with its last node (R163). -/
def State.nodeDone (s : State) (p i : Nat) (g : Grid) : State :=
  match KMap.find? s.grids p with
  | none => s
  | some l =>
    let succ := ((l.nodes[i]?).map (·.succ)).getD []
    let ns := l.nodes.zipIdx.map fun x =>
      if x.2 = i then { x.1 with code := g.code, teams := g.run, late := g.late, grid := none }
      else
        let k := (succ.filter (· = x.2)).length
        if k = 0 then x.1 else { x.1 with left := x.1.left - k, bad := x.1.bad || g.code ≠ 1 }
    let s1 := s.updGrid p fun q => { q with nodes := ns }
    let ready := (ns.zipIdx.filter fun x => x.1.left = 0 && x.1.code = 0 && x.1.grid.isNone && succ.contains x.2).map (·.2)
    let s2 := ready.foldl (fun s j => s.spawnNode p j) s1
    if ns.all fun n => n.code ≠ 0 then
      let code := if ns.any (fun n => n.code = 3) then 3 else if ns.any (fun n => n.code = 2 || n.code = 4) then 2 else 1
      s2.updGrid p fun q => { q with code := code, run := ns.foldl (fun k n => k + n.teams) 0, late := ns.any (·.late),
                                     st := .rec1, due := s.clk + 1 }
    else s2

/-! ## Admission (R152, R155, R501, R502) -/

def qDesc (q i : Nat) : Nat := 4 * q + i
def State.qBase (s : State) (q : Nat) : Nat := s.barFld (qDesc q 0) 0 48
def State.qSize (s : State) (q : Nat) : Nat := 2 ^ (s.barFld (qDesc q 1) 0 4 + 4)
def State.qCtx (s : State) (q : Nat) : Nat := s.barFld (qDesc q 1) 4 6
def State.qMax (s : State) (q : Nat) : Nat := s.barFld (qDesc q 1) 10 2
def State.qEn (s : State) (q : Nat) : Bool := s.barFld (qDesc q 1) 12 1 = 1
def State.qDev (s : State) (q : Nat) : Bool := s.barFld (qDesc q 1) 14 1 = 1
def State.qHead (s : State) (q : Nat) : Nat := s.barFld (qDesc q 2) 0 32
def State.qTail (s : State) (q : Nat) : Nat := s.barFld (qDesc q 3) 0 32
def State.qPend (s : State) (q : Nat) : Nat := (s.qTail q + 2 ^ 32 - s.qHead q) % 2 ^ 32
def State.qEntry (s : State) (q n : Nat) : Nat := s.qBase q + 128 * (n % s.qSize q)
def State.qState (s : State) (q : Nat) : QState := (KMap.find? s.queues q).getD {}
def State.setQ (s : State) (q : Nat) (x : QState) : State :=
  { s with queues := if x = {} then KMap.del s.queues q else KMap.put s.queues q x }

/-- An error of the queue: ERR is set and EN cleared. -/
def State.qError (s : State) (q : Nat) : State := (s.barPut (qDesc q 1) 13 1 1).barPut (qDesc q 1) 12 1 0

/-- DOORBELL: a host's write of TAIL. -/
def execDoorbell (q tail : Nat) (s : State) : Out :=
  if 64 ≤ q ∨ s.qDev q then .next s
  else
    let s1 := s.barPut (qDesc q 3) 0 32 tail
    if s.qEn q ∧ s.qSize q < s1.qPend q then .next (s1.qError q)
    else .next (if (s1.qState q).reading then s1 else s1.setQ q { s1.qState q with due := max (s1.qState q).due (s.clk + 8) })

/-- Admitted grids that count against 512: those of queue entries. -/
def State.admitted (s : State) : Nat := (s.grids.filter fun g => g.2.node.isNone).length

/-- Entry reads of a queue may start. -/
def State.qReady (s : State) (q : Nat) : Bool :=
  let x := s.qState q
  s.qEn q && decide (s.qPend q ≠ 0) && !x.reading && !x.parked && decide (x.due ≤ s.clk) && s.ctxLive (s.qCtx q)
    && decide (s.admitted + (s.queues.filter fun p => p.2.reading).length < 512)

/-- The queue whose turn it is. -/
def State.qNext (s : State) : Option Nat :=
  if s.qClk = some s.clk then none
  else (List.range 64).findSome? fun i => let q := (s.qTurn + i) % 64; if s.qReady q then some q else none

/-- QUEUE_ENTRY_READ: the entry's read starts, or parks, or finds the entry outside the space. -/
def execQueueEntryRead (q : Nat) (s : State) : Out :=
  if s.qNext ≠ some q then .next s
  else
    let s1 := { s with qTurn := (q + 1) % 64, qClk := some s.clk }
    let a := s.qEntry q (s.qHead q)
    let ctx := s.qCtx q
    if 2 ^ 48 < a + 128 then .next ((s1.qError q).recordLost 8 ctx a 3)
    else match s.ctxParts ctx a 128 false with
      | .error f =>
        .next ((s1.setQ q { s1.qState q with parked := true }).replay (s.unitRaiser 8 ctx 0 (opk := 13)) 0 { f with addr := a } (.queue q))
      | .ok ps => .next (s1.setQ q { due := s.clk + s.partsLat 0 0 ps, reading := true })

/-- ADMISSION: the entry's lines have returned; the grid is admitted or rejected. -/
def execAdmission (q : Nat) (s : State) : Out :=
  let x := s.qState q
  if !x.reading ∨ s.clk < x.due then .next s
  else
    let a := s.qEntry q (s.qHead q)
    let ctx := s.qCtx q
    if !s.ctxLive ctx ∨ !s.qEn q then .next (s.setQ q { due := s.clk })
    else match s.ctxRead ctx a 128 with
      | .error f =>
        .next ((s.setQ q { due := s.clk, parked := true }).replay (s.unitRaiser 8 ctx 0 (opk := 13)) 0 { f with addr := a } (.queue q))
      | .ok r =>
        let lr : BitVec 1024 := BitVec.ofNat 1024 r.2
        let low := decide (lrClass lr < s.qMax q)
        let d := r.1.readDesc ctx (lrDesc lr)
        let s1 : State := match d with
          | .ok t => t.1
          | .error _ => r.1
        let dv : BitVec 512 := match d with
          | .ok t => t.2
          | .error _ => 0
        let ns := if lrGraph lr then s1.readNodes ctx (gvTable dv) (gvNodes dv) 0 else .ok (s1, [])
        let why := if lrGraph lr then graphReason lr d ns low else s1.kernelReason ctx lr d low
        let s2 : State := match ns with
          | .ok t => t.1
          | .error _ => s1
        let nodes : List GNode := match ns with
          | .ok t => t.2
          | .error _ => []
        let g : Grid :=
          { ctx := ctx, queue := q, lr := lr, addr := a, desc := dv, cls := lrClass lr, nbef := lrNbef lr, dline := lrDline lr,
            seq := 0, due := s.clk + 1 + s.ctxLat 0 ctx (lrDesc lr) 64 0, nodes := nodes }
        let g := if why ≠ 0 then g.close 4 why s.clk else g
        .next (((s2.addGrid g).barPut (qDesc q 2) 0 32 (s.qHead q + 1)).setQ q { due := s.clk })

/-- R164: an earlier admitted launch of the same version holds back one with REENT = 0. -/
def State.relaunchHeld (s : State) (k : Nat) (g : Grid) : Bool :=
  lrGraph g.lr && !gvReent g.desc && s.grids.any fun o =>
    o.1 ≠ k && o.2.ctx = g.ctx && lrGraph o.2.lr && o.2.node.isNone && lrDesc o.2.lr = lrDesc g.lr && decide (o.2.seq < g.seq)
      && o.2.reason = 0

def State.eligible (s : State) (k : Nat) (g : Grid) : Bool :=
  g.st = .waiting && decide (g.due ≤ s.clk) && decide (g.nbef ≤ s.pt) && !s.relaunchHeld k g

/-- GRID_ELIGIBLE: its teams wait from now on; a graph's nodes without predecessors start. A grid of no team completes. -/
def execGridEligible (g : Nat) (s : State) : Out :=
  match KMap.find? s.grids g with
  | none => .next s
  | some x =>
    if !s.eligible g x then .next s
    else
      let s1 := s.updGrid g fun y => { y with st := .opened, since := s.clk }
      if lrGraph x.lr ∧ x.node.isNone then
        let roots := (x.nodes.zipIdx.filter fun n => n.1.left = 0).map (·.2)
        .next (roots.foldl (fun s i => s.spawnNode g i) s1)
      else .next s1

/-! ## The arbiter (R160 to R162) -/

/-- What waits: a grid's next team, a saved team, a taken task. -/
inductive WaitKind where
  | grid (g : Nat) | saved (t : Nat) | task (t : Nat)
  deriving DecidableEq, Repr

structure Waiter where
  key : List Nat
  kind : WaitKind
  cls : Nat
  need : Need
  last : Nat := 0
  deriving DecidableEq, Repr

/-- The place in the order of R160. -/
def State.waitKey (s : State) (cls dline prio queue seq team : Nat) : List Nat :=
  match cls with
  | 0 => [1, dline, 0, queue, seq, team]
  | 1 => [2, dline, 0, queue, seq, team]
  | 2 => [if s.pt ≤ dline then 3 else 4, dline, 255 - prio, queue, seq, team]
  | _ => [5, (queue + 64 - s.bulkTurn) % 64, 0, queue, seq, team]

/-- The next team of this grid waits. -/
def State.teamWaits (s : State) (g : Grid) : Bool :=
  g.st = .opened && g.code = 0 && !(lrGraph g.lr && g.node.isNone) && decide (g.run < lrTeams g.lr) && decide (g.since ≤ s.clk)
    && s.ctxLive g.ctx && !s.preempting g.ctx

def gridPrio (g : Grid) : Nat := lrPrio g.lr

/-- Handles that a saved team holds, by number (R429): kept with key 256 × 512 and up while the team is off the cores. -/
def savedKey (t h : Nat) : Nat := 256 * (512 + t) + h

def State.savedHandles (s : State) (t : Nat) : List (Nat × Handle) :=
  (s.handles.filter fun p => p.1 / 256 = 512 + t).map fun p => (p.1 % 256, p.2)

/-- What a saved team needs (R429): its groups' own sizes, and its handles. -/
def State.savedNeed (s : State) (t : Nat) (tm : Team) : Need :=
  let g := (tm.groups.filterMap fun a => s.agent? a).head?
  let gr := (KMap.find? s.grids tm.grid)
  { width := (g.map (·.width)).getD 32, nv := (g.map (·.nv)).getD 16, groups := tm.ngroups, pair := tm.pair, size := tm.size,
    leats := !tm.leats.isEmpty, cores := (gr.map fun x => lrCores x.lr).getD 0, ctx := tm.ctx,
    bulk := (gr.map fun x => decide (x.cls = 3)).getD false, hs := (s.savedHandles t).map (·.1),
    banks := (List.range tm.ngroups).map fun i =>
      (List.find? (fun (q : Nat × Agent) => q.2.team = t && q.2.gidx = i && !q.2.isLeat) s.agents).elim 0 fun q => q.2.banks.length
    strip := if tm.strip.isEmpty then 1 else tm.strip.length }

/-- A task that waits in its die's hold slot, as the arbiter sees it (R370). -/
def Task.cls (t : Task) : Nat := fldN t.bits 48 2
def Task.dline (t : Task) : Nat := fldN t.bits 64 64
def Task.prio (t : Task) : Nat := fldN t.bits 128 8

/-- Valid declaration words: index, handle, bytes (R362). -/
def declWords (d : BitVec 512) : List (Nat × Nat × Nat) :=
  (List.range 16).filterMap fun i =>
    let w := fldN d (32 * i) 32
    if natFld w 31 1 = 1 then some (i, natFld w 0 8, natFld w 8 17 + 1) else none

def Task.need (t : Task) : Need :=
  { width := kdWidth t.desc, nv := kdNv t.desc, groups := 1, size := kdScratch t.desc, ctx := t.ctx,
    hs := (declWords t.decl).map fun w => w.2.1 }

def State.waiters (s : State) : List Waiter :=
  let gs : List Waiter := s.grids.filterMap fun (p : Nat × Grid) =>
    let g := p.2
    if s.teamWaits g then
      some { key := s.waitKey g.cls g.dline (gridPrio g) g.queue g.seq 1, kind := .grid p.1, cls := g.cls, need := g.need, last := g.last }
    else none
  let ts : List Waiter := s.teams.filterMap fun (p : Nat × Team) =>
    let t := p.2
    if t.saved && s.ctxLive t.ctx && !s.preempting t.ctx && (t.strip.isEmpty || t.pos = 0) then
      match KMap.find? s.grids t.grid with
      | some g => some { key := s.waitKey g.cls g.dline (gridPrio g) g.queue g.seq 0, kind := .saved p.1, cls := g.cls, need := s.savedNeed p.1 t }
      | none => (List.find? (fun (k : Nat × Task) => k.2.team = p.1) s.tasks).map fun k =>
          { key := s.waitKey k.2.cls k.2.dline k.2.prio 64 k.1 0, kind := .saved p.1, cls := k.2.cls, need := s.savedNeed p.1 t }
    else none
  let ks : List Waiter := s.tasks.filterMap fun (p : Nat × Task) =>
    if p.2.st = .hold && s.ctxLive p.2.ctx && !s.preempting p.2.ctx then
      some { key := s.waitKey p.2.cls p.2.dline p.2.prio 64 p.1 0, kind := .task p.1, cls := p.2.cls, need := p.2.need }
    else none
  sortBy (fun a b => !(lexLt b.key a.key)) (gs ++ ts ++ ks)
where
  lexLt (a b : List Nat) : Bool :=
    (((a.zip b).find? fun p => p.1 ≠ p.2).map fun p => decide (p.1 < p.2)).getD false

/-- The die a core lies on still takes a team in this clk. -/
def State.dieFree (s : State) (die : Nat) : Bool := KMap.find? s.placedAt die ≠ some s.clk

/-- Where a waiter would go. A task stays on its die (R370). -/
def State.spotOf (s : State) (ws : List Waiter) (w : Waiter) : Option (List Spot) :=
  let others (c : Nat) : Bool := ws.any fun v => decide (v.cls < 3) && (v.need.cores = 0 || natFld v.need.cores c 1 = 1)
  let die (d : Nat) : Bool := s.dieFree d && (match w.kind with
    | .task t => ((KMap.find? s.tasks t).map fun x => decide (x.die = d)).getD false
    | _ => true)
  s.fit w.need (match w.kind with
    | .grid _ => w.last
    | _ => 0) others die

/-- Every team a FIRM grid still has would finish late (R161). -/
def State.projectedLate (s : State) (g : Grid) : Bool :=
  let r := lrTeams g.lr - g.run
  let c := max (lrConc g.lr) 1
  g.cls = 1 && decide (g.dline < s.pt + (r + c - 1) / c * lrEst g.lr)

/-- The first waiter, in the order of R160, that fits what is free. -/
def State.offer (s : State) : Option (Waiter × List Spot) :=
  let ws := s.waiters
  ws.findSome? fun w => (s.spotOf ws w).map fun p => (w, p)

/-! ## Making a team resident (R131, R156, R204, R265, R309, R500, R502) -/

/-- Clk of its zeroing on the core that has most to zero. -/
def zeroClk (size : Nat) (pair : Bool) : Nat :=
  let a := roundPage (if pair then min size (2 ^ 20) else size)
  let b := if pair then roundPage (size - 2 ^ 20) else 0
  (max a b + 127) / 128

/-- The lowest free slot of a partition (which one is open, log entry 21). -/
def freeSlot (gs : List Agent) (core part : Nat) : Nat :=
  (firstNat (fun i => !(gs.any fun g => g.core = core && g.part = part && g.slot = 64 * part + i)) 64 0).getD 0 + 64 * part

/-- A core's caches as a team becomes resident (R265, R500). -/
def State.clearCore (s : State) (core : Nat) : State :=
  let c := s.core core
  s.setCore core { c with l1 := [], cc := [] }

def startFrag (entry : Nat) (w next : Nat) : Frag := { h := entry, em := wmask w, own := wmask w, next := next }

/-- The stochastic state of a group at its start (R156). -/
def seedOf (seed team gidx : Nat) : Dword := ofN (seed + 0x9E37_79B9_7F4A_7C15 * (64 * team + gidx))

/-- A group that does not run yet. -/
def newGroup (s : State) (g : Grid) (serial team gidx tm : Nat) (at' : Nat × Nat) (slot : Nat) : Agent :=
  let w := kdWidth g.desc
  { kind := .group, core := at'.1, part := at'.2, slot := slot, ctx := g.ctx, tenant := s.ctxTenant g.ctx, team := tm, gidx := gidx,
    width := w, nv := kdNv g.desc, gchk := lrChk g.lr, srx := seedOf (lrSeed g.lr) team gidx, grid := serial, lrec := ofN g.addr,
    dln := ofN g.dline,
    lcls := ofN (g.cls + 4 * g.queue + (match g.node with
      | some p => 2 ^ 8 + p.2 * 2 ^ 9
      | none => 0)),
    sregs := KMap.set 0 (KMap.set 0 (KMap.set 0 [] 0 (ofN (lrArgs g.lr))) 1 (ofN (lrTeams g.lr))) 2 (ofN g.dline),
    frags := [(0, startFrag (kdEntry g.desc) w 0)] }

/-- The 128-byte lines of an image. -/
def imgLines (a n : Nat) : List Nat := if n = 0 then [] else List.range ((a + n - 1) / 128 - a / 128 + 1)

def newLeat (s : State) (g : Grid) (tail : Bool) (team tm core img n : Nat) : Agent :=
  { kind := .leat tail, core := core, ctx := g.ctx, tenant := s.ctxTenant g.ctx, team := tm, gchk := lrChk g.lr, grid := 0,
    lcls := ofN g.cls,
    sregs := KMap.set 0 (KMap.set 0 (KMap.set 0 [] 0 (ofN (lrArgs g.lr))) 1 (ofN team)) 2 (ofN g.dline),
    img := img, imgLen := n, imgTodo := imgLines img n, frags := [(0, startFrag 0 0 0)] }

/-- Adds the groups of a team, one by one. -/
def State.addGroups (s : State) (g : Grid) (serial team tm : Nat) (p : Spot) : (n gidx : Nat) → State
  | 0, _ => s
  | n + 1, gidx =>
    let at' := p.place (kdPair g.desc) gidx
    let ag := newGroup s g serial team gidx tm at' (freeSlot s.held at'.1 at'.2)
    let s1 := { (s.putAgent s.ids ag) with ids := s.ids + 1 }
    (s1.updTeam tm fun t => { t with groups := t.groups ++ [s.ids] }).addGroups g serial team tm p n (gidx + 1)

def State.addLeat (s : State) (g : Grid) (tail : Bool) (team tm core img n : Nat) : State :=
  if n = 0 then s
  else
    let s1 := { (s.putAgent s.ids (newLeat s g tail team tm core img n)) with ids := s.ids + 1 }
    s1.updTeam tm fun t => { t with leats := t.leats ++ [s.ids] }

/-- One team of a grid takes its place; it is resident 4 clk later. -/
def State.addTeam (s : State) (serial : Nat) (g : Grid) (team : Nat) (p : Spot) : State :=
  let d := g.desc
  let tm := s.ids
  let res := s.clk + 4
  let t : Team :=
    { grid := serial, ctx := g.ctx, idx := team, core := p.core, pair := kdPair d, size := kdScratch d, base := p.base, base2 := p.base2,
      ngroups := kdGroups d, due := res + max 8 (zeroClk (kdScratch d) (kdPair d)), started := false, resident := res }
  let s1 := { s with teams := KMap.put s.teams tm t, ids := s.ids + 1 }
  let s2 := s1.addGroups g serial team tm p (kdGroups d) 0
  let s3 := (s2.addLeat g false team tm p.core (kdIprog d) (kdIlen d)).addLeat g true team tm p.core (kdTprog d) (kdTlen d)
  let s4 := s3.clearCore p.core
  if kdPair d then s4.clearCore (p.core + 1) else s4

/-- TEAM_PLACEMENT: the arbiter's choice is this grid; its next team, or strip, is placed; a FIRM grid that would be late is shed. -/
def execTeamPlacement (g : Nat) (s : State) : Out :=
  match s.offer with
  | none => .next s
  | some (w, ps) =>
    match w.kind, KMap.find? s.grids g with
    | .grid k, some x =>
      if k ≠ g then .next s
      else if s.projectedLate x then .next (s.updGrid g fun y => { y with code := 2 })
      else
        let first := s.ids
        let s1 := (ps.zipIdx).foldl (fun s p => s.addTeam g x (x.run + p.2) p.1) s
        let mine := (s1.teams.filter fun t => decide (first ≤ t.1)).map (·.1)
        let s2 := if kdStrip x.desc then
            mine.zipIdx.foldl (fun s m => s.updTeam m.1 fun t => { t with strip := mine, pos := m.2 }) s1
          else s1
        let c := ((ps.getLast?).map (·.core)).getD 0
        .next (({ s2 with placedAt := KMap.put s2.placedAt (c / 64) s.clk, bulkTurn := if x.cls = 3 then (x.queue + 1) % 64 else s.bulkTurn }).updGrid g
          fun y => { y with run := y.run + ps.length, last := c, since := s.clk + 4, asked := none })
    | _, _ => .next s

/-- A FIRM grid whose DLINE has passed while a team waits. -/
def State.firmLate (s : State) (g : Grid) : Bool := g.cls = 1 && s.teamWaits g && decide (g.dline < s.pt)

/-- FIRM_DEADLINE_SHED. -/
def execFirmDeadlineShed (g : Nat) (s : State) : Out :=
  match KMap.find? s.grids g with
  | some x => if s.firmLate x then .next (s.updGrid g fun y => { y with code := 2 }) else .next s
  | none => .next s

/-- The context that gives way to a HARD grid (R161). -/
def State.victim (s : State) (g : Grid) : Option Nat :=
  let here := s.held.filter fun a => lrCores g.lr = 0 || natFld (lrCores g.lr) a.core 1 = 1
  let cands := ((here.map (·.ctx)).eraseDups).filter fun c => !(s.grids.any fun h => h.2.ctx = c && h.2.cls = 0 && h.2.code = 0) && s.ctxLive c
  let top (c : Nat) : Nat := ((s.held.filter fun a => a.ctx = c).map fun a => fldN a.lcls 0 2).foldl min 3
  let dl (c : Nat) : Nat := ((s.held.filter fun a => a.ctx = c && fldN a.lcls 0 2 = top c).map fun a => a.dln.toNat).foldl min never'
  leastBy (fun x y => decide (top y < top x ∨ (top x = top y ∧ (dl y < dl x ∨ (dl x = dl y ∧ x < y))))) cands

def State.hardWaits (s : State) (g : Grid) : Bool :=
  g.cls = 0 && s.teamWaits g && decide (g.since + s.barFld (0x1400 / 8) 0 32 ≤ s.clk) && (match g.asked with
    | some c => !s.preempting c
    | none => true)

/-- The grid's next team fits what is free already: it is placed at the arbiter's next turn, and needs no pre-emption. -/
def State.hasRoom (s : State) (g : Nat) : Bool :=
  let ws := s.waiters
  ws.any fun w => w.kind = .grid g && (s.fit w.need w.last
    (fun c => ws.any fun v => decide (v.cls < 3) && (v.need.cores = 0 || natFld v.need.cores c 1 = 1)) fun _ => true).isSome

/-- HARD_WAIT_PREEMPT: pre-emption of one context is requested, if there is a candidate. -/
def execHardWaitPreempt (g : Nat) (s : State) : Out :=
  match KMap.find? s.grids g with
  | none => .next s
  | some x =>
    if !s.hardWaits x ∨ s.hasRoom g then .next s
    else
      let v := s.victim x
      let s1 := s.updGrid g fun y => { y with since := s.clk, asked := v }
      match v with
      | some c => .next (s1.happen [.contextPreempt c])
      | none => .next s1

/-- GROUP_START: the team's groups and leats begin. -/
def execGroupStart (team : Nat) (s : State) : Out :=
  match s.team? team with
  | none => .next s
  | some t =>
    if t.started ∨ t.saved ∨ s.clk < t.due ∨ (t.leats.any fun a => ((s.agent? a).map fun l => !l.imgTodo.isEmpty).getD false) then .next s
    else .next (s.updTeam team fun t => { t with started := true })

/-- LEAT_IMAGE_LINE: line `line` of a leat's image arrives in its store; a line that cannot be read parks the leat,
and is read again from the RETRY on (R410). -/
def execLeatImageLine (a line : Nat) (s : State) : Out :=
  match s.agent? a with
  | none => .next s
  | some ag =>
    let fr := (KMap.find? ag.frags 0).getD { h := 0, em := 0, own := 0 }
    if !ag.imgTodo.contains line ∨ fr.wait ≠ .none then .next s
    else
      let lo := max ag.img (ag.img / 128 * 128 + 128 * line)
      let n := min (ag.img + ag.imgLen) (ag.img / 128 * 128 + 128 * (line + 1)) - lo
      match s.ctxParts ag.ctx lo n false with
      | .error f => .next (s.raise a 0 { f with addr := lo })
      | .ok ps =>
        if s.clk < max ((s.teamOf ag).resident + line) fr.next + s.partsLat (64 * (ag.core / 64)) 0 ps then .next s
        else
          let r := s.partsRead ps
          .next (r.1.updAgent a fun g =>
            { g with imgTodo := g.imgTodo.filter (· ≠ line), store := wrBytes g.store (lo - ag.img) (bytesOf n r.2) })

/-! ## Completion (R158, R159, R501, R502) -/

/-- Every team of the grid has been placed, or none will be, and none is left. -/
def State.gridOver (s : State) (k : Nat) (g : Grid) : Bool :=
  g.st = .opened && !(lrGraph g.lr && g.node.isNone) && (g.code ≠ 0 || decide (lrTeams g.lr ≤ g.run))
    && !(s.teams.any fun t => t.2.grid = k)

/-- The grid is complete: it frees its serial; a node tells its graph. -/
def State.gridDone (s : State) (k : Nat) (g : Grid) : State :=
  let s1 := { s with grids := KMap.del s.grids k }
  match g.node with
  | some (p, i) => s1.nodeDone p i g
  | none => s1

/-- Bytes 0 to 31 of the record (R158). -/
def Grid.record (g : Grid) : Nat :=
  g.code + (if g.late then 2 ^ 4 else 0) + g.reason * 2 ^ 8 + g.run % 2 ^ 32 * 2 ^ 32 + g.finish * 2 ^ 64 + g.began * 2 ^ 128

/-- Writes a part of the record; a page that is not there or not writable parks it (R501). -/
def State.putRecord (s : State) (k : Nat) (g : Grid) (off n : Nat) (next : State → State) : State :=
  let a := lrComp g.lr
  match s.ctxWrite g.ctx (a + off) (bytesOf n (g.record / 2 ^ (8 * off))) with
  | .ok s1 => next s1
  | .error f => if (KMap.find? s.fatals g.ctx).isSome then next s else (s.updGrid k fun y => { y with st := .parked }).replay (s.unitRaiser 8 g.ctx 0 (opk := 12)) 0 f (.gridRec k)

/-- A line that a peer rejected and that the context still holds (R243). -/
def State.ctxHeld (s : State) (ctx : Nat) : Option PeerLine :=
  s.peerBuf.findSome? fun (p : Nat × List PeerLine) => p.2.find? fun l => l.ctx = ctx

/-- GRID_COMPLETION_RECORD: the first write of the record, then the second, each in its own step. -/
def execGridCompletionRecord (g : Nat) (s : State) : Out :=
  match KMap.find? s.grids g with
  | none => .next s
  | some x =>
    match x.st with
    | .opened =>
      if !s.gridOver g x then .next s
      else match s.ctxHeld x.ctx with
        | some l => .next (s.fatal (s.unitRaiser 8 x.ctx 0) { code := l.code, detail := if l.code = 1 then 5 + 2 ^ 10 else 1 + 2 ^ 10, addr := l.va })
        | none => .next (s.updGrid g fun y => { y with st := .rec1, code := if y.code = 0 then 1 else y.code, due := s.clk + 1 })
    | .rec1 =>
      if s.clk < x.due then .next s
      else
        let y := { x with finish := s.pt, late := x.late || (x.cls ≠ 3 && decide (x.dline < s.pt)) }
        let y := if lrGraph x.lr ∧ x.node.isNone ∧ x.reason = 0 then { y with late := x.late } else y
        let s1 := s.updGrid g fun _ => y
        if x.lost then .next ((s1.recordLost 8 x.ctx (lrComp x.lr) 0).gridDone g y)
        else if lrComp x.lr = 0 then .next (s1.gridDone g y)
        else .next (s1.putRecord g y 8 24 fun t => t.updGrid g fun z =>
          { z with st := .rec2, due := s.clk + 1 + s.ctxLat 0 x.ctx (lrComp x.lr) 32 1 })
    | .rec2 =>
      if s.clk < x.due then .next s
      else .next (s.putRecord g x 0 8 fun t => t.gridDone g x)
    | _ => .next s

/-! ## LAUNCH (R166) -/

/-- LAUNCH. -/
def execLaunch (f : FSYS) (s : State) : Out :=
  match s.issuer with
  | none => .fault .noIssuer
  | some c =>
    let lg := legalSys f { sd := true, sa := true, imm := 0x3F, subRsv := true }
    if (lg.fate c).isNone ∧ c.ag.ctrVal .g = 63 then .next (s.hold c (.ctr .g 62) c.fr.phase)
    else
      issueWith s lg (fun _ => { reads := [sreg f.sa.toNat], writes := [sreg f.sd.toNat] }) .one 0 false fun s c _ =>
        let a := (c.ag.sr f.sa.toNat).toNat
        let q := fldN f.imm 0 6
        if 2 ^ 48 < a + 128 then .next (s.raise c.a c.fid (illegalAddr a))
        else if a % 64 ≠ 0 then .next (s.raise c.a c.fid (misalign a))
        else if c.ag.pure then .next (s.raise c.a c.fid purity)
        else match s.recParts c.ag a 128 false (c.fr.phase = 2) with
          | .error r => .next (s.recStop c r)
          | .ok ps =>
            match s.relStop c c.fr.phase with
            | some s1 => .next s1
            | none =>
              let r := s.partsRead ps
              let lr : BitVec 1024 := BitVec.ofNat 1024 r.2
              let status : Nat :=
                if !s.qEn q ∨ !s.qDev q ∨ s.qCtx q ≠ c.ag.ctx then 2
                else if lrClass lr < s.qMax q then 3
                else if s.qPend q = s.qSize q then 1 else 0
              let go (s1 : State) : State :=
                let o : Op := { id := s1.ids, fid := c.fid, ctr := some .g, issue := s.clk, due := s.clk + 200,
                                kind := .launch f.sd.toNat status, dsts := [sreg f.sd.toNat], pc := c.fr.pc }
                ({ s1 with ids := s1.ids + 1 }.startOp c.a o).updFrag c.a c.fid fun fr => fr.adv (s.clk + 1 + f.stl.toNat)
              if status ≠ 0 then .next (go r.1)
              else match r.1.ctxWrite c.ag.ctx (s.qEntry q (s.qTail q)) (bytesOf 128 r.2) with
                | .error flt => .next (s.raise c.a c.fid flt)
                | .ok s2 =>
                  let s3 := s2.barPut (qDesc q 3) 0 32 (s.qTail q + 1)
                  .next (go (if (s3.qState q).reading then s3 else s3.setQ q { s3.qState q with due := max (s3.qState q).due (s.clk + 8) }))

end Sys2Proof.Machine
end

