-- ==== Sys2Proof/Machine/Fabric.lean ====
section
/-!
DEFINITION. The fabric (R459 to R466) and reductions in it (R470 to R472): routes, requests of other cards, the reduction store
and the router's merging, FABCFG and the ports.
-/
namespace Sys2Proof.Machine

/-! ## Routes (R459, R461, R466) -/

/-- Coordinate of a card on an axis, extent of the axis, whether it is a torus. -/
def State.axisDim (s : State) (a : Nat) : Nat := s.barFld blkFab (18 + 6 * a) 6 + 1
def State.axisWrap (s : State) (a : Nat) : Bool := s.barFld blkFab (36 + a) 1 = 1
def State.coord (s : State) (card a : Nat) : Nat :=
  match a with
  | 0 => card % s.axisDim 0
  | 1 => card / s.axisDim 0 % s.axisDim 1
  | _ => card / s.axisDim 0 / s.axisDim 1

/-- Ports taken along an axis from x to y: 2 a for the positive way, 2 a + 1 for the other. -/
def State.axisPorts (s : State) (a x y : Nat) : List Nat :=
  let d := s.axisDim a
  if s.axisWrap a then
    let up := (y + d - x) % d
    let down := (x + d - y) % d
    if up ≤ down then List.replicate up (2 * a) else List.replicate down (2 * a + 1)
  else if x ≤ y then List.replicate (y - x) (2 * a) else List.replicate (x - y) (2 * a + 1)

/-- The ports through which a packet leaves the cards on its way (R461). -/
def State.route (s : State) (src dst : Nat) : List Nat :=
  [0, 1, 2].flatMap fun a => s.axisPorts a (s.coord src a) (s.coord dst a)

/-- Crossings of dies at the cards between: a packet that arrives through a port of one die and leaves through one of the other. -/
def crossings : List Nat → Nat
  | p :: q :: r =>
    let arrives := if p % 2 = 0 then p + 1 else p - 1
    (if (decide (arrives < 3)) ≠ decide (q < 3) then 1 else 0) + crossings (q :: r)
  | _ => 0

/-- The fabric term of R466 to a line that hits in the erg on the arrival port's die. -/
def State.fabTerm (s : State) (card : Nat) : Nat :=
  let out := s.route s.card card
  let back := s.route card s.card
  56 * (out.length + back.length) + 32 * (crossings out + crossings back) + 150

/-! ## Requests of other cards (R269, R276, R464) -/

/-- A write of bytes through a window of this card, for a peer agent (R464): the rejection's code, or the state after it. -/
def State.winWrite (s : State) (src addr : Nat) (bs : List Byte) : Except Nat State :=
  match s.window src addr true with
  | .error e => .error e
  | .ok pa => .ok (if s.onCard pa then s.devWrite pa bs else s.unitWrite pa bs)

/-- The atomic ADD to a flag word, as a peer agent at `.wall` with ORD release (R469). -/
def State.winSignal (s : State) (src addr n : Nat) : State :=
  match s.window src addr true with
  | .error _ => s
  | .ok pa =>
    let r := s.scopeOne (peerIdent src) 4 (some 1) pa
    if r.1 then r.2.devWrite pa (bytesOf 8 (r.2.readN 8 pa + n)) else s

/-- FABRIC_INBOUND_REQUEST: kind 0 load, 1 store, 2 atomic, at a window and offset; `arg` bit 0 an ordered event, bits 3 to 1
its scope, bits 7 to 4 AOP. A rejection carries 1 XLATE, 2 PROT or 9 SCOPE. -/
def execFabricInboundRequest (card kind addr width arg : Nat) (bytes : List Byte) (s : State) : Out :=
  let answer (s : State) (code : Nat) (bs : List Byte) : Out := .next { s with fabAns := s.fabAns ++ [(card, code, bs)] }
  if s.barFld blkFab 39 1 = 0 then .next s
  else match s.window card addr (kind ≠ 0) with
    | .error e => answer s e []
    | .ok pa =>
      let ordered := natFld arg 0 1 = 1 || kind = 2
      let sc := natFld arg 1 3
      let r := if ordered then s.scopeOne (peerIdent card) sc (if kind = 0 then none else some (if kind = 2 then 1 else 0)) pa else (true, s)
      if !r.1 then answer s 9 []
      else
        let s1 := r.2
        match kind with
        | 0 => let x := s1.unitRead pa width; answer x.1 0 (bytesOf width x.2)
        | 1 => answer (s1.unitWrite pa (bytes.take width)) 0 []
        | _ =>
          let old := s1.readN width pa
          let x := numOf (bytes.take width)
          let y := numOf ((bytes.drop width).take width)
          match atomVal (natFld arg 4 4) width old x y with
          | some v => answer (s1.devWrite pa (bytesOf width v)) 0 (bytesOf width old)
          | none => answer s1 0 (bytesOf width old)

/-! ## Reductions (R470 to R472) -/

/-- The fields of a reduce packet's identity, as an event carries them. -/
def RedKey.ofNat (k : Nat) : RedKey where
  cid := natFld k 0 16
  off := natFld k 16 44
  rop := natFld k 60 2
  rty := natFld k 62 2
  ordered := natFld k 64 1 = 1
  flagen := natFld k 65 1 = 1
  flagoff := natFld k 66 40
  pmask := natFld k 106 64

/-- Elements are F32, BF16, F16 or I32 (RTYPE). -/
def redFmt (rty : Nat) : Fmt := if rty = 0 then f32 else if rty = 1 then bf16 else f16
def redBytes (rty : Nat) : Nat := if rty = 1 ∨ rty = 2 then 2 else 4

/-- An element as an accumulator holds it: FA40, or an integer modulo 2^32. -/
def redWide (rty v : Nat) : Nat := if rty = 3 then v % 2 ^ 32 else fa40.conv .rne false ((redFmt rty).decode v)

/-- Combination of two accumulator values (R472). -/
def redComb (rop rty a v : Nat) : Nat :=
  if rty = 3 then
    match rop with
    | 1 => (a + v) % 2 ^ 32
    | 2 => if sx 32 a < sx 32 v then v else a
    | _ => if sx 32 v < sx 32 a then v else a
  else
    match rop with
    | 1 => fa40.fadd .rne a v
    | 2 => fa40.fminmax true a v
    | _ => fa40.fminmax false a v

def redZip (f : Nat → Nat → Nat) (a b : List Nat) : List Nat := (a.zip b).map fun p => f p.1 p.2

/-- Elements of a 64-byte piece. -/
def redElems (rty : Nat) (bs : List Byte) : List Nat :=
  let n := redBytes rty
  (List.range (64 / n)).map fun i => numOf ((bs.drop (n * i)).take n)

/-- The result of a piece: each accumulator converted to RTYPE under RNE in mode P. -/
def redResult (e : RedEnt) : List Byte :=
  let n := redBytes e.key.rty
  let zero := List.replicate (64 / n) 0
  let accs := if e.key.ordered then
      (sortBy (fun a b => decide (a.1 ≤ b.1)) e.parts).foldl (fun acc p => redZip (redComb e.key.rop e.key.rty) acc (p.2.map (redWide e.key.rty))) zero
    else e.accs
  accs.flatMap fun a => bytesOf n (if e.key.rty = 3 then a else (redFmt e.key.rty).conv .rne false (fa40.decode a))

/-- Entries of the store that a piece takes. -/
def RedEnt.size (e : RedEnt) : Nat := (if redBytes e.key.rty = 2 then 2 else 1) * (if e.key.ordered then e.parts.length else 1)

def State.redUsed (s : State) (die : Nat) : Nat := (s.reduce.filter fun p => p.2.die = die).foldl (fun n p => n + p.2.size) 0

/-- REDUSE follows the store. -/
def State.redCount (s : State) : State :=
  (s.barPut (blkFab + 2) 0 16 (s.redUsed 0)).barPut (blkFab + 2) 16 16 (s.redUsed 1)

/-- A reduce packet reaches this card's endpoint (R472): rejected; waiting for room; discarded; or combined, and the result of a
complete piece written and signalled. None while the store has no room. -/
def State.redArrive (s : State) (key : RedKey) (bits : Nat) (vals : List Nat) : Option (Except Nat State) :=
  let src := (lowest (ofN bits) 0)
  match s.window src key.off true with
  | .error e => some (.error e)
  | .ok pa =>
    let die := match s.paKind pa with
      | .gddr d => d
      | .erg d => d
      | _ => 0
    let old := List.find? (fun (p : Nat × RedEnt) => p.2.key = key) s.reduce
    let e : RedEnt := (old.map (·.2)).getD { key := key, die := die, accs := List.replicate vals.length 0 }
    if bits &&& e.bits ≠ 0 then some (.ok s)
    else
      let w := vals.map (redWide key.rty)
      let e1 : RedEnt := { e with
        bits := e.bits ||| bits
        accs := if key.ordered then e.accs else redZip (redComb key.rop key.rty) e.accs w
        parts := if key.ordered then e.parts ++ [(src, vals)] else [] }
      let used := s.redUsed die - ((old.map (·.2.size)).getD 0)
      if 16384 < used + e1.size then none
      else
        let id := (old.map (·.1)).getD s.ids
        if e1.bits = key.pmask then
          let s1 := { s with reduce := KMap.del s.reduce id }
          let s2 := s1.unitWrite pa (redResult e1)
          some (.ok ((if key.flagen then s2.winSignal src (key.off / 2 ^ 40 * 2 ^ 40 + key.flagoff) 64 else s2).redCount))
        else some (.ok ({ s with reduce := KMap.put s.reduce id e1, ids := s.ids + 1 }.redCount))

/-- The cards of a bitmap. -/
def cardsOf (bits : Nat) : List Nat := lanesOf (ofN bits)

/-- REDUCE_PACKET_ARRIVE: from another card; `mask` is the contributor bitmap. It is answered to each contributor. -/
def execReducePacketArrive (key mask : Nat) (vals : List Int) (s : State) : Out :=
  let k := RedKey.ofNat key
  if s.barFld blkFab 39 1 = 0 ∨ mask = 0 then .next s
  else
    let back (code : Nat) : List (Nat × Nat × List Byte) := (cardsOf mask).map fun c => (c, code, [])
    match s.redArrive k mask (vals.map fun v => (v % (2 : Int) ^ (8 * redBytes k.rty)).toNat) with
    | none => .next s
    | some (.error e) => .next { s with fabAns := s.fabAns ++ back e }
    | some (.ok s1) => .next { s1 with fabAns := s1.fabAns ++ back 0 }

/-- Two packets that a router may merge (R471), and the merged elements. -/
def redMerge (a b : RedPkt) : Option RedPkt :=
  if a.card ≠ b.card ∨ a.key.cid ≠ b.key.cid ∨ a.key.off ≠ b.key.off ∨ a.key.rop ≠ b.key.rop ∨ a.key.rty ≠ b.key.rty
      ∨ a.bits &&& b.bits ≠ 0 ∨ a.key.ordered ∨ b.key.ordered ∨ a.again ∨ b.again then none
  else
    let D := redFmt a.key.rty
    let comb (x y : Nat) : Nat :=
      if a.key.rty = 3 then redComb a.key.rop 3 x y
      else match a.key.rop with
        | 1 => D.fadd .rne x y
        | 2 => D.fminmax true x y
        | _ => D.fminmax false x y
    let isFin (x : Nat) : Bool := match D.decode x with
      | .fin _ _ _ => true
      | _ => false
    let bad := a.key.rty ≠ 3 && a.key.rop = 1 && (a.vals.zip b.vals).any fun p => isFin p.1 && isFin p.2 && !isFin (D.fadd .rne p.1 p.2)
    if bad then none else some { a with bits := a.bits ||| b.bits, vals := redZip comb a.vals b.vals }

/-- REDUCE_PACKET_MERGE: two packets that stand in the same output queue. -/
def execReducePacketMerge (a b : Nat) (s : State) : Out :=
  match KMap.find? s.redQ a, KMap.find? s.redQ b with
  | some x, some y =>
    if a = b then .next s
    else match redMerge x y with
      | some z => .next { s with redQ := KMap.put (KMap.del s.redQ b) a z }
      | none => .next s
  | _, _ => .next s

/-! ## FABCFG and the ports (R458, R460) -/

/-- FABCFG_WRITE. -/
def execFabcfgWrite (v : Dword) (s : State) : Out :=
  let en := fldN v 39 1
  if s.barFld blkFab 39 1 = 1 then .next (s.barPut blkFab 39 1 en)
  else
    let d (a : Nat) : Nat := fldN v (18 + 6 * a) 6 + 1
    let ok := [0, 1, 2].all (fun a => decide (fldN v (6 * a) 6 < d a)) && decide (d 0 * d 1 * d 2 ≤ 64)
    .next (s.barWr blkFab (ofN (fldN v 0 39 + if en = 1 ∧ ok then 2 ^ 39 else 0)))

/-- PORT_UP_CHANGE: PORTST follows, and MSI-X vector 2 is signalled. -/
def execPortUpChange (port : Nat) (up : Bool) (s : State) : Out :=
  if 6 ≤ port ∨ s.barFld (blkFab + 1) (8 * port) 1 = (if up then 1 else 0) then .next s
  else .next ((s.barPut (blkFab + 1) (8 * port) 1 (if up then 1 else 0)).signal 2)

end Sys2Proof.Machine
end

