-- ==== Sys2Proof/Machine/Sluice.lean ====
section
/-!
DEFINITION. The sluice and the leat-only instructions: XCOPY, XHALO, XIM2C, XRESUME, XWAIT, XFILL (R318, R321 to R330) and
XCOLL (R467 to R469, R473); the dispatcher's stagings and drains (R333); the answers
to reads of the host link (R457, R458).
-/
namespace Sys2Proof.Machine

def State.updXop (s : State) (x : Nat) (f : Xop → Xop) : State := { s with xops := KMap.upd s.xops x f }

/-! ## Shape and gather records (R326, R328, R468) -/

structure Shape where
  base : Nat
  es : Nat
  exts : List Nat
  strs : List Int
  deriving DecidableEq, Repr

def shDims (d : BitVec 512) : Nat := fldN d 54 2 + 1
def shExt (d : BitVec 512) (i : Nat) : Nat := fldN d (64 + 16 * i) 16 + 1
def shStr (d : BitVec 512) (i : Nat) : Int := (fld d (64 + 64 * i) 48).toInt

/-- The shape that a record gives, over the dimensions it uses. -/
def shapeOf (d : BitVec 512) : Shape :=
  let es := 2 ^ fldN d 48 3
  let n := shDims d
  { base := fldN d 0 48, es := es, exts := (List.range n).map (shExt d),
    strs := (List.range n).map fun i => if i = 0 then (es : Int) else shStr d i }

def Shape.elems (h : Shape) : Nat := h.exts.foldl (· * ·) 1

/-- Address of element e, dimension 0 fastest. -/
def Shape.addr (h : Shape) (e : Nat) : Int :=
  ((h.exts.zip h.strs).foldl (fun (acc : Int × Nat) p => (acc.1 + (acc.2 % p.1 : Nat) * p.2, acc.2 / p.1)) ((h.base : Int), e)).1

/-- Lowest byte, and one past the highest. -/
def Shape.span (h : Shape) : Int × Int :=
  let ds := (h.exts.zip h.strs).map fun p => ((p.1 - 1 : Nat) : Int) * p.2
  (ds.foldl (fun a d => a + min 0 d) (h.base : Int), ds.foldl (fun a d => a + max 0 d) (h.base : Int) + h.es)

/-- The record is invalid under R326 (`coll`: bits from 304 on are XCOLL's). -/
def shapeBad (d : BitVec 512) (coll : Bool) : Bool :=
  let n := shDims d
  decide (4 < fldN d 48 3) || fldN d 56 8 ≠ 0 || fldN d 176 16 ≠ 0 || fldN d 240 16 ≠ 0
    || (if coll then fldN d 347 5 ≠ 0 || fldN d 392 56 ≠ 0 || fldN d 44 4 ≠ 0 else fldN d 304 208 ≠ 0)
    || ((List.range 4).any fun i => decide (n ≤ i) && (shExt d i ≠ 1 || (i ≠ 0 && shStr d i ≠ 0)))

/-- The gather record of XIM2C. -/
structure Gather where
  base : Nat
  es : Nat
  n : Nat
  h : Nat
  w : Nat
  c : Nat
  fr : Nat
  fs : Nat
  sy : Nat
  sx : Nat
  dy : Nat
  dx : Nat
  py : Nat
  px : Nat
  oh : Nat
  ow : Nat
  p0 : Nat
  np : Nat
  deriving DecidableEq, Repr

def gatherOf (d : BitVec 512) : Gather where
  base := fldN d 0 48
  es := 2 ^ fldN d 48 2
  n := fldN d 64 16 + 1
  h := fldN d 80 16 + 1
  w := fldN d 96 16 + 1
  c := fldN d 112 16 + 1
  fr := fldN d 128 4 + 1
  fs := fldN d 132 4 + 1
  sy := fldN d 136 4 + 1
  sx := fldN d 140 4 + 1
  dy := fldN d 144 4 + 1
  dx := fldN d 148 4 + 1
  py := fldN d 152 8
  px := fldN d 160 8
  oh := fldN d 192 16 + 1
  ow := fldN d 208 16 + 1
  p0 := fldN d 256 32
  np := fldN d 288 12 + 1

def gatherBad (d : BitVec 512) : Bool :=
  fldN d 48 2 = 3 || fldN d 53 11 ≠ 0 || fldN d 168 24 ≠ 0 || fldN d 224 32 ≠ 0 || fldN d 300 212 ≠ 0

def Gather.bytes (g : Gather) : Nat := g.np * g.fr * g.fs * g.c * g.es

/-- What one byte run of a piece reads. -/
inductive XRun where
  /-- Bytes of the context's virtual space; of a window of another card; of a team's scratchpad. -/
  | glob (va n : Nat) | win (pa n : Nat) | scr (team off n : Nat)
  /-- Zeros, counted in PADCNT or not; a pattern. -/
  | zero (n : Nat) (counted : Bool) | lit (bs : List Byte)
  deriving DecidableEq, Repr

/-- Element e of a gather (R328). -/
def Gather.elem (g : Gather) (e : Nat) : XRun :=
  let c := e % g.c
  let fs := e / g.c % g.fs
  let fr := e / g.c / g.fs % g.fr
  let q := g.p0 + e / g.c / g.fs / g.fr
  let n := q / (g.oh * g.ow)
  let oy := q / g.ow % g.oh
  let ox := q % g.ow
  let iy : Int := (oy * g.sy + fr * g.dy : Nat) - (g.py : Int)
  let ix : Int := (ox * g.sx + fs * g.dx : Nat) - (g.px : Int)
  if g.n ≤ n then .zero g.es true
  else if iy < 0 ∨ (g.h : Int) ≤ iy ∨ ix < 0 ∨ (g.w : Int) ≤ ix then .zero g.es false
  else .glob (g.base + (((n * g.h + iy.toNat) * g.w + ix.toNat) * g.c + c) * g.es) g.es

/-! ## Collectives' fields (R468) -/

def xcCid (d : BitVec 512) : Nat := fldN d 304 16
def xcRepl (d : BitVec 512) (a : Nat) : Bool := fldN d (338 + a) 1 = 1
def xcRop (d : BitVec 512) : Nat := fldN d 341 2
def xcType (d : BitVec 512) : Nat := fldN d 343 2
def xcOrdered (d : BitVec 512) : Bool := fldN d 345 1 = 1
def xcFlagEn (d : BitVec 512) : Bool := fldN d 346 1 = 1
def xcFlagOff (d : BitVec 512) : Nat := fldN d 352 40
def xcPmask (d : BitVec 512) : Nat := fldN d 448 64

/-- The destination set D. -/
def State.xcCards (s : State) (d : BitVec 512) : List Nat :=
  (List.range (s.axisDim 0 * s.axisDim 1 * s.axisDim 2)).filter fun c =>
    [0, 1, 2].all fun a => xcRepl d a || s.coord c a = fldN d (320 + 6 * a) 6

def XKind.coll (k : XKind) : Bool := k = .send || k = .red || k = .get
/-- Writes from the handle outwards. -/
def XKind.drains (k : XKind) : Bool := k = .xout || k = .xoutc || k = .drain || k = .send || k = .red
/-- Opens a fill. -/
def XKind.opens (k : XKind) : Bool := k = .xin || k = .im2c || k = .fill || k = .halo || k = .stage || k = .get
/-- Starts from FULL. -/
def XKind.takes (k : XKind) : Bool := k = .xout || k = .drain || k = .send || k = .red

/-- OPK of a fault record (R406, R473). -/
def XKind.opk (k : XKind) : Nat :=
  match k with
  | .xinc => 1
  | .xout => 2
  | .xoutc => 3
  | .im2c => 4
  | .im2cInc => 4
  | .stage => 5
  | .drain => 6
  | .reuse => 7
  | .send => 2
  | .red => 2
  | _ => 0

/-! ## Pieces (R323) -/

def Xop.pieces (x : Xop) : Nat := (x.n + 63) / 64
def Xop.len (x : Xop) (p : Nat) : Nat := min 64 (x.n - 64 * p)
def Xop.sector (x : Xop) (p : Nat) : Nat := (x.o + 64 * p) / 512

/-- The team that an XHALO reads, and its offset (R327). -/
def State.haloSource (s : State) (x : Xop) : Option (Nat × Nat) :=
  match s.team? x.team with
  | none => none
  | some t =>
    let p : Int := (if t.strip.isEmpty then 0 else (t.pos : Int)) + (fld x.src 52 4).toInt
    if p < 0 then none
    else if t.strip.isEmpty then (if p = 0 then some (x.team, fldN x.src 0 32) else none)
    else (t.strip[p.toNat]?).map fun u => (u, fldN x.src 0 32)

/-- The runs of piece p, in logical order: what a fill reads, where a drain writes. -/
def State.xRuns (s : State) (x : Xop) (p : Nat) : List XRun :=
  let lo := 64 * p
  let n := x.len p
  match x.kind with
  | .fill => [.lit ((List.range n).map fun i => BitVec.ofNat 8 (natFld x.src.toNat (8 * ((x.o + lo + i) % 8)) 8))]
  | .fillInc => [.lit ((List.range n).map fun i => BitVec.ofNat 8 (natFld x.src.toNat (8 * ((x.o + lo + i) % 8)) 8))]
  | .halo => halo lo n
  | .haloInc => halo lo n
  | .im2c => let g := gatherOf x.desc; (List.range (n / g.es)).map fun i => g.elem (lo / g.es + i)
  | .im2cInc => let g := gatherOf x.desc; (List.range (n / g.es)).map fun i => g.elem (lo / g.es + i)
  | .stage => range (x.src.toNat + lo) n
  | .drain => range (x.src.toNat + lo) n
  | .reuse => range (x.src.toNat + lo) n
  | k =>
    let h := shapeOf x.desc
    (List.range (n / h.es)).map fun i =>
      let a := (h.addr (lo / h.es + i)).toNat
      if k.coll then .win a h.es else .glob a h.es
where
  -- a range need not start at a line: at most two lines meet
  range (a n : Nat) : List XRun :=
    let m := 128 - a % 128
    if n ≤ m then [.glob a n] else [.glob a m, .glob (a + m) (n - m)]
  halo (lo n : Nat) : List XRun :=
    match s.haloSource x with
    | none => [.zero n true]
    | some q => [.scr q.1 (q.2 + lo) n]

/-- Addresses of the context's space that a piece touches. -/
def State.xVas (s : State) (x : Xop) (p : Nat) : List Nat :=
  (s.xRuns x p).filterMap fun r => match r with
    | .glob va _ => some va
    | _ => none

/-- The sluice waits for a translation (R415, R441). -/
def State.xHeld (s : State) (x : Xop) : Bool :=
  match x.hold with
  | .walk w => (KMap.find? s.walks w).isSome
  | .clk t => decide (s.clk < t)
  | _ => false

/-- Addresses of a piece that miss the core's TLB, but for those that a walk for this very request left without a translation. -/
def State.xMiss (s : State) (x : Xop) (p : Nat) : List Nat :=
  (s.xVas x p).filter fun va => (s.l1tlb x.core x.ctx va).isNone &&
    !(x.hold ≠ .none && (match s.walk x.ctx va with
      | .error _ => true
      | .ok _ => false))

/-- Translation of a run of a context's space for a piece. -/
def State.xPa (s : State) (x : Xop) (va : Nat) (write : Bool) : Except Flt Nat :=
  let wr := if write then 2 ^ 10 else 0
  match s.translate x.core x.ctx va with
  | .error d => .error { code := 1, detail := d + wr, addr := va }
  | .ok t => if write && !t.w then .error { code := 2, detail := 2 ^ 10, addr := va } else .ok (s.selfPa (t.phys va) write)

/-- What a line on the fabric takes beyond the path to its port (R221, R466). -/
def State.peerTerm (s : State) (pa : Nat) (write : Bool) : Nat :=
  if s.paKind pa = .peer ∧ !write then s.fabTerm (natFld pa 44 6) else 0

/-- The first run of a piece that does not translate; or the latency of its slowest line. -/
def State.xProbe (s : State) (x : Xop) (p : Nat) : Except Flt Nat :=
  let write := x.kind.drains
  (s.xRuns x p).foldl (init := .ok 0) fun acc r =>
    match acc, r with
    | .error f, _ => .error f
    | .ok m, .glob va _ => match s.xPa x va write with
      | .error f => .error f
      | .ok pa => .ok (max m (lineLat s x.core pa (if write then 1 else 0) + s.peerTerm pa write))
    | .ok m, _ => .ok m

/-- The physical addresses of a piece's runs of the context's space, as translated at its request. -/
def State.xPas (s : State) (x : Xop) (p : Nat) : List Nat :=
  (s.xRuns x p).filterMap fun r => match r with
    | .glob va _ => (s.xPa x va x.kind.drains).toOption
    | _ => none

/-- The host lines that a fill piece reads (R217, R457). -/
def State.xHostLines (s : State) (x : Xop) (p : Nat) : List Nat :=
  if x.kind.drains then [] else (((s.xPas x p).filter fun pa => s.paKind pa = .host).map lineOf).eraseDups

/-- One request on the host link for each of them, from the PCIe port on die 0 (R221). -/
def State.xHostReqs (s : State) (id : Nat) (x : Xop) (p : Nat) : State :=
  (s.xHostLines x p).foldl (init := s) fun t l =>
    { t with
      hostReqs := KMap.put t.hostReqs t.ids
        { agent := 0, op := id, lanes := 0, pa := l, due := s.clk + 100 + (if x.core / 64 = 0 then 0 else 32), piece := some p }
      ids := t.ids + 1 }

/-- A byte of a host line that has arrived for a piece. -/
def Xop.hostByte (x : Xop) (p a : Nat) : Byte :=
  match x.host.find? fun l => l.1 = p ∧ l.2.1 = lineOf a with
  | some l => l.2.2.getD (a % 128) 0xFF
  | none => 0xFF

/-- The physical address of a window offset on a card (R462, R468). -/
def winPa (card a : Nat) : Nat := 2 ^ 50 + card * 2 ^ 44 + a % 2 ^ 44

/-- Bytes that a run of piece p reads now; `pa` is its address where it is a run of the context's space. -/
def State.xRead (s : State) (x : Xop) (p pa : Nat) (r : XRun) : State × List Byte :=
  match r with
  | .glob _ n =>
    if s.paKind pa = .host then (s, (List.range n).map fun i => x.hostByte p (pa + i))
    else let q := s.unitRead pa n; (q.1, bytesOf n q.2)
  | .win a n =>
    let src := ((s.xcCards x.desc).head?).getD 0
    if src = s.card then match s.window src a false with
      | .ok pa => let q := s.unitRead pa n; (q.1, bytesOf n q.2)
      | .error _ => (s, List.replicate n 0)
    else let q := s.unitRead (winPa src a) n; (q.1, bytesOf n q.2)
  | .scr t off n => (s, match s.team? t with
    | some tm => rdBytes tm.scr n off
    | none => List.replicate n 0)
  | .zero n _ => (s, List.replicate n 0)
  | .lit bs => (s, bs)

def State.xReadAll (s : State) (x : Xop) (p : Nat) : List XRun → (pas : List Nat) → State × List Byte
  | [], _ => (s, [])
  | .glob va n :: rs, pas =>
    let q := s.xRead x p (pas.headD (2 ^ 52)) (.glob va n)
    let t := q.1.xReadAll x p rs pas.tail
    (t.1, q.2 ++ t.2)
  | r :: rs, pas =>
    let q := s.xRead x p 0 r
    let t := q.1.xReadAll x p rs pas
    (t.1, q.2 ++ t.2)

/-- The addresses kept for a piece. -/
def Xop.pasOf (x : Xop) (p : Nat) : List Nat := ((x.pas.find? fun q => q.1 = p).map (·.2)).getD []

/-- The handle of an operation. -/
def State.xHandle (s : State) (x : Xop) : Option Handle := KMap.find? s.handles (hkey x.core x.h)

/-- Team offset of data offset t of a handle (R320). -/
def Handle.at (h : Handle) (t : Nat) : Nat := h.roff + 64 + phi h.layout t

/-- The handle's bytes of a piece. -/
def State.xData (s : State) (x : Xop) (p : Nat) : List Byte :=
  match s.xHandle x, s.team? x.team with
  | some h, some t => (List.range (x.len p)).map fun i => rdB t.scr (h.at (x.o + 64 * p + i))
  | _, _ => []

/-- Writes the bytes of a piece into the handle. -/
def State.xStore (s : State) (x : Xop) (p : Nat) (bs : List Byte) : State :=
  match s.xHandle x with
  | none => s
  | some h => s.updTeam x.team fun t =>
    { t with scr := bs.zipIdx.foldl (fun m b => KMap.set memDefault m (h.at (x.o + 64 * p + b.2)) b.1) t.scr }

/-- Writes the bytes of a drain piece where they go. -/
def State.xDrain (s : State) (x : Xop) (p : Nat) : State :=
  let bs := s.xData x p
  ((s.xRuns x p).foldl (init := (s, bs, x.pasOf p)) fun acc r =>
    match r, acc.2.2 with
    | .glob _ n, pa :: pas => (acc.1.unitWrite pa (acc.2.1.take n) x.task, acc.2.1.drop n, pas)
    | _, _ => acc).1

/-! ## Registration (R318, R321, R322, R325) -/

/-- Lowest byte and one past the highest of a handle's range under its layout, as data offsets. -/
def phiSpan (layout o n : Nat) : Nat × Nat :=
  let row := match layout with
    | 1 => 128
    | 2 => 64
    | 3 => 256
    | _ => 16
  let whole := n / row * row
  let tail := (List.range (n - whole)).map fun i => phi layout (o + whole + i)
  (tail.foldl min (if whole = 0 then o + row else o), tail.foldl (fun m t => max m (t + 1)) (o + whole))

/-- The entries of an operation, in the order in which its description names them: (core, entry). -/
def State.xEntries (s : State) (x : Xop) : List (Nat × BitVec 128) :=
  match s.xHandle x, s.team? x.team with
  | some h, some t =>
    let sp := phiSpan h.layout x.o x.n
    let l := t.loc (h.roff + 64 + sp.1)
    let hand := (l.1, mkLock l.2 0 (if x.kind.drains then 0 else 1) x.ctx (sp.2 - sp.1) x.by')
    let glob (lo n kind : Nat) : Nat × BitVec 128 := (x.core, mkLock lo 1 kind x.ctx n x.by')
    match x.kind with
    | .fill => [hand]
    | .fillInc => [hand]
    | .halo => hand :: haloEnt
    | .haloInc => hand :: haloEnt
    | .im2c => [hand, imgEnt glob]
    | .im2cInc => [hand, imgEnt glob]
    | .stage => [hand, glob x.src.toNat x.n 0]
    | .drain => [hand, glob x.src.toNat x.n 1]
    | .reuse => []
    | k =>
      if k.coll then [hand]
      else
        let w := (shapeOf x.desc).span
        [hand, glob w.1.toNat (w.2 - w.1).toNat (if k.drains then 1 else 0)]
  | _, _ => []
where
  haloEnt : List (Nat × BitVec 128) :=
    match s.haloSource x with
    | none => []
    | some q => match s.team? q.1 with
      | none => []
      | some t => let l := t.loc q.2; [(l.1, mkLock l.2 0 0 x.ctx x.n x.by')]
  imgEnt (glob : Nat → Nat → Nat → Nat × BitVec 128) : Nat × BitVec 128 :=
    let g := gatherOf x.desc
    glob g.base (g.n * g.h * g.w * g.c * g.es) 0

/-- The waits of R325 and R327 have ended. -/
def State.xMayStart (s : State) (x : Xop) : Bool :=
  match s.xHandle x, s.team? x.team with
  | some h, some t =>
    (!x.kind.opens || h.st = 0) && (!x.kind.takes || h.st = 2) && decide (x.sbar ≤ t.sdone)
      && !(KMap.find? s.fatals x.ctx).isSome && !((s.agent? x.agent).map (·.latched)).getD false
      && (s.xEntries x).all fun e => (s.lockConf e.1 e.2).isNone
  | _, _ => false

/-- The clause's next instruction follows a hold of the leat. -/
def State.leatGoes (s : State) (a : Nat) : State :=
  s.updFrag a 0 fun f => f.adv (max (s.clk + 1) (f.iss + 1 + fldN (f.code.getD (f.k - 1) 0) 53 3))

/-- ENGINE_OP_START: state change, entries, and the place in the sluice, in one clk. -/
def execEngineOpStart (x : Nat) (s : State) : Out :=
  match KMap.find? s.xops x with
  | none => .next s
  | some o =>
    if o.st ≠ .waiting ∨ !s.xMayStart o then .next s
    else match s.lockAll x (s.xEntries o) with
      | none => .next s
      | some s1 =>
        let k := hkey o.core o.h
        let s2 : State := match KMap.find? s1.handles k with
          | none => s1
          | some h => if o.kind.opens then s1.openFill k h o.expect else if o.kind.takes then s1.setHandle k { h with st := 3 } else s1
        let s3 := ({ s2 with ids := s2.ids + 1 }).updXop x fun y =>
          { y with st := .running, reg := s2.ids, began := s.clk, todo := List.range o.pieces }
        .next (if o.by' = 2 then s3 else s3.leatGoes o.agent)

/-- The operation whose piece the sluice of a core requests next (R323). -/
def State.xHead (s : State) (core : Nat) : Option (Nat × Xop) :=
  leastBy (fun a b => decide (a.2.reg < b.2.reg))
    (s.xops.filter fun p => p.2.core = core && p.2.st = .running && p.2.fault.isNone && !p.2.todo.isEmpty)

/-- Group accesses in flight that the operation's ranges meet (R227). -/
def State.xBusy (s : State) (id : Nat) (x : Xop) : Bool :=
  (s.rlocks.filter fun p => p.2.op = id).any fun p => s.lockBusy x.reg (p.1 / 64, p.2.bits)

/-- The first piece of a collective asks for leave (R487). -/
def Xop.fresh (x : Xop) : Bool := x.kind.coll && x.todo.length = x.pieces && x.out.isEmpty

def sluiceHolder (core : Nat) : Nat := 520 + core

def State.collLeave (s : State) (core : Nat) (x : Xop) : Bool :=
  let l := s.leave (sluiceHolder core)
  if !x.fresh then true
  else match l.start with
    | some t => decide (t ≤ s.clk)
    | none => l.held && decide (s.clk < l.idle + 256)

/-- Clk from a piece's request to its arrival or acceptance (R323, R328, R473). -/
def State.xLat (s : State) (x : Xop) (p line : Nat) : Nat :=
  match x.kind with
  | .fill => 20
  | .fillInc => 20
  | .halo => halo
  | .haloInc => halo
  | .im2c => 64 * (p / 32) + max line 20
  | .im2cInc => 64 * (p / 32) + max line 20
  | .get => 20 + s.fabTerm (((s.xcCards x.desc).head?).getD 0)
  | k =>
    if k.coll then 20 + ((s.xcCards x.desc).map s.fabTerm).foldl max 0
    else if k.drains then 20 + line else max line 20
where
  halo : Nat := match s.haloSource x with
    | some q => if ((s.team? q.1).map (·.core)).getD x.core = x.core then 20 else 36
    | none => 20

/-- A collective's piece leaves for the other cards of D (R469, R470). -/
def State.collSend (s : State) (id : Nat) (x : Xop) (p : Nat) : State :=
  let h := shapeOf x.desc
  let a := (h.addr (64 * p / h.es)).toNat
  let others := if x.kind = .get ∨ !x.kind.coll then [] else (s.xcCards x.desc).filter (· ≠ s.card)
  others.foldl (init := s) fun s c =>
    let bs := s.xData x p
    let req : FabReq := { agent := 0, op := id, lanes := 0, kind := 3, pa := winPa c a, due := s.clk + 20 + s.fabTerm c, va := p,
                          ctx := x.ctx, core := x.core }
    let s1 := { s with fabReqs := KMap.put s.fabReqs s.ids req, ids := s.ids + 1 }
    if x.kind = .red then
      let key : RedKey := { cid := xcCid x.desc, off := a % 2 ^ 44, rop := xcRop x.desc, rty := xcType x.desc, ordered := xcOrdered x.desc,
                            flagen := xcFlagEn x.desc, flagoff := xcFlagOff x.desc, pmask := xcPmask x.desc }
      { s1 with redQ := KMap.put s1.redQ s1.ids { card := c, key := key, bits := 2 ^ s.card, vals := redElems key.rty bs, again := x.again,
                                                  due := s.clk + 20 }, ids := s1.ids + 1 }
    else { s1 with fabOut := s1.fabOut ++ [(winPa c a, bs)] }

/-- SLUICE_PIECE_REQUEST: one piece of the first operation that requests; a translation that misses the core's TLB holds the sluice;
a piece that does not translate stops the operation. -/
def execSluicePieceRequest (core : Nat) (s : State) : Out :=
  if KMap.find? s.sluices core = some s.clk then .next s
  else match s.xHead core with
    | none => .next s
    | some (id, x) =>
      if s.xBusy id x ∨ !s.collLeave core x then .next s
      else match x.todo with
        | [] => .next s
        | p :: rest =>
          if s.xHeld x then .next s
          else if !(s.xMiss x p).isEmpty then
            let h := s.missHold x.core x.ctx (s.xMiss x p)
            .next (h.1.updXop id fun y => { y with hold := h.2 })
          else match s.xProbe x p with
          | .error f => .next (s.updXop id fun y => { y with fault := some f, hold := .none })
          | .ok line =>
            let h := sluiceHolder core
            let s1 := if x.kind.coll then s.setLeave h { s.leave h with start := none, idle := s.clk } else s
            let s2 := { ((s1.collSend id x p).xHostReqs id x p) with sluices := KMap.put s1.sluices core s.clk }
            .next (s2.updXop id fun y =>
              { y with todo := rest, hold := .none, out := y.out ++ [(p, s.clk + s.xLat x p line)], pas := y.pas ++ [(p, s.xPas x p)] })

/-- No other piece of the sector is on its way. -/
def Xop.lastOf (x : Xop) (p : Nat) : Bool :=
  !(x.todo.any fun q => x.sector q = x.sector p) && !(x.out.any fun q => q.1 ≠ p && x.sector q.1 = x.sector p)

/-- Counted zeros of a sector's pieces (R316, R327, R328). -/
def State.padOf (s : State) (x : Xop) (j : Nat) : Nat :=
  (((List.range x.pieces).filter fun p => x.sector p = j).flatMap fun p => s.xRuns x p).foldl (fun n r => match r with
    | .zero k true => n + k
    | _ => n) 0

/-- The piece whose time has come. -/
def Xop.due? (x : Xop) (p clk : Nat) : Bool := x.out.any fun q => q.1 = p && decide (q.2 ≤ clk)

/-- A piece is no longer on its way, and nothing is kept for it. -/
def Xop.dropPiece (x : Xop) (p : Nat) : Xop :=
  { x with out := x.out.filter (fun q => q.1 ≠ p), pas := x.pas.filter (fun q => q.1 ≠ p), host := x.host.filter (fun q => q.1 ≠ p) }

def State.pieceDone (s : State) (id p : Nat) : State := s.updXop id fun y => y.dropPiece p

/-- A host line of the piece has not arrived. -/
def State.xAwaits (s : State) (id p : Nat) : Bool := s.hostReqs.any fun (r : Nat × HostReq) => r.2.op = id && r.2.piece = some p

/-- SECTOR_ARRIVAL: a fill piece lands; with the last one of its sector the sector has arrived. -/
def execSectorArrival (x piece : Nat) (s : State) : Out :=
  match KMap.find? s.xops x with
  | none => .next s
  | some o =>
    if o.kind.drains ∨ !o.due? piece s.clk ∨ s.xAwaits x piece then .next s
    else
      -- a GET of this card's own window that its window rejects (R473)
      let bad : Option Flt := if o.kind = .get ∧ ((s.xcCards o.desc).head?).getD 0 = s.card then
          (match s.xRuns o piece with
            | .win a _ :: _ => (match s.window s.card a false with
              | .error _ => some { code := 1, detail := 5, addr := a }
              | .ok _ => none)
            | _ => none)
        else none
      match bad with
      | some f => .next (s.updXop x fun y => { y.dropPiece piece with todo := piece :: y.todo, fault := some f })
      | none =>
        let r := s.xReadAll o piece (s.xRuns o piece) (o.pasOf piece)
        let s1 := (r.1.xStore o piece r.2).pieceDone x piece
        if !o.lastOf piece then .next s1
        else
          let j := o.sector piece
          let s2 := s1.sectorIn (hkey o.core o.h) j
          let pad := s.padOf o j
          match s2.xHandle o with
          | some h => .next (if pad = 0 then s2 else s2.padAdd h pad)
          | none => .next s2

/-- DRAIN_SECTOR_ACCEPT: a drain piece is accepted; with the last one of its sector the sector's bit clears. -/
def execDrainSectorAccept (x piece : Nat) (s : State) : Out :=
  match KMap.find? s.xops x with
  | none => .next s
  | some o =>
    if !o.kind.drains ∨ o.kind.coll ∨ !o.due? piece s.clk then .next s
    else
      let s1 := (s.xDrain o piece).pieceDone x piece
      .next (if o.lastOf piece then s1.sectorOut (hkey o.core o.h) (o.sector piece) else s1)

/-- What this card as a destination answers to a piece: waits; rejects; or takes it (R469, R472). -/
def State.collSelf (s : State) (o : Xop) (p : Nat) : Option (Except Nat State) :=
  if !(s.xcCards o.desc).contains s.card then some (.ok s)
  else
    let h := shapeOf o.desc
    let bs := s.xData o p
    let a := (h.addr (64 * p / h.es)).toNat
    if o.kind = .red then
      s.redArrive { cid := xcCid o.desc, off := a % 2 ^ 44, rop := xcRop o.desc, rty := xcType o.desc, ordered := xcOrdered o.desc,
                    flagen := xcFlagEn o.desc, flagoff := xcFlagOff o.desc, pmask := xcPmask o.desc } (2 ^ s.card)
        (redElems (xcType o.desc) bs)
    else
      let w := (s.xRuns o p).foldl (init := (Except.ok (s, bs) : Except Nat (State × List Byte))) fun acc r =>
        match acc, r with
        | .ok q, .win va n => (match q.1.winWrite s.card va (q.2.take n) with
          | .ok t => .ok (t, q.2.drop n)
          | .error e => .error e)
        | e, _ => e
      match w with
      | .error e => some (.error e)
      | .ok q => some (.ok (if xcFlagEn o.desc then q.1.winSignal s.card (a / 2 ^ 40 * 2 ^ 40 + xcFlagOff o.desc) (o.len p) else q.1))

/-- COLLECTIVE_PIECE_ACK: every destination has acknowledged a SEND or RED piece. -/
def execCollectivePieceAck (x piece : Nat) (s : State) : Out :=
  match KMap.find? s.xops x with
  | none => .next s
  | some o =>
    if !o.kind.drains ∨ !o.kind.coll ∨ !o.due? piece s.clk then .next s
    else match s.collSelf o piece with
      | none => .next s
      | some (.error e) =>
        let f : Flt := { code := if e = 2 then 2 else 1, detail := if e = 2 then 1 + 2 ^ 10 else 5 + 2 ^ 10,
                         addr := ((shapeOf o.desc).addr (64 * piece / (shapeOf o.desc).es)).toNat }
        .next (s.updXop x fun y => { y.dropPiece piece with todo := piece :: y.todo, fault := some f })
      | some (.ok s1) =>
        let s2 := { (s1.pieceDone x piece) with fabReqs := s1.fabReqs.filter fun r => !(r.2.kind = 3 ∧ r.2.op = x ∧ r.2.va = piece) }
        .next (if o.lastOf piece then s2.sectorOut (hkey o.core o.h) (o.sector piece) else s2)

/-- The record of a parked operation (R323). -/
def State.xRaiser (s : State) (x : Xop) : Raiser :=
  s.unitRaiser (if x.by' = 2 then 4 else 3) x.ctx x.core (opk := x.kind.opk) (handle := x.h)
    (arrived := ((s.xHandle x).map (·.arrived)).getD 0)

/-- SLUICE_PARK: the pieces already requested are done; PK is set and one record written. -/
def execSluicePark (x : Nat) (s : State) : Out :=
  match KMap.find? s.xops x with
  | none => .next s
  | some o =>
    match o.fault with
    | none => .next s
    | some f =>
      if o.st ≠ .running ∨ !o.out.isEmpty then .next s
      else .next ((s.updXop x fun y => { y with st := .parked, pk := true, sv := false }).replay { (s.xRaiser o) with pc := o.pc } 0 f (.sluice x))

/-- A parked operation requests again every piece of the sectors that are not done (R329). -/
def State.xResume (s : State) (id : Nat) (x : Xop) : State :=
  let bits := (s.xHandle x).map fun h => s.hdrN h 0 32
  let open' (p : Nat) : Bool := natFld (bits.getD 0) (x.sector p) 1 = (if x.kind.drains then 1 else 0)
  s.updXop id fun y => { y with st := .running, pk := false, sv := false, fault := none, again := y.kind = .red,
                                todo := (List.range y.pieces).filter open' }

/-- ENGINE_OP_COMPLETE: every piece has arrived or been accepted; its entries are removed (R268). -/
def execEngineOpComplete (x : Nat) (s : State) : Out :=
  match KMap.find? s.xops x with
  | none => .next s
  | some o =>
    if o.st ≠ .running ∨ o.fault.isSome ∨ !o.todo.isEmpty ∨ !o.out.isEmpty then .next s
    else .next { (s.unlock x) with xops := KMap.del s.xops x }

/-! ## Reads of the host link (R457, R458) -/

/-- A line of host memory, or what stands for it, lands for a piece; with the piece's last line the piece may land. -/
def State.lineLand (s : State) (req x piece pa : Nat) (line : List Byte) : State :=
  { s with
    hostReqs := KMap.del s.hostReqs req
    xops := KMap.upd s.xops x fun y => { y with host := y.host ++ [(piece, pa, (List.range 128).map fun i => line.getD i 0xFF)] } }

/-- A read of the host link for a piece of a sluice operation has its answer: 0 the bytes, 1 Unsupported Request, 2 Completer Abort,
3 poisoned. -/
def State.lineAnswer (s : State) (req : Nat) (r : HostReq) (piece status : Nat) (bytes : List Byte) : State :=
  match KMap.find? s.xops r.op with
  | none => { s with hostReqs := KMap.del s.hostReqs req }
  | some o =>
    if s.clk < r.due then s
    else if status = 0 then s.lineLand req r.op piece r.pa bytes
    else if status = 3 then
      ({ s with hostReqs := KMap.del s.hostReqs req }).fatal { (s.xRaiser o) with pc := o.pc } { code := 33, detail := 7, addr := r.pa }
    else (s.logHerr (status - 1) r.pa).lineLand req r.op piece r.pa []

/-- HOST_READ_COMPLETION: status 0 success, 1 Unsupported Request, 2 Completer Abort, 3 poisoned (R458). -/
def execHostReadCompletion (req status : Nat) (bytes : List Byte) (s : State) : Out :=
  match KMap.find? s.hostReqs req with
  | none => .next s
  | some r =>
    match r.piece with
    | some p => .next (s.lineAnswer req r p status bytes)
    | none =>
      match s.agent? r.agent with
      | none => .next { s with hostReqs := KMap.del s.hostReqs req }
      | some ag =>
        match ag.findOp r.op with
        | none => .next { s with hostReqs := KMap.del s.hostReqs req }
        | some o =>
          if s.clk < r.due ∨ ag.blocked o r.lanes then .next s
          else
            let s1 := { s with hostReqs := KMap.del s.hostReqs req }
            if status = 0 then .next (s1.hostLand r.agent ag o r.lanes r.pa bytes)
            else if status = 3 then .next (s1.fatal (ag.raiser o.fid 0) { code := 33, detail := 7, addr := r.pa })
            else .next ((s1.logHerr (status - 1) r.pa).hostLand r.agent ag o r.lanes r.pa [])

/-- HOST_REQUEST_TIMEOUT: no completion within HCTO microseconds of 1,250 clk (R457). -/
def execHostRequestTimeout (req : Nat) (s : State) : Out :=
  match KMap.find? s.hostReqs req with
  | none => .next s
  | some r =>
    if s.clk + 100 < r.due + 1250 * s.barFld (blkHost + 4) 0 64 then .next s
    else
      let s1 := { s with hostReqs := KMap.del s.hostReqs req }
      match r.piece with
      | some p =>
        match KMap.find? s.xops r.op with
        | none => .next s1
        | some _ => .next ((s.logHerr 2 r.pa).lineLand req r.op p r.pa [])
      | none =>
        match (s.agent? r.agent).bind fun ag => (ag.findOp r.op).map fun o => (ag, o) with
        | none => .next s1
        | some (ag, o) =>
          match o.kind with
          | .hostAtomic .. =>
            match o.acc.find? fun x => r.lanes.getLsbD x.lane with
            | some x => .next (s1.hostAnswer r.agent o x 3 0)
            | none => .next s1
          | _ => .next ((s1.logHerr 2 r.pa).hostLand r.agent ag o r.lanes r.pa [])

/-! ## The leat-only instructions -/

/-- The placement of R318, R324: a first data offset that is a multiple of 512, and an end on a sector or at EXPECT. -/
def placeBad (h : Handle) (k : XKind) (o n expect : Nat) : Bool :=
  n = 0 || o % 512 ≠ 0
    || (if k.drains then decide (512 * h.dsec < o + n)
        else expect = 0 || decide (512 * h.dsec < expect) || decide (expect < o + n) || ((o + n) % 512 ≠ 0 && o + n ≠ expect))

def badOperand : Flt := illegalOp 8
def badRecord : Flt := illegalOp 5

/-- The operation waits for its start, and the leat with it. -/
def State.xQueue (s : State) (c : Iss) (x : Xop) : State :=
  ({ s with xops := KMap.put s.xops s.ids x, ids := s.ids + 1 }).updFrag c.a c.fid fun fr =>
    { fr with wait := .xop s.ids, phase := 4, iss := if fr.phase = 3 then fr.iss else s.clk }

/-- Fields that every operation of a leat has. -/
def State.xNew (s : State) (c : Iss) (kind : XKind) (h o n expect : Nat) : Xop :=
  { core := (s.teamOf c.ag).core, by' := if c.ag.kind = .leat true then 1 else 0, agent := c.a, kind := kind, ctx := c.ag.ctx,
    team := c.ag.team, h := h, o := o, n := n, expect := expect, pc := c.fr.pc }

/-- Stage 1 of R325 for the placement: the operand limits that need no record. -/
def placeEarly (h : Handle) (k : XKind) (pl : Dword) : Bool :=
  fldN pl 0 32 % 512 ≠ 0 || (k.opens && (fldN pl 32 32 = 0 || decide (512 * h.dsec < fldN pl 32 32)))
    || ((k = .xinc || k = .im2cInc || k = .fillInc || k = .haloInc) && h.st ≠ 1) || (k = .xoutc && h.st ≠ 3)

/-- XCOPY, XIM2C and XCOLL: stage 1, the record's read, stage 3 (R325). `chk` judges the record: its fault, the length and the
layout it states. -/
def xRecord (f : FSYS) (row : SysRow) (kind : XKind) (chk : State → BitVec 512 → Except Flt (Nat × Option Nat))
    (late : State → BitVec 512 → Handle → Nat → Nat → Bool) (s : State) : Out :=
  issueWith s (legalSys f { row with sa := true, sb := true, res := true, leat := true, grp := false })
    (fun _ => { reads := sregs [f.sa.toNat, f.sb.toNat] }) .one 0 true fun s c _ =>
      let a := (c.ag.sr f.sa.toNat).toNat
      let pl := c.ag.sr f.sb.toNat
      match s.handleOf c.ag f.res.toNat with
      | none => .next (s.raise c.a c.fid { code := 4 })
      | some (_, h) =>
        if 2 ^ 48 < a + 64 then .next (s.raise c.a c.fid (illegalAddr a))
        else if a % 64 ≠ 0 then .next (s.raise c.a c.fid (misalign a))
        else if placeEarly h kind pl then .next (s.raise c.a c.fid badOperand)
        else match s.recParts c.ag a 64 false (c.fr.phase = 2) with
          | .error r => .next (s.recStop c r)
          | .ok ps =>
            if c.fr.phase ≠ 3 then
              .next ((s.hold c (.clk (s.clk + s.partsLat c.ag.core 0 ps)) 3).updFrag c.a c.fid fun fr => { fr with iss := s.clk })
            else
              let r := s.partsRead ps
              let d : BitVec 512 := BitVec.ofNat 512 r.2
              match chk s d with
              | .error x => .next (r.1.raise c.a c.fid x)
              | .ok (n, lay) =>
                let o := fldN pl 0 32
                let e := if kind.opens then fldN pl 32 32 else h.expect
                if placeBad h kind o n e ∨ late s d h o n then .next (r.1.raise c.a c.fid badOperand)
                else if lay.getD h.layout ≠ h.layout then .next (r.1.raise c.a c.fid { code := 11 })
                else .next (r.1.xQueue c { (s.xNew c kind f.res.toNat o n e) with desc := d })

/-- Checks of a shape record in the order of R325. -/
def shapeChk (_ : State) (d : BitVec 512) : Except Flt (Nat × Option Nat) :=
  let h := shapeOf d
  let w := h.span
  if w.1 < 0 ∨ 2 ^ 48 < w.2 then .error (illegalAddr w.1)
  else if (h.base % h.es ≠ 0 ∨ h.strs.any fun t => t % (h.es : Int) ≠ 0) then .error (misalign h.base)
  else if shapeBad d false then .error badRecord
  else .ok (h.es * h.elems, some (fldN d 51 3))

def xcopy (f : FSYS) (k : XKind) (sub : Nat) (s : State) : Out :=
  xRecord f { subs := [sub] } k shapeChk (fun _ _ _ _ _ => false) s

def execXcopyIn (f : FSYS) (s : State) : Out := xcopy f .xin 0 s
def execXcopyInc (f : FSYS) (s : State) : Out := xcopy f .xinc 1 s
def execXcopyOut (f : FSYS) (s : State) : Out := xcopy f .xout 2 s
def execXcopyOutc (f : FSYS) (s : State) : Out := xcopy f .xoutc 3 s

/-- Checks of a gather record. -/
def gatherChk (_ : State) (d : BitVec 512) : Except Flt (Nat × Option Nat) :=
  let g := gatherOf d
  if 2 ^ 48 < g.base + g.n * g.h * g.w * g.c * g.es then .error (illegalAddr g.base)
  else if g.base % g.es ≠ 0 then .error (misalign g.base)
  else if gatherBad d then .error badRecord
  else .ok (g.bytes, some (fldN d 50 3))

/-- XIM2C (R328). -/
def execXim2c (f : FSYS) (s : State) : Out :=
  xRecord f { subs := [0, 1] } (if f.sub = 1 then .im2cInc else .im2c) gatherChk (fun _ _ _ _ _ => false) s

/-- Checks of a collective's record: the record in window-offset space (R468). -/
def collChk (_ : State) (d : BitVec 512) : Except Flt (Nat × Option Nat) :=
  let h := shapeOf d
  let w := h.span
  let lo : Int := ((h.base % 2 ^ 44 / 2 ^ 40 * 2 ^ 40 : Nat) : Int)
  if w.1 < lo ∨ lo + 2 ^ 40 < w.2 then (if fldN d 44 4 ≠ 0 then .error badRecord else .error (illegalAddr w.1))
  else if (h.base % h.es ≠ 0 ∨ h.strs.any fun t => t % (h.es : Int) ≠ 0) then .error (misalign h.base)
  else if shapeBad d true then .error badRecord
  else .ok (h.es * h.elems, some (fldN d 51 3))

/-- The further checks of R468, with detail 8. `sub` 0 SEND, 1 RED, 2 GET. -/
def collLate (sub : Nat) (s : State) (d : BitVec 512) (_ : Handle) (o n : Nat) : Bool :=
  s.barFld blkFab 39 1 = 0 || ([0, 1, 2].any fun a => decide (s.axisDim a ≤ fldN d (320 + 6 * a) 6))
    || (if sub = 1 then
          xcRop d = 0 || natFld (xcPmask d) s.card 1 = 0 || 2 ^ fldN d 48 3 ≠ redBytes (xcType d) || shDims d ≠ 1
            || (fldN d 0 48) % 64 ≠ 0 || o % 64 ≠ 0 || n % 64 ≠ 0
        else xcRop d ≠ 0 || xcType d ≠ 0 || xcPmask d ≠ 0 || xcOrdered d || (sub = 2 && (xcFlagEn d || fldN d 338 3 ≠ 0)))
    || (xcFlagEn d && xcFlagOff d % 8 ≠ 0)

/-- XCOLL (R467). -/
def execXcollSend (f : FSYS) (s : State) : Out := xRecord f { subs := [0] } .send collChk (collLate 0) s
def execXcollRed (f : FSYS) (s : State) : Out := xRecord f { subs := [1] } .red collChk (collLate 1) s
def execXcollGet (f : FSYS) (s : State) : Out := xRecord f { subs := [2] } .get collChk (collLate 2) s

/-- XFILL (R327). -/
def execXfill (f : FSYS) (s : State) : Out :=
  issueWith s (legalSys f { sa := true, sb := true, res := true, imm := 0x1FF, subs := [0, 1], leat := true, grp := false })
    (fun _ => { reads := sregs [f.sa.toNat, f.sb.toNat] }) .one 0 true fun s c _ =>
      let pl := c.ag.sr f.sb.toNat
      let kind : XKind := if f.sub = 1 then .fillInc else .fill
      let k := fldN f.imm 0 9
      match s.handleOf c.ag f.res.toNat with
      | none => .next (s.raise c.a c.fid { code := 4 })
      | some (_, h) =>
        let o := fldN pl 0 32
        let e := if kind.opens then fldN pl 32 32 else h.expect
        let n := min (o + 512 * k) e - o
        if placeEarly h kind pl ∨ k = 0 ∨ 256 < k ∨ placeBad h kind o n e then .next (s.raise c.a c.fid badOperand)
        else .next (s.xQueue c { (s.xNew c kind f.res.toNat o n e) with src := c.ag.sr f.sa.toNat })

/-- XHALO (R327). -/
def execXhalo (f : FSYS) (s : State) : Out :=
  issueWith s (legalSys f { sd := true, sa := true, sb := true, res := true, subs := [0, 1], leat := true, grp := false })
    (fun _ => { reads := sregs [f.sd.toNat, f.sa.toNat, f.sb.toNat] }) .one 0 true fun s c _ =>
      let pl := c.ag.sr f.sb.toNat
      let src := c.ag.sr f.sa.toNat
      let kind : XKind := if f.sub = 1 then .haloInc else .halo
      match s.handleOf c.ag f.res.toNat with
      | none => .next (s.raise c.a c.fid { code := 4 })
      | some (_, h) =>
        let o := fldN pl 0 32
        let n := fldN src 32 17
        let e := if kind.opens then fldN pl 32 32 else h.expect
        let x := { (s.xNew c kind f.res.toNat o n e) with src := src, sbar := (c.ag.sr f.sd.toNat).toNat }
        let size := ((s.haloSource x).bind fun q => s.team? q.1).map (·.size)
        if (match size with
            | some z => decide (z < fldN src 0 32 + n)
            | none => false) then .next (s.raise c.a c.fid (illegalAddr (fldN src 0 32)))
        else if placeEarly h kind pl ∨ fldN src 49 3 ≠ 0 ∨ fldN src 56 8 ≠ 0 ∨ placeBad h kind o n e then
          .next (s.raise c.a c.fid badOperand)
        else .next (s.xQueue c x)

/-- XRESUME (R329). -/
def execXresume (f : FSYS) (s : State) : Out :=
  issueWith s (legalSys f { res := true, leat := true, grp := false }) (fun _ => {}) .one 0 true fun s c _ =>
    match s.handleOf c.ag f.res.toNat with
    | none => .next (s.raise c.a c.fid { code := 4 })
    | some (k, _) =>
      let mine := s.xops.filter fun p => hkey p.2.core p.2.h = k && p.2.st = .parked
      .next ((mine.foldl (fun s p => s.xResume p.1 p.2) s).sysDone c f.stl.toNat)

/-- XWAIT.H (R330). -/
def execXwaitH (f : FSYS) (s : State) : Out :=
  issueWith s (legalSys f { res := true, imm := 7, subs := [0], leat := true, grp := false }) (fun _ => {}) .one 0 true fun s c _ =>
    match s.handleOf c.ag f.res.toNat with
    | none => .next (s.raise c.a c.fid { code := 4 })
    | some _ =>
      if s.handleIn c.ag f.res.toNat (fldN f.imm 0 2) (fldN f.imm 2 1) then .next (s.sysDone c f.stl.toNat)
      else .next (s.hold c (.handle f.res.toNat (fldN f.imm 0 2) (fldN f.imm 2 1) never) 4)

/-- Operations that a leat started and that have neither completed nor parked. -/
def State.xRunning (s : State) (a : Nat) : Bool := s.xops.any fun p => p.2.agent = a && p.2.by' ≠ 2 && p.2.st ≠ .parked

/-- XWAIT.OPS. -/
def execXwaitOps (f : FSYS) (s : State) : Out :=
  issueWith s (legalSys f { sd := true, subs := [1], leat := true, grp := false }) (fun _ => { writes := [sreg f.sd.toNat] }) .one 2 true
    fun s c _ =>
      if s.xRunning c.a then .next (s.hold c .xops 4)
      else
        let n := (s.xops.filter fun p => p.2.agent = c.a && p.2.by' ≠ 2 && p.2.st = .parked).length
        .next ((s.putS c f.sd.toNat (ofN n) (s.clk + 2)).sysDone c f.stl.toNat)

/-- Parked operations of a handle; those that the host has not acknowledged. -/
def State.xParked (s : State) (k : Nat) : List (Nat × Xop) := s.xops.filter fun p => hkey p.2.core p.2.h = k && p.2.st = .parked
def State.xUnserved (s : State) (k : Nat) : Bool := (s.xParked k).any fun p => !p.2.sv

/-- XWAIT.SVC. -/
def execXwaitSvc (f : FSYS) (s : State) : Out :=
  issueWith s (legalSys f { sd := true, res := true, subs := [2], leat := true, grp := false })
    (fun _ => { writes := [sreg f.sd.toNat] }) .one 2 true fun s c _ =>
      match s.handleOf c.ag f.res.toNat with
      | none => .next (s.raise c.a c.fid { code := 4 })
      | some (k, _) =>
        if s.xUnserved k then .next (s.hold c (.xsvc k) 4)
        else .next ((s.putS c f.sd.toNat (ofN (s.xParked k).length) (s.clk + 2)).sysDone c f.stl.toNat)

end Sys2Proof.Machine
end

