-- ==== Sys2Proof/Machine/Rays.lean ====
section
/-!
DEFINITION. Ray traversal (R347 to R358): exact hit tests, the committed hit, results and records, and the instructions
RTRACE, RRESUME, RSTATE and RCOMMIT with the events of rays. The order of traversal, the records visited, the stack's use and
the time of a ray are the device's own: free values (log entry 2).
-/
namespace Sys2Proof.Machine

/-! ## Exact arithmetic on F32 words (R348) -/

def wval (w : Word) : FV := f32.decode w.toNat

/-- A finite F32 word as an integer multiple of 2^-149. -/
def wint (w : Word) : Int :=
  match wval w with
  | .fin n m e => (if n then -1 else 1) * ((m * 2 ^ (e + 149).toNat : Nat) : Int)
  | _ => 0

def wfinite (w : Word) : Bool :=
  match wval w with
  | .fin .. => true
  | _ => false

/-- N / 2^k rounded once to F32 under RNE. -/
def roundDyadic (N : Int) (k : Nat) : Word := BitVec.ofNat 32 (f32.round .rne false (decide (N < 0)) N.natAbs (-(k : Int)))

/-- N / D rounded once to F32 under RNE, D not zero. -/
def roundRatio (N D : Int) : Word :=
  let neg := decide (N < 0) != decide (D < 0)
  let k := 40 + (Nat.log2 D.natAbs - Nat.log2 N.natAbs)
  let x := N.natAbs * 2 ^ k
  if N = 0 then 0
  else BitVec.ofNat 32 (f32.round .rne false neg (x / D.natAbs) (-(k : Int)) (decide (x % D.natAbs ≠ 0)))

abbrev V3 := Int × Int × Int
def V3.sub (a b : V3) : V3 := (a.1 - b.1, a.2.1 - b.2.1, a.2.2 - b.2.2)
def V3.dot (a b : V3) : Int := a.1 * b.1 + a.2.1 * b.2.1 + a.2.2 * b.2.2
def V3.cross (a b : V3) : V3 := (a.2.1 * b.2.2 - a.2.2 * b.2.1, a.2.2 * b.1 - a.1 * b.2.2, a.1 * b.2.1 - a.2.1 * b.1)
def v3At (l : List Word) (i : Nat) : V3 := (wint (l.getD i 0), wint (l.getD (i + 1) 0), wint (l.getD (i + 2) 0))

/-- The exact point in which the line meets a triangle, if it does: t, u and v rounded, and whether it is front-facing (R348).
`od` is o and d, `tri` the nine words of the triangle. -/
def triHit (od tri : List Word) : Option (Word × Word × Word × Bool) :=
  let o := v3At od 0
  let d := v3At od 3
  let e1 := (v3At tri 3).sub (v3At tri 0)
  let e2 := (v3At tri 6).sub (v3At tri 0)
  let p := d.cross e2
  let det := e1.dot p
  let s := o.sub (v3At tri 0)
  let q := s.cross e1
  let sg : Int := if det < 0 then -1 else 1
  let u := sg * s.dot p
  let v := sg * d.dot q
  let t := sg * e2.dot q
  let D := sg * det
  if det = 0 ∨ u < 0 ∨ v < 0 ∨ D < u + v then none
  else some (roundRatio t D, roundRatio u D, roundRatio v D, decide ((e1.cross e2).dot d < 0))

/-- An exact rational with ±∞; the denominator is positive. -/
inductive ER where
  | ninf | pinf
  | fin (n d : Int)
  deriving DecidableEq, Repr

def ER.le : ER → ER → Bool
  | .ninf, _ => true
  | _, .pinf => true
  | .fin a b, .fin c d => decide (a * d ≤ c * b)
  | _, _ => false

def ER.max (a b : ER) : ER := if a.le b then b else a
def ER.min (a b : ER) : ER := if a.le b then a else b

/-- An F32 word that is not NaN. -/
def ER.ofWord (w : Word) : ER :=
  match wval w with
  | .inf n => if n then .ninf else .pinf
  | _ => .fin (wint w) (2 ^ 149)

/-- (b - o) / d for a box bound b and finite o and d, d not zero. -/
def slabAt (b o d : Word) : ER :=
  match wval b with
  | .inf n => if n != decide (wint d < 0) then .ninf else .pinf
  | _ => if 0 < wint d then .fin (wint b - wint o) (wint d) else .fin (wint o - wint b) (-(wint d))

/-- The closed slab interval of a box meets [lo, hi] (R348). -/
def boxMeets (od box : List Word) (lo hi : ER) : Bool :=
  let axis (r : Option (ER × ER)) (i : Nat) : Option (ER × ER) :=
    match r with
    | none => none
    | some (a, b) =>
      let o := od.getD i 0
      let d := od.getD (3 + i) 0
      let mn := box.getD i 0
      let mx := box.getD (3 + i) 0
      if wint d = 0 then (if (ER.ofWord mn).le (ER.ofWord o) && (ER.ofWord o).le (ER.ofWord mx) then some (a, b) else none)
      else
        let x := slabAt mn o d
        let y := slabAt mx o d
        some (a.max (x.min y), b.min (x.max y))
  match axis (axis (axis (some (.ninf, .pinf)) 0) 1) 2 with
  | none => false
  | some (a, b) => a.le b && (a.max lo).le (b.min hi)

/-- o and d mapped by the 3×4 matrix of an instance, each component exact and rounded once (R348). -/
def mapRay (m od : List Word) : List Word :=
  let o := v3At od 0
  let d := v3At od 3
  let row (i : Nat) : V3 := v3At m (4 * i)
  ([0, 1, 2].map fun i => roundDyadic ((row i).dot o + wint (m.getD (4 * i + 3) 0) * 2 ^ 149) 298)
    ++ [0, 1, 2].map fun i => roundDyadic ((row i).dot d) 298

/-! ## What a ray can reach -/

/-- A leaf of the traversal: 0 triangle, 1 box, 2 an instance at the depth limit, with o and d at its depth, and for an instance
the generation that it binds. -/
structure RLeaf where
  kind : Nat
  prim : Nat
  inst : Nat
  depth : Nat
  data : List Word
  od : List Word
  gen : Nat := 0

def noInst : Nat := 0xFFFF_FFFF

/-- The leaves below a generation, entering instances whose MASK meets the ray's, up to depth `cut` (R348). -/
def leavesOf (gens : KMap Gen) (mask cut : Nat) : (fuel depth inst : Nat) → (od : List Word) → (g : Nat) → List RLeaf
  | 0, _, _, _, _ => []
  | fuel + 1, depth, inst, od, g =>
    match KMap.find? gens g with
    | none => []
    | some x => List.flatMap (fun (p : Nat × List Word) =>
      if x.pkind ≠ 2 then [{ kind := x.pkind, prim := p.1, inst := inst, depth := depth, data := p.2, od := od }]
      else if (BitVec.ofNat 8 mask &&& (p.2.getD 15 0).setWidth 8) = 0 then []
      else
        let child := (KMap.find? x.bind p.1).getD 0
        if depth = cut then [{ kind := 2, prim := p.1, inst := inst, depth := depth, data := p.2, od := od, gen := child }]
        else
          let od' := mapRay p.2 od
          if od'.all wfinite then leavesOf gens mask cut fuel (depth + 1) (p.2.getD 14 0).toNat od' child else []) x.prims

def State.rayLeaves (s : State) (r : Ray) : List RLeaf := leavesOf s.gens r.mask 4 5 0 noInst (r.ray.take 3 ++ (r.ray.drop 4).take 3) r.gen

/-- A ray that ends at once as MISS (R348). -/
def rayInvalid (ray : List Word) : Bool :=
  let od := ray.take 3 ++ (ray.drop 4).take 3
  let tmin := ray.getD 3 0
  let tmax := ray.getD 7 0
  !od.all wfinite || FV.isNan (wval tmin) || FV.isNan (wval tmax) || decide (FV.cmp (wval tmin) (wval tmax) = 1)

/-! ## Commits (R349) -/

def hitKey (inst prim : Nat) : Nat := inst * 2 ^ 32 + prim

/-- A commit of h is accepted. -/
def Ray.accepts (r : Ray) (h : RayHit) : Bool :=
  match r.hit with
  | none => true
  | some k =>
    let c := FV.cmp (wval h.t) (wval k.t)
    decide (c = -1) || (decide (c = 0) && decide (hitKey h.inst h.prim < hitKey k.inst k.prim))

def Ray.commit (r : Ray) (h : RayHit) : Ray :=
  if r.accepts h then { r with hit := some h, tmax := h.t, stop := r.stop || r.flags % 2 = 1 } else r

/-- tmin ≤ t ≤ tmax. -/
def Ray.within (r : Ray) (t : Word) : Bool :=
  !FV.isNan (wval t) && decide (FV.cmp (wval (r.ray.getD 3 0)) (wval t) ≠ 1) && decide (FV.cmp (wval t) (wval r.tmax) ≠ 1)

def Ray.culls (r : Ray) (front : Bool) : Bool := natFld r.flags 1 1 = 1 && !front

/-- The hit of a triangle that counts. -/
def Ray.triCounts (r : Ray) (l : RLeaf) : Option RayHit :=
  match triHit l.od l.data with
  | none => none
  | some (t, u, v, front) =>
    if r.within t && !r.culls front then
      some { t := t, prim := l.prim, inst := l.inst, u := u, v := v, front := front, box := false, depth := l.depth }
    else none

/-- A box is a candidate. -/
def Ray.boxCounts (r : Ray) (l : RLeaf) : Bool :=
  natFld r.flags 2 1 = 0 && boxMeets l.od l.data (ER.ofWord (r.ray.getD 3 0)) (ER.ofWord r.tmax)

/-- Some primitive below an instance at the depth limit meets the ray's interval: the ray would enter it. -/
def Ray.meetsBelow (gens : KMap Gen) (r : Ray) (l : RLeaf) : Bool :=
  let od := mapRay l.data l.od
  od.all wfinite && (leavesOf gens r.mask 1000 (gens.length + 2) (l.depth + 1) (l.data.getD 14 0).toNat od l.gen).any fun x =>
    if x.kind = 0 then (r.triCounts x).isSome else r.boxCounts x

/-- The traversal over leaves in the order given: until a commit under TFIRST, a candidate, or no leaf is left. `enter i` is the
device's choice to enter instance leaf i where nothing below forces it. -/
def State.traverse (gens : KMap Gen) (leaves : List RLeaf) (enter : Nat → Bool) : List Nat → Ray → Ray
  | [], r => { r with st := .done, todo := [], cand := none }
  | i :: is, r =>
    match leaves[i]? with
    | none => State.traverse gens leaves enter is r
    | some l =>
      if l.kind = 0 then
        match r.triCounts l with
        | none => State.traverse gens leaves enter is r
        | some h =>
          let r1 := r.commit h
          if r1.stop then { r1 with st := .done, todo := [], cand := none } else State.traverse gens leaves enter is r1
      else if l.kind = 1 then
        if r.boxCounts l then
          { r with st := .suspended, todo := is, cand := some { prim := l.prim, inst := l.inst, depth := l.depth, od := l.od } }
        else State.traverse gens leaves enter is r
      else if r.meetsBelow gens l || enter i then { r with st := .done, code := 4, todo := [], cand := none }
      else State.traverse gens leaves enter is r

/-! ## Results and records (R351, R352) -/

def w32 (n : Nat) : Word := BitVec.ofNat 32 n

/-- The result group of a ray that has ended or suspended. -/
def Ray.result (r : Ray) : List Word :=
  let at' (f : RayHit → Word) (d : Word) : Word := (r.hit.map f).getD d
  match r.cand with
  | some c =>
    [w32 (2 + c.depth * 16 + 256), r.tmax, w32 c.prim, w32 c.inst, at' (·.u) 0, at' (·.v) 0, w32 r.num, w32 r.visits]
  | none =>
    let code := if r.code ≠ 0 then r.code else if r.hit.isSome then 1 else 0
    let bits := (r.hit.map fun h => h.depth * 16 + (if h.front then 128 else 0) + (if h.box then 256 else 0)).getD 0
    [w32 (code + bits), at' (·.t) r.tmax, at' (fun h => w32 h.prim) (w32 noInst), at' (fun h => w32 h.inst) (w32 noInst),
     at' (·.u) 0, at' (·.v) 0, w32 r.num, w32 r.visits]

/-- The traversal-state record. -/
def Ray.record (r : Ray) : List Word :=
  let od := (r.cand.map (·.od)).getD (r.ray.take 3 ++ (r.ray.drop 4).take 3)
  let st := if r.st = .suspended then 1 else if r.st = .parked then 3 else 0
  od.take 3 ++ [r.ray.getD 3 0] ++ od.drop 3 ++
    [r.tmax, w32 ((r.cand.map (·.prim)).getD noInst), w32 ((r.cand.map (·.inst)).getD noInst),
     w32 ((r.hit.map (·.prim)).getD noInst), w32 ((r.hit.map (·.inst)).getD noInst), w32 r.num,
     w32 (st + ((r.cand.map (·.depth)).getD 0) * 16 + (if (r.hit.map (·.front)).getD false then 128 else 0) + (r.flags % 8) * 256
        + r.mask * 2 ^ 12),
     (r.hit.map (·.u)).getD 0, (r.hit.map (·.v)).getD 0]

/-! ## Generations and pins (R338, R340) -/

/-- The counters of a generation record, at the erg. -/
def State.genSync (s : State) (g : Gen) : State :=
  let s1 := s.devWrite (g.grecPa + 8) (bytesOf 4 g.pins)
  let s2 := s1.devWrite (g.grecPa + 32) (bytesOf 8 g.spills ++ bytesOf 4 g.exhaust ++ bytesOf 4 g.idepth)
  s2.devWrite (g.grecPa + 4) [BitVec.ofNat 8 (g.st + g.pkind * 4)]

def State.updGen (s : State) (id : Nat) (f : Gen → Gen) : State :=
  match KMap.find? s.gens id with
  | none => s
  | some g => ({ s with gens := KMap.put s.gens id (f g) }).genSync (f g)

def State.pin (s : State) (id : Nat) : State := s.updGen id fun g => { g with pins := g.pins + 1 }
def State.unpin (s : State) (id : Nat) : State :=
  s.updGen id fun g => { g with pins := g.pins - 1, since := if g.pins = 1 then s.clk else g.since }

/-- The live generation `num` of a scene. -/
def State.genOf (s : State) (ctx scene num : Nat) : Option (Nat × Gen) :=
  List.find? (fun (p : Nat × Gen) => p.2.ctx = ctx && p.2.scene = scene && p.2.num = num) s.gens

/-- A ray is live until its operation is counted off with another result than SUSPEND (R347). -/
def Agent.rayLive (ag : Agent) (r : Ray) : Bool := r.st ≠ .done || (ag.findOp r.op).isSome

/-- Releases the rays of an agent that are no longer live. -/
def State.reapAgent (s : State) (a : Nat) : State :=
  match s.agent? a with
  | none => s
  | some ag =>
    let gone := List.filter (fun (p : Nat × Ray) => !ag.rayLive p.2) ag.rays
    if gone.isEmpty then s
    else gone.foldl (fun s p => s.unpin p.2.gen)
      (s.updAgent a fun g => { g with rays := g.rays.filter (fun (p : Nat × Ray) => ag.rayLive p.2) })

def State.reap (s : State) : State := (KMap.keys s.agents).foldl (fun s a => s.reapAgent a) s

/-- Rays of a core that occupy slots: those of its agents that are not saved. -/
def State.coreRays (s : State) (core : Nat) : List Ray :=
  List.flatMap (fun (p : Nat × Agent) =>
    if p.2.core = core && !((s.team? p.2.team).map (·.saved)).getD false then
      (KMap.vals p.2.rays).filter fun r => p.2.rayLive r
    else []) s.agents

/-- Free slots of the core of an agent. -/
def State.raySlots (s : State) (core : Nat) : Nat := 2048 - (s.coreRays core).length

/-- The records that a traversal may read: an upper bound on nodes and leaves. -/
def recBound (gens : KMap Gen) : (fuel g : Nat) → Nat
  | 0, _ => 0
  | fuel + 1, g =>
    match KMap.find? gens g with
    | none => 0
    | some x => 2 * x.nprim + 1 + ((KMap.vals x.bind).map fun c => recBound gens fuel c).foldl (· + ·) 0

/-- Pages of a generation and of those that it binds: context address of each. -/
def genPages (gens : KMap Gen) : (fuel g : Nat) → List Nat
  | 0, _ => []
  | fuel + 1, g =>
    match KMap.find? gens g with
    | none => []
    | some x => (x.pages.map fun p => x.arena + 4096 * p) ++ ((KMap.vals x.bind).flatMap fun c => genPages gens fuel c)

/-- A free draw below n (log entry 2). -/
def State.draw (s : State) (n : Nat) : State × Nat := ({ s with free := s.free + 1 }, (Config.freeDword s.free).toNat % max n 1)

/-- A ray starts or goes on: the records it will read, the pages they lie in, its stack's use and its time are drawn. -/
def State.rayGo (s : State) (r : Ray) : State × Ray :=
  let b := recBound s.gens 5 r.gen
  let v := s.draw b
  let m := v.1.draw (v.2 + 2)
  let p := m.1.draw (if b ≤ 32 then 1 else b)
  let ps := genPages s.gens 5 r.gen
  let off := p.1.draw 32
  -- the root's page always, others as the device chooses
  let some' := (ps.zipIdx.filter fun q => q.2 = 0 || Config.freeBit (off.1.free + q.2)).map fun q => q.1 + 128 * off.2
  let lat := ((KMap.find? s.gens r.gen).map fun g => lineLat s 0 g.grecPa 0).getD 0
  ({ off.1 with free := off.1.free + ps.length },
   { r with st := .running, visits := (r.visits + v.2 + 1) % 2 ^ 32, pushes := p.2, reads := some',
            due := s.clk + 6 * (v.2 + 1) + lat * m.2 })

/-! ## RTRACE, RRESUME, RSTATE, RCOMMIT -/

/-- A register group of F-SYS's IMM19. -/
def vgroup (base n : Nat) : List Nat := (List.range n).map fun k => base + k

def cursedHandle (h : BitVec 512) : Bool :=
  fldN h 48 15 ≠ 0 || fldN h 97 31 ≠ 0 || fldN h 176 16 ≠ 0 || fldN h 224 32 ≠ 0 || fldN h 304 208 ≠ 0
    || fldN h 0 12 ≠ 0 || fldN h 128 12 ≠ 0 || fldN h 64 32 = 0

def hdCur (h : BitVec 512) : Nat := fldN h 192 32

/-- What an instruction that reads a scene handle first meets (R354): its fault or its hold, or the handle, read now. `lat` more
clk pass after the read. -/
def State.sceneRead (s : State) (c : Iss) (a lat : Nat) : Except State (State × BitVec 512) :=
  if 2 ^ 48 < a + 64 then .error (s.raise c.a c.fid (illegalAddr a))
  else if a % 64 ≠ 0 then .error (s.raise c.a c.fid (misalign a))
  else match s.recParts c.ag a 64 false (c.fr.phase = 2) with
    | .error r => .error (s.recStop c r)
    | .ok ps =>
      let hit := (s.core c.ag.core).scn.contains (c.ag.ctx, a)
      let wait := (if hit then 0 else s.partsLat c.ag.core 0 ps) + lat
      if c.fr.phase ≠ 3 ∧ 0 < wait then
        .error ((s.hold c (.clk (s.clk + wait)) 3).updFrag c.a c.fid fun fr => { fr with iss := s.clk })
      else
        let r := s.partsRead ps
        let k := r.1.core c.ag.core
        let s1 := r.1.setCore c.ag.core { k with scn := ((c.ag.ctx, a) :: k.scn.filter (· ≠ (c.ag.ctx, a))).take 8 }
        .ok (s1, BitVec.ofNat 512 r.2)

/-- The instruction completes after the hold that its handle's read made, if any. -/
def State.sceneDone (s : State) (c : Iss) (stl : Nat) : State :=
  if 3 ≤ c.fr.phase then s.finishHold c stl 1 else s.updFrag c.a c.fid fun fr => fr.adv (s.clk + 1 + stl)

/-- An RTRACE or RRESUME joins counter E; `res` are the results known at issue. -/
def State.startTrace (s : State) (c : Iss) (vd : Nat) (act : Dword) (todo : Dword) (res : List (Nat × List Word)) : State :=
  ({ s with ids := s.ids + 1 }).startOp c.a
    { id := s.ids, fid := c.fid, ctr := some .e, issue := s.clk, due := s.clk + 12, kind := .trace vd res, todo := todo,
      dsts := vregsOn (vgroup vd 8) act, pc := c.fr.pc }

/-- The lowest slots of a core that are free. -/
def State.freeRaySlots (s : State) (core n : Nat) : List Nat :=
  let used := (s.coreRays core).map (·.slot)
  ((List.range 2048).filter fun i => !used.contains i).take n

/-- Starts the rays of the active lanes in generation id `g`. -/
def State.startRays (s : State) (c : Iss) (act : Dword) (op vr mask flags g num : Nat) : State :=
  ((lanesOf act).zip (s.freeRaySlots c.ag.core (popc act))).foldl (init := s) fun s l =>
    let ray := (vgroup vr 8).map fun r => c.ag.vr r l.1
    let r0 : Ray := { st := .done, op := op, slot := l.2, ray := ray, mask := mask, flags := flags, gen := g, num := num,
                      tmax := ray.getD 7 0, todo := [] }
    let put (s : State) (r : Ray) : State := (s.updAgent c.a fun ag => { ag with rays := KMap.put ag.rays l.1 r }).pin g
    if rayInvalid ray then
      (put s r0).updAgent c.a fun ag => ag.updOp op fun o =>
        { o with todo := o.todo &&& ~~~(laneBit l.1), kind := match o.kind with
          | .trace vd res => .trace vd (res ++ [(l.1, r0.result)])
          | k => k }
    else
      let q := s.rayGo { r0 with todo := List.range (s.rayLeaves r0).length }
      put q.1 q.2

/-- RTRACE (R353, R354). -/
def execRtrace (f : FSYS) (s : State) : Out :=
  let vd := fldN f.imm 0 7 * 8
  let vr := fldN f.imm 7 7 * 8
  let use := f.sub.getLsbD 3
  let lg := { legalSys f { sa := true, sb := use, res := true, imm := 0x3FFF, subs := List.range 16 } with
              vregs := vgroup vd 8 ++ vgroup vr 8 }
  match s.issuer with
  | none => .fault .noIssuer
  | some c =>
    if (lg.fate c).isNone ∧ c.ag.ctrVal .e = 63 then .next (s.hold c (.ctr .e 62) c.fr.phase)
    else
      issueWith s.reap lg
        (fun c => { reads := sregs (f.sa.toNat :: (if use then [f.sb.toNat] else [])) ++ vregsOn (vgroup vr 8) (c.active f.all)
                    writes := vregsOn (vgroup vd 8) (c.active f.all) }) .lanes 0 false fun s c p =>
        let a := (c.ag.sr f.sa.toNat).toNat
        let act := c.active f.all
        let stl := f.stl.toNat
        let start (s : State) (g : Nat) : State :=
          let done (s : State) : State :=
            if 3 ≤ c.fr.phase then s.finishHold c stl 1 else s.updFrag c.a c.fid fun fr => fr.adv (s.clk + extraPass p + 1 + stl)
          let miss (l : Nat) : List Word := [0, c.ag.vr (vr + 7) l, w32 noInst, w32 noInst, 0, 0, 0, 0]
          if g = 0 then done (s.startTrace c vd act 0 ((lanesOf act).map fun l => (l, miss l)))
          else match s.genOf c.ag.ctx a g with
            | none =>
              -- R9: CURGEN names no live generation; any result group
              let res := (lanesOf act).map fun l => (l, (List.range 8).map fun k => (Config.freeDword (s.free + 8 * l + k)).setWidth 32)
              done ({ s with free := s.free + 512 }.startTrace c vd act 0 res)
            | some (id, _) => done ((s.startTrace c vd act act []).startRays c act s.ids vr f.res.toNat (fldN f.sub 0 3) id g)
        if c.ag.pure then .next (s.raise c.a c.fid purity)
        else if c.fr.phase = 5 then
          if s.raySlots c.ag.core < popc act then .next (s.hold c (.room 4 (popc act)) 5) else .next (start s c.fr.hop)
        else match s.sceneRead c a 0 with
          | .error s1 => .next s1
          | .ok (s1, h) =>
            let bad := maskOf ((lanesOf act).filter fun l => (KMap.find? c.ag.rays l).isSome)
            let gu := fldN (c.ag.sr f.sb.toNat) 0 32
            if cursedHandle h then .next (s1.raise c.a c.fid (illegalOp 5))
            else if bad ≠ 0 then .next (s1.raise c.a c.fid { illegalOp 8 with lm := bad })
            else if use ∧ !(c.ag.pins.any fun q => q.1 = a && (s.gens.any fun x => x.1 = q.2 && x.2.num = gu)) then
              .next (s1.raise c.a c.fid (illegalOp 8))
            else
              let g := if use then gu else hdCur h
              let s2 := if use then s1 else s1.l1Inval c.ag.core
              if g ≠ 0 ∧ s2.raySlots c.ag.core < popc act then
                .next ((s2.hold c (.room 4 (popc act)) 5).updFrag c.a c.fid fun fr => { fr with hop := g })
              else .next (start s2 g)

/-- The result of a ray that has ended or suspended joins its operation. -/
def State.rayResult (s : State) (a l : Nat) (r : Ray) (due : Nat) : State :=
  s.updAgent a fun ag => ({ ag with rays := KMap.put ag.rays l r }).updOp r.op fun o =>
    { o with todo := o.todo &&& ~~~(laneBit l), due := max o.due (due + 12), kind := match o.kind with
      | .trace vd res => .trace vd (res ++ [(l, r.result)])
      | k => k }

/-- RRESUME and RRESUME.END (R355). -/
def rresume (f : FSYS) (fin : Bool) (s : State) : Out :=
  let vd := fldN f.imm 0 7 * 8
  let vt := fldN f.imm 7 10
  let short := f.imm.getLsbD 17
  let lg := { legalSys f { imm := if short then 0x3FFFF else 0x2007F, subs := [if fin then 1 else 0] } with
              rsv := (legalSys f { imm := if short then 0x3FFFF else 0x2007F }).rsv || 2 ≤ f.sub.toNat
              vregs := vgroup vd 8 ++ (if short then [vt] else []) }
  match s.issuer with
  | none => .fault .noIssuer
  | some c =>
    if (lg.fate c).isNone ∧ c.ag.ctrVal .e = 63 then .next (s.hold c (.ctr .e 62) c.fr.phase)
    else
      issueWith s.reap lg
        (fun c => { reads := if short then vregsOn [vt] (c.active f.all) else [], writes := vregsOn (vgroup vd 8) (c.active f.all) })
        .lanes 0 false fun s c p =>
        let act := c.active f.all
        let susp (l : Nat) : Bool := ((KMap.find? c.ag.rays l).map fun r => decide (r.st = .suspended)).getD false
        let noray := (lanesOf act).filter fun l => !susp l
        let mine := (lanesOf act).filter susp
        let op := s.ids
        let s1 := s.startTrace c vd act (maskOf mine) (noray.map fun l => (l, [15, 0, 0, 0, 0, 0, 0, 0]))
        let one (s : State) (l : Nat) : State :=
          match KMap.find? c.ag.rays l with
          | none => s
          | some r =>
            let x := c.ag.vr vt l
            let tm := if short ∧ !FV.isNan (wval x) ∧ FV.cmp (wval x) (wval r.tmax) = -1 then x else r.tmax
            let r1 := { r with op := op, tmax := tm, cand := none }
            if fin ∨ r1.stop ∨ FV.cmp (wval tm) (wval (r.ray.getD 3 0)) = -1 then
              s.rayResult c.a l { r1 with st := .done, todo := [] } s.clk
            else
              let q := s.rayGo r1
              q.1.updAgent c.a fun ag => { ag with rays := KMap.put ag.rays l q.2 }
        if c.ag.pure then .next (s.raise c.a c.fid purity)
        else .next ((mine.foldl one s1).updFrag c.a c.fid fun fr => fr.adv (s.clk + extraPass p + 1 + f.stl.toNat))

def execRresume (f : FSYS) (s : State) : Out := rresume f false s
def execRresumeEnd (f : FSYS) (s : State) : Out := rresume f true s

/-- RSTATE (R356): its records are read when no earlier ray of the group runs. -/
def execRstate (f : FSYS) (s : State) : Out :=
  let vd := fldN f.imm 0 6 * 16
  let lg := { legalSys f { imm := 0x3F } with vregs := vgroup vd 16 }
  match s.issuer with
  | none => .fault .noIssuer
  | some c =>
    if (lg.fate c).isNone ∧ c.ag.ctrVal .e = 63 then .next (s.hold c (.ctr .e 62) c.fr.phase)
    else
      issueWith s.reap lg (fun c => { writes := vregsOn (vgroup vd 16) (c.active f.all) }) .lanes 0 false fun s c p =>
        let act := c.active f.all
        let s1 := ({ s with ids := s.ids + 1 }).startOp c.a
          { id := s.ids, fid := c.fid, ctr := some .e, issue := s.clk, due := s.clk, kind := .rstate vd act none,
            dsts := vregsOn (vgroup vd 16) act, pc := c.fr.pc }
        .next (s1.updFrag c.a c.fid fun fr => fr.adv (s.clk + extraPass p + 1 + f.stl.toNat))

/-- RCOMMIT (R356): acts on the suspended rays of the active lanes at its issue. -/
def execRcommit (f : FSYS) (s : State) : Out :=
  let vt := fldN f.imm 0 9 * 2
  issueWith s { legalSys f { sd := true, imm := 0x1FF } with vregs := [vt, vt + 1] }
    (fun c => { reads := vregsOn [vt, vt + 1] (c.active f.all), writes := [sreg f.sd.toNat] }) .lanes 4 true fun s c p =>
      let tries : List (Nat × Ray) := (lanesOf (c.active f.all)).filterMap fun l =>
        match KMap.find? c.ag.rays l with
        | none => none
        | some r =>
          match r.cand with
          | none => none
          | some k =>
            let h : RayHit := { t := c.ag.vr vt l, prim := k.prim, inst := k.inst, u := c.ag.vr (vt + 1) l, v := 0, front := false,
                                box := true, depth := k.depth }
            if r.st = .suspended ∧ r.within h.t ∧ r.accepts h then some (l, r.commit h) else none
      let m := maskOf (tries.map fun (q : Nat × Ray) => q.1)
      .next (s.updAgent c.a fun ag =>
        ({ ag with rays := tries.foldl (fun rs (q : Nat × Ray) => KMap.put rs q.1 q.2) ag.rays }).commit c.fid c.fr p s.clk f.stl.toNat 4
          { writes := [(.s f.sd.toNat, [(0, m)])] })

/-! ## Events of rays -/

/-- The ray of a lane, with its agent. -/
def State.rayAt (s : State) (a l : Nat) : Option (Agent × Ray) :=
  (s.agent? a).bind fun ag => (KMap.find? ag.rays l).map fun r => (ag, r)

/-- The first record read of a ray that the tables do not translate. -/
def State.rayBlocked (s : State) (ag : Agent) (r : Ray) : Option Flt :=
  r.reads.findSome? fun va => match s.ctxPhys ag.ctx va false with
    | .ok _ => none
    | .error f => some f

/-- `order` followed by what it leaves out of `todo`. -/
def visitOrder (order todo : List Nat) : List Nat :=
  let o := (order.filter fun i => todo.contains i).eraseDups
  o ++ todo.filter fun i => !o.contains i

/-- RAY_END: a running ray ends or suspends, having visited its leaves in the order given (R348, R349). -/
def execRayEnd (a lane : Nat) (order : List Nat) (s : State) : Out :=
  match s.rayAt a lane with
  | none => .next s
  | some (ag, r) =>
    if r.st ≠ .running ∨ s.clk < r.due ∨ r.pushes ≠ 0 ∨ (s.rayBlocked ag r).isSome then .next s
    else
      let ls := s.rayLeaves r
      let r1 := State.traverse s.gens ls (fun i => Config.freeBit (s.free + i)) (visitOrder order r.todo) r
      let tested := r.todo.length - r1.todo.length
      let m := ({ s with free := s.free + ls.length }).draw (4 * tested + 1)
      let s1 := if r1.code = 4 then m.1.updGen r.gen fun g => { g with idepth := g.idepth + 1 } else m.1
      .next (s1.rayResult a lane r1 (s.clk + m.2))

/-- A ray parks at its step, and the group will stop where the operation must be counted off (R357). -/
def State.rayParked (s : State) (a l : Nat) (r : Ray) (flt : Flt) : State :=
  s.updAgent a fun ag => (({ ag with rays := KMap.put ag.rays l { r with st := .parked } }).updOp r.op fun o =>
    { o with rej := some (match o.rej with
        | some g => { g with lm := g.lm ||| laneBit l }
        | none => { flt with detail := flt.detail % 2 ^ 16 ||| 2 ^ 8, lm := laneBit l, pc := some o.pc }) }).wakeWaits

/-- RAY_PARK: a running ray parks at a read that does not translate. -/
def execRayPark (a lane : Nat) (s : State) : Out :=
  match s.rayAt a lane with
  | none => .next s
  | some (ag, r) =>
    match s.rayBlocked ag r with
    | none => .next s
    | some flt => if r.st ≠ .running then .next s else .next (s.rayParked a lane r flt)

/-- RAY_STACK_SPILL (R350): the oldest of 32 entries goes to the spill slot, or the stack is exhausted. -/
def execRayStackSpill (a lane : Nat) (s : State) : Out :=
  match s.rayAt a lane with
  | none => .next s
  | some (ag, r) =>
    match KMap.find? s.gens r.gen with
    | none => .next s
    | some g =>
      if r.st ≠ .running ∨ r.pushes = 0 then .next s
      else
        let full := decide (g.spill = 0) || (decide (r.spilled = 64) && Config.freeBit s.free)
        let s1 := { s with free := s.free + 1 }
        if full then
          .next ((s1.updGen r.gen fun g => { g with exhaust := g.exhaust + 1 }).rayResult a lane
            { r with st := .done, code := 3, todo := [], cand := none, pushes := 0 } s.clk)
        else
          let at' := min r.spilled 63
          let va := g.spill + 512 * (2048 * ag.core + r.slot) + 8 * at'
          match s1.ctxWrite ag.ctx va (bytesOf 8 (Config.freeDword s1.free).toNat) with
          | .error flt => .next (s.rayParked a lane r flt)
          | .ok s2 =>
            let r1 := { r with spilled := at' + 1, pushes := r.pushes - 1, due := r.due + 24 }
            let s3 := ({ s2 with free := s2.free + 1 }).updGen r.gen fun g => { g with spills := g.spills + 1 }
            .next (s3.updAgent a fun ag => { ag with rays := KMap.put ag.rays lane r1 })

/-- TRAVERSAL_RETURN: every ray of the operation has ended or suspended; the result groups are written (R354). -/
def execTraversalReturn (op : Nat) (s : State) : Out :=
  match s.opOwner op with
  | none => .next s
  | some (a, _, o) =>
    match o.kind with
    | .trace vd res =>
      if o.returned ∨ o.todo ≠ 0 ∨ s.clk < o.due then .next s
      else
        let vals := res.flatMap fun x => x.2.zipIdx.map fun w => (Reg.v (vd + w.2), x.1, w.1.setWidth 64)
        .next (((s.landVals a o vals).returnOp a op).reapAgent a)
    | _ => .next s

end Sys2Proof.Machine
end

