-- ==== Sys2Proof/Machine/Builder.lean ====
section
/-!
DEFINITION. Scenes, generations and the builder (R334 to R346, R359, R360): GENPIN, GENREL, BLDCMD, BLDQ and the builder's
events. What stays with the builder (the pages it takes, its node and leaf records, NODES, MAXDEPTH and, where R339 does not fix
them, SAH and OVERLAP) is drawn free (log entry 2).
-/
namespace Sys2Proof.Machine

/-! ## Records (R334, R336, R342) -/

def hdArena (h : BitVec 512) : Nat := fldN h 0 48
def hdDie (h : BitVec 512) : Nat := fldN h 63 1
def hdPages (h : BitVec 512) : Nat := fldN h 64 32
def hdFail (h : BitVec 512) : Bool := fldN h 96 1 = 1
def hdSpill (h : BitVec 512) : Nat := fldN h 128 48

def bcOp (b : BitVec 512) : Nat := fldN b 0 4
def bcKind (b : BitVec 512) : Nat := fldN b 4 2
def bcScene (b : BitVec 512) : Nat := fldN b 64 48
def bcPrims (b : BitVec 512) : Nat := fldN b 128 48
def bcN (b : BitVec 512) : Nat := fldN b 192 32
def bcComp (b : BitVec 512) : Nat := fldN b 256 48

/-- Bytes of a primitive's record (R336). -/
def primBytes (pkind : Nat) : Nat := if pkind = 0 then 36 else if pkind = 1 then 24 else 64

/-- NEED of R335, in pages. -/
def needPages (pkind n : Nat) : Nat := (64 + 128 * (2 * n + 1) + primBytes pkind * n + 4095) / 4096

/-- R337. -/
def degenerate (pkind : Nat) (ws : List Word) : Bool :=
  match pkind with
  | 0 => !(ws.take 9).all wfinite ||
      ((v3At ws 3).sub (v3At ws 0)).cross ((v3At ws 6).sub (v3At ws 0)) = ((0, 0, 0) : V3)
  | 1 => ws.any (fun w => FV.isNan (wval w)) ||
      [0, 1, 2].any fun i => decide (FV.cmp (wval (ws.getD i 0)) (wval (ws.getD (3 + i) 0)) = 1)
  | _ => !(ws.take 12).all wfinite

/-- Address of an instance's child handle. -/
def instChild (ws : List Word) : Nat := (ws.getD 12 0).toNat + 2 ^ 32 * (ws.getD 13 0).toNat

/-- The checks of R344 that need the command record alone. -/
def cmdBad (b : BitVec 512) : Bool :=
  let reb := bcOp b = 3
  fldN b 6 58 ≠ 0 || fldN b 112 16 ≠ 0 || fldN b 176 16 ≠ 0 || fldN b 224 32 ≠ 0 || fldN b 304 208 ≠ 0
    || bcOp b = 0 || decide (3 < bcOp b) || bcKind b = 3
    || (if reb then bcN b ≠ 0 || bcPrims b ≠ 0 else bcN b = 0 || decide (2 ^ 24 < bcN b))
    || bcScene b % 64 ≠ 0 || bcPrims b % (if bcKind b = 2 then 64 else 4) ≠ 0 || bcComp b % 32 ≠ 0
    || decide (2 ^ 48 < bcScene b + 64) || decide (2 ^ 48 < bcComp b + 32) || decide (2 ^ 48 < bcPrims b + primBytes (bcKind b) * bcN b)

/-! ## State of scenes -/

def State.builder (s : State) (die : Nat) : Builder := (KMap.find? s.builders die).getD {}
def State.setBuilder (s : State) (die : Nat) (b : Builder) : State :=
  { s with builders := if b = {} then KMap.del s.builders die else KMap.put s.builders die b }

/-- Live generations of a scene. -/
def State.sceneGens (s : State) (ctx scene : Nat) : List (Nat × Gen) :=
  s.gens.filter fun p => p.2.ctx = ctx && p.2.scene = scene

def State.curGen (s : State) (ctx scene : Nat) : Option (Nat × Gen) :=
  (s.sceneGens ctx scene).find? fun p => p.2.st = 1

/-- Eligible for reclamation (R340). -/
def Gen.idle (g : Gen) : Bool := g.st = 2 && g.pins = 0

/-- A scene handle as the builder reads it: fault, or invalid, or the handle. -/
def State.handleAt (s : State) (ctx a : Nat) : Except Flt (State × Option (BitVec 512)) :=
  if a % 64 ≠ 0 ∨ 2 ^ 48 < a + 64 then .ok (s, none)
  else match s.ctxRead ctx a 64 with
    | .error f => .error f
    | .ok (s1, x) => .ok (s1, if cursedHandle (BitVec.ofNat 512 x) then none else some (BitVec.ofNat 512 x))

/-! ## The command's checks (R344) -/

/-- What the checks answer: a fault of a read; a code and REASON with the index of a degenerate primitive; or the generation to
make, and the lines read. -/
inductive BuildPlan where
  | fault (f : Flt)
  | fail (code reason prim : Nat)
  | make (g : Gen) (pool : List Nat) (need : Nat)

/-- n records of a primitive list from its bytes. -/
def splitPrims (bytes n x : Nat) : List (Nat × List Word) :=
  (List.range n).map fun i => (i, (List.range (bytes / 4)).map fun k => BitVec.ofNat 32 (natFld x (8 * (bytes * i + 4 * k)) 32))

/-- Binds the instances to the current generations of their children; none where a handle is invalid or has none. -/
def State.bindAll (s : State) (ctx : Nat) : List (Nat × List Word) → Except Flt (State × Option (KMap Nat))
  | [] => .ok (s, some [])
  | p :: ps =>
    match s.handleAt ctx (instChild p.2) with
    | .error f => .error f
    | .ok (s1, none) => .ok (s1, none)
    | .ok (s1, some _) =>
      match s.curGen ctx (instChild p.2) with
      | none => .ok (s1, none)
      | some g =>
        match s1.bindAll ctx ps with
        | .error f => .error f
        | .ok (s2, none) => .ok (s2, none)
        | .ok (s2, some m) => .ok (s2, some (KMap.put m p.1 g.1))

/-- The generation that passes the checks; `prs` the primitives of the list, degenerate ones among them. -/
def State.planGen (s : State) (die : Nat) (c : BuildCmd) (h : BitVec 512) (pkind nprim degen0 : Nat) (prs : List (Nat × List Word)) :
    State × BuildPlan :=
  let scene := bcScene c.bits
  match (if pkind = 2 then s.bindAll c.ctx prs else .ok (s, some [])) with
  | .error f => (s, .fault f)
  | .ok (s1, none) => (s1, .fail 4 4 0)
  | .ok (s1, some bind) =>
    let used := (s.sceneGens c.ctx scene).flatMap fun p => p.2.pages
    let pool := if 4 * (used.length + needPages pkind nprim) < hdPages h then
        (List.range (4 * (used.length + needPages pkind nprim))).filter fun p => !used.contains p
      else (List.range (hdPages h)).filter fun p => !used.contains p
    let bad := prs.filter fun p => degenerate pkind p.2
    if hdPages h - used.length < needPages pkind nprim then (s1, .fail 2 0 0)
    else match (if hdFail h then bad.head? else none) with
      | some p => (s1, .fail 3 0 p.1)
      | none =>
        let kept := prs.filter fun p => !degenerate pkind p.2
        let num := (((s.curGen c.ctx scene).map fun g => g.2.num).getD 0) + 1
        (s1, .make { ctx := c.ctx, scene := scene, die := die, num := num, pkind := pkind, st := 0, prims := kept,
                     bind := bind.filter (fun (b : Nat × Nat) => kept.any fun (q : Nat × List Word) => q.1 = b.1),
                     nprim := nprim, degen := degen0 + bad.length, arena := hdArena h, pages := [], grec := 0, spill := hdSpill h }
          pool (needPages pkind nprim))

/-- R344, in order. -/
def State.planBuild (s : State) (die : Nat) (c : BuildCmd) : State × BuildPlan :=
  let b := c.bits
  if cmdBad b then (s, .fail 4 1 0)
  else match s.handleAt c.ctx (bcScene b) with
    | .error f => (s, .fault f)
    | .ok (s1, none) => (s1, .fail 4 2 0)
    | .ok (s1, some h) =>
      let cur := s.curGen c.ctx (bcScene b)
      let lacks := match cur with
        | none => decide (bcOp b ≠ 1)
        | some g => bcOp b = 2 && (g.2.pkind ≠ bcKind b || g.2.nprim ≠ bcN b)
      if lacks then (s1, .fail 4 3 0)
      else match bcOp b, cur with
        | 3, some g => s1.planGen die c h g.2.pkind g.2.nprim g.2.degen g.2.prims
        | _, _ =>
          match s1.ctxRead c.ctx (bcPrims b) (primBytes (bcKind b) * bcN b) with
          | .error f => (s1, .fault f)
          | .ok (s2, x) => s2.planGen die c h (bcKind b) (bcN b) 0 (splitPrims (primBytes (bcKind b)) (bcN b) x)

/-- Clk that a command takes (R345); every line is taken as an erg hit (log entry 6). -/
def buildTime (op n : Nat) : Nat := if op = 1 then 4096 + 96 * n else if op = 2 then 1024 + 24 * n else 2048 + 80 * n

/-! ## Events of the builder -/

def builderHolder (die : Nat) : Nat := 512 + die

/-- The builder may start a command: it holds leave and was not idle for 256 clk, or its grant is complete (R345, R487). -/
def State.builderLeave (s : State) (die : Nat) : Bool :=
  let l := s.leave (builderHolder die)
  match l.start with
  | some t => decide (t ≤ s.clk)
  | none => l.held && decide (s.clk < l.idle + 256)

/-- A build ends its checks or its work: what comes next. -/
def State.setRun (s : State) (die : Nat) (r : Build) : State := s.setBuilder die { s.builder die with run := some r }

/-- The build's checks: the command fails, waits for its time, or the builder meets a fault. A command that would make a ninth
live generation stays in the queue (R341). -/
def State.checkBuild (s : State) (die : Nat) (r : Build) : State :=
  match s.planBuild die r.cmd with
  | (_, .fault f) => s.setRun die { r with fault := some f, opk := 8 }
  | (s1, .fail code reason prim) => s1.setRun die { r with stage := 2, code := code, reason := reason, prim := prim, due := s.clk }
  | (s1, .make g pool need) =>
    -- the pages and the place of the record in the first are the builder's
    let k := s1.draw need
    let o := k.1.draw pool.length
    let z := o.1.draw 64
    let pages := ((pool.drop o.2) ++ (pool.take o.2)).take (k.2 + 1)
    let g1 := { g with pages := pages, grec := g.arena + 4096 * (pages.headD 0) + 64 * z.2 }
    z.1.setRun die { r with stage := 1, gen := some g1, due := s.clk + buildTime (bcOp r.cmd.bits) g.nprim }

/-- The command at the head of a queue would make a ninth live generation of its scene (R341). -/
def State.ninth (s : State) (die : Nat) (c : BuildCmd) : Bool :=
  decide (8 ≤ (s.sceneGens c.ctx (bcScene c.bits)).length) && (match s.planBuild die c with
    | (_, .fail ..) => false
    | _ => true)

/-- BUILD_COMMAND_START: the checks of the oldest command, or of one whose read is made again (R344, R345). -/
def execBuildCommandStart (die : Nat) (s : State) : Out :=
  let b := s.builder die
  match b.run with
  | some r => if r.stage ≠ 0 ∨ r.parked ∨ r.fault.isSome then .next s else .next (s.checkBuild die r)
  | none =>
    match b.queue with
    | [] => .next s
    | c :: cs =>
      if !s.builderLeave die ∨ s.gens.any (fun p => p.2.die = die && p.2.idle) ∨ s.ninth die c then .next s
      else
        let h := builderHolder die
        let s1 := s.setLeave h { s.leave h with start := none }
        .next ((s1.setBuilder die { queue := cs, run := some { cmd := c } }).checkBuild die { cmd := c })

/-- Exact figures of R339 where they do not depend on the builder's structure: the canonical NaN, +0; else free. -/
def genFigures (g : Gen) : Option Nat :=
  let wsx := (KMap.vals g.prims).flatMap fun ws => ws.take (if g.pkind = 0 then 9 else 6)
  let flat (i : Nat) : Bool :=
    match (KMap.vals g.prims).flatMap fun ws => (List.range (if g.pkind = 0 then 3 else 2)).map fun k => wint (ws.getD (3 * k + i) 0) with
    | [] => true
    | x :: xs => xs.all fun y => y = x
  if g.pkind = 2 ∨ g.prims.isEmpty then none
  else if wsx.any (fun w => !wfinite w) then some 0x7FC0_0000
  else if (flat 0 && flat 1) || (flat 0 && flat 2) || (flat 1 && flat 2) then some 0
  else none

/-- Free bytes over a page: the builder's own records (R335). -/
def freeBytes (from' n : Nat) : List Byte := (List.range (n / 8)).flatMap fun i => bytesOf 8 (Config.freeDword (from' + i)).toNat

/-- Writes the pages of a generation: the record (R338) and the builder's own contents around it. -/
def State.writeGen (s : State) (g : Gen) : Except Flt State :=
  let n := s.draw (2 * g.nprim + 1)
  let d := n.1.draw (n.2 + 1)
  let sah := Config.freeDword d.1.free
  let ovl := Config.freeDword (d.1.free + 1)
  let f (x : Dword) : Nat := (genFigures g).getD (fldN x 0 32)
  let s1 := { d.1 with free := d.1.free + 2 }
  let s2 := g.pages.foldl (init := (.ok s1 : Except Flt State)) fun acc p =>
    match acc with
    | .error e => .error e
    | .ok s => ({ s with free := s.free + 512 }).ctxWrite g.ctx (g.arena + 4096 * p) (freeBytes s.free 4096)
  match s2 with
  | .error e => .error e
  | .ok s3 => s3.ctxWrite g.ctx g.grec
      (bytesOf 4 g.num ++ bytesOf 4 (g.st + 4 * g.pkind) ++ bytesOf 4 g.pins ++ bytesOf 4 (n.2 + 1) ++ bytesOf 4 (f sah)
        ++ bytesOf 4 (f ovl) ++ bytesOf 4 (d.2 + 1) ++ bytesOf 4 g.degen ++ bytesOf 8 g.spills ++ bytesOf 4 g.exhaust
        ++ bytesOf 4 g.idepth ++ bytesOf 8 g.nprim ++ bytesOf 8 (4096 * g.pages.length))

/-- GENERATION_PUBLISH (R341): the writes, the STATEs, and CURGEN and GENREC of the handle as one release. -/
def State.publishGen (s : State) (g : Gen) : Except Flt State :=
  match s.writeGen { g with st := 1 } with
  | .error e => .error e
  | .ok s1 =>
    match s1.ctxPhys g.ctx g.grec true, s1.ctxPhys g.ctx (g.scene + 24) true, s1.ctxPhys g.ctx (g.scene + 32) true with
    | .ok pr, .ok pc, .ok pg =>
      let s2 := match s1.curGen g.ctx g.scene with
        | none => s1
        | some o => s1.updGen o.1 fun x => { x with st := 2, since := s.clk }
      let id := s2.ids
      let s3 := { s2 with gens := KMap.put s2.gens id { g with st := 1, grecPa := pr }, ids := id + 1 }
      let s4 := (KMap.vals g.bind).foldl (fun s c => s.pin c) s3
      .ok ((s4.unitWrite pc (bytesOf 4 g.num)).unitWrite pg (bytesOf 8 g.grec))
    | .error e, _, _ => .error e
    | _, .error e, _ => .error e
    | _, _, .error e => .error e

/-- The builder's command is over. -/
def State.endBuild (s : State) (die : Nat) : State :=
  let h := builderHolder die
  let s1 := s.setBuilder die { s.builder die with run := none }
  s1.setLeave h { s1.leave h with idle := s.clk }

/-- The build completion record (R346), bytes 8 to 31 first; none where COMP is 0 or cannot be used. -/
def State.buildRecord (s : State) (c : BuildCmd) (code reason num grec : Nat) : Except Flt State :=
  let comp := bcComp c.bits
  if comp = 0 then .ok s
  else match s.ctxWrite c.ctx (comp + 8) (bytesOf 8 s.pt ++ bytesOf 8 grec ++ bytesOf 8 0) with
    | .error f => .error f
    | .ok s1 => s1.ctxWrite c.ctx comp (bytesOf 8 (code + reason * 2 ^ 8 + num * 2 ^ 32))

/-- A command ends with the code of its run: a NOTICE for BUILD_NOMEM and DEGENERATE, and the completion record. -/
def State.finishBuild (s : State) (die : Nat) (r : Build) : State :=
  let ra := s.unitRaiser 5 r.cmd.ctx (64 * die)
  let s1 := if r.due = 0 then s
    else if r.code = 2 ∨ r.code = 3 then
      s.notice ra { code := if r.code = 2 then 48 else 49, info := r.cmd.addr + (if r.code = 3 then r.prim * 2 ^ 64 else 0) }
    else s
  if badComp (bcComp r.cmd.bits) 32 then
    (s1.notice ra { code := 50, addr := bcComp r.cmd.bits,
                    info := bcComp r.cmd.bits + 2 * 2 ^ 48 + (if bcComp r.cmd.bits % 32 ≠ 0 then 2 ^ 52 else 0) }).endBuild die
  else match s1.buildRecord r.cmd r.code r.reason r.num r.grec with
    | .error f => s1.setRun die { r with fault := some f, opk := 12, due := 0 }
    | .ok s2 => s2.endBuild die

/-- BUILD_COMMAND_END: publication, then the completion record (R341, R346). -/
def execBuildCommandEnd (die : Nat) (s : State) : Out :=
  match (s.builder die).run with
  | none => .next s
  | some r =>
    if r.parked ∨ r.fault.isSome ∨ s.clk < r.due ∨ r.stage = 0 then .next s
    else match r.stage, r.gen with
      | 1, some g =>
        match s.publishGen g with
        | .error f => .next (s.setRun die { r with fault := some f, opk := 11 })
        | .ok s1 => .next (s1.finishBuild die { r with stage := 2, num := g.num, grec := g.grec })
      | _, _ => .next (s.finishBuild die r)

/-- BUILDER_PARK (R345): the builder stops at the access, and its queue waits. -/
def execBuilderPark (die : Nat) (s : State) : Out :=
  match (s.builder die).run with
  | none => .next s
  | some r =>
    match r.fault with
    | none => .next s
    | some f =>
      if r.parked then .next s
      else .next ((s.setRun die { r with parked := true }).replay (s.unitRaiser 5 r.cmd.ctx (64 * die) (opk := r.opk)) 0 f (.builder die))

/-- GENERATION_RECLAIM (R340): STATE becomes RECLAIMED, the bytes and the pins on child generations are released. -/
def execGenerationReclaim (_die gen : Nat) (s : State) : Out :=
  match KMap.find? s.gens gen with
  | none => .next s
  | some g =>
    if !g.idle then .next s
    else
      let s1 := s.updGen gen fun x => { x with st := 3 }
      .next ((KMap.vals g.bind).foldl (fun s c => s.unpin c) { s1 with gens := KMap.del s1.gens gen })

/-! ## GENPIN, GENREL, BLDCMD, BLDQ (R359, R360) -/

/-- GENPIN. -/
def execGenpin (f : FSYS) (s : State) : Out :=
  issueWith s (legalSys f { sd := true, sa := true }) (fun _ => { reads := [sreg f.sa.toNat], writes := [sreg f.sd.toNat] }) .one 2 true
    fun s c _ =>
      let a := (c.ag.sr f.sa.toNat).toNat
      if c.ag.pure then .next (s.raise c.a c.fid purity)
      else match s.sceneRead c a 0 with
        | .error s1 => .next s1
        | .ok (s1, h) =>
          let g := hdCur h
          let done (s : State) : State := (s.putS c f.sd.toNat (ofN g) (s.clk + 2)).sceneDone c f.stl.toNat
          if cursedHandle h then .next (s1.raise c.a c.fid (illegalOp 5))
          else if g ≠ 0 ∧ 16 ≤ c.ag.pins.length then .next (s1.raise c.a c.fid (illegalOp 8))
          else
            let s2 := s1.l1Inval c.ag.core
            match s2.genOf c.ag.ctx a g with
            | none => .next (done s2)
            | some (id, _) => .next (done ((s2.pin id).updAgent c.a fun ag => { ag with pins := ag.pins ++ [(a, id)] }))

/-- GENREL. -/
def execGenrel (f : FSYS) (s : State) : Out :=
  issueWith s (legalSys f { sa := true, sb := true }) (fun _ => { reads := sregs [f.sa.toNat, f.sb.toNat] }) .one 0 true fun s c _ =>
    let a := (c.ag.sr f.sa.toNat).toNat
    let num := fldN (c.ag.sr f.sb.toNat) 0 32
    match c.ag.pins.find? fun q => q.1 = a && (s.gens.any fun x => x.1 = q.2 && x.2.num = num) with
    | none => .next (s.raise c.a c.fid (illegalOp 8))
    | some q =>
      .next (((s.unpin q.2).updAgent c.a fun ag => { ag with pins := ag.pins.erase q }).updFrag c.a c.fid fun fr => fr.adv (s.clk + 1 + f.stl.toNat))

/-- The die whose builder serves the scene of a command record; where no handle can be named there, either. -/
def State.bldDie (s : State) (ctx scene : Nat) : Except Flt (State × Nat) :=
  if 2 ^ 48 < scene + 8 then .ok ({ s with free := s.free + 1 }, if Config.freeBit s.free then 1 else 0)
  else match s.ctxRead ctx scene 8 with
    | .error f => .error f
    | .ok (s1, x) => .ok (s1, natFld x 63 1)

/-- BLDCMD: a release, the record's read, then the queue of the builder. -/
def execBldcmd (f : FSYS) (s : State) : Out :=
  issueWith s (legalSys f { sd := true, sa := true }) (fun _ => { reads := [sreg f.sa.toNat], writes := [sreg f.sd.toNat] }) .one 2 true
    fun s c _ =>
      let a := (c.ag.sr f.sa.toNat).toNat
      if c.ag.pure then .next (s.raise c.a c.fid purity)
      else if 2 ^ 48 < a + 64 then .next (s.raise c.a c.fid (illegalAddr a))
      else if a % 64 ≠ 0 then .next (s.raise c.a c.fid (misalign a))
      else match s.recParts c.ag a 64 false (c.fr.phase = 2) with
        | .error r => .next (s.recStop c r)
        | .ok ps =>
          let r := s.partsRead ps
          let b : BitVec 512 := BitVec.ofNat 512 r.2
          match s.recParts c.ag (min (bcScene b) (2 ^ 48 - 8)) 8 false (c.fr.phase = 2) with
          | .error x => .next (s.recStop c x)
          | .ok hs =>
            match s.relStop c (if c.fr.phase = 3 then 3 else c.fr.phase) with
            | some s1 => .next s1
            | none =>
              if c.fr.phase ≠ 3 then
                .next ((s.hold c (.clk (s.clk + s.partsLat c.ag.core 0 ps + s.partsLat c.ag.core 0 hs)) 3).updFrag c.a c.fid fun fr =>
                  { fr with iss := s.clk })
              else match r.1.bldDie c.ag.ctx (bcScene b) with
                | .error x => .next (s.raise c.a c.fid x)
                | .ok (s1, die) =>
                  let q := s1.builder die
                  let full := decide (64 ≤ q.queue.length)
                  let s2 := if full then s1 else s1.setBuilder die { q with queue := q.queue ++ [{ bits := b, addr := a, ctx := c.ag.ctx }] }
                  .next ((s2.putS c f.sd.toNat (if full then 1 else 0) (s.clk + 2)).sceneDone c f.stl.toNat)

/-- BLDQ: `res` from the handle, the scene and s(SB). -/
def bldq (f : FSYS) (sub : Nat) (res : State → BitVec 512 → Iss → Nat → Nat → Option Nat) (s : State) : Out :=
  issueWith s.reap (legalSys f { sd := true, sa := true, sb := sub = 1, subs := [sub] })
    (fun _ => { reads := sregs (f.sa.toNat :: (if sub = 1 then [f.sb.toNat] else [])), writes := [sreg f.sd.toNat] }) .one 3 true
    fun s c _ =>
      let a := (c.ag.sr f.sa.toNat).toNat
      match s.sceneRead c a 1 with
      | .error s1 => .next s1
      | .ok (s1, h) =>
        if cursedHandle h then .next (s1.raise c.a c.fid (illegalOp 5))
        else match res s1 h c a (fldN (c.ag.sr f.sb.toNat) 0 32) with
          | none => .next (s1.raise c.a c.fid (illegalOp 8))
          | some v => .next ((s1.putS c f.sd.toNat (ofN v) (s.clk + 2)).sceneDone c f.stl.toNat)

def execBldqCur (f : FSYS) (s : State) : Out :=
  bldq f 0 (fun s h c a _ => some (hdCur h + (s.sceneGens c.ag.ctx a).length % 16 * 2 ^ 32)) s

def execBldqPins (f : FSYS) (s : State) : Out :=
  bldq f 1 (fun s _ c a g => (s.genOf c.ag.ctx a g).map fun x => x.2.pins) s

def execBldqQueue (f : FSYS) (s : State) : Out :=
  bldq f 2 (fun s h c a _ =>
    let b := s.builder (hdDie h)
    let mine := (b.queue ++ (b.run.map (·.cmd)).toList).filter fun x => x.ctx = c.ag.ctx && bcScene x.bits = a
    let waits := b.run.isNone && ((b.queue.head?).map fun x => s.ninth (hdDie h) x).getD false
    some (mine.length + b.queue.length * 2 ^ 7 + if waits then 2 ^ 14 else 0)) s

end Sys2Proof.Machine
end

