-- ==== Sys2Proof/Machine/CrossLane.lean ====
section
/-!
DEFINITION. The cross-lane instructions (R194 to R199).
-/
namespace Sys2Proof.Machine

/-- The count operand of R195. -/
def countOp (f : FV3) (ag : Agent) : Nat :=
  if FV3.selB f then (opVB f ag 0).toNat % 128 else f.vb.toNat % 128

/-- Fates of a cross-lane word (R194, R195): `cnt` when VB is a count operand, `vb` when it is a vector source. -/
def legalX (f : FV3) (a cnt vb c sres : Bool) : Legal where
  all := f.all
  rsv := srcRsv a (FV3.selA f) f.va
    || (if cnt then decide (128 ≤ f.vb.toNat) else srcRsv vb (FV3.selB f) f.vb)
    || srcRsv c (FV3.selC f) f.vc
    || (FV3.hi f && !((a && FV3.selA f) || ((cnt || vb) && FV3.selB f) || (c && FV3.selC f)))
    || f.mod ≠ 0 || (sres && decide (128 ≤ f.vd.toNat))
  bad := !ty01 f.ty
  vregs := (if sres then [] else [f.vd.toNat]) ++ (if a && !FV3.selA f then [f.va.toNat] else [])
    ++ (if vb && !FV3.selB f then [f.vb.toNat] else []) ++ (if c && !FV3.selC f then [f.vc.toNat] else [])

def footX (f : FV3) (a cnt vb c sres : Bool) (i : Iss) : Foot :=
  let wm := wmask i.ag.width
  { reads := srcFoot a (FV3.selA f) f.va wm ++ (if cnt then srcFoot (FV3.selB f) true f.vb 1 else srcFoot vb (FV3.selB f) f.vb wm)
      ++ srcFoot c (FV3.selC f) f.vc wm
    writes := if sres then [sreg (f.vd.toNat % 128)] else [(.v f.vd.toNat, i.active f.all)] }

/-- A shuffle: the value of each active lane. -/
def shuffle (f : FV3) (cnt vb c : Bool) (g : Iss → Nat → Word) (s : State) : Out :=
  issueLocal s (legalX f true cnt vb c false) (footX f true cnt vb c false) .cross f.stl.toNat 8 fun _ i =>
    .ok { writes := [(.v f.vd.toNat, laneVals (i.active f.all) (g i))] }

def execVshuf (f : FV3) (s : State) : Out :=
  shuffle f false true false (fun i l =>
    let k := (opVB f i.ag l).toNat % 128
    if k < i.ag.width then opVA f i.ag k else 0) s

def execVshfu (f : FV3) (s : State) : Out :=
  shuffle f true false true (fun i l =>
    let n := countOp f i.ag
    if n ≤ l then opVA f i.ag (l - n) else opVC f i.ag l) s

def execVshfd (f : FV3) (s : State) : Out :=
  shuffle f true false true (fun i l =>
    let n := countOp f i.ag
    if l + n < i.ag.width then opVA f i.ag (l + n) else opVC f i.ag l) s

def execVxsw (f : FV3) (s : State) : Out :=
  shuffle f true false false (fun i l => opVA f i.ag (l ^^^ (countOp f i.ag &&& (i.ag.width - 1)))) s

/-- A lane mask written to a scalar (R197). -/
def laneMask (f : FV3) (lat : Nat) (g : Iss → Dword) (s : State) : Out :=
  issueLocal s (legalX f true false false false true) (footX f true false false false true) .cross f.stl.toNat lat fun _ i =>
    .ok { writes := [(.s (f.vd.toNat % 128), [(0, g i)])] }

def execVbal (f : FV3) (s : State) : Out :=
  laneMask f 12 (fun i => maskOf ((lanesOf (i.active f.all)).filter fun l => opVA f i.ag l ≠ 0)) s

def execVmatch (f : FV3) (s : State) : Out :=
  laneMask f 10 (fun i =>
    let ls := lanesOf (i.active f.all)
    maskOf (ls.filter fun l => opVA f i.ag l = opVA f i.ag (ls.head?.getD 0))) s

/-! ## VREDU and VSCAN (R198) -/

/-- Identity of an operation. -/
def redIdentity (op : Nat) (ty : BitVec 4) : Int :=
  let n := elemBits ty
  match op with
  | 1 => if tyFloat ty then ((tyFmt ty).infc : Int) else if elemSgn ty then (2 ^ (n - 1) : Int) - 1 else (2 ^ n : Int) - 1
  | 2 => if tyFloat ty then (((tyFmt ty).signBit + (tyFmt ty).infc : Nat) : Int)
         else if elemSgn ty then -(2 ^ (n - 1) : Int) else 0
  | 3 => (2 ^ n : Int) - 1
  | _ => 0

/-- Value of an element as the combination carries it: an integer ADD carries exact values, the others the element's bits. -/
def redIn (op : Nat) (ty : BitVec 4) (x : Nat) : Int := if op = 0 ∧ !tyFloat ty then elemVal ty x else (x : Int)

def redOp (op : Nat) (ty mod : BitVec 4) (acc x : Int) : Int :=
  let a := acc.toNat
  let b := x.toNat
  match op with
  | 0 => if tyFloat ty then (((tyFmt ty).fadd (RM.ofBits (modRM mod)) a b : Nat) : Int) else acc + x
  | 1 => (minmaxE false ty a b 0 : Nat)
  | 2 => (minmaxE true ty a b 0 : Nat)
  | 3 => (a &&& b : Nat)
  | 4 => (a ||| b : Nat)
  | _ => (a ^^^ b : Nat)

/-- fin(): the bits of an element. -/
def redFin (op : Nat) (ty mod : BitVec 4) (acc : Int) : Nat :=
  if op = 0 ∧ !tyFloat ty then intRes ty mod acc else wrapN (elemBits ty) acc

/-- Combines element k of the lanes in ascending order; answers the accumulator before and after each lane. -/
def redScan (op : Nat) (ty mod : BitVec 4) (k : Nat) : Option Int → List Word → List (Option Int × Int)
  | _, [] => []
  | acc, x :: xs =>
    let v := redIn op ty ((elems ty x).getD k 0)
    let r := match acc with
      | none => v
      | some a => redOp op ty mod a v
    (acc, r) :: redScan op ty mod k (some r) xs

def elemCount (ty : BitVec 4) : Nat := 32 / elemBits ty

def legalRed (f : FV3) (scan : Bool) : Legal :=
  let op := f.vb.toNat % 8
  { all := f.all
    rsv := srcRsv true (FV3.selA f) f.va || decide (8 ≤ f.vb.toNat) || FV3.selB f || f.vc ≠ 0 || FV3.selC f
      || (FV3.hi f && !FV3.selA f) || (!scan && modXop f.mod) || (!scan && decide (128 ≤ f.vd.toNat))
    bad := !tyVector f.ty || decide (6 ≤ op) || (decide (3 ≤ op) && tyFloat f.ty)
      || (modRM f.mod ≠ 0 && !(op = 0 && tyFloat f.ty)) || (modSat f.mod && !(op = 0 && tyInt f.ty))
    vregs := (if scan then [f.vd.toNat] else []) ++ (if FV3.selA f then [] else [f.va.toNat]) }

def execVredu (f : FV3) (s : State) : Out :=
  let op := f.vb.toNat % 8
  issueLocal s (legalRed f false) (footX f true false false false true) .cross f.stl.toNat 12 fun _ i =>
    let xs := (lanesOf (i.active f.all)).map fun l => opVA f i.ag l
    let fins := (List.range (elemCount f.ty)).map fun k =>
      match (redScan op f.ty f.mod k none xs).getLast? with
      | some p => p.2
      | none => if op = 0 then 0 else redIdentity op f.ty
    let r : Dword :=
      if ty01 f.ty && op = 0 && !modSat f.mod then BitVec.ofInt 64 (fins.getD 0 0)
      else
        let w := ofElems f.ty (fins.map (redFin op f.ty f.mod))
        if f.ty = 0 then w.signExtend 64 else w.setWidth 64
    .ok { writes := [(.s (f.vd.toNat % 128), [(0, r)])] }

def execVscan (f : FV3) (s : State) : Out :=
  let op := f.vb.toNat % 8
  issueLocal s (legalRed f true) (footX f true false false false false) .cross f.stl.toNat 12 fun _ i =>
    let ls := lanesOf (i.active f.all)
    let xs := ls.map fun l => opVA f i.ag l
    let cols := (List.range (elemCount f.ty)).map fun k => redScan op f.ty f.mod k none xs
    let pick (p : Option Int × Int) : Nat :=
      if modXop f.mod then redFin op f.ty f.mod (p.1.getD (if op = 0 then 0 else redIdentity op f.ty)) else redFin op f.ty f.mod p.2
    .ok { writes := [(.v f.vd.toNat, (List.range ls.length).map fun j =>
      (ls.getD j 0, (ofElems f.ty (cols.map fun col => pick (col.getD j (none, 0)))).setWidth 64))] }

/-! ## VRDLN and VWRLN (R199) -/

def execVrdln (f : FV3) (s : State) : Out :=
  issueLocal s (legalX f true true false false true)
    (fun i => { footX f true true false false true i with
                reads := srcFoot true (FV3.selA f) f.va (if countOp f i.ag < 64 then laneBit (countOp f i.ag) else 0)
                  ++ srcFoot (FV3.selB f) true f.vb 1 })
    .cross f.stl.toNat 8 fun _ i =>
      let n := countOp f i.ag
      let x : Word := if n < i.ag.width then opVA f i.ag n else 0
      .ok { writes := [(.s (f.vd.toNat % 128), [(0, if f.ty = 0 then x.signExtend 64 else x.setWidth 64)])] }

def execVwrln (f : FV3) (s : State) : Out :=
  let hit (i : Iss) : Dword :=
    if countOp f i.ag < i.ag.width then i.active f.all &&& laneBit (countOp f i.ag) else 0
  issueLocal s { legalX f true true false false false with
      bad := !ty01 f.ty || !FV3.selA f
      vregs := [f.vd.toNat] }
    (fun i => { reads := srcFoot true (FV3.selA f) f.va 0 ++ srcFoot (FV3.selB f) true f.vb 1, writes := [(.v f.vd.toNat, hit i)] })
    .cross f.stl.toNat 8 fun _ i =>
      .ok { writes := [(.v f.vd.toNat, laneVals (hit i) fun l => opVA f i.ag l)] }

end Sys2Proof.Machine
end

