-- ==== Sys2Proof/Machine/Keccak.lean ====
section
/-!
DEFINITION. The hash functions that the spec names: KECCAK-f[1600] and SHA3-512 of FIPS 202, KMAC256 of NIST SP 800-185
(R375, R494). Their definitions are those standards' (log entry 30).
-/
namespace Sys2Proof.Machine

/-- The state of KECCAK-f[1600]: lane (x, y) at index x + 5 y. -/
abbrev KState := List Dword

def kLane (a : KState) (x y : Nat) : Dword := a.getD (x % 5 + 5 * (y % 5)) 0

def kMap (f : Nat → Nat → Dword) : KState := (List.range 25).map fun i => f (i % 5) (i / 5)

def kTheta (a : KState) : KState :=
  let c := (List.range 5).map fun x => kLane a x 0 ^^^ kLane a x 1 ^^^ kLane a x 2 ^^^ kLane a x 3 ^^^ kLane a x 4
  let d := (List.range 5).map fun x => c.getD ((x + 4) % 5) 0 ^^^ (c.getD ((x + 1) % 5) 0).rotateLeft 1
  kMap fun x y => kLane a x y ^^^ d.getD x 0

/-- Rotation of each lane, lane (x, y) at index x + 5 y. -/
def kOffsets : List Nat :=
  [0, 1, 62, 28, 27, 36, 44, 6, 55, 20, 3, 10, 43, 25, 39, 41, 45, 15, 21, 8, 18, 2, 61, 56, 14]

/-- ρ and π: lane (x, y) of the result is lane (x + 3 y, x) rotated. -/
def kRhoPi (a : KState) : KState :=
  kMap fun x y =>
    let sx := (x + 3 * y) % 5
    (kLane a sx x).rotateLeft (kOffsets.getD (sx + 5 * x) 0)

def kChi (a : KState) : KState := kMap fun x y => kLane a x y ^^^ (~~~(kLane a (x + 1) y) &&& kLane a (x + 2) y)

def kRounds : List Dword :=
  [0x0000000000000001#64, 0x0000000000008082#64, 0x800000000000808A#64, 0x8000000080008000#64, 0x000000000000808B#64,
   0x0000000080000001#64, 0x8000000080008081#64, 0x8000000000008009#64, 0x000000000000008A#64, 0x0000000000000088#64,
   0x0000000080008009#64, 0x000000008000000A#64, 0x000000008000808B#64, 0x800000000000008B#64, 0x8000000000008089#64,
   0x8000000000008003#64, 0x8000000000008002#64, 0x8000000000000080#64, 0x000000000000800A#64, 0x800000008000000A#64,
   0x8000000080008081#64, 0x8000000000008080#64, 0x0000000080000001#64, 0x8000000080008008#64]

def keccakF (a : KState) : KState :=
  kRounds.foldl (fun a rc => match kChi (kRhoPi (kTheta a)) with
    | [] => []
    | x :: xs => (x ^^^ rc) :: xs) a

/-- Eight bytes, lowest first, as a lane. -/
def kWord (bs : List Byte) : Dword := BitVec.ofNat 64 ((bs.take 8).foldr (fun b n => b.toNat + 256 * n) 0)

/-- Absorbs blocks of `rate` bytes; `n` is at least their number. -/
def kAbsorb (rate : Nat) : (n : Nat) → (a : KState) → List Byte → KState
  | 0, a, _ => a
  | n + 1, a, bs =>
    if bs.isEmpty then a
    else kAbsorb rate n (keccakF (a.zipIdx.map fun p =>
      if p.2 < rate / 8 then p.1 ^^^ kWord ((bs.take rate).drop (8 * p.2)) else p.1)) (bs.drop rate)

/-- Domain bits `dom` and pad10*1. -/
def kPad (rate dom : Nat) (m : List Byte) : List Byte :=
  let k := rate - m.length % rate
  m ++ (if k = 1 then [BitVec.ofNat 8 (dom + 128)]
        else BitVec.ofNat 8 dom :: (List.replicate (k - 2) 0#8 ++ [0x80#8]))

/-- The first bytes of the sponge, at most `rate` of them. -/
def kSponge (rate dom out : Nat) (m : List Byte) : List Byte :=
  let p := kPad rate dom m
  let a := kAbsorb rate (p.length / rate) (List.replicate 25 0#64) p
  (a.flatMap fun (x : Dword) => (List.range 8).map fun i => (x >>> (8 * i)).setWidth 8).take out

def sha3_512 (m : List Byte) : List Byte := kSponge 72 0x06 64 m

/-- Bytes of n, most significant first, at least one. -/
def beBytes : (fuel n : Nat) → List Byte
  | 0, _ => []
  | fuel + 1, n => (if n < 256 then [] else beBytes fuel (n / 256)) ++ [BitVec.ofNat 8 n]

def leftEncode (n : Nat) : List Byte := let b := beBytes 8 n; BitVec.ofNat 8 b.length :: b
def rightEncode (n : Nat) : List Byte := let b := beBytes 8 n; b ++ [BitVec.ofNat 8 b.length]
def encodeString (s : List Byte) : List Byte := leftEncode (8 * s.length) ++ s
def bytepad (s : List Byte) (w : Nat) : List Byte :=
  let z := leftEncode w ++ s
  z ++ List.replicate ((w - z.length % w) % w) 0#8

/-- cSHAKE256 of 32 bytes. -/
def cshake256 (name custom m : List Byte) : List Byte :=
  kSponge 136 0x04 32 (bytepad (encodeString name ++ encodeString custom) 136 ++ m)

/-- KMAC256 with 256 bits of output. -/
def kmac256 (key custom m : List Byte) : List Byte :=
  cshake256 [0x4B#8, 0x4D#8, 0x41#8, 0x43#8] custom (bytepad (encodeString key) 136 ++ m ++ rightEncode 256)

end Sys2Proof.Machine
end

