-- ==== Sys2Proof/Machine/Leave.lean ====
section
/-!
DEFINITION. The power governor's leave (R306, R487, R488): requests, grants, expiry and revocation for engines, builders and
sluices.
-/
namespace Sys2Proof.Machine

/-- Die of a holder. -/
def holderDie (h : Nat) : Nat := if h < 512 then h / 4 / 64 else if h < 520 then h - 512 else (h - 520) / 64

/-- Units of a holder (R487). -/
def holderUnits (h : Nat) : Nat := if 512 ≤ h ∧ h < 520 then 8 else 1

/-- Holders of a die that hold leave. -/
def State.unitsHeld (s : State) (die : Nat) : Nat :=
  (List.filter (fun (p : Nat × Leave) => p.2.held && holderDie p.1 = die) s.leaves).foldl (fun n p => n + holderUnits p.1) 0

/-- LVCAP of a die (R489). -/
def State.lvcap (s : State) (die : Nat) : Nat := s.barFld (blkHost + 0x21) (16 * die) 9

def State.leaveQueue (s : State) (die : Nat) : List Nat := (KMap.find? s.leaveQ die).getD []
def State.setLeaveQ (s : State) (die : Nat) (q : List Nat) : State :=
  { s with leaveQ := if q.isEmpty then KMap.del s.leaveQ die else KMap.put s.leaveQ die q }

/-- An XCOLL operation of a core's sluice whose first piece is to be requested next. -/
def State.collNext (s : State) (core : Nat) : Bool :=
  s.xops.any fun p => p.2.core = core && p.2.st = .running && p.2.fault.isNone && p.2.fresh && !p.2.todo.isEmpty && !s.xBusy p.1 p.2

/-- Work of a holder for which it needs leave now: the clk from which it has been idle when it asks. -/
def State.leaveNeed (s : State) (h : Nat) : Option Nat :=
  let l := s.leave h
  if h < 512 then
    let e := s.eng (h / 4) (h % 4)
    match (s.engOps (h / 4) (h % 4)).head? with
    | none => none
    | some (_, o) => match o.kind with
      | .matrix _ _ m => if m.begun.isNone ∧ max (o.issue + 4) e.last ≤ s.clk ∧ !s.opBusy o.id ∧ (m.ask ∨ !l.held) then some l.idle else none
      | _ => none
  else if h < 520 then
    let b := s.builder (h - 512)
    if b.run.isNone ∧ !b.queue.isEmpty ∧ (!l.held ∨ l.idle + 256 ≤ s.clk) then some l.idle else none
  else if s.collNext (h - 520) ∧ (!l.held ∨ l.idle + 256 ≤ s.clk) then some l.idle else none

/-- Work is running or queued on a holder. -/
def State.holderBusy (s : State) (h : Nat) : Bool :=
  if h < 512 then !(s.engOps (h / 4) (h % 4)).isEmpty
  else if h < 520 then (s.builder (h - 512)).run.isSome
  else s.xops.any fun p => p.2.core = h - 520 && p.2.kind.coll && p.2.st = .running

/-- An operation of a holder is running: it loses its leave only when that ends (R488). -/
def State.holderRuns (s : State) (h : Nat) : Bool :=
  if h < 512 then (s.engOps (h / 4) (h % 4)).any fun p => match p.2.kind with
    | .matrix _ _ m => m.begun.isSome
    | _ => false
  else if h < 520 then (s.builder (h - 512)).run.isSome
  else s.xops.any fun p => p.2.core = h - 520 && p.2.kind.coll && p.2.st = .running && !p.2.fresh

/-- End of a holder's last work. -/
def State.holderIdle (s : State) (h : Nat) : Nat :=
  let l := s.leave h
  max l.since (max l.idle (if h < 512 then (s.eng (h / 4) (h % 4)).last else 0))

/-- An engine that works for a context with a pre-emption pending (R488). -/
def State.leaveFirst (s : State) (h : Nat) : Bool :=
  decide (h < 512) && (match (s.engOps (h / 4) (h % 4)).head? with
    | none => false
    | some (a, _) => match s.agent? a with
      | none => false
      | some ag => (KMap.find? s.preempts ag.ctx).isSome)

/-- LEAVE_REQUEST: a holder that still holds leave is granted 48 clk later; another joins its die's queue. -/
def execLeaveRequest (die holder : Nat) (s : State) : Out :=
  let l := s.leave holder
  if holderDie holder ≠ die ∨ l.start.isSome ∨ l.queued ∨ (s.leaveNeed holder).isNone then .next s
  else if l.held then .next (s.setLeave holder { l with start := some (s.clk + 48) })
  else
    let q := s.leaveQueue die
    let waits := !q.isEmpty || decide (s.lvcap die < s.unitsHeld die + holderUnits holder)
    let s1 := s.setLeave holder { l with queued := true }
    let s2 := if s.leaveFirst holder then
        s1.setLeaveQ die (q.filter s.leaveFirst ++ holder :: q.filter fun x => !s.leaveFirst x)
      else s1.setLeaveQ die (q ++ [holder])
    .next (if waits then s2.barPut (blkHost + 0x22) 2 1 1 else s2)

/-- LEAVE_GRANT: the head of the queue, when its units are free. -/
def execLeaveGrant (die holder : Nat) (s : State) : Out :=
  match s.leaveQueue die with
  | [] => .next s
  | h :: q =>
    if h ≠ holder ∨ s.lvcap die < s.unitsHeld die + holderUnits h then .next s
    else
      .next ((s.setLeaveQ die q).setLeave h { held := true, since := s.clk, idle := (s.leave h).idle, start := some (s.clk + 48) })

/-- LEAVE_EXPIRY: 4,096 idle clk. -/
def execLeaveExpiry (die holder : Nat) (s : State) : Out :=
  let l := s.leave holder
  if holderDie holder ≠ die ∨ !l.held ∨ l.start.isSome ∨ s.holderBusy holder ∨ s.clk < s.holderIdle holder + 4096 then .next s
  else .next (s.setLeave holder { idle := s.holderIdle holder })

/-- LEAVE_REVOKE: held for 65,536 clk while a request waits; the holder queues again if it has more work. -/
def execLeaveRevoke (die holder : Nat) (s : State) : Out :=
  let l := s.leave holder
  if holderDie holder ≠ die ∨ !l.held ∨ s.holderRuns holder ∨ (s.leaveQueue die).isEmpty ∨ s.clk < l.since + 65536 then .next s
  else
    let more := s.holderBusy holder || (decide (512 ≤ holder ∧ holder < 520) && !(s.builder (holder - 512)).queue.isEmpty)
    let s1 := s.setLeave holder { idle := s.holderIdle holder, queued := more }
    .next (if more then s1.setLeaveQ die (s1.leaveQueue die ++ [holder]) else s1)

end Sys2Proof.Machine
end

