-- ==== Sys2Proof/Machine/Tasks.lean ====
section
/-!
DEFINITION. Tasks, pure tasks and the reuse table (R361 to R379): TSPAWN, TEND, and the events of the dispatcher.
-/
namespace Sys2Proof.Machine

/-! ## Records (R362, R363) -/

def trDesc (b : BitVec 2048) : Nat := fldN b 0 48
def trClass (b : BitVec 2048) : Nat := fldN b 48 2
def trChk (b : BitVec 2048) : Bool := fldN b 50 1 = 1
def trArgs (b : BitVec 2048) : Nat := fldN b 192 64
def trComp (b : BitVec 2048) : Nat := fldN b 256 64
def trSeed (b : BitVec 2048) : Nat := fldN b 320 64
/-- Address of declaration word i: INi for 0 to 7, OUT(i - 8) for 8 to 15. -/
def trAddr (b : BitVec 2048) (i : Nat) : Nat := fldN b (512 + 64 * i) 48

/-- Key of a record: DLINE ascending, PRIO descending, serial ascending; the EDF lane has no PRIO (R366). -/
def taskBefore (edf : Bool) (x y : BitVec 2048 × Nat) : Bool :=
  let k (r : BitVec 2048 × Nat) : List Nat := [fldN r.1 64 64, if edf then 0 else 255 - fldN r.1 128 8, r.2]
  ((((k x).zip (k y)).find? fun p => p.1 ≠ p.2).map fun p => decide (p.1 < p.2)).getD false

def TaskRec.before (edf : Bool) (x y : TaskRec) : Bool := taskBefore edf (x.bits, x.serial) (y.bits, y.serial)

/-- Placement of the declared regions: word, handle, bytes, offset of the header (R362). -/
def declRegions (d : BitVec 512) : List (Nat × Nat × Nat × Nat) :=
  ((declWords d).foldl (init := (([] : List (Nat × Nat × Nat × Nat)), 0)) fun acc w =>
    (acc.1 ++ [(w.1, w.2.1, w.2.2, acc.2)], acc.2 + 64 + 512 * ((w.2.2 + 511) / 512))).1

/-- One past the last byte of the regions. -/
def declEnd (d : BitVec 512) : Nat := (declRegions d).foldl (fun m r => max m (r.2.2.2 + 64 + 512 * ((r.2.2.1 + 511) / 512))) 0

/-! ## Banks (R364, R366) -/

def bankKey (die k : Nat) : Nat := 64 * die + k
def State.taskBank (s : State) (die k : Nat) : List TaskRec := (KMap.find? s.banks (bankKey die k)).getD []
def State.setTaskBank (s : State) (die k : Nat) (l : List TaskRec) : State :=
  { s with banks := if l.isEmpty then KMap.del s.banks (bankKey die k) else KMap.put s.banks (bankKey die k) l }

/-- Inserts a record with the die's next serial. -/
def State.insertTask (s : State) (die k : Nat) (bits : BitVec 2048) (addr ctx : Nat) : State :=
  let n := KMap.get 0 s.taskSerial die
  { (s.setTaskBank die k (s.taskBank die k ++ [{ bits := bits, addr := addr, ctx := ctx, serial := n }])) with
    taskSerial := KMap.set 0 s.taskSerial die ((n + 1) % 2 ^ 64) }

/-- TSPAWN (R364). -/
def execTspawn (f : FSYS) (s : State) : Out :=
  let lg := legalSys f { sd := true, sa := true, imm := 3, subRsv := true, bad := fldN f.imm 0 2 = 3 }
  issueWith s lg (fun _ => { reads := [sreg f.sa.toNat], writes := [sreg f.sd.toNat] }) .one 2 true fun s c _ =>
    let a := (c.ag.sr f.sa.toNat).toNat
    if 2 ^ 48 < a + 256 then .next (s.raise c.a c.fid (illegalAddr a))
    else if a % 64 ≠ 0 then .next (s.raise c.a c.fid (misalign a))
    else if c.ag.pure then .next (s.raise c.a c.fid purity)
    else match s.recParts c.ag a 256 false (c.fr.phase = 2) with
      | .error r => .next (s.recStop c r)
      | .ok ps =>
        match s.relStop c c.fr.phase with
        | some s1 => .next s1
        | none =>
          let die := if fldN f.imm 0 2 = 0 then c.ag.die else fldN f.imm 0 2 - 1
          if c.fr.phase ≠ 3 then
            .next ((s.hold c (.clk (s.clk + s.partsLat c.ag.core 0 ps + (if die ≠ c.ag.die then 32 else 0))) 3).updFrag c.a c.fid fun fr => { fr with iss := s.clk })
          else
            let r := s.partsRead ps
            let b : BitVec 2048 := BitVec.ofNat 2048 r.2
            let done (s : State) (st : Nat) : State := (s.putS c f.sd.toNat (ofN st) (s.clk + 2)).sceneDone c f.stl.toNat
            if trClass b = 0 then
              if 256 ≤ (s.taskBank die 32).length then .next (done r.1 1)
              else .next (done (r.1.insertTask die 32 b a c.ag.ctx) 0)
            else
              let p := KMap.get 0 s.pushPtr die
              match firstNat (fun i => decide ((s.taskBank die ((p + i) % 32)).length < 256)) 32 0 with
              | none => .next (done r.1 1)
              | some i =>
                let k := (p + i) % 32
                let s1 := r.1.insertTask die k b a c.ag.ctx
                .next (done { s1 with pushPtr := KMap.set 0 s1.pushPtr die ((k + 1) % 32) } 0)

/-- TEND (R365): ends a task group as END does. -/
def execTend (f : FSYS) (s : State) : Out :=
  issueWith s { legalSys f { noHnd := true, subRsv := true } with leat := false } (fun _ => {}) .one 0 true fun s c _ =>
    if c.ag.task.isNone then .next (s.raise c.a c.fid (illegalOp 1))
    else if !c.ag.split.isEmpty then .next (s.raise c.a c.fid illegalSplit)
    else .next (s.endLast c fun s => s.updAgent c.a fun ag => ag.endFrag c.fid s.clk)

/-! ## The pop and its checks (R367, R368) -/

def trRsv (t : Task) : Bool :=
  let b := t.bits
  let valid (i : Nat) : Bool := (declWords t.decl).any fun w => w.1 = i
  fldN b 51 13 ≠ 0 || fldN b 136 56 ≠ 0 || fldN b 384 128 ≠ 0 || fldN b 1536 512 ≠ 0 || trClass b = 3
    || (List.range 16).any fun i => fldN b (512 + 64 * i + 48) 16 ≠ 0 || (!valid i && trAddr b i ≠ 0)

def declRsv (d : BitVec 512) : Bool := (List.range 16).any fun i => fldN d (32 * i + 25) 6 ≠ 0

/-- Pages of a range of the context's space: address of each, with its bytes. -/
def Task.ranges (t : Task) : List (Nat × Nat × Nat) := (declWords t.decl).map fun w => (w.1, trAddr t.bits w.1, w.2.2)

/-- A range of a pure task that translates outside GDDR 7 and the erg windows. -/
def State.rangeAway (s : State) (ctx va n : Nat) : Bool :=
  (pageParts va n).any fun p => match s.ctxPhys ctx p.1 false with
    | .ok pa => !s.onCard pa
    | .error _ => false

/-- REASON of R368, 0 when the task is in order. `ok`: descriptor and declaration table could be read. -/
def State.taskReason (s : State) (t : Task) (okDesc okDecl : Bool) : Nat :=
  let d := t.desc
  let ws := declWords t.decl
  if trRsv t ∨ (okDesc ∧ kdRsv d) ∨ (okDecl ∧ declRsv t.decl) then 1
  else if okDesc ∧ (kdBad d ∨ kdGroups d ≠ 1 ∨ kdPair d ∨ kdStrip d ∨ fldN d 256 17 ≠ 0 ∨ fldN d 288 17 ≠ 0
      ∨ min (kdScratch d) (2 ^ 20) < declEnd t.decl ∨ s.neverFits { t.need with hs := [] }) then 2
  else if !okDesc ∨ !okDecl ∨ badComp (trComp t.bits) 32 then 4
  else if (kdPure d && (!(ws.any fun w => decide (w.1 < 8)) || !(ws.any fun w => decide (8 ≤ w.1)))) || (t.ranges.any fun r => r.2.1 = 0)
      || (kdPure d && t.ranges.any fun r => s.rangeAway t.ctx r.2.1 r.2.2) then 6
  else 0

/-- Reads 64 bytes at an aligned address. -/
def State.read64 (s : State) (ctx a : Nat) : Option (State × BitVec 512) :=
  if a % 64 ≠ 0 then none
  else match s.ctxRead ctx a 64 with
    | .error _ => none
    | .ok r => some (r.1, BitVec.ofNat 512 r.2)

/-- A record is taken: checked, shed, or put into the die's hold slot. -/
def State.takeTask (s : State) (die : Nat) (r : TaskRec) : State :=
  let t0 : Task := { die := die, ctx := r.ctx, addr := r.addr, bits := r.bits, serial := r.serial }
  let rd := s.read64 r.ctx (trDesc r.bits)
  let s1 := (rd.map (·.1)).getD s
  let d := (rd.map (·.2)).getD 0
  let rt := if rd.isSome ∧ kdDecl d ≠ 0 then s1.read64 r.ctx (kdDecl d) else some (s1, 0)
  let s2 := (rt.map (·.1)).getD s1
  let t := { t0 with desc := d, decl := (rt.map (·.2)).getD 0 }
  let why := s2.taskReason t rd.isSome rt.isSome
  let t := if why ≠ 0 then { t with st := .recording, code := 4, reason := why, lost := badComp (trComp r.bits) 32 }
    else if trClass r.bits = 1 ∧ fldN r.bits 64 64 < s.pt then { t with st := .recording, code := 2 }
    else t
  { s2 with tasks := KMap.put s2.tasks s2.ids t, ids := s2.ids + 1 }

/-- A die may pop (R367). -/
def State.mayPop (s : State) (die : Nat) : Bool :=
  let gs := s.held
  !(s.tasks.any fun t => t.2.die = die && t.2.st = .hold)
    && ((List.range 64).any fun c => [0, 1, 2, 3].any fun p => decide (slotsUsed gs (64 * die + c) p < 64))
    && (List.range 33).any fun k => !(s.taskBank die k).isEmpty

/-- The best record of a bank, and the bank without it. -/
def bankHead (edf : Bool) (l : List TaskRec) : Option (TaskRec × List TaskRec) :=
  (leastBy (TaskRec.before edf) l).map fun r => (r, l.filter fun x => x.serial ≠ r.serial)

/-- TASK_POP: the EDF lane's head; or the best of all banks; or the better of the heads of banks b1 and b2. -/
def execTaskPop (die b1 b2 : Nat) (s : State) : Out :=
  if !s.mayPop die then .next s
  else match bankHead true (s.taskBank die 32) with
    | some (r, rest) => .next ((s.setTaskBank die 32 rest).takeTask die r)
    | none =>
      let n := KMap.get 0 s.popCount die
      let full := (List.range 32).filter fun k => !(s.taskBank die k).isEmpty
      let cands := if n % 64 = 63 ∨ full.length = 1 then full else [b1, b2].filter fun k => full.contains k
      if !(n % 64 = 63 ∨ full.length = 1) ∧ (cands.length ≠ 2 ∨ b1 = b2) then .next s
      else
        let heads := cands.filterMap fun k => (bankHead false (s.taskBank die k)).map fun h => (k, h)
        match leastBy (fun x y => TaskRec.before false x.2.1 y.2.1) heads with
        | none => .next s
        | some (k, r, rest) =>
          .next (({ s with popCount := KMap.set 0 s.popCount die ((n + 1) % 2 ^ 64) }.setTaskBank die k rest).takeTask die r)

/-! ## Core, staging, key, dispatch (R370, R371, R375) -/

def State.updTask (s : State) (t : Nat) (f : Task → Task) : State := { s with tasks := KMap.upd s.tasks t f }

/-- Input handles, output handles: handle keys. -/
def Task.inKeys (t : Task) : List Nat := (declWords t.decl).filterMap fun w => if w.1 < 8 then some (hkey t.core w.2.1) else none
def Task.outKeys (t : Task) : List Nat := (declWords t.decl).filterMap fun w => if w.1 < 8 then none else some (hkey t.core w.2.1)

/-- The group of a task, as it waits for its dispatch. -/
def taskGroup (s : State) (id : Nat) (t : Task) (p : Spot) : Agent :=
  let d := t.desc
  let w := kdWidth d
  let at' := p.place false 0
  let pure := kdPure d
  { kind := .group, core := at'.1, part := at'.2, slot := freeSlot s.held at'.1 at'.2, ctx := t.ctx, tenant := s.ctxTenant t.ctx,
    team := s.ids, width := w, nv := kdNv d, gchk := trChk t.bits, srx := seedOf (trSeed t.bits) 0 0, grid := 65536 + id,
    lrec := ofN t.addr, dln := ofN t.dline, lcls := ofN (trClass t.bits),
    sregs := KMap.set 0 (KMap.set 0 (KMap.set 0 [] 0 (ofN (trArgs t.bits))) 1 1) 2 (if pure then 0 else ofN t.dline),
    frags := [(0, startFrag (kdEntry d) w 0)], task := some id, pure := pure, started := false,
    pureIn := if pure then (t.ranges.filter fun r => decide (r.1 < 8)).map (·.2) else [] }

/-- Physical pages of the ranges, and their leaf entries (R377). -/
def State.taskPages (s : State) (t : Task) : List (Nat × Nat) :=
  (t.ranges.flatMap fun r => (pageParts r.2.1 r.2.2).filterMap fun p => match s.ctxPhys t.ctx p.1 false with
    | .ok pa => some (pa / 4096, s.leafAddr p.1 3 (s.ctxRoot t.ctx))
    | .error _ => none).eraseDups

/-- TASK_CORE_CHOICE: the core's slot, registers and scratchpad are reserved, its handles claimed, its inputs staged. -/
def execTaskCoreChoice (t core : Nat) (s : State) : Out :=
  match s.offer, KMap.find? s.tasks t with
  | some (w, [p]), some x =>
    if w.kind ≠ .task t ∨ p.core ≠ core then .next s
    else
      let y := { x with core := core, team := s.ids, agent := s.ids + 1, began := s.pt, st := .staging }
      let tm : Team :=
        { grid := 65536 + t, ctx := x.ctx, idx := 0, core := core, size := kdScratch x.desc, base := p.base, groups := [s.ids + 1],
          due := 2 ^ 64, resident := 2 ^ 64, started := false }
      let ps := s.taskPages y
      let y := { y with pages := ps.map (·.1), leaves := ps.map (·.2), dirty := false }
      let s1 := { (s.putAgent (s.ids + 1) (taskGroup s t y p)) with
                  teams := KMap.put s.teams s.ids tm, ids := s.ids + 2, tasks := KMap.put s.tasks t y,
                  placedAt := KMap.put s.placedAt x.die s.clk }
      let claim (s : State) (r : Nat × Nat × Nat × Nat) : State :=
        let k := hkey core r.2.1
        let s1 := s.setHandle k { roff := r.2.2.2, dsec := (r.2.2.1 + 511) / 512, layout := 0, nrel := 1, team := y.team }
        if r.1 < 8 then
          let op : Xop := { core := core, by' := 2, kind := .stage, ctx := x.ctx, team := y.team, h := r.2.1, n := r.2.2.1,
                            expect := r.2.2.1, src := ofN (trAddr x.bits r.1), task := t }
          { s1 with xops := KMap.put s1.xops s1.ids op, ids := s1.ids + 1 }
        else s1
      .next ((declRegions x.decl).foldl claim s1)
  | _, _ => .next s

def State.taskFull (s : State) (t : Task) : Bool :=
  t.inKeys.all fun k => ((KMap.find? s.handles k).map fun h => decide (h.st = 2)).getD false

def State.reuseOn (s : State) : Bool := s.barFld (0x1000 / 8) 0 1 = 1

/-- A pure task whose inputs are full is looked up. -/
def State.looks (s : State) (t : Task) : Bool := kdPure t.desc && s.reuseOn

/-- Bytes staged for an input word. -/
def State.staged (s : State) (t : Task) (h n : Nat) : List Byte :=
  match KMap.find? s.handles (hkey t.core h), s.team? t.team with
  | some x, some tm => (List.range n).map fun i => rdB tm.scr (x.at i)
  | _, _ => []

/-- The tenant's reuse key (R378): 32 bytes. -/
def State.reuseKey (s : State) (t : Nat) : List Byte :=
  (List.range 4).flatMap fun i => bytesOf 8 (s.barRd (0x1100 / 8 + 4 * t + i)).toNat

/-- The key of a pure task (R375). -/
def State.taskKey (s : State) (t : Task) : Nat :=
  let msg := bytesOf 64 t.desc.toNat ++ bytesOf 64 t.decl.toNat ++ bytesOf 8 (trArgs t.bits)
    ++ ((declWords t.decl).filter fun w => decide (w.1 < 8)).flatMap fun w => s.staged t w.2.1 w.2.2
  numOf (kmac256 (s.reuseKey (s.ctxTenant t.ctx)) [0x46#8, 0x4C#8, 0x52#8, 0x55#8] msg)

/-- REUSE_KEY_READY: the last piece has arrived, and the key is ready 30 clk later. -/
def execReuseKeyReady (t : Nat) (s : State) : Out :=
  match KMap.find? s.tasks t with
  | none => .next s
  | some x =>
    match x.st with
    | .staging =>
      if s.taskFull x ∧ s.looks x then .next (s.updTask t fun y => { y with st := .keying, due := s.clk + 30, key := s.taskKey x })
      else .next s
    | .keying =>
      if s.clk < x.due then .next s
      else .next (s.updTask t fun y => { y with st := .lookup, due := s.clk + if x.die = 0 then 200 else 232 })
    | _ => .next s

/-- REUSE_LOOKUP. -/
def execReuseLookup (t : Nat) (s : State) : Out :=
  match KMap.find? s.tasks t with
  | none => .next s
  | some x =>
    if x.st ≠ .lookup ∨ s.clk < x.due then .next s
    else match (if s.reuseOn then List.find? (fun (e : Nat × ReuseEnt) => e.2.tenant = s.ctxTenant x.ctx && e.2.key = x.key) s.reuse else none) with
      | none => .next (s.updTask t fun y => { y with st := .ready })
      | some e => .next (s.updTask t fun y => { y with st := .copying, ent := e.1, piece := 0, due := s.clk })

/-- The pieces of a hit's copy: source, destination, bytes (R375). -/
def copyPieces (t : Task) (e : ReuseEnt) : List (Nat × Nat × Nat) :=
  ((t.ranges.filter fun r => decide (8 ≤ r.1)).zip e.outs).flatMap fun p =>
    if p.1.2.1 = p.2.1 then []
    else (List.range ((p.2.2 + 63) / 64)).map fun i => (p.2.1 + 64 * i, p.1.2.1 + 64 * i, min 64 (p.2.2 - 64 * i))

/-- The clk at which piece i is accepted. -/
def State.pieceDue (s : State) (t : Task) (i : Nat) (p : Nat × Nat × Nat) : Nat :=
  t.due + i + s.ctxLat t.core t.ctx p.1 p.2.2 0 + s.ctxLat t.core t.ctx p.2.1 p.2.2 1

/-- The dispatcher's own access for a task parks (R333, R501). -/
def State.taskPark (s : State) (t : Nat) (x : Task) (opk : Nat) (f : Flt) : State :=
  (s.updTask t fun y => { y with parked := true }).replay (s.unitRaiser 4 x.ctx x.core (opk := opk)) 0 f (.taskRec t)

/-- REUSE_HIT_COPY_PIECE: the next piece is accepted; with the last one the task retires; an entry that is no longer valid makes
it a miss. -/
def execReuseHitCopyPiece (t : Nat) (s : State) : Out :=
  match KMap.find? s.tasks t with
  | none => .next s
  | some x =>
    if x.st ≠ .copying ∨ x.parked then .next s
    else match KMap.find? s.reuse x.ent with
      | none => .next (s.updTask t fun y => { y with st := .ready })
      | some e =>
        match (copyPieces x e)[x.piece]? with
        | none => .next (s.updTask t fun y => { y with st := .recording, reused := true, due := s.clk })
        | some p =>
          if s.clk < s.pieceDue x x.piece p then .next s
          else match s.ctxRead x.ctx p.1 p.2.2 with
            | .error f => .next (s.taskPark t x 7 f)
            | .ok r =>
              match r.1.ctxWrite x.ctx p.2.1 (bytesOf p.2.2 r.2) with
              | .error f => .next (s.taskPark t x 7 f)
              | .ok s1 => .next (s1.updTask t fun y => { y with piece := y.piece + 1 })

/-- TASK_DISPATCH: the group becomes resident. -/
def execTaskDispatch (t : Nat) (s : State) : Out :=
  match KMap.find? s.tasks t with
  | none => .next s
  | some x =>
    let go := x.st = .ready || (x.st = .staging && s.taskFull x && !s.looks x)
    if !go ∨ s.preempting x.ctx ∨ !s.ctxLive x.ctx then .next s
    else
      let s1 := (s.clearCore x.core).updTask t fun y => { y with st := .running }
      .next ((s1.updAgent x.agent fun ag => { ag with started := true }).updTeam x.team fun m => { m with resident := s.clk, due := s.clk + 8 })

/-! ## Fragments of task groups (R372) -/

/-- Fragments of task groups that are eligible to issue on a partition. -/
def State.taskFrags (s : State) (p : Nat) : Nat :=
  ((s.agents.filter fun q => q.2.task.isSome && 4 * q.2.core + q.2.part = p && !q.2.ended).flatMap fun q =>
    q.2.frags.filter fun f => match f.2.wait with
      | .join _ => false
      | .barrier .. => false
      | .sleep _ => false
      | .queued => false
      | _ => true).length

/-- FRAGMENT_QUEUE_RELEASE: the fragment whose task has the best key becomes eligible. -/
def execFragmentQueueRelease (core part : Nat) (s : State) : Out :=
  let p := 4 * core + part
  let q := ((KMap.find? s.fragQ p).getD []).filter fun x => (s.agent? x.1).isSome
  if 16 ≤ s.taskFrags p then .next s
  else
    let key (x : Nat × Nat) : BitVec 2048 × Nat :=
      match (s.agent? x.1).bind fun a => a.task.bind fun t => KMap.find? s.tasks t with
      | some t => (t.bits, t.serial)
      | none => (0, 0)
    match leastBy (fun x y => taskBefore false (key x) (key y)) q with
    | none => .next s
    | some x =>
      let rest := q.erase x
      let s1 := { s with fragQ := if rest.isEmpty then KMap.del s.fragQ p else KMap.put s.fragQ p rest }
      .next (s1.updFrag x.1 x.2 fun f => { f with wait := .none, next := max f.next s.clk })

/-! ## Completion (R373, R374, R376, R377) -/

/-- The published bytes of an output word. -/
def State.published (s : State) (t : Task) (h : Nat) : Nat :=
  ((KMap.find? s.handles (hkey t.core h)).map fun x => x.expect).getD 0

/-- TASK_OUTPUT_DRAIN: the FULL outputs are drained; the other handles are released; the drains over, so are those. -/
def execTaskOutputDrain (t : Nat) (s : State) : Out :=
  match KMap.find? s.tasks t with
  | none => .next s
  | some x =>
    match x.st with
    | .ended =>
      let outs := (declWords x.decl).filter fun w => decide (8 ≤ w.1)
      let full (w : Nat × Nat × Nat) : Bool := ((KMap.find? s.handles (hkey x.core w.2.1)).map fun h => decide (h.st = 2)).getD false
      let miss := (outs.filter fun w => !full w).foldl (fun m w => m + 2 ^ (w.1 - 8)) 0
      let s1 := (outs.filter full).foldl (init := s) fun s w =>
        let n := s.published x w.2.1
        let op : Xop := { core := x.core, by' := 2, kind := .drain, ctx := x.ctx, team := x.team, h := w.2.1, n := n, expect := n,
                          src := ofN (trAddr x.bits w.1), task := t }
        { s with xops := KMap.put s.xops s.ids op, ids := s.ids + 1 }
      let gone := x.inKeys ++ (outs.filter fun w => !full w).map fun w => hkey x.core w.2.1
      .next ({ s1 with handles := s1.handles.filter (fun (h : Nat × Handle) => !(gone.contains h.1)) }.updTask t fun y =>
        { y with st := .draining, outmiss := miss, pub := outs.map fun (w : Nat × Nat × Nat) => s.published x w.2.1 })
    | .draining =>
      if s.xops.any fun o => o.2.task = t && o.2.by' = 2 then .next s
      else .next (s.updTask t fun y => { y with st := .recording, due := s.clk })
    | _ => .next s

/-- Entries of a tenant. -/
def State.tenantEnts (s : State) (t : Nat) : List (Nat × ReuseEnt) := s.reuse.filter fun e => e.2.tenant = t

/-- A pure task's result is to be recorded (R376). -/
def State.mayRecord (s : State) (t : Task) : Bool :=
  let ten := s.ctxTenant t.ctx
  let imp := ((s.agent? t.agent).map (·.impure)).getD true
  kdPure t.desc && t.code = 1 && !t.reused && !imp && t.outmiss = 0 && !t.dirty && s.reuseOn
    && decide ((s.reuse.map fun e => e.2.pages.length).foldl (· + ·) 0 + t.pages.length ≤ 1048576)
    && s.barFld (0x1008 / 8 + ten) 0 16 ≠ 0
    && !((s.tenantEnts ten).any fun e => e.2.key = t.key)
    && (decide (s.reuse.length < 65536) || !(s.tenantEnts ten).isEmpty)

/-- Enters the result (R376, R377), and sets the WATCH bits of its pages' leaf entries. -/
def State.record (s : State) (t : Task) : State :=
  let ten := s.ctxTenant t.ctx
  let mine := s.tenantEnts ten
  let s1 := if s.barFld (0x1008 / 8 + ten) 0 16 ≤ mine.length ∨ 65536 ≤ s.reuse.length then
      match leastBy (fun (x y : Nat × ReuseEnt) => decide (x.2.serial < y.2.serial)) mine with
      | some e => s.dropReuse fun z => z.serial = e.2.serial
      | none => s
    else s
  let e : ReuseEnt :=
    { key := t.key, tenant := ten, serial := s1.reuseSerial, pages := t.pages, leaves := t.leaves,
      outs := ((t.ranges.filter fun r => decide (8 ≤ r.1)).map fun r => r.2.1).zip t.pub }
  { s1 with reuse := KMap.put s1.reuse s1.reuseSerial e, reuseSerial := s1.reuseSerial + 1
            mem := t.leaves.foldl (fun m a => KMap.set memDefault m a (rdB m a ||| 0x20#8)) s1.mem }

/-- The task is complete: its reservation and handles are released. -/
def State.taskDone (s : State) (t : Nat) (x : Task) : State :=
  if x.team = 0 then { s with tasks := KMap.del s.tasks t }
  else
    { s with tasks := KMap.del s.tasks t, agents := KMap.del s.agents x.agent, teams := KMap.del s.teams x.team
             handles := s.handles.filter (fun (h : Nat × Handle) => h.2.team ≠ x.team) }

/-- The completion record (R374): bytes 8 to 31, then bytes 0 to 7. -/
def State.taskRecord (s : State) (x : Task) (recorded : Bool) : Except Flt State :=
  let a := trComp x.bits
  let late := trClass x.bits ≠ 3 && decide (x.dline < s.pt)
  let lo := x.code + (if late then 2 ^ 4 else 0) + (if x.reused then 2 ^ 5 else 0) + (if recorded then 2 ^ 6 else 0) + x.reason * 2 ^ 8
    + x.outmiss * 2 ^ 16 + x.core * 2 ^ 32
  if a = 0 then .ok s
  else match s.ctxWrite x.ctx (a + 8) (bytesOf 8 s.pt ++ bytesOf 8 x.began ++ bytesOf 8 0) with
    | .error f => .error f
    | .ok s1 => s1.ctxWrite x.ctx a (bytesOf 8 lo)

/-- TASK_COMPLETION_RECORD, and with it TASK_REJECT and TASK_RECORDING. -/
def execTaskCompletionRecord (t : Nat) (s : State) : Out :=
  match KMap.find? s.tasks t with
  | none => .next s
  | some x =>
    if x.st ≠ .recording ∨ x.parked then .next s
    else if x.lost then .next ((s.recordLost 4 x.ctx (trComp x.bits) 1).taskDone t x)
    else
      let ok := s.mayRecord x
      match s.taskRecord x ok with
      | .error f => .next (if (KMap.find? s.fatals x.ctx).isSome then s.taskDone t x else s.taskPark t x 12 f)
      | .ok s1 =>
        .next ((if ok then s1.record x else s1).taskDone t x)

end Sys2Proof.Machine
end

