-- ==== Sys2Proof/Machine/Streams.lean ====
section
/-!
DEFINITION. Media streams (R380 to R394): flows and their descriptors, the conversion of elements, received frames, frame
objects, QPOP, QPUSH, QSTAT, QFRAME, and the events of the ports. Flow f's descriptor stands at dwords 8 f of the media block
(R381); flows 0 to 31 receive and 32 to 63 send.
-/
namespace Sys2Proof.Machine

/-! ## Descriptors (R380 to R382) -/

/-- Field [lo + n - 1 : lo] of a flow's descriptor; no field spans two of its dwords. -/
def State.fdesc (s : State) (f lo n : Nat) : Nat := s.barFld (blkMedia + 8 * f + lo / 64) (lo % 64) n

def State.flowOn (s : State) (f : Nat) : Bool := s.fdesc f 0 1 = 1
def State.flowCtx (s : State) (f : Nat) : Nat := s.fdesc f 1 6
/-- KIND: 0 video, 1 audio, 2 ancillary. -/
def State.flowKind (s : State) (f : Nat) : Nat := s.fdesc f 7 2
def State.flowSamp (s : State) (f : Nat) : Nat := s.fdesc f 9 2
/-- Bits of a component or of a sample. -/
def State.flowBits (s : State) (f : Nat) : Nat :=
  if s.flowKind f = 1 then (if s.fdesc f 11 2 = 0 then 16 else 24) else 8 + 2 * s.fdesc f 11 2
def State.flowBufs (s : State) (f : Nat) : Nat := s.fdesc f 112 3 + 1
def State.guard (s : State) (f : Nat) : Nat := s.fdesc f 192 32
def State.troff (s : State) (f : Nat) : Nat := s.fdesc f 224 32

/-- Elements of a frame (R382). -/
def State.flowTotal (s : State) (f : Nat) : Nat :=
  let n := (s.fdesc f 32 13 + 1) * (s.fdesc f 48 13 + 1)
  if s.flowKind f = 0 ∧ s.flowSamp f = 0 then n / 2 else n

/-- A descriptor that asks for nothing that R380 does not support (R381). -/
def State.flowValid (s : State) (f : Nat) : Bool :=
  let w := s.fdesc f 32 13 + 1
  let h := s.fdesc f 48 13 + 1
  let depth := s.fdesc f 11 2
  decide (1 ≤ s.fdesc f 112 3) && s.fdesc f 64 12 = 0 && (s.fdesc f 19 1 = 0 || s.fdesc f 20 2 ≠ s.fdesc f 22 2) &&
    match s.flowKind f with
    | 0 => s.flowSamp f ≠ 3 && depth ≠ 3 && s.fdesc f 13 2 ≠ 3 && s.fdesc f 15 2 ≠ 3 && !(s.flowSamp f = 1 && depth = 0)
        && decide (h ≤ 4320) && !(s.flowSamp f = 0 && w % 2 = 1)
    | 1 => decide (depth ≤ 1) && decide (w ≤ 64)
    | 2 => h = 1
    | _ => false

/-- Media clock rate (R380). -/
def State.flowRate (s : State) (f : Nat) : Nat := if s.flowKind f = 1 then 48000 else 90000

/-- RTP timestamp of a PT64. -/
def State.rtpOf (s : State) (f pt : Nat) : Nat := pt * s.flowRate f / 10 ^ 9 % 2 ^ 32

def State.flow (s : State) (f : Nat) : Flow := (KMap.find? s.flows f).getD {}
def State.setFlow (s : State) (f : Nat) (x : Flow) : State := { s with flows := KMap.put s.flows f x }

/-! ## Conversion (R384, R385) -/

/-- Whether component i is a colour difference. -/
def isChroma (samp i : Nat) : Bool := (samp = 0 && i % 2 = 0) || (samp = 1 && (i = 0 || i = 2))

/-- Offset, scale, and bounds on push, of a component of b bits. -/
def codeRange (range b : Nat) (chroma : Bool) : Nat × Nat × Nat × Nat :=
  let k := 2 ^ (b - 8)
  let off := if range = 0 then (if chroma then 128 * k else 16 * k) else if chroma then 2 ^ (b - 1) else 0
  let scale := if range = 0 then (if chroma then 224 * k else 219 * k) else 2 ^ b - 1
  let prot := range ≠ 1
  (off, scale, if prot then k else 0, if prot then 2 ^ b - 1 - k else 2 ^ b - 1)

/-- A code as F16: the exact quotient rounded to nearest even. -/
def codeToF16 (range b : Nat) (chroma : Bool) (c : Nat) : Nat :=
  let r := codeRange range b chroma
  let d : Int := (c : Int) - r.1
  let q := d.natAbs * 2 ^ 64 / r.2.1
  f16.round .rne false (decide (d < 0)) q (-64) (d.natAbs * 2 ^ 64 % r.2.1 ≠ 0)

def clampTo (lo hi : Nat) (x : Int) : Nat := if x < lo then lo else if (hi : Int) < x then hi else x.toNat

/-- An F16 as a code. -/
def f16ToCode (range b : Nat) (chroma : Bool) (h : Nat) : Nat :=
  let r := codeRange range b chroma
  match FV.add .rne (FV.mul (f16.decode h) (FV.ofInt r.2.1)) (FV.ofInt r.1) with
  | .nan => r.1
  | .inf neg => if neg then r.2.2.1 else r.2.2.2
  | .fin neg m e =>
    let k : Int := (FV.intMag .rne neg m e : Nat)
    clampTo r.2.2.1 r.2.2.2 (if neg then -k else k)

/-- Component i of an element. -/
def comp (x : Dword) (i : Nat) : Nat := fldN x (16 * i) 16

/-- An element as the words of a lane, form by form. -/
def popWords (form samp range b : Nat) (x : Dword) : List Word :=
  let c (i : Nat) : Nat :=
    if samp ≠ 0 ∧ i = 3 then 0
    else if form = 1 then codeToF16 range b (isChroma samp i) (comp x i) else comp x i
  if form ≤ 1 then [BitVec.ofNat 32 (c 0 + 2 ^ 16 * c 1), BitVec.ofNat 32 (c 2 + 2 ^ 16 * c 3)]
  else if form = 2 then [BitVec.ofNat 32 (fldN x 0 b * 2 ^ (32 - b))]
  else [x.setWidth 32]

/-- The words of a lane as an element. -/
def pushElem (form samp range b : Nat) (w0 w1 : Word) : Dword :=
  let h (i : Nat) : Nat := if i < 2 then fldN w0 (16 * i) 16 else fldN w1 (16 * (i - 2)) 16
  let c (i : Nat) : Nat :=
    if samp ≠ 0 ∧ i = 3 then 0
    else
      let r := codeRange range b (isChroma samp i)
      if form = 1 then f16ToCode range b (isChroma samp i) (h i) else clampTo r.2.2.1 r.2.2.2 (h i)
  if form ≤ 1 then BitVec.ofNat 64 (c 0 + 2 ^ 16 * c 1 + 2 ^ 32 * c 2 + 2 ^ 48 * c 3)
  else if form = 2 then BitVec.ofNat 64 (w0.toNat / 2 ^ (32 - b))
  else w0.setWidth 64

/-! ## Bindings (R383) -/

/-- The flow that a q register names; none where the binding fails. -/
def State.binding (s : State) (ag : Agent) (q : Nat) (suits : Nat → Bool) : Option Nat :=
  let b := KMap.get 0 ag.qb q
  let f := fldN b 0 6
  if b.getLsbD 63 && s.flowOn f && s.flowCtx f = ag.ctx && suits f then some f else none

def badBinding : Flt := illegalOp 8

def isSend (f : Nat) : Bool := decide (32 ≤ f)

/-- A lane form suits a KIND (R384). -/
def formSuits (form kind : Nat) : Bool := if form ≤ 1 then kind = 0 else form = kind + 1

/-- The link between the dies, for a stream instruction of die 0 (R454). -/
def mediaLag (ag : Agent) : Nat := if ag.die = 0 then 32 else 0

/-! ## Receive frames (R386) -/

/-- Available elements from element p on, at most n. -/
def availRun (els : KMap Dword) : (n p : Nat) → Nat
  | 0, _ => 0
  | n + 1, p => if (KMap.find? els p).isSome then availRun els n (p + 1) + 1 else 0

/-- Elements that a pop of n lanes finds, and whether the frame ends before the n-th. -/
def Flow.ready (x : Flow) (n : Nat) : Nat × Bool :=
  match x.frames with
  | [] => (0, false)
  | fr :: _ =>
    let f := availRun fr.els n x.pos
    (f, decide (f < n) && decide (fr.total ≤ x.pos + f))

def Flow.late (x : Flow) (pt : Nat) : Bool := match x.deadline with
  | none => false
  | some d => decide (d ≤ pt)

/-- A pop of n lanes goes on (R390). -/
def State.popReady (s : State) (f n : Nat) : Bool :=
  let x := s.flow f
  !s.flowOn f || decide (n ≤ (x.ready n).1) || (x.ready n).2 || x.late s.pt

/-- The media PT64 that an RTP timestamp stands for: within its tick, nearest to now (log entry 2 for the place in the tick). -/
def State.mediaTime (s : State) (f stamp : Nat) : State × Nat :=
  let r := s.flowRate f
  let now := s.pt * r / 10 ^ 9
  let d := (stamp + 2 ^ 32 - now % 2 ^ 32) % 2 ^ 32
  let k := if d < 2 ^ 31 then now + d else now + d - 2 ^ 32
  let lo := (k * 10 ^ 9 + r - 1) / r
  let hi := ((k + 1) * 10 ^ 9 + r - 1) / r
  let w := s.draw (hi - lo)
  (w.1, lo + w.2)

/-- a is newer than b among RTP timestamps. -/
def newer (a b : Nat) : Bool := a ≠ b && decide ((a + 2 ^ 32 - b) % 2 ^ 32 < 2 ^ 31)

/-- Elements join a frame. -/
def RxFrame.take (fr : RxFrame) (pos : Nat) (marker : Bool) (es : List Dword) : RxFrame :=
  { fr with
    els := (es.zipIdx.filter fun e => decide (pos + e.2 < fr.total)).foldl (fun m e => KMap.put m (pos + e.2) e.1) fr.els
    total := if marker then min fr.total (pos + es.length) else fr.total }

/-- PACKET_RECEIVE: a packet of path 0 or 1 with its RTP sequence number and timestamp, the first of the elements that it
completes, and those elements. -/
def execPacketReceive (flow path seq pos stamp : Nat) (marker : Bool) (elems : List Dword) (s : State) : Out :=
  let x := s.flow flow
  let dual := s.fdesc flow 19 1 = 1
  if 32 ≤ flow ∨ !s.flowOn flow ∨ (path = 1 ∧ !dual) then .next s
  else if dual ∧ x.seen.contains seq then .next s
  else
    let x1 := { x with seen := if dual then (seq :: x.seen).take 32768 else [], bOnly := if path = 1 then x.bOnly + 1 else x.bOnly }
    if x.frames.any fun fr => fr.stamp = stamp then
      .next (s.setFlow flow { x1 with frames := x.frames.map fun fr => if fr.stamp = stamp then fr.take pos marker elems else fr })
    else if (x.lastStamp.map fun l => !newer stamp l).getD false then .next (s.setFlow flow x1)
    else if s.flowBufs flow ≤ x.frames.length then
      .next (s.setFlow flow { x1 with
        dropped := if x.dropStamp = some stamp then x.dropped else x.dropped + 1, dropStamp := some stamp })
    else
      let m := s.mediaTime flow stamp
      let fr : RxFrame := { stamp := stamp, total := s.flowTotal flow, hw := s.pt, media := m.2 }
      .next (m.1.setFlow flow { x1 with frames := x.frames ++ [fr.take pos marker elems], lastStamp := some stamp })

/-! ## QPOP and QPUSH -/

/-- Legality of QPOP and QPUSH; forms of video take an even pair. -/
def legalStream (f : FSYS) : Legal :=
  let v := fldN f.imm 0 10
  let pair := f.sub.toNat % 4 ≤ 1
  let l := legalSys f { sd := true, sa := true, res := true, imm := 0x3FF, subRsv := true }
  { l with
    rsv := (legalSys f { sd := true, sa := true, res := true, imm := 0x3FF, subs := List.range 16 }).rsv
      || decide (4 ≤ f.sub.toNat) || decide (16 ≤ f.res.toNat)
    bad := pair && v % 2 = 1
    vregs := if pair then [v, v + 1] else [v] }

def streamRegs (f : FSYS) : List Nat :=
  let v := fldN f.imm 0 10
  if f.sub.toNat % 4 ≤ 1 then [v, v + 1] else [v]

/-- A pop takes its elements: the lanes served with their words, the status. -/
def State.pop (s : State) (f form : Nat) (act : Dword) : State × List (Nat × List Word) × Nat :=
  let x := s.flow f
  let n := popc act
  let r := x.ready n
  let els := ((x.frames.head?).map (·.els)).getD []
  let vals := ((lanesOf act).take r.1).zipIdx.map fun p =>
    (p.1, popWords form (s.flowSamp f) (s.fdesc f 13 2) (s.flowBits f) (KMap.get 0 els (x.pos + p.2)))
  let st := if n ≤ r.1 then 0 else (if x.late s.pt then 1 else 0) + (if r.2 then 2 else 0)
  (s.setFlow f { x with pos := x.pos + r.1 }, vals, st)

/-- QPOP (R390). Its operation is in flight from the issue on; `todo` is nonzero until it is served. -/
def execQpop (f : FSYS) (s : State) : Out :=
  let lg := legalStream f
  let form := f.sub.toNat % 4
  let vd := fldN f.imm 0 10
  match s.issuer with
  | none => .fault .noIssuer
  | some c =>
    if (lg.fate c).isNone ∧ c.fr.phase < 4 ∧ c.ag.ctrVal .e = 63 then .next (s.hold c (.ctr .e 62) c.fr.phase)
    else
      issueWith s lg
        (fun c => { writes := vregsOn (streamRegs f) (c.active f.all) ++ [sreg f.sd.toNat, sreg f.sa.toNat] }) .lanes 0 false
        fun s c p =>
          let act := c.active f.all
          let serve (s : State) (id : Nat) (flow : Nat) : State :=
            let r := s.pop flow form act
            r.1.updAgent c.a fun ag => ag.updOp id fun o =>
              { o with todo := 0, due := s.clk + 24 + mediaLag ag, kind := .qpop flow form vd f.sd.toNat f.sa.toNat r.2.1 r.2.2 }
          if 4 ≤ c.fr.phase then
            match (c.ag.findOp c.fr.hop).map (fun (o : Op) => o.kind) with
            | some (.qpop flow _ _ _ _ _ st) =>
              let done (s : State) : State := s.finishHold c f.stl.toNat 1
              if st = 16 then .next (done s)
              else if s.popReady flow (popc act) then .next (done (serve s c.fr.hop flow))
              else .next (s.hold c (.qpop flow) 4)
            | _ => .next (s.finishHold c f.stl.toNat 1)
          else
            match s.binding c.ag f.res.toNat fun k => !isSend k && formSuits form (s.flowKind k) with
            | none => .next (s.raise c.a c.fid badBinding)
            | some flow =>
              if c.ag.pure then .next (s.raise c.a c.fid purity)
              else
                let id := s.ids
                let s1 := ({ s with ids := s.ids + 1 }).startOp c.a
                  { id := id, fid := c.fid, ctr := some .e, issue := s.clk, due := s.clk, todo := 1, em := act,
                    kind := .qpop flow form vd f.sd.toNat f.sa.toNat [] 0, pc := c.fr.pc
                    dsts := vregsOn (streamRegs f) act ++ [sreg f.sd.toNat, sreg f.sa.toNat] }
                if s.popReady flow (popc act) then
                  .next ((serve s1 id flow).updFrag c.a c.fid fun fr => fr.adv (s.clk + extraPass p + 1 + f.stl.toNat))
                else .next ((s1.hold c (.qpop flow) 4).updFrag c.a c.fid fun fr => { fr with hop := id })

/-- QPUSH (R391). -/
def execQpush (f : FSYS) (s : State) : Out :=
  let lg := legalStream f
  let form := f.sub.toNat % 4
  let vs := fldN f.imm 0 10
  match s.issuer with
  | none => .fault .noIssuer
  | some c =>
    if (lg.fate c).isNone ∧ c.ag.ctrVal .e = 63 then .next (s.hold c (.ctr .e 62) c.fr.phase)
    else
      issueWith s lg
        (fun c => { reads := vregsOn (streamRegs f) (c.active f.all), writes := [sreg f.sd.toNat, sreg f.sa.toNat] }) .lanes 0 false
        fun s c p =>
          match s.binding c.ag f.res.toNat fun k => isSend k && formSuits form (s.flowKind k) with
          | none => .next (s.raise c.a c.fid badBinding)
          | some flow =>
            if c.ag.pure then .next (s.raise c.a c.fid purity)
            else
              let act := lanesOf (c.active f.all)
              let x := s.flow flow
              let ob := (x.cur.bind fun k => KMap.find? x.objs k).getD {}
              let isOpen := x.cur.isSome && ob.st = 0
              let room := if isOpen then s.flowTotal flow - ob.wpos else 0
              let mine := act.take room
              let st := if isOpen then (if room < act.length then 2 else 0)
                else if x.cur.isSome && ob.st = 3 then 8 else 4
              let els := mine.map fun l => pushElem form (s.flowSamp flow) (s.fdesc flow 13 2) (s.flowBits flow)
                (c.ag.vr vs l) (c.ag.vr (vs + 1) l)
              let x1 := { x with objs := match x.cur with
                | some k => KMap.upd x.objs k fun o => { o with wpos := o.wpos + mine.length }
                | none => x.objs }
              let s1 := (({ s with ids := s.ids + 1 }).setFlow flow x1).startOp c.a
                { id := s.ids, fid := c.fid, ctr := some .e, issue := s.clk, due := s.clk + 24 + mediaLag c.ag, pc := c.fr.pc
                  kind := .qpush flow ob.ord ob.wpos (maskOf mine) els f.sd.toNat f.sa.toNat st
                  dsts := [sreg f.sd.toNat, sreg f.sa.toNat] }
              .next (s1.updFrag c.a c.fid fun fr => fr.adv (s.clk + extraPass p + 1 + f.stl.toNat))

/-- A push writes its elements into the opening that it reserved them in. -/
def Flow.write (x : Flow) (ord wpos : Nat) (els : List Dword) : Flow :=
  { x with objs := x.objs.map fun (q : Nat × SendObj) =>
      if q.2.ord = ord then (q.1, { q.2 with buf := els.zipIdx.foldl (fun m e => KMap.set 0 m (wpos + e.2) e.1) q.2.buf }) else q }

/-- Pushes of a flow that the engine accepted before an operation number and that have not written their elements (R392). -/
def State.pushing (s : State) (flow before : Nat) : Bool :=
  s.agents.any fun (q : Nat × Agent) => q.2.ops.any fun o => decide (o.id < before) && !o.returned && (match o.kind with
    | .qpush g .. => g = flow
    | _ => false)

/-! ## QFRAME and QSTAT (R392, R393) -/

/-- The status of a QFRAME, readable 2 clk after it completes; on die 0 the end of its hold is 32 clk later (R454). -/
def State.qframeDone (s : State) (c : Iss) (sd stl st : Nat) : State :=
  if mediaLag c.ag = 0 then (s.putS c sd (ofN st) (s.clk + 2)).sysDone c stl
  else (s.hold c (.clk (s.clk + mediaLag c.ag)) 5).updFrag c.a c.fid fun fr => { fr with hop := st }

/-- The frame object that an OPEN takes: the oldest by PT of those PRESENTED or SUBSTITUTED. -/
def Flow.oldest (x : Flow) : Option (Nat × SendObj) :=
  leastBy (fun (a b : Nat × SendObj) => decide (a.2.pt < b.2.pt)) (x.objs.filter fun (q : Nat × SendObj) => 2 ≤ q.2.st)

/-- A QFRAME: 0 OPEN, 1 DONE, 2 NEXT, on a flow with PT64; `act` answers its status. A DONE first holds for the pushes accepted
before it; hop is then 128 times that operation number, + 64 once the flow was stopped (R394), + the flow. -/
def qframe (f : FSYS) (k : Nat) (send : Bool) (act : State → Nat → Nat → State × Nat) (s : State) : Out :=
  issueWith s
    (let l := legalSys f { sd := true, sa := k ≠ 1, res := true, subs := [k] }
     { l with rsv := l.rsv || decide (16 ≤ f.res.toNat) })
    (fun _ => { reads := if k = 1 then [] else [sreg f.sa.toNat], writes := [sreg f.sd.toNat] }) .one 2 true fun s c _ =>
      if c.fr.phase = 5 then .next ((s.putS c f.sd.toNat (ofN c.fr.hop) (s.clk + 2)).sysDone c f.stl.toNat)
      else if c.fr.phase = 4 then
        let flow := c.fr.hop % 64
        if 64 ≤ c.fr.hop % 128 then .next (s.qframeDone c f.sd.toNat f.stl.toNat 3)
        else if s.pushing flow (c.fr.hop / 128) then .next (s.hold c (.pushes flow (c.fr.hop / 128)) 4)
        else .next ((act s flow 0).1.qframeDone c f.sd.toNat f.stl.toNat (act s flow 0).2)
      else
        match s.binding c.ag f.res.toNat fun g => isSend g = send with
        | none => .next (s.raise c.a c.fid badBinding)
        | some flow =>
          if c.ag.pure then .next (s.raise c.a c.fid purity)
          else if k = 1 ∧ s.pushing flow s.ids then
            .next ((s.hold c (.pushes flow s.ids) 4).updFrag c.a c.fid fun fr => { fr with hop := 128 * s.ids + flow })
          else
            let r := act s flow (c.ag.sr f.sa.toNat).toNat
            .next (r.1.qframeDone c f.sd.toNat f.stl.toNat r.2)

/-- OPEN (R388). With no object to take, the status is a free value (log entry 2). -/
def State.frameOpen (s : State) (flow pt : Nat) : State × Nat :=
  let x := s.flow flow
  if x.objs.any fun (q : Nat × SendObj) => q.2.st = 0 then (s, 1)
  else match x.oldest with
    | none => ({ s with free := s.free + 1 }, (Config.freeDword s.free).toNat)
    | some (k, o) =>
      let o1 : SendObj := { o with pt := pt, st := 0, wpos := 0, ord := x.ords, opened := s.clk, sent := none, due := none }
      (s.setFlow flow { x with objs := KMap.put x.objs k o1, cur := some k, ords := x.ords + 1 }, 0)

/-- pt ≥ PT - GUARD. -/
def State.pastGuard (s : State) (flow pt : Nat) : Bool := decide (pt ≤ s.pt + s.guard flow)

/-- The OPEN object that is opened last becomes SUBSTITUTED (R388). -/
def State.substitute (s : State) (flow k : Nat) (o : SendObj) : State :=
  let x := s.flow flow
  s.setFlow flow { x with objs := KMap.put x.objs k { o with st := 3 }, subs := x.subs ++ [o.pt], nsub := x.nsub + 1 }

/-- DONE (R392). -/
def State.frameDone (s : State) (flow : Nat) : State × Nat :=
  let x := s.flow flow
  match x.cur.bind fun k => (KMap.find? x.objs k).map fun o => (k, o) with
  | none => (s, 1)
  | some (k, o) =>
    if o.st = 3 then (s, 2)
    else if o.st ≠ 0 then (s, 1)
    else if s.pastGuard flow o.pt then (s.substitute flow k o, 2)
    else (s.setFlow flow { x with objs := KMap.put x.objs k { o with st := 1 } }, 0)

/-- NEXT (R392). -/
def State.frameNext (s : State) (flow deadline : Nat) : State :=
  let x := s.flow flow
  s.setFlow flow { x with frames := x.frames.drop 1, pos := 0, deadline := some deadline }

def execQframeOpen (f : FSYS) (s : State) : Out := qframe f 0 true (fun s flow pt => s.frameOpen flow pt) s
def execQframeDone (f : FSYS) (s : State) : Out := qframe f 1 true (fun s flow _ => s.frameDone flow) s
def execQframeNext (f : FSYS) (s : State) : Out := qframe f 2 false (fun s flow d => (s.frameNext flow d, 0)) s

/-- The object that QSTAT reports: the OPEN one, or else the newest. -/
def Flow.report (x : Flow) : Option SendObj :=
  match List.find? (fun (q : Nat × SendObj) => q.2.st = 0) x.objs with
  | some q => some q.2
  | none => (leastBy (fun (a b : Nat × SendObj) => decide (b.2.ord < a.2.ord)) x.objs).map (·.2)

/-- The newest PRESENTED object. -/
def Flow.lastShown (x : Flow) : Option SendObj :=
  (leastBy (fun (a b : Nat × SendObj) => decide (b.2.ord < a.2.ord))
    (x.objs.filter fun (q : Nat × SendObj) => q.2.st = 2)).map (·.2)

/-- The value of a QSTAT item; none where the spec states none. -/
def State.qstat (s : State) (f item : Nat) : Option Nat :=
  let x := s.flow f
  if isSend f then
    match item with
    | 0 => x.report.map (·.pt)
    | 1 => x.report.map fun o => o.st + (o.wpos % 2 ^ 24) * 2 ^ 8
    | 2 => x.lastShown.bind (·.sent)
    | _ => some (x.nsub % 2 ^ 64)
  else
    match item with
    | 0 => some (x.pos % 2 ^ 24 + x.frames.length * 2 ^ 24 + (x.dropped % 2 ^ 32) * 2 ^ 32)
    | 1 => (x.frames.head?).map (·.media)
    | 2 => (x.frames.head?).map (·.hw)
    | _ => some x.bOnly

/-- QSTAT (R393); on die 0 its result comes 32 clk later (R454). -/
def execQstat (f : FSYS) (s : State) : Out :=
  issueWith s
    (let l := legalSys f { sd := true, res := true, subs := [0, 1, 2, 3] }
     { l with rsv := l.rsv || decide (16 ≤ f.res.toNat) })
    (fun _ => { writes := [sreg f.sd.toNat] }) .one 2 true fun s c _ =>
      match s.binding c.ag f.res.toNat fun _ => true with
      | none => .next (s.raise c.a c.fid badBinding)
      | some flow =>
        if c.ag.pure then .next (s.raise c.a c.fid purity)
        else
          let r := match s.qstat flow f.sub.toNat with
            | some v => (s, ofN v)
            | none => ({ s with free := s.free + 1 }, Config.freeDword s.free)
          .next ((r.1.putS c f.sd.toNat r.2 (s.clk + 2 + mediaLag c.ag)).sysDone c f.stl.toNat)

/-! ## Events of the ports (R381, R388, R394) -/

/-- FRAME_SUBSTITUTION: the OPEN object at PT - GUARD, not before the clk after its OPEN. -/
def execFrameSubstitution (flow : Nat) (s : State) : Out :=
  match List.find? (fun (q : Nat × SendObj) => q.2.st = 0) (s.flow flow).objs with
  | none => .next s
  | some (k, o) => if s.pastGuard flow o.pt ∧ o.opened < s.clk then .next (s.substitute flow k o) else .next s

/-- The RENDERED object whose first packet is due. -/
def State.sendDue (s : State) (flow : Nat) : Option (Nat × SendObj) :=
  leastBy (fun (a b : Nat × SendObj) => decide (a.2.pt < b.2.pt))
    ((s.flow flow).objs.filter fun (q : Nat × SendObj) => q.2.st = 1 && q.2.sent.isNone && decide (q.2.pt + s.troff flow ≤ s.pt))

/-- FRAME_SEND_START: a RENDERED object's buffer, or for a substituted frame what the last PRESENTED object sent, goes out under
the frame's own RTP timestamp. How long the frame runs is a free value (log entry 2). -/
def execFrameSendStart (flow : Nat) (s : State) : Out :=
  let x := s.flow flow
  if !s.flowOn flow then .next s
  else
    match x.subs.find? fun p => decide (p + s.troff flow ≤ s.pt) with
    | some p =>
      .next { (s.setFlow flow { x with subs := x.subs.erase p }) with mediaOut := s.mediaOut ++ [(flow, s.rtpOf flow p, x.shown)] }
    | none =>
      match s.sendDue flow with
      | none => .next s
      | some (k, o) =>
        let t := s.clk + 1 + (Config.freeDword s.free).toNat
        .next { (s.setFlow flow { x with objs := KMap.put x.objs k { o with sent := some s.pt, due := some t } }) with
          free := s.free + 1, mediaOut := s.mediaOut ++ [(flow, s.rtpOf flow o.pt, o.buf)] }

/-- The object whose last packet is due. -/
def State.lastDue (s : State) (flow : Nat) : Option (Nat × SendObj) :=
  List.find? (fun (q : Nat × SendObj) => q.2.st = 1 && (match q.2.due with
    | some t => decide (t ≤ s.clk)
    | none => false)) (s.flow flow).objs

/-- FRAME_LAST_PACKET: RENDERED to PRESENTED. -/
def execFrameLastPacket (flow : Nat) (s : State) : Out :=
  let x := s.flow flow
  match s.lastDue flow with
  | none => .next s
  | some (k, o) => .next (s.setFlow flow { x with objs := KMap.put x.objs k { o with st := 2, due := none }, shown := o.buf })

/-- FLOW_ENABLE: EN becomes 1 where the descriptor is valid. -/
def execFlowEnable (flow : Nat) (s : State) : Out :=
  if 64 ≤ flow ∨ s.flowOn flow ∨ !s.flowValid flow then .next s
  else
    let x := s.flow flow
    let objs : KMap SendObj := if isSend flow then (List.range (s.flowBufs flow)).map fun k => (k, ({} : SendObj)) else []
    .next ((s.barPut (blkMedia + 8 * flow) 0 1 1).setFlow flow
      { dropped := x.dropped, bOnly := x.bOnly, nsub := x.nsub, ords := x.ords, objs := objs })

/-- A fragment that a stop of the flow lets go. -/
def Frag.flowStop (f : Frag) (flow : Nat) : Frag :=
  match f.wait with
  | .qpop g => if g = flow then { f with wait := .none } else f
  | .pushes g _ => if g = flow then { f with wait := .none, hop := f.hop + 64 } else f
  | .wbar g _ => if g = flow then { f with wait := .none } else f
  | _ => f

/-- An operation in flight on a flow that stops: a pop that was not served takes nothing; OFF in the status. -/
def Op.flowStop (o : Op) (flow due : Nat) : Op :=
  match o.kind with
  | .qpop g form vd sm ss _ _ =>
    if g = flow ∧ o.todo ≠ 0 then { o with todo := 0, due := due, kind := .qpop g form vd sm ss [] 16 } else o
  | .qpush g ord wpos m els sm ss st => if g = flow ∧ !o.returned ∧ m ≠ 0 then { o with kind := .qpush g ord wpos m els sm ss (st ||| 16) } else o
  | _ => o

/-- Every hold and operation of a group on a flow that stops. -/
def Agent.flowStop (ag : Agent) (flow clk : Nat) : Agent :=
  { ag with frags := ag.frags.map (fun (f : Nat × Frag) => (f.1, f.2.flowStop flow))
            ops := ag.ops.map fun (o : Op) => o.flowStop flow (clk + 24 + mediaLag ag) }

/-- FLOW_DISABLE (R394): EN becomes 0, buffers and objects are discarded, and every hold on the flow ends. -/
def execFlowDisable (flow : Nat) (s : State) : Out :=
  if !s.flowOn flow then .next s
  else
    let x := s.flow flow
    let s1 := (s.barPut (blkMedia + 8 * flow) 0 1 0).setFlow flow
      { dropped := x.dropped, bOnly := x.bOnly, nsub := x.nsub, ords := x.ords }
    .next { s1 with agents := s1.agents.map fun (q : Nat × Agent) => (q.1, q.2.flowStop flow s.clk) }

end Sys2Proof.Machine
end

