-- ==== Sys2Proof/Machine/Wall.lean ====
section
/-!
DEFINITION. The wall (R474 to R478): its registers, the statuses of member cards, runs and the view, and WBAR.
-/
namespace Sys2Proof.Machine

namespace State

def wallEn (s : State) : Bool := s.barFld blkWall 0 1 = 1
def wallMember (s : State) (c : Nat) : Bool := s.barFld (blkWall + 1) c 1 = 1
def wallFlow (s : State) (f : Nat) : Bool := isSend f && s.barFld (blkWall + 2) (f - 32) 1 = 1
/-- This card's view. -/
def wallLive (s : State) : Dword := s.barRd (blkWall + 6)

/-- PT(N) (R474). -/
def wallPt (s : State) (n : Nat) : Nat :=
  (s.barRd (blkWall + 3)).toNat + n * (s.barRd (blkWall + 4)).toNat / (s.barRd (blkWall + 5)).toNat

/-- Statuses for frame N, by card. -/
def wallOf (s : State) (n : Nat) : KMap Nat := (KMap.find? s.wallStat n).getD []

/-- Cards whose status for frame N is RENDERED. -/
def wallRendered (s : State) (n : Nat) : Dword := maskOf (((s.wallOf n).filter fun (q : Nat × Nat) => q.2 ≠ 2).map (·.1))

/-- A member's run grows; at 3 it is out of the view, and MSI-X vector 1 is signalled (R476). -/
def wallMiss (s : State) (card : Nat) : State :=
  let r := min 3 (KMap.get 0 s.wallRuns card + 1)
  let s1 := { s with wallRuns := KMap.set 0 s.wallRuns card r }
  if r = 3 then
    ({ s1 with wallOut := s1.wallOut || card = s.card }.barWr (blkWall + 6) (s.wallLive &&& ~~~(laneBit card))).signal 1
  else s1

/-- Statuses of the last 8 frames. -/
def wallKeep (m : KMap (KMap Nat)) : KMap (KMap Nat) := m.drop (m.length - 8)

/-- A card's status for frame N is known (R475, R476): 1 RENDERED, 2 SUBSTITUTED, 3 RENDERED with a join mark. After the frame's
time it no longer changes the run. -/
def wallStatus (s : State) (card n status : Nat) : State :=
  if !s.wallEn ∨ !s.wallMember card ∨ (KMap.find? (s.wallOf n) card).isSome then s
  else
    let s1 := { s with wallStat := wallKeep (KMap.put s.wallStat n (KMap.put (s.wallOf n) card status)) }
    if status = 3 then
      let me := card = s.card
      { s1 with wallRuns := KMap.set 0 s.wallRuns card 0, wallOut := s.wallOut && !me, wallRejoin := s.wallRejoin && !me }.barWr
        (blkWall + 6) (s.wallLive ||| laneBit card)
    else if n < s.wallNext ∨ !s.wallLive.getLsbD card then s1
    else if status = 1 then { s1 with wallRuns := KMap.set 0 s.wallRuns card 0 }
    else s1.wallMiss card

/-- The first frame whose time has not come. -/
def wallFirst (s : State) : Nat :=
  let wref := (s.barRd (blkWall + 3)).toNat
  let num := (s.barRd (blkWall + 4)).toNat
  let den := (s.barRd (blkWall + 5)).toNat
  if s.pt < wref ∨ num = 0 then 0 else ((s.pt - wref + 1) * den + num - 1) / num

/-- EN of WALLCFG rises: every member is live. -/
def wallEnable (s : State) : State :=
  { s with wallRuns := [], wallOut := false, wallRejoin := false, wallStat := [], wallBars := [], wallNext := s.wallFirst }.barWr
    (blkWall + 6) (s.barRd (blkWall + 1))

/-- The status that this card sends for frame N, once every wall flow's object for it has left OPEN and a WBAR for it has
completed its release (R475). -/
def wallMine (s : State) (n : Nat) : Option Nat :=
  let t := s.wallPt n
  let objs := (s.flows.filter fun (q : Nat × Flow) => s.wallFlow q.1).flatMap fun (q : Nat × Flow) =>
    (q.2.objs.filter fun (o : Nat × SendObj) => o.2.pt = t).map fun (o : Nat × SendObj) => o.2.st
  if !s.wallEn ∨ !s.wallMember s.card ∨ !s.wallBars.contains n ∨ objs.contains 0 ∨ (KMap.find? (s.wallOf n) s.card).isSome then none
  else
    let r := !objs.contains 3
    if !s.wallOut then some (if r then 1 else 2)
    else if s.wallRejoin ∧ r then some 3 else none

end State

/-- The status goes to every member once it may; the card knows its own status at once. -/
def State.wallSend (s : State) (n : Nat) : State :=
  match s.wallMine n with
  | some st => ({ s with wallSent := s.wallSent ++ [(n, st)] }).wallStatus s.card n st
  | none => s

/-- WALL_STATUS_SEND. -/
def execWallStatusSend (frame status : Nat) (s : State) : Out :=
  if s.wallMine frame = some status then .next (s.wallSend frame) else .next s

/-- WALL_STATUS_RECEIVE: the status of another card arrives. -/
def execWallStatusReceive (card frame status : Nat) (s : State) : Out :=
  if 64 ≤ card ∨ card = s.card ∨ status = 0 ∨ 3 < status then .next s else .next (s.wallStatus card frame status)

/-- Frame N's time has come, and its deadline has not been judged. -/
def State.wallDue (s : State) (n : Nat) : Bool :=
  s.wallEn && s.wallMember s.card && n = s.wallNext && s.barRd (blkWall + 5) ≠ 0 && decide (s.wallPt n ≤ s.pt)
    && s.wallClk ≠ some s.clk

/-- WALL_FRAME_DEADLINE: a live member whose status for the frame has not arrived has one more in its run. -/
def execWallFrameDeadline (frame : Nat) (s : State) : Out :=
  if s.wallDue frame then
    let miss := (lanesOf s.wallLive).filter fun c => (KMap.find? (s.wallOf frame) c).isNone
    .next (miss.foldl (fun s c => s.wallMiss c) { s with wallNext := frame + 1, wallClk := some s.clk })
  else .next s

/-- WALL_REJOIN: REJOIN is written on an out card. -/
def execWallRejoin (v : Dword) (s : State) : Out :=
  if v.getLsbD 1 ∧ s.wallOut then .next { s with wallRejoin := true } else .next s

/-- What a WBAR for frame N on a flow still waits for (R477). -/
def State.wbarReady (s : State) (flow n : Nat) : Bool :=
  !s.flowOn flow ||
    (!((s.flow flow).objs.any fun (q : Nat × SendObj) => q.2.pt = s.wallPt n && q.2.st = 0) &&
      (decide (s.wallPt n ≤ s.pt) ||
        (lanesOf s.wallLive).all fun c => (KMap.find? (s.wallOf n) c).isSome))

/-- WBAR (R477). While it holds, hop is 64 N + the flow; phase 4 is the release, 5 the wait, 6 the way from the other die. -/
def execWbar (f : FSYS) (s : State) : Out :=
  issueWith s
    (let l := legalSys f { sd := true, sa := true, sb := true, res := true, subRsv := true }
     { l with rsv := l.rsv || decide (16 ≤ f.res.toNat) })
    (fun _ => { reads := [sreg f.sa.toNat], writes := sregs [f.sd.toNat, f.sb.toNat] }) .one 2 true fun s c _ =>
      let stl := f.stl.toNat
      let done (s : State) (n : Nat) : State :=
        ((s.putS c f.sd.toNat (s.wallRendered n) (s.clk + 2)).putS c f.sb.toNat s.wallLive (s.clk + 2)).sysDone c stl
      let wait (s : State) (flow n : Nat) : State :=
        if s.wbarReady flow n then
          if mediaLag c.ag = 0 ∨ !s.flowOn flow then done s n
          else (s.hold c (.clk (s.clk + 32)) 6).updFrag c.a c.fid fun fr => { fr with hop := 64 * n + flow }
        else (s.hold c (.wbar flow n) 5).updFrag c.a c.fid fun fr => { fr with hop := 64 * n + flow }
      let release (s : State) (flow n : Nat) : State :=
        match s.releaseWait c.a c.ag 4 with
        | some w =>
          match c.ag.rejected (fun o => o.kind.isAccess) with
          | some flt => s.raise c.a c.fid flt
          | none => (s.hold c w 4).updFrag c.a c.fid fun fr => { fr with hop := 64 * n + flow }
        | none =>
          match s.heldPeer c.ag.core c.ag.ctx with
          | some flt => s.raise c.a c.fid flt
          | none =>
            let s1 := { s with wallBars := ((s.wallBars.filter (· ≠ n)) ++ [n]).drop ((s.wallBars.filter (· ≠ n)).length - 7) }
            wait (s1.wallSend n) flow n
      let flow := c.fr.hop % 64
      let n := c.fr.hop / 64
      if c.fr.phase = 6 then .next (done s n)
      else if c.fr.phase = 5 then .next (wait s flow n)
      else if c.fr.phase = 4 then .next (release s flow n)
      else
        let n := (c.ag.sr f.sa.toNat).toNat
        match s.binding c.ag f.res.toNat fun g => s.wallFlow g with
        | none => .next (s.raise c.a c.fid badBinding)
        | some flow =>
          if !s.wallEn ∨ !s.wallMember s.card then .next (s.raise c.a c.fid badBinding)
          else if c.ag.pure then .next (s.raise c.a c.fid purity)
          else if !((s.flow flow).objs.any fun (q : Nat × SendObj) => q.2.pt = s.wallPt n) then .next (s.raise c.a c.fid badBinding)
          else .next (release s flow n)

end Sys2Proof.Machine
end

