-- ==== Sys2Proof/Machine/Return.lean ====
section
/-!
DEFINITION. LOAD_RETURN (R219, R230), the end of holds (R226), SLEEP_WAKE (R99), and the release of groups (R95, R310).
-/
namespace Sys2Proof.Machine

/-! ## LOAD_RETURN -/

/-- The lanes of an operation that another card answers. -/
def Op.peerLanes (o : Op) (s : State) : Dword :=
  let far := maskOf ((o.acc.filter fun a => o.todo.getLsbD a.lane && s.paKind a.pa = .peer).map (·.lane))
  match o.kind with
  | .image .. => far &&& ~~~(maskOf ((o.acc.filter fun a => s.paKind a.pa = .host && a.k = 0).map (·.lane)))
  | _ => far

/-- Lanes that may be performed: those of the card when nothing arrived, those of a peer with what arrived. -/
def Op.mayLoad (o : Op) (s : State) (ag : Agent) (lanes : Dword) (ext : List Byte) : Bool :=
  lanes ≠ 0 && lanes &&& ~~~o.todo = 0 && !ag.blocked o lanes
    && (if ext.isEmpty then lanes &&& ~~~(o.localLanes s) = 0 else lanes &&& ~~~(o.peerLanes s) = 0)

/-- An earlier ray of the agent runs (R356). -/
def Agent.tracing (ag : Agent) (before : Nat) : Bool :=
  ag.rays.any fun (q : Nat × Ray) => decide (q.2.op < before) && q.2.st = .running

/-- The records that an RSTATE reads: zeros in a lane without a live ray. -/
def Agent.rayRecords (ag : Agent) (act : Dword) : List (Nat × List Word) :=
  (lanesOf act).map fun l => (l, match KMap.find? ag.rays l with
    | some r => if ag.rayLive r then r.record else List.replicate 16 0
    | none => List.replicate 16 0)

/-- The words of a lane's result group. -/
def groupVals (vd : Nat) (rs : List (Nat × List Word)) : List (Reg × Nat × Dword) :=
  rs.flatMap fun x => x.2.zipIdx.map fun w => (Reg.v (vd + w.2), x.1, w.1.setWidth 64)

/-- LOAD_RETURN: lanes of a load are performed and land; or an operation of the erg, of a queue or of an engine returns its
result. `ext` holds the bytes that a target card answers, lane by lane. -/
def execLoadReturn (op : Nat) (lanes : Dword) (ext : List Byte) (s : State) : Out :=
  match s.opOwner op with
  | none => .next s
  | some (a, ag, o) =>
    if s.clk < o.due ∨ o.returned then .next s
    else match o.kind with
      | .load sp data scalar hint ord _ =>
        if o.todo = 0 then (if o.rej.isNone then .next (s.returnOp a op) else .next s)
        else if o.mayLoad s ag lanes ext then .next (s.performLoad a ag o sp data scalar hint ord lanes ext)
        else .next s
      | .image data w128 hint d smp co =>
        if o.todo = 0 then (if o.rej.isNone then .next (s.returnOp a op) else .next s)
        else if o.mayLoad s ag lanes ext then .next (s.performImage a ag o data w128 hint d smp co lanes ext)
        else .next s
      | .launch sd status => .next ((s.landVals a o [(.s sd, 0, ofN status)]).returnOp a op)
      | .rstate vd act none =>
        if ag.tracing op then .next s
        else .next (s.updAgent a fun g => g.updOp op fun q =>
          { q with kind := .rstate vd act (some (ag.rayRecords act)), due := s.clk + 24 })
      | .rstate vd _ (some rs) => .next ((s.landVals a o (groupVals vd rs)).returnOp a op)
      | .qpop _ _ vd sm ss vals st =>
        if o.todo ≠ 0 then .next s
        else
          .next ((s.landVals a o (groupVals vd vals ++
            [(.s sm, 0, maskOf (vals.map fun v => v.1)), (.s ss, 0, ofN st)])).returnOp a op)
      | .qpush flow ord wpos mask els sm ss st =>
        let s1 := if st < 16 then s.setFlow flow ((s.flow flow).write ord wpos els) else s
        .next ((s1.landVals a o [(.s sm, 0, mask), (.s ss, 0, ofN st)]).returnOp a op)
      | _ => .next s

/-! ## The end of a hold -/

/-- The condition for which a fragment holds issue is met. -/
def State.holdOver (s : State) (a : Nat) (ag : Agent) (fr : Frag) : Bool :=
  match fr.wait with
  | .walk w => (KMap.find? s.walks w).isNone
  | .clk t => decide (t ≤ s.clk)
  | .ctr c t => decide (ag.ctrVal c ≤ t)
  | .ops ids wall => (ids.all fun i => ((ag.findOp i).map (·.returned)).getD true) && !(wall && s.unacked a)
  | .handle h st ph dl => s.handleIn ag h st ph || decide (dl.toNat ≤ s.pt)
  | .qpop flow => match ag.findOp fr.hop with
    | some o => s.popReady flow (popc o.em)
    | none => true
  | .wbar flow n => s.wbarReady flow n
  | .pushes flow before => !s.pushing flow before
  | .room 0 core => decide (((KMap.find? s.peerBuf core).getD []).length < 64)
  | .room 2 _ => !ag.multiplies
  | .room 3 core =>
    fr.woke ≠ s.clk + 1 && decide ((s.rlocks.filter fun (q : Nat × RLock) => q.1 / 64 = core).length < 64)
  | .room 4 n => decide (n ≤ s.raySlots ag.core)
  | .room 5 p => decide (((KMap.find? s.fragQ p).getD []).length < 64)
  | .xops => !s.xRunning a
  | .xsvc k => !s.xUnserved k
  | .yield => !s.preempting ag.ctx
  | .ended => ag.ops.isEmpty
  | _ => false

/-- HOLD_END: the fragment's instruction goes on where it held. -/
def execHoldEnd (a fid : Nat) (s : State) : Out :=
  match (s.agent? a).bind fun ag => (KMap.find? ag.frags fid).map fun fr => (ag, fr) with
  | none => .next s
  | some (ag, fr) =>
    if s.holdOver a ag fr then .next (s.updFrag a fid fun f => { f with wait := .none, woke := s.clk + 1 }) else .next s

/-- SLEEP_WAKE: pt has reached T. -/
def execSleepWake (a fid : Nat) (s : State) : Out :=
  match (s.agent? a).bind fun ag => KMap.find? ag.frags fid with
  | none => .next s
  | some fr =>
    match fr.wait with
    | .sleep t => if t ≤ s.pt then .next (s.updFrag a fid fun f => { f with wait := .none }) else .next s
    | _ => .next s

/-! ## Release (R95, R310) -/

/-- Other groups of the team that have not been released. -/
def State.otherGroups (s : State) (a : Nat) (tm : Team) : Bool := tm.groups.any fun g => g ≠ a && (s.agent? g).isSome

/-- The team's leats have stopped. -/
def State.leatsOver (s : State) (tm : Team) : Bool := tm.leats.all fun l => ((s.agent? l).map (·.ended)).getD true

/-- Nothing that R310 names holds back the end of a team's last group. -/
def State.engineOver (s : State) (t : Nat) (tm : Team) : Bool :=
  s.leatsOver tm && !(s.xops.any fun (q : Nat × Xop) => q.2.team = t && q.2.by' ≠ 2)
    && !(s.handles.any fun (q : Nat × Handle) => q.2.team = t && (q.2.st = 1 || q.2.st = 3 || q.2.deferred))

/-- An ended group's counters are zero, its writes have landed, and its team's engine work is over. -/
def State.mayRelease (s : State) (a : Nat) (ag : Agent) : Bool :=
  let tm := s.teamOf ag
  ag.ended && !ag.isLeat && ag.ops.isEmpty && ag.pend.isEmpty
    && (s.otherGroups a tm || tm.leats.isEmpty || s.engineOver ag.team tm)

/-- A parked operation of a team whose leats have all stopped (R310). -/
def State.stranded (s : State) (ag : Agent) : Option Xop :=
  let tm := s.teamOf ag
  if ag.isLeat && ag.ended && s.leatsOver tm then
    (List.find? (fun (q : Nat × Xop) => q.2.team = ag.team && q.2.by' ≠ 2 && q.2.st = .parked) s.xops).map (·.2)
  else none

/-- What a group holds goes back: banks, rays, pins. -/
def State.dropGroup (s : State) (a : Nat) (ag : Agent) : State :=
  let s1 := ag.banks.foldl (fun s (b : Nat × Nat) => s.dropBank ag.ctx ag.core b.2) s
  let s2 := ag.rays.foldl (fun s (r : Nat × Ray) => s.unpin r.2.gen) s1
  let s3 := ag.pins.foldl (fun s p => s.unpin p.2) s2
  s3.updAgent a fun g => { g with banks := [], rays := [], pins := [] }

/-- A team leaves residency: its leats, its handles (R315). -/
def State.dropTeam (s : State) (t : Nat) (tm : Team) : State :=
  { s with
    agents := s.agents.filter (fun (q : Nat × Agent) => !(tm.leats.contains q.1))
    handles := s.handles.filter (fun (q : Nat × Handle) => q.2.team ≠ t)
    teams := KMap.del s.teams t }

/-- GROUP_RELEASE: the slot, the registers and the banks are released, and with the last group the team. A task group tells its
task (R373). For a leat that was the last to stop: a parked operation is fatal. -/
def execGroupRelease (a : Nat) (s : State) : Out :=
  match s.agent? a with
  | none => .next s
  | some ag =>
    let tm := s.teamOf ag
    match s.stranded ag with
    | some x =>
      .next (s.fatal { (s.xRaiser x) with pc := x.pc } (x.fault.getD { code := 1 }))
    | none =>
      if !s.mayRelease a ag then .next s
      else
        let s1 := s.dropGroup a ag
        match ag.task with
        | some t => .next (if ((KMap.find? s.tasks t).map fun x => decide (x.st = .running)).getD false then
            s1.updTask t fun x => { x with st := .ended } else s1)
        | none =>
          let s2 := { s1 with agents := KMap.del s1.agents a }
          .next (if s.otherGroups a tm then s2 else s2.dropTeam ag.team tm)

end Sys2Proof.Machine
end

