-- ==== Sys2Proof/Machine/Faults.lean ====
section
/-!
DEFINITION. The fault queue, resumption and killing (R408 to R410), context commands, TLB invalidation (R416), and the discard of
a context by a fatal fault (R423).
-/
namespace Sys2Proof.Machine

/-! ## The fault queue (R408, R409) -/

def State.fqSize (s : State) : Nat := 2 ^ (s.barFld blkFault 52 4 + 6)
def State.fqHead (s : State) : Nat := s.barFld (blkFault + 1) 0 32
def State.fqTail (s : State) : Nat := s.barFld (blkFault + 1) 32 32

/-- The ring takes a record. -/
def State.fqRoom (s : State) : Bool :=
  s.barFld blkFault 56 1 = 1 && (s.fqTail + 2 ^ 32 - s.fqHead) % 2 ^ 32 ≠ s.fqSize

/-- FAULT_RECORD_WRITE: the record, then FQTAIL, then the interrupt; or the record waits and OVF is set. -/
def execFaultRecordWrite (s : State) : Out :=
  match s.faultQ with
  | [] => .next s
  | r :: rest =>
    if s.fqRoom then
      let a := s.barFld blkFault 0 52 + 64 * (s.fqTail % s.fqSize)
      let s1 := { s with faultQ := rest, faultWait := false }.unitWrite a (bytesOf 64 r.toNat)
      .next ((s1.barPut (blkFault + 1) 32 32 (s.fqTail + 1)).signal 0)
    else if s.faultWait then .next s
    else .next ({ s with faultWait := true }.barPut blkFault 57 1 1)

/-! ## RETRY and KILL (R410) -/

/-- The instruction at a fragment's pc is a BRK. -/
def Frag.atBrk (f : Frag) : Bool :=
  f.k ≠ 0 && (match decodeIn (Header.dec f.hdr).cls (f.code.getD (f.k - 1) 0) with
    | some (.brk _) => true
    | _ => false)

/-- A fragment goes on where it stopped: past a BRK, else at the same instruction or header. -/
def Frag.resume (f : Frag) (clk : Nat) : Frag := if f.atBrk then f.adv (clk + 1) else { f with wait := .none, phase := 0 }

/-- Parked rays retry their step, rejected lanes are issued again (R357, R465). -/
def Agent.retryHeld (ag : Agent) (clk : Nat) : Agent :=
  { ag with
    rays := ag.rays.map fun (q : Nat × Ray) =>
      if q.2.st = .parked then (q.1, { q.2 with st := .running, due := max q.2.due clk }) else q
    ops := ag.ops.map fun (o : Op) =>
      if o.rej.isNone then o
      else { o with rej := none, due := match o.kind with
        | .trace .. => o.due
        | _ => clk + 110 } }

/-- A stopped group, or a parked leat, goes on. -/
def State.retryAgent (s : State) (token a fid : Nat) (ag : Agent) : State :=
  match ag.stop with
  | some st =>
    if st.token ≠ token then s
    else
      let ag1 := { (if st.held then ag.retryHeld s.clk else ag) with stop := none }
      s.putAgent a (ag1.updFrag st.fid fun f => f.resume s.clk)
  | none => s.updFrag a fid fun f =>
      if f.wait = .stopped token then (if ag.imgTodo.isEmpty then f.resume s.clk else { f.resume s.clk with next := s.clk }) else f

def State.dropToken (s : State) (t : Nat) : State := { s with tokens := KMap.del s.tokens t }

/-- FAULT_RETRY. -/
def execFaultRetry (token : Nat) (s : State) : Out :=
  match KMap.find? s.tokens token with
  | none => .next s
  | some ref =>
    let s1 := s.dropToken token
    match ref with
    | .agent a fid => match s1.agent? a with
      | none => .next s1
      | some ag => .next (s1.retryAgent token a fid ag)
    | .sluice x => match KMap.find? s1.xops x with
      | none => .next s1
      | some o => .next (if o.by' = 2 then s1.xResume x o else s1.updXop x fun y => { y with sv := true })
    | .builder die => match (s1.builder die).run with
      | none => .next s1
      | some r => .next (s1.setRun die { r with parked := false, fault := none })
    | .queue q => .next (s1.setQ q { s1.qState q with parked := false, due := max (s1.qState q).due s.clk })
    | .gridRec g => .next (s1.updGrid g fun y => if y.st = .parked then { y with st := .rec1, due := s.clk } else y)
    | .taskRec t => .next (s1.updTask t fun y => { y with parked := false })

def killed : Flt := { code := 36 }

/-- FAULT_KILL: fatal to the context of the agent that the token names; recorded while that is saved. -/
def execFaultKill (token : Nat) (s : State) : Out :=
  match KMap.find? s.tokens token with
  | none => .next s
  | some ref =>
    let s1 := s.dropToken token
    match ref with
    | .agent a fid => match s1.agent? a with
      | none => .next s1
      | some ag =>
        if (s1.teamOf ag).saved then .next (s1.updTeam ag.team fun t => { t with killed := true })
        else .next (s1.fatal (ag.raiser fid (((KMap.find? ag.frags fid).map Frag.pc).getD 0)) killed)
    | .sluice x => match KMap.find? s1.xops x with
      | none => .next s1
      | some o =>
        if ((s1.team? o.team).map (·.saved)).getD false then .next (s1.updTeam o.team fun t => { t with killed := true })
        else .next (s1.fatal (s1.xRaiser o) killed)
    | .builder die => match (s1.builder die).run with
      | none => .next s1
      | some r => .next (s1.fatal (s1.unitRaiser 5 r.cmd.ctx (64 * die) (opk := r.opk)) killed)
    | .queue q => .next (s1.fatal (s1.unitRaiser 8 (s1.qCtx q) 0 (opk := 13)) killed)
    | .gridRec g => match KMap.find? s1.grids g with
      | none => .next s1
      | some y => .next (s1.fatal (s1.unitRaiser 8 y.ctx 0 (opk := 12)) killed)
    | .taskRec t => match KMap.find? s1.tasks t with
      | none => .next s1
      | some y => .next (s1.fatal (s1.unitRaiser 4 y.ctx y.core (opk := 12)) killed)

/-! ## TLB invalidation (R416) -/

/-- A translation that an invalidation covers. -/
def Tlb.gone (t : Tlb) (scope ctx va : Nat) : Bool :=
  match scope with
  | 0 => t.covers ctx va
  | 1 => t.ctx = ctx
  | _ => true

/-- A walk that it covers. -/
def Walk.gone (w : Walk) (scope ctx va : Nat) : Bool :=
  match scope with
  | 0 => w.ctx = ctx && w.va / 2 ^ 16 = va / 2 ^ 16
  | 1 => w.ctx = ctx
  | _ => true

/-- Operations that translated an address and have not been performed, and are not held by a rejection. -/
def Op.translated (o : Op) : Bool :=
  !o.returned && o.rej.isNone && (o.kind.isAccess || (match o.kind with
    | .matrix .. => true
    | _ => false))

/-- An invalidation begins: the covered translations are dropped, and TIBUSY is 1. -/
def State.tlbDrop (s : State) (scope ctx va : Nat) : State :=
  let mine (c : Nat) : Bool := scope = 2 || c = ctx
  let ops := (s.agents.filter fun (q : Nat × Agent) => mine q.2.ctx).flatMap fun (q : Nat × Agent) =>
    (q.2.ops.filter Op.translated).map (·.id)
  let ps := (s.xops.filter fun (q : Nat × Xop) => mine q.2.ctx).flatMap fun (q : Nat × Xop) => q.2.out.map fun p => (q.1, p.1)
  { (s.barPut (blkFault + 3) 63 1 1) with
    cores := s.cores.map fun (q : Nat × Core) => (q.1, { q.2 with tlb := q.2.tlb.filter fun t => !t.gone scope ctx va })
    l2tlb := s.l2tlb.map fun (q : Nat × List Tlb) => (q.1, q.2.filter fun t => !t.gone scope ctx va)
    walks := s.walks.filter fun (q : Nat × Walk) => !q.2.gone scope ctx va
    tlbInv := some { scope := scope, ctx := ctx, va := va, due := s.clk + (if scope = 0 then 64 else 512), ops := ops, pieces := ps } }

def execTlbInvalidatePage (ctx vpn : Nat) (s : State) : Out :=
  if s.tlbInv.isSome then .next s else .next (s.tlbDrop 0 ctx (4096 * vpn))
def execTlbInvalidateContext (ctx : Nat) (s : State) : Out := if s.tlbInv.isSome then .next s else .next (s.tlbDrop 1 ctx 0)
def execTlbInvalidateAll (s : State) : Out := if s.tlbInv.isSome then .next s else .next (s.tlbDrop 2 0 0)

/-- The entries are dropped and the accesses in flight are done. -/
def State.tlbOver (s : State) (t : TlbInv) : Bool :=
  decide (t.due ≤ s.clk) &&
    (t.ops.all fun i => match s.opOwner i with
      | some (_, _, o) => !o.translated
      | none => true) &&
    t.pieces.all fun p => match KMap.find? s.xops p.1 with
      | some x => !(x.out.any fun q => q.1 = p.2)
      | none => true

/-- TLB_INVALIDATION_DONE: TIBUSY falls. -/
def execTlbInvalidationDone (s : State) : Out :=
  match s.tlbInv with
  | none => .next s
  | some t => if s.tlbOver t then .next { (s.barPut (blkFault + 3) 63 1 0) with tlbInv := none } else .next s

/-! ## Context commands (R408, R411, R425) -/

/-- A context command is done: CBUSY falls with the last one. -/
def State.cmdDone (s : State) (ctx : Nat) : State :=
  let rest := s.cmds.filter (· ≠ ctx)
  if rest.isEmpty ∧ !s.cmds.isEmpty then { (s.barPut (blkFault + 4) 63 1 0) with cmds := [] } else { s with cmds := rest }

/-- CONTEXT_PREEMPT: a request, merged with one in progress (R425). -/
def execContextPreempt (ctx : Nat) (s : State) : Out :=
  if s.preempting ctx ∨ (KMap.find? s.fatals ctx).isSome then .next s
  else .next { s with preempts := KMap.put s.preempts ctx { pt := s.pt } }

/-- CONTEXT_KILL: fatal with KILLED (R423). -/
def execContextKill (ctx : Nat) (s : State) : Out := .next (s.fatal (s.unitRaiser 7 ctx 0) killed)

/-- CONTEXT_DEAD_CLEAR: ignored while the discard runs (R411). -/
def execContextDeadClear (ctx : Nat) (s : State) : Out :=
  if (KMap.find? s.fatals ctx).isSome then .next s else .next (s.barPut (blkCtx + 8 * ctx) 1 1 0)

/-! ## The discard (R423) -/

/-- An access of the context that has issued is performed, or dropped: a free choice for each lane (log entry 2). -/
def State.spendOps (s : State) (ctx : Nat) : State :=
  let mine : List (Nat × Op) := (s.agents.filter fun (q : Nat × Agent) => q.2.ctx = ctx).flatMap fun (q : Nat × Agent) =>
    (q.2.ops.filter fun o => !o.returned).map fun o => (q.1, o)
  mine.foldl (init := s) fun s q =>
    match s.agent? q.1 with
    | none => s
    | some ag =>
      let keep := maskOf ((lanesOf (q.2.localLanes s)).filter fun l => Config.freeBit (s.free + l))
      let s1 := { s with free := s.free + 64 }
      if keep = 0 then s1
      else match q.2.kind with
        | .store .glob _ hint ord => s1.performStore q.1 ag q.2 .glob hint ord.isSome keep
        | .atomic .glob aop ord sch data => s1.performAtomic q.1 ag q.2 .glob aop ord sch data keep []
        | _ => s1

/-- Banks: the context's own holdings go back, spilled where they are foreign; foreign banks that bear its tag are emptied (R422). -/
def State.discardBanks (s : State) (ctx : Nat) : State :=
  let mine := s.agents.filter fun (q : Nat × Agent) => q.2.ctx = ctx && !((s.team? q.2.team).map (·.saved)).getD false
  let s1 := mine.foldl (init := s) fun s (q : Nat × Agent) => q.2.banks.foldl (fun s b => s.dropBank ctx q.2.core b.2) s
  { s1 with accs := s1.accs.map fun (q : Nat × Bank) =>
      if q.2.tag ≠ ctx ∨ q.2.st = .zeroing ∨ q.2.st = .free then q
      else if q.2.st = .parked then (q.1, { st := .zeroing, at' := s.clk + 16 })
      else (q.1, { q.2 with vals := [], tag := ((s1.agent? q.2.holder).map (·.ctx)).getD 0 }) }

/-- Builder commands end FAULTED; a generation being built is freed (R345, R346). -/
def State.discardBuilds (s : State) (ctx : Nat) : State :=
  let faulted (s : State) (c : BuildCmd) : State := match s.buildRecord c 5 0 0 0 with
    | .ok s1 => s1
    | .error _ => s
  [0, 1].foldl (init := s) fun s die =>
    let b := s.builder die
    let s1 := (b.queue.filter fun c => c.ctx = ctx).foldl faulted s
    let s2 := s1.setBuilder die { b with queue := b.queue.filter fun c => c.ctx ≠ ctx }
    match b.run with
    | some r => if r.cmd.ctx = ctx then (faulted s2 r.cmd).endBuild die else s2
    | none => s2

/-- Nothing of the context is left in any unit. -/
def State.discardUnits (s : State) (ctx : Nat) : State :=
  let gone := (s.agents.filter fun (q : Nat × Agent) => q.2.ctx = ctx).map (·.1)
  let teams := (s.teams.filter fun (q : Nat × Team) => q.2.ctx = ctx).map (·.1)
  let xs := (s.xops.filter fun (q : Nat × Xop) => q.2.ctx = ctx).map (·.1)
  let s1 := (s.agents.filter fun (q : Nat × Agent) => q.2.ctx = ctx).foldl (init := s) fun s (q : Nat × Agent) =>
    q.2.pins.foldl (fun s p => s.unpin p.2) (q.2.rays.foldl (fun s (r : Nat × Ray) => s.unpin r.2.gen) s)
  let ops := (s.agents.filter fun (q : Nat × Agent) => q.2.ctx = ctx).flatMap fun (q : Nat × Agent) => q.2.ops.map (·.id)
  { s1 with
    agents := s1.agents.filter fun (q : Nat × Agent) => q.2.ctx ≠ ctx
    teams := s1.teams.filter fun (q : Nat × Team) => q.2.ctx ≠ ctx
    handles := s1.handles.filter fun (q : Nat × Handle) => !(teams.contains q.2.team)
    xops := s1.xops.filter fun (q : Nat × Xop) => q.2.ctx ≠ ctx
    rlocks := s1.rlocks.filter fun (q : Nat × RLock) => !(xs.contains q.2.op) && !(ops.contains q.2.op)
    hostReqs := s1.hostReqs.filter fun (q : Nat × HostReq) =>
      if q.2.piece.isSome then !(xs.contains q.2.op) else !(gone.contains q.2.agent)
    fabReqs := s1.fabReqs.filter fun (q : Nat × FabReq) =>
      if q.2.kind = 3 then !(xs.contains q.2.op) else !(gone.contains q.2.agent)
    peerBuf := (s1.peerBuf.map fun (q : Nat × List PeerLine) => (q.1, q.2.filter fun l => l.ctx ≠ ctx)).filter fun q => !q.2.isEmpty
    aq := (s1.aq.map fun (q : Nat × List (Nat × Nat)) => (q.1, q.2.filter fun p => !(gone.contains p.1))).filter fun q => !q.2.isEmpty
    quads := (s1.quads.map fun (q : Nat × List (Nat × Nat)) => (q.1, q.2.filter fun p => !(gone.contains p.1))).filter fun q => !q.2.isEmpty
    fragQ := (s1.fragQ.map fun (q : Nat × List (Nat × Nat)) => (q.1, q.2.filter fun p => !(gone.contains p.1))).filter fun q => !q.2.isEmpty
    preempts := KMap.del s1.preempts ctx
    tokens := s1.tokens.filter fun (q : Nat × TokRef) => match q.2 with
      | .agent a _ => !(gone.contains a)
      | .sluice x => !(xs.contains x)
      | _ => true }

/-- Grids and tasks of the context that are not complete go to their records with FAULTED. -/
def State.discardGrids (s : State) (ctx : Nat) : State :=
  { s with
    grids := s.grids.map fun (q : Nat × Grid) =>
      if q.2.ctx ≠ ctx then q
      else (q.1, { q.2 with st := .rec1, code := 3, reason := 0, due := s.clk + 1, node := none, nodes := [] })
    tasks := s.tasks.map fun (q : Nat × Task) =>
      if q.2.ctx ≠ ctx then q
      else (q.1, { q.2 with st := .recording, code := 3, reason := 0, team := 0, agent := 0, parked := false, due := s.clk }) }

/-- The records of the context are written. -/
def State.discardOver (s : State) (ctx : Nat) : Bool :=
  !(s.grids.any fun (q : Nat × Grid) => q.2.ctx = ctx) && !(s.tasks.any fun (q : Nat × Task) => q.2.ctx = ctx)

/-- FATAL_DISCARD: the work is discarded; and once every FAULTED record is written, the fatal record goes to the fault queue. -/
def execFatalDiscard (ctx : Nat) (s : State) : Out :=
  match KMap.find? s.fatals ctx with
  | none => .next s
  | some (r, false) =>
    let s1 := (((s.spendOps ctx).discardBanks ctx).discardUnits ctx).discardBuilds ctx
    .next { (s1.discardGrids ctx) with fatals := KMap.put s1.fatals ctx (r, true) }
  | some (r, true) =>
    if s.discardOver ctx then .next (({ s with fatals := KMap.del s.fatals ctx }.queueRec r).cmdDone ctx) else .next s

end Sys2Proof.Machine
end

