-- ==== Sys2Proof/Machine/Preempt.lean ====
section
/-!
DEFINITION. Pre-emption (R424 to R431): yield points, the save of a context, the restore of a team, and the yield budget.
-/
namespace Sys2Proof.Machine

/-! ## Yield points (R313, R424) -/

/-- A fragment of a group stands at a yield point. -/
def State.fragAtYield (s : State) (ag : Agent) (fr : Frag) : Bool :=
  match fr.wait with
  | .yield => true
  | .sleep _ => true
  | .aalloc _ => true
  | .handle .. => true
  | .qpop _ => true
  | .wbar .. => true
  | .barrier .. => true
  | .join _ => true
  | .none => fr.k = 0 && !fr.code.isEmpty && (Header.dec fr.hdr).hw = 1 && !headerHandle s ag (Header.dec fr.hdr)
  | _ => false

/-- A leat that is blocked, stopped or parked. -/
def leatAtYield (ag : Agent) : Bool :=
  ag.ended || ag.frags.any fun (f : Nat × Frag) => match f.2.wait with
    | .xops => true
    | .xsvc _ => true
    | .xop _ => true
    | .halo _ => true
    | .handle .. => true
    | .sleep _ => true
    | .stopped _ => true
    | _ => false

def State.atYield (s : State) (ag : Agent) : Bool :=
  if ag.isLeat then leatAtYield ag
  else ag.ended || ag.stop.isSome || (ag.handler.isNone && ag.frags.all fun (f : Nat × Frag) => s.fragAtYield ag f.2)

/-- Resident groups and leats of a context; a task that is not dispatched has no group yet. -/
def State.residents (s : State) (ctx : Nat) : List (Nat × Agent) :=
  s.agents.filter fun (q : Nat × Agent) => q.2.ctx = ctx && q.2.started && !(s.teamOf q.2).saved

/-- Those that run on. -/
def State.unyielded (s : State) (ctx : Nat) : List (Nat × Agent) :=
  (s.residents ctx).filter fun (q : Nat × Agent) => !q.2.latched && !s.atYield q.2

/-- From clk to clk: agents of a context being pre-empted that stand at a yield point stay there; the others count against the
yield budget (R425, R431). -/
def State.yieldTick (s : State) : State :=
  if s.preempts.isEmpty then s
  else
    { s with
      agents := s.agents.map fun (q : Nat × Agent) =>
        if s.preempting q.2.ctx ∧ q.2.started ∧ !(s.teamOf q.2).saved ∧ s.atYield q.2 then (q.1, { q.2 with latched := true }) else q
      preempts := s.preempts.map fun (q : Nat × Preempt) =>
        if (s.unyielded q.1).isEmpty then q else (q.1, { q.2 with count := q.2.count + 1 }) }

/-- The budget of a pre-emption is used up. -/
def State.overBudget (s : State) (ctx : Nat) : Bool :=
  match KMap.find? s.preempts ctx with
  | some p => decide (s.ctxBudget ctx ≤ p.count) && !(s.unyielded ctx).isEmpty
  | none => false

/-- YIELD_BUDGET_EXPIRY: WATCHDOG, naming the lowest core and slot not at a yield point. -/
def execYieldBudgetExpiry (ctx : Nat) (s : State) : Out :=
  if !s.overBudget ctx then .next s
  else
    let us := s.unyielded ctx
    let req := ((KMap.find? s.preempts ctx).map (·.pt)).getD 0
    match leastBy (fun (x y : Nat × Agent) => decide (x.2.core < y.2.core ∨ (x.2.core = y.2.core ∧ x.2.slot < y.2.slot))) us with
    | none => .next s
    | some (_, ag) =>
      let fid := ((KMap.keys ag.frags).head?).getD 0
      .next (s.fatal (ag.raiser fid (((KMap.find? ag.frags fid).map Frag.pc).getD 0)) { code := 32, info := req + us.length * 2 ^ 64 })

/-! ## The save (R425 to R427) -/

/-- An operation that stays in flight at a yield point (R426). -/
def Op.held (o : Op) : Bool :=
  match o.kind with
  | .qpop .. => o.todo ≠ 0
  | _ => o.rej.isSome

/-- Every agent of the context stands at a yield point, and nothing but held operations is in flight. -/
def State.maySave (s : State) (ctx : Nat) : Bool :=
  (match KMap.find? s.preempts ctx with
    | some p => p.saving.isNone
    | none => false)
  && (s.unyielded ctx).isEmpty
  && ((s.residents ctx).all fun (q : Nat × Agent) => q.2.ops.all Op.held)
  && !(s.xops.any fun (q : Nat × Xop) => q.2.ctx = ctx && q.2.st = .running)

/-- The group stands at YIELDs only: their liveness records. -/
def Agent.liveRecs (ag : Agent) : Option (List Nat) :=
  if !ag.isLeat ∧ !ag.frags.isEmpty ∧ ag.stop.isNone ∧ (ag.frags.all fun (f : Nat × Frag) => f.2.wait = .yield) then
    some (ag.frags.map fun (f : Nat × Frag) => numOf f.2.live)
  else none

/-- Whether bit i is set in some of the records. -/
def anyBit (rs : List Nat) (i : Nat) : Bool := rs.any fun r => natFld r i 1 = 1

/-- Bytes that the save engine writes for a group, its live state only (R427). -/
def Agent.saveBytes (ag : Agent) : Nat :=
  match ag.liveRecs with
  | none => 4 * ag.width * ag.nv + 1024
  | some rs => 64 * ag.width * ((List.range 64).filter fun i => anyBit rs i).length
      + 8 * ((List.range 128).filter fun i => anyBit rs (64 + i)).length
      + (rs.map fun r => ((liveRanges r).map (·.2)).foldl (· + ·) 0).foldl (· + ·) 0

/-- Bytes of the core that has most to save. -/
def State.saveBytes (s : State) (ctx : Nat) : Nat :=
  let rs := s.residents ctx
  let per (c : Nat) : Nat := (rs.filter fun (q : Nat × Agent) => q.2.core = c).foldl (fun n (q : Nat × Agent) => n + q.2.saveBytes) 0
    + (s.teams.filter fun (q : Nat × Team) => q.2.ctx = ctx && !q.2.saved && q.2.core = c
        && q.2.groups.any fun a => ((s.agent? a).map fun ag => ag.liveRecs.isNone).getD false).foldl (fun n (q : Nat × Team) => n + q.2.size) 0
  ((rs.map fun (q : Nat × Agent) => q.2.core).eraseDups.map per).foldl max 0

/-- CONTEXT_SAVE: the save engine starts; how much it writes beyond the live registers and ranges is its own (log entry 2). -/
def execContextSave (ctx : Nat) (s : State) : Out :=
  if !s.maySave ctx then .next s
  else
    let d := s.draw 65536
    let t := if (s.residents ctx).isEmpty then s.clk else s.clk + 600 + (s.saveBytes ctx + 127) / 128 + d.2
    .next { d.1 with
      preempts := KMap.upd s.preempts ctx fun p => { p with saving := some t }
      agents := d.1.agents.map fun (q : Nat × Agent) =>
        if q.2.ctx = ctx ∧ q.2.started ∧ !(s.teamOf q.2).saved then (q.1, { q.2 with latched := true }) else q }

/-- What a fragment waits for once its team is placed again (R428): an AALLOC, a QPOP that was not served and an X instruction issue
again. -/
def Frag.saved (ops : List Op) (f : Frag) : Frag :=
  let again : Frag := { f with wait := .none, phase := 0, hop := 0, fault := none }
  match f.wait with
  | .aalloc _ => again
  | .qpop _ => again
  | .xop _ => again
  | .none =>
    let pop := ops.any fun o => o.id = f.hop && (match o.kind with
      | .qpop .. => true
      | _ => false)
    if 4 ≤ f.phase ∧ !pop then f else again
  | _ => f

/-- Registers that a save keeps: every one, or those that the records mark. -/
def Agent.keepLive (ag : Agent) : Agent :=
  match ag.liveRecs with
  | none => ag
  | some rs =>
    { ag with
      vregs := ag.vregs.filter fun (q : Nat × Word) => anyBit rs (q.1 / 64 / 16)
      sregs := ag.sregs.filter fun (q : Nat × Dword) => anyBit rs (64 + q.1) }

/-- Rays of a group whose records leave traversal state out are abandoned; an operation that only they held is counted off
(R358, R426). -/
def State.dropRays (s : State) (a : Nat) (ag : Agent) : State :=
  match ag.liveRecs with
  | none => s
  | some rs =>
    if anyBit rs 448 then s
    else
      let s1 := ag.rays.foldl (fun s (r : Nat × Ray) => s.unpin r.2.gen) s
      (ag.ops.filter fun o => o.rej.isSome).foldl (init := s1.updAgent a fun g => { g with rays := [] }) fun s o =>
        match o.kind with
        | .trace vd res => (s.landVals a o (groupVals vd res)).returnOp a o.id
        | _ => s

/-- A group or leat leaves its core. -/
def State.saveAgent (s : State) (a : Nat) : State :=
  match s.agent? a with
  | none => s
  | some ag0 =>
    let s1 := (s.updAgent a fun g => g.land (s.clk + 2 ^ 32)).dropRays a ag0
    match s1.agent? a with
    | none => s1
    | some ag =>
      let s2 := ag.banks.foldl (fun s (b : Nat × Nat) =>
        s.setBank ag.core b.2 { s.bank ag.core b.2 with st := .parked, at' := s.clk }) s1
      { (s2.putAgent a { ag.keepLive with
          latched := false
          frags := ag.frags.map fun (f : Nat × Frag) => (f.1, f.2.saved ag.ops)
          ops := ag.ops.filter fun (o : Op) => o.rej.isSome }) with
        engs := s2.engs.map fun (q : Nat × Eng) => (q.1, { q.2 with own := q.2.own.filter fun (o : Nat × Nat) => o.2 ≠ a })
        aq := (s2.aq.map fun (q : Nat × List (Nat × Nat)) => (q.1, q.2.filter fun p => p.1 ≠ a)).filter fun q => !q.2.isEmpty
        xops := s2.xops.filter fun (q : Nat × Xop) => !(q.2.agent = a ∧ q.2.by' ≠ 2 ∧ q.2.st = .waiting) }

/-- Scratchpad bytes of a team that the save keeps: all, or the ranges of its groups' records and its handles' headers. -/
def State.keepScr (s : State) (t : Nat) (tm : Team) : KMap Byte :=
  let ags := tm.groups.filterMap fun a => s.agent? a
  if ags.any fun ag => ag.liveRecs.isNone then tm.scr
  else
    let rs := (ags.flatMap fun ag => (ag.liveRecs.getD []).flatMap liveRanges)
      ++ (s.handles.filter fun (h : Nat × Handle) => h.2.team = t).map fun (h : Nat × Handle) => (h.2.roff, 64)
    tm.scr.filter fun (b : Nat × Byte) => rs.any fun r => decide (r.1 ≤ b.1 ∧ b.1 < r.1 + r.2)

/-- Moves the handles of a team between a core's table and its saved state. -/
def State.moveHandles (s : State) (t : Nat) (key : Nat → Nat) : State :=
  let mine := s.handles.filter fun (h : Nat × Handle) => h.2.team = t
  let rest := s.handles.filter fun (h : Nat × Handle) => h.2.team ≠ t
  { s with handles := mine.foldl (fun m h => KMap.put m (key (h.1 % 256)) h.2) rest }

/-- A team leaves residency. -/
def State.saveTeam (s : State) (t : Nat) : State :=
  match s.team? t with
  | none => s
  | some tm =>
    let scr := s.keepScr t tm
    let s1 := (tm.groups ++ tm.leats).foldl (fun s a => s.saveAgent a) s
    let xs := (s1.xops.filter fun (q : Nat × Xop) => q.2.team = t).map (·.1)
    ((xs.foldl (fun s x => s.unlock x) s1).moveHandles t (savedKey t)).updTeam t fun m => { m with saved := true, scr := scr }

/-- CONTEXT_SAVE_DONE: the teams leave residency together, and CBUSY falls. -/
def execContextSaveDone (ctx : Nat) (s : State) : Out :=
  match KMap.find? s.preempts ctx with
  | none => .next s
  | some p =>
    match p.saving with
    | none => .next s
    | some d =>
      if s.clk < d then .next s
      else
        let ts := ((s.residents ctx).map fun (q : Nat × Agent) => q.2.team).eraseDups
        let s1 := ts.foldl (fun (s : State) t => s.saveTeam t) s
        .next (({ s1 with preempts := KMap.del s.preempts ctx }).cmdDone ctx)

/-! ## The restore (R428 to R430) -/

/-- One bank of a restored group: taken back in place, or granted on the new core with its saved contents. -/
def State.restoreBank (s : State) (a oldCore newCore ctx lb p : Nat) : State :=
  let b := s.bank oldCore p
  let mine := b.st = .parked && b.own = (a, lb)
  if mine ∧ oldCore = newCore then s.setBank oldCore p { b with st := .held, holder := a }
  else
    -- taken by another group and not spilled yet: spilled now, for its contents to be there (log entry 40)
    let theirs := b.st = .held && decide (b.holder ≠ a) && b.own = (a, lb) && b.tag = ctx
    let s1 := if mine then (s.spillBank oldCore p b.tag).setBank oldCore p { st := .zeroing, at' := s.clk + 16 }
      else if theirs then s.spillBank oldCore p (((s.agent? b.holder).map (·.ctx)).getD ctx)
      else s
    match s1.freeBanks newCore with
    | [] => s1
    | q :: _ =>
      let s2 := if (s1.bank newCore q).st = .parked then s1.spillBank newCore q ctx else s1
      let vals := ((s2.agent? a).bind fun ag => KMap.find? ag.spill lb).getD []
      (s2.setBank newCore q { st := .held, holder := a, tag := ctx, own := (a, lb), vals := vals }).updAgent a fun ag =>
        { ag with banks := KMap.put ag.banks lb q, spill := KMap.del ag.spill lb }

/-- The rays of a restored group take new slots. -/
def State.restoreRays (s : State) (a core : Nat) (ag : Agent) : State :=
  let used := (s.coreRays core).map (·.slot)
  let free := (List.range 2048).filter fun i => !used.contains i
  s.updAgent a fun g => { g with rays := ag.rays.zipIdx.map fun (q : (Nat × Ray) × Nat) => (q.1.1, { q.1.2 with slot := free.getD q.2 0 }) }

/-- A group takes its place again. -/
def State.restoreGroup (s : State) (pair : Bool) (p : Spot) (a : Nat) : State :=
  match s.agent? a with
  | none => s
  | some ag =>
    let at' := p.place pair ag.gidx
    let s1 := s.restoreRays a at'.1 ag
    let s2 := s1.updAgent a fun g => { g with core := at'.1, part := at'.2, slot := freeSlot s.held at'.1 at'.2 }
    ag.banks.foldl (fun s (b : Nat × Nat) => s.restoreBank a ag.core at'.1 ag.ctx b.1 b.2) s2

/-- A saved team becomes resident again. -/
def State.restoreTeam (s : State) (t : Nat) (p : Spot) : State :=
  match s.team? t with
  | none => s
  | some tm =>
    let bytes := tm.size + (tm.groups.filterMap fun a => s.agent? a).foldl (fun n ag => n + ag.saveBytes) 0
    let d := s.draw 65536
    let s1 := tm.groups.foldl (fun s a => s.restoreGroup tm.pair p a) d.1
    let s2 := tm.leats.foldl (fun s a => s.updAgent a fun g => { g with core := p.core }) s1
    let s3 := s2.moveHandles t (hkey p.core)
    let s4 := { s3 with
      xops := s3.xops.map fun (q : Nat × Xop) => if q.2.team = t then (q.1, { q.2 with core := p.core }) else q
      tasks := s3.tasks.map fun (q : Nat × Task) => if q.2.team = t then (q.1, { q.2 with core := p.core }) else q }
    let s5 := s4.updTeam t fun m =>
      { m with core := p.core, base := p.base, base2 := p.base2, saved := false, started := false, resident := s.clk + 4,
               due := s.clk + 4 + 600 + (bytes + 127) / 128 + d.2 }
    let s6 := (s5.xops.filter fun (q : Nat × Xop) => q.2.team = t && q.2.st = .parked).foldl (init := s5)
      fun s (q : Nat × Xop) => (s.lockAll q.1 (s.xEntries q.2)).getD s
    let s7 := s6.clearCore p.core
    let s8 := if tm.pair then s7.clearCore (p.core + 1) else s7
    if tm.killed then s8.fatal (s8.unitRaiser 7 tm.ctx 0) killed else s8

/-- TEAM_RESTORE: the arbiter's choice is this saved team, or the strip that it heads. -/
def execTeamRestore (team : Nat) (s : State) : Out :=
  match s.offer, s.team? team with
  | some (w, ps), some tm =>
    if w.kind ≠ .saved team then .next s
    else
      let ts := if tm.strip.isEmpty then [team] else tm.strip
      let c := ((ps.getLast?).map (·.core)).getD 0
      .next { ((ts.zip ps).foldl (fun s q => s.restoreTeam q.1 q.2) s) with placedAt := KMap.put s.placedAt (c / 64) s.clk }
  | _, _ => .next s

end Sys2Proof.Machine
end

