-- ==== Sys2Proof/Machine/Power.lean ====
section
/-!
DEFINITION. Time (R7, R395), erg windows (R213, R214), GDDR 7 upkeep (R492, R498), power (R485 to R491), firmware and bring-up
(R493 to R497), and the controls of the reuse table (R378).
-/
namespace Sys2Proof.Machine

/-! ## Time -/

/-- Advances pt by one clk, in units of 10^-13 ns (R395); it runs from stage 4 on (R497). -/
def State.ptAdvance (s : State) : Nat :=
  if s.stage = 4 ∨ s.stage = 5 then (s.ptAcc + (8 * (10 ^ 12 + s.rate))).toNat else s.ptAcc

/-- Reduce packets whose clk has come leave their queue (R470). -/
def State.redLeave (s : State) (t : Nat) : State :=
  let out := s.redQ.filter fun (q : Nat × RedPkt) => decide (q.2.due ≤ t)
  if out.isEmpty then s
  else
    { s with
      redQ := s.redQ.filter fun (q : Nat × RedPkt) => decide (t < q.2.due)
      fabOut := s.fabOut ++ out.map fun (q : Nat × RedPkt) =>
        (2 ^ 50 + q.2.card * 2 ^ 44 + q.2.key.off, q.2.vals.flatMap fun v => bytesOf (redBytes q.2.key.rty) v) }

/-- BEGAN of the grids whose first team becomes resident in this clk (R158). -/
def State.markBegan (s : State) : State :=
  let now := ((s.teams.filter fun (q : Nat × Team) => q.2.resident = s.clk && !q.2.saved).map fun (q : Nat × Team) => q.2.grid).eraseDups
  now.foldl (fun s g => s.updGrid g fun x => if x.began = 0 then { x with began := s.pt } else x) s

/-- PT_TICK: one clk passes. -/
def execPtTick (s : State) : Out :=
  let t := s.clk + 1
  let s1 := (s.markReady.yieldTick).reap.markBegan
  let s2 : State := { s1 with
    clk := t
    ptAcc := s1.ptAdvance
    agents := s1.agents.map fun (q : Nat × Agent) => (q.1, q.2.land t)
    fabReqs := s1.fabReqs.filter fun (q : Nat × FabReq) => !(q.2.kind = 1 && decide (q.2.due ≤ t)) }
  .next (s2.redLeave t)

/-- PTP_RATE_ADJUST: r in steps of 10^-12 within 10^-3; LOCK; the offset in signed ns, saturated to 32 bits (R395). -/
def execPtpRateAdjust (r : Int) (lock : Nat) (offs : Dword) (s : State) : Out :=
  if 10 ^ 9 < r ∨ r < -10 ^ 9 then .next s
  else
    let o : Int := max (-2 ^ 31) (min (2 ^ 31 - 1) offs.toInt)
    .next { s with rate := r, pstat := BitVec.ofNat 64 (lock % 4 + (o % 2 ^ 32).toNat * 2 ^ 32) }

/-! ## Erg windows (R213, R214) -/

/-- Physical base of the window of a die. -/
def ergBase (die : Nat) : Nat := if die = 0 then 0x100_0000_0000 else 0x100_2000_0000

/-- ERGW_SIZE_WRITE: SIZE takes its value and BUSY rises; a shrink discards the bytes released, a growth's bytes are zero; BUSY clears
64 + ceil(L / 75) clk later, and after the write-backs of a growth, whose time is free. -/
def execErgwSizeWrite (die : Nat) (v : Dword) (s : State) : Out :=
  let n := fldN v 0 8
  let old := s.barFld (blkMem + die) 0 8
  if 2 ≤ die ∨ 192 < n ∨ s.barFld (blkMem + die) 8 1 = 1 then .next s
  else
    let b := ergBase die
    let lo := b + min n old * 2 ^ 21
    let hi := b + max n old * 2 ^ 21
    let d := if old < n then s.draw (2 ^ 20) else (s, 0)
    let l := (hi - lo) / 128
    .next { (d.1.barPut (blkMem + die) 0 9 (n + 256)) with
      mem := d.1.mem.filter fun (c : Host.Cell) => !decide (lo ≤ c.1 ∧ c.1 < hi)
      lines := d.1.lines.filter fun (q : Nat × Dword) => !decide (lo ≤ 64 * q.1 ∧ 64 * q.1 < hi)
      ergDone := KMap.put d.1.ergDone die (s.clk + 64 + (l + 74) / 75 + d.2) }

/-- ERGW_CHANGE_DONE: BUSY clears. -/
def execErgwChangeDone (die : Nat) (s : State) : Out :=
  match KMap.find? s.ergDone die with
  | some t => if s.clk < t then .next s else .next { (s.barPut (blkMem + die) 8 1 0) with ergDone := KMap.del s.ergDone die }
  | none => .next s

/-! ## GDDR 7 (R492, R498) -/

/-- GDDR_REFRESH: the channel's next bank, in rotation, closes its row; every 304 clk from the end of training. -/
def execGddrRefresh (ch : Nat) (s : State) : Out :=
  match KMap.find? s.refresh ch with
  | none => .next s
  | some r =>
    if s.clk < r.start + 304 * (r.count + 1) then .next s
    else .next { s with refresh := KMap.put s.refresh ch { r with count := r.count + 1 }
                        openRows := KMap.del s.openRows (16 * ch + r.count % 16) }

/-- PATROL_SCRUB: the line at pa is read; an error found is counted, an uncorrectable one logged, and the data written on with new
check bits. Open rows stay as they were. -/
def execPatrolScrub (pa : Nat) (s : State) : Out :=
  match KMap.find? s.bad (pa / 128) with
  | none => .next s
  | some unc => .next { (s.eccNote (pa / 128 * 128) unc) with bad := KMap.del s.bad (pa / 128) }

/-! ## The reuse table's controls (R378) -/

/-- REUSE_FLUSH: every entry is invalid. -/
def execReuseFlush (s : State) : Out := .next (s.dropReuse fun _ => true)

/-- REUSE_KEY_WRITE: the key of a tenant, and its entries are invalid. -/
def execReuseKeyWrite (tenant : Nat) (key : List Byte) (s : State) : Out :=
  if 16 ≤ tenant then .next s
  else
    let s1 := [0, 1, 2, 3].foldl (fun (s : State) j =>
      s.barWr (0x220 + 4 * tenant + j) (BitVec.ofNat 64 (numOf ((key.drop (8 * j)).take 8)))) s
    .next (s1.dropReuse fun e => e.tenant = tenant)

/-! ## Power (R486 to R491) -/

/-- LVCAP_WRITE: by the runner alone, 0 to 328 each. -/
def execLvcapWrite (v : Dword) (runner : Bool) (s : State) : Out :=
  if !runner ∨ 328 < fldN v 0 9 ∨ 328 < fldN v 16 9 then .next s
  else .next (s.barWr (blkHost + 0x21) (BitVec.ofNat 64 (fldN v 0 9 + fldN v 16 9 * 2 ^ 16)))

/-- A cap after the runner's step: lower by 16, raised by 16 up to the reset value, or kept. -/
def stepCap (down up : Bool) (v : Nat) : Nat := if down then v - 16 else if up ∧ v < 160 then min 160 (v + 16) else v

/-- RUNNER_POWER_STEP: LVCAP and THR by PWRNOW in 0.1 W and HOT (R490), once per millisecond of 1,250,000 clk. -/
def execRunnerPowerStep (s : State) : Out :=
  if s.stage ≠ 5 ∨ s.clk < s.steer then .next s
  else
    let w := s.barFld (blkHost + 0x23) 0 16
    let hot := s.barFld (blkHost + 0x22) 1 1 = 1
    let down := decide (6600 < w ∨ hot)
    let up := decide (w < 6000 ∧ ¬ hot)
    let thr := if 6400 < w then 1 else if w < 6000 then 0 else s.barFld (blkHost + 0x22) 0 1
    let s1 := (s.barPut (blkHost + 0x21) 0 9 (stepCap down up (s.lvcap 0))).barPut (blkHost + 0x21) 16 9 (stepCap down up (s.lvcap 1))
    .next { (s1.barPut (blkHost + 0x22) 0 1 thr) with steer := s.clk + 1250000 }

/-- SENSOR_UPDATE: PWRNOW and sensor 4 take the board power in 0.1 W; the list holds sensors 0 to 3 and 5 to 7 as signed 16-bit
values; HOT follows the junctions in 1/16 degree (R489, R491). -/
def execSensorUpdate (watts : Nat) (temps : List Nat) (s : State) : Out :=
  let sens (i : Nat) : Nat := if i = 4 then watts else temps.getD (if i < 4 then i else i - 1) 0
  let s1 := (List.range 8).foldl (fun (s : State) i =>
    s.barWr (blkHost + 0x40 + i) (BitVec.ofNat 64 (sens i % 2 ^ 16 + 2 ^ 63))) s
  let hotAt (i : Nat) : Bool := decide (1600 ≤ sx 16 (sens i % 2 ^ 16))
  .next ((s1.barWr (blkHost + 0x23) (BitVec.ofNat 64 (watts % 2 ^ 16))).barPut (blkHost + 0x22) 1 1 (if hotAt 0 || hotAt 1 then 1 else 0))

/-- What outlives a loss of power or a reset: the fused minimum SVNs; and the model's count of clk, free values and inputs. -/
def State.fused (s : State) : State :=
  { State.reset with fusedSvn := s.fusedSvn, clk := s.clk, free := s.free, inputs := s.inputs }

/-- BOARD_POWER_CUT: above 743 W of input (in 0.1 W) for 10 ms, or a die at 115 degrees (in 1/16); all state is lost. -/
def execBoardPowerCut (watts temp ms : Nat) (s : State) : Out :=
  if (7430 < watts ∧ 10 ≤ ms) ∨ 1840 ≤ temp then .next { s.fused with power := false } else .next s

/-! ## Bring-up and firmware (R493 to R497) -/

/-- RESET: stage 0 with everything at its reset value. -/
def execReset (s : State) : Out := .next s.fused

/-- The stage moves on, or fails with a reason (R497). -/
def State.goStage (s : State) (n reason : Nat) : State := s.barWr (blkHost + 0x20) (BitVec.ofNat 64 (n + 256 * reason))

/-- LINK_TRAINED: PCIe 6.0 x16 in FLIT mode (R457, R458). -/
def execLinkTrained (s : State) : Out :=
  if s.stage ≠ 0 then .next s else .next ((s.barWr blkHost (BitVec.ofNat 64 (16 + 6 * 2 ^ 5 + 2 ^ 8))).goStage 1 0)

/-- Body length of an image (R494). -/
def imageLen (im : List Byte) : Nat := numOf ((im.drop 16).take 8)
def imageSvn (im : List Byte) : Nat := numOf ((im.drop 8).take 2)
/-- D: SHA3-512 of header and body. -/
def imageDigest (im : List Byte) : List Byte := sha3_512 (im.take (128 + imageLen im))

/-- The verifier's acceptance of an image of a KIND (R494). -/
def State.accepts (s : State) (kind : Nat) (im : List Byte) : Bool :=
  let n := imageLen im
  let key := (im.drop (128 + n)).take 2592
  let sig := im.drop (128 + n + 2592)
  im.take 4 = [0x46#8, 0x4C#8, 0x49#8, 0x4D#8]
    && decide (1 ≤ n ∧ n ≤ 2 ^ 24) && decide (im.length = 128 + n + 2592 + 4627)
    && sha3_512 key = Config.rootDigest
    && Config.mlDsaVerify key (imageDigest im) sig
    && (im.getD 4 0).toNat = kind
    && decide ((KMap.find? s.fusedSvn kind).getD 0 ≤ imageSvn im)
    && ((im.drop 5).take 3 ++ (im.drop 10).take 6 ++ (im.drop 24).take 104).all (· = 0)

/-- MR := SHA3-512(MR ‖ value) (R495). -/
def State.extend (s : State) (i : Nat) (value : List Byte) : State :=
  { s with mrs := s.mrs.set i (sha3_512 (s.mrs.getD i [] ++ value)) }

/-- An image is verified and measured into a register, and the next stage is reached, or stage 15. -/
def State.verify (s : State) (kind : Nat) (im : List Byte) : State :=
  if s.accepts kind im then
    { (s.extend (kind - 1) (imageDigest im)) with runSvn := KMap.put s.runSvn kind (imageSvn im) }.goStage (kind + 1) 0
  else s.goStage 15 kind

/-- MONITOR_VERIFY: the ROM verifies and measures the monitor. -/
def execMonitorVerify (image : List Byte) (s : State) : Out := if s.stage ≠ 1 then .next s else .next (s.verify 1 image)

/-- RUNNER_VERIFY: the monitor verifies and measures the runner. -/
def execRunnerVerify (image : List Byte) (s : State) : Out := if s.stage ≠ 2 then .next s else .next (s.verify 2 image)

/-- MEMORY_TRAINED: every memory is zero, pt runs from 0, the channels' refreshes begin; or stage 15. -/
def execMemoryTrained (ok : Bool) (s : State) : Out :=
  if s.stage ≠ 3 then .next s
  else if !ok then .next (s.goStage 15 3)
  else .next ({ s with mem := [], lines := [], bad := [], ptAcc := 0, openRows := [],
                       refresh := (List.range 16).map fun ch => (ch, ({ start := s.clk } : Refresh)) }.goStage 4 0)

/-- DEVICE_READY: with a grandmaster's time pt is set once, forward, and LOCK leaves 0. -/
def execDeviceReady (gm : Option Nat) (s : State) : Out :=
  if s.stage ≠ 4 then .next s
  else
    let s1 := { s with steer := s.clk + 1250000 }.goStage 5 0
    match gm with
    | none => .next s1
    | some t =>
      let d := s1.draw 2
      .next { d.1 with ptAcc := max s.ptAcc (t % 2 ^ 64 * 10 ^ 13), pstat := BitVec.ofNat 64 (1 + d.2) }

/-- ATTESTATION_REQUEST: the monitor's quote over a nonce of 64 bytes (R496). -/
def execAttestationRequest (nonce : List Byte) (s : State) : Out :=
  if nonce.length ≠ 64 ∨ (KMap.find? s.runSvn 1).isNone then .next s
  else
    let svn (k : Nat) : List Byte := bytesOf 2 ((KMap.find? s.runSvn k).getD 0)
    let body := s.mrs.flatten ++ nonce ++ bytesOf 8 s.pt ++ svn 1 ++ svn 2
    let mr0 := s.mrs.getD 0 []
    .next { s with quote := body ++ Config.aliasCert mr0 ++ Config.mlDsaSign mr0 (sha3_512 body) }

/-- SVN_RAISE_REQUEST: never above the SVN of the running image (R494). -/
def execSvnRaiseRequest (kind svn : Nat) (s : State) : Out :=
  match KMap.find? s.runSvn kind with
  | some run =>
    if svn ≤ run ∧ (KMap.find? s.fusedSvn kind).getD 0 < svn then .next { s with fusedSvn := KMap.put s.fusedSvn kind svn } else .next s
  | none => .next s

end Sys2Proof.Machine
end

