-- ==== Sys2Proof/Machine/Registers.lean ====
section
/-!
DEFINITION. Writes of the register blocks of BAR 0 (R5, R455, R456): the access type of every field, and the registers whose
write is an event with a row of its own.
-/
namespace Sys2Proof.Machine

/-- Bits RW and bits W1C of a dword of the blocks (R151, R161, R378, R381, R408, R411, R458, R463, R474, R489); registers whose
write has a rule of its own stand in `State.regWrite`. -/
def regMasks (i : Nat) : Dword × Dword :=
  if i < 256 then
    match i % 4 with
    | 0 => (0xFFFF_FFFF_FFFF#64, 0)
    | 1 => (0x5FFF#64, 0x2000#64)
    | _ => (0, 0)
  else if 0x201 ≤ i ∧ i < 0x211 then (0xFFFF#64, 0)
  else if i = 0x280 then (0xFFFF_FFFF#64, 0)
  else if blkMedia ≤ i ∧ i < blkMedia + 512 then
    match (i - blkMedia) % 8 with
    | 0 => (0x1FFF_1FFF_FFFF_FFFE#64, 0)
    | 1 => (0x7_FFFF_FFFF_FFFF#64, 0)
    | 2 => (0xFFFF_FFFF_FFFF#64, 0)
    | 3 => (0xFFFF_FFFF_FFFF_FFFF#64, 0)
    | _ => (0, 0)
  else if i = blkFault then (0x01FF_FFFF_FFFF_FFFF#64, 0x0200_0000_0000_0000#64)
  else if i = blkFault + 1 then (0xFFFF_FFFF#64, 0)
  else if blkCtx ≤ i ∧ i < blkCtx + 512 then
    match (i - blkCtx) % 8 with
    | 0 => (0xF5#64, 0)
    | 1 => (0xFF_FFFF_FFFF#64, 0)
    | 2 => (0xFFFF_FFFF_FFF8#64, 0)
    | 3 => (0xFFFF_FFFF#64, 0)
    | 4 => (0xFF_FFFF_FFFF#64, 0)
    | 5 => (0xFFFF_FFFF_FFFF_FFFF#64, 0)
    | 6 => (0xFFFF_FFFF_FFFF_FFFF#64, 0)
    | _ => (0, 0)
  else if i = blkHost + 1 then (0, 0xF#64)
  else if i = blkHost + 0x22 then (0, 4#64)
  else if i = blkHost + 0x25 then (0, 0x8000_0000_0000_0000#64)
  else if blkHost + 0x200 ≤ i ∧ i < blkHost + 0x206 then
    (if i % 2 = 0 then 0xFFFF_FFFF_FFFF_FFFC#64 else 0x1_FFFF_FFFF#64, 0)
  else if blkFab + 0x20 ≤ i ∧ i < blkFab + 0x60 then
    match i % 4 with
    | 0 => (0xFF#64, 0)
    | 1 => (0xFFFF_FFFF_F000#64, 0)
    | 2 => (0xFFF_FFFF#64, 0)
    | _ => (0xFFFF_FFFF_FFFF_FFFF#64, 0)
  else if i = blkWall + 1 ∨ (blkWall + 3 ≤ i ∧ i < blkWall + 6) then (0xFFFF_FFFF_FFFF_FFFF#64, 0)
  else if i = blkWall + 2 then (0xFFFF_FFFF#64, 0)
  else (0, 0)

/-- A dword after a write of the bits m of v under its access types (R5). -/
def regAfter (old rw w1c m v : Dword) : Dword := ((old &&& ~~~(rw &&& m)) ||| (v &&& rw &&& m)) &&& ~~~(v &&& w1c &&& m)

namespace State

/-- A plain write. -/
def regPlain (s : State) (i : Nat) (m v : Dword) : State :=
  s.barWr i (regAfter (s.barRd i) (regMasks i).1 (regMasks i).2 m v)

/-- Commands of the fault block: dwords 2, 3 and 4 (R408, R410, R416, R423, R425). `x`: the dword as it is written. -/
def faultCmd (s : State) (d : Nat) (x : Dword) : State :=
  match d with
  | 2 =>
    let t := fldN x 0 32
    match fldN x 32 2 with
    | 0 => s.happen [.faultRetry t]
    | 1 => s.happen [.faultKill t]
    | _ => s
  | 3 =>
    if s.tlbInv.isSome then s
    else
      let s1 := s.barPut (blkFault + 3) 0 44 (fldN x 0 44)
      let c := fldN x 36 6
      match fldN x 42 2 with
      | 0 => s1.happen [.tlbInvalidatePage c (fldN x 0 36)]
      | 1 => s1.happen [.tlbInvalidateContext c]
      | 2 => s1.happen [.tlbInvalidateAll]
      | _ => s1
  | _ =>
    let c := fldN x 0 6
    let s1 := s.barPut (blkFault + 4) 0 6 c
    match fldN x 6 2 with
    | 1 => ({ (s1.barPut (blkFault + 4) 63 1 1) with cmds := s1.cmds ++ [c] }).happen [.contextPreempt c]
    | 2 => ({ (s1.barPut (blkFault + 4) 63 1 1) with cmds := s1.cmds ++ [c] }).happen [.contextKill c]
    | _ => s1

/-- The reuse controls (R378), the scheduler's limits (R161). -/
def schedWrite (s : State) (i : Nat) (m x : Dword) : State :=
  if i < 256 ∧ i % 4 = 3 then
    if m.getLsbD 0 then s.happen [.doorbell (i / 4) (fldN x 0 32)] else s
  else if i = 0x200 then
    let s1 := s.barPut 0x200 0 1 (fldN x 0 1)
    if m.getLsbD 0 ∧ (x.getLsbD 1 ∨ !x.getLsbD 0) then s1.happen [.reuseFlush] else s1
  else if 0x220 ≤ i ∧ i < 0x260 then
    let t := (i - 0x220) / 4
    s.happen [.reuseKeyWrite t ([0, 1, 2, 3].flatMap fun j =>
      bytesOf 8 (if 0x220 + 4 * t + j = i then x else s.barRd (0x220 + 4 * t + j)).toNat)]
  else if i = 0x281 then if fldN x 0 5 ≤ 16 ∧ m.getLsbD 0 then s.barPut 0x281 0 5 (fldN x 0 5) else s
  else s.regPlain i m x

/-- The host block (R458, R489, R496). -/
def hostWrite (s : State) (i : Nat) (m x : Dword) : State :=
  let j := i - blkHost
  if j = 3 then if m.getLsbD 0 ∧ x.getLsbD 0 then s.happen [.hablClear] else s
  else if j = 4 then if 1 ≤ x.toNat ∧ x.toNat ≤ 50000 then s.barWr i x else s
  else if j = 0x24 then
    let half (s : State) (lo : Nat) : State := if m.getLsbD lo ∧ fldN x lo 32 = 0 then s.barPut i lo 32 0 else s
    half (half s 0) 32
  else if 0x200 ≤ j ∧ j < 0x206 then
    -- a vector that is unmasked while it is pending is signalled, as PCI Express defines
    let v := (j - 0x200) / 2
    let s1 := s.regPlain i m x
    if s1.barFld (blkHost + 0x200 + 2 * v + 1) 32 1 = 0 ∧ s1.barFld (blkHost + 0x400) v 1 = 1 then
      (s1.barPut (blkHost + 0x400) v 1 0).signal v
    else s1
  else if 0x800 ≤ j ∧ j < 0x808 then
    let s1 := s.barWr i x
    if j = 0x807 ∧ m.getLsbD 63 then
      s1.happen [.attestationRequest ((List.range 8).flatMap fun k => bytesOf 8 (s1.barRd (blkHost + 0x800 + k)).toNat)]
    else s1
  else s.regPlain i m x

/-- The wall block (R474). -/
def wallWrite (s : State) (i : Nat) (m x : Dword) : State :=
  let j := i - blkWall
  if j = 0 then
    if !m.getLsbD 0 then s
    else
      let s1 := s.barPut i 0 1 (fldN x 0 1)
      let s2 := if !s.wallEn ∧ x.getLsbD 0 then s1.wallEnable else s1
      if x.getLsbD 1 then s2.happen [.wallRejoin x] else s2
  else if s.wallEn then s
  else if j = 5 ∧ x = 0 then s
  else s.regPlain i m x

/-- A write of the bits m of a dword of the blocks; v holds them in place. Bits that the write leaves out read as they stand, and as
zero where the field is write-only. -/
def regWrite (s : State) (i : Nat) (m v : Dword) : State :=
  let x := (s.barRd i &&& ~~~m) ||| (v &&& m)
  if i < blkMem then s.schedWrite i m x
  else if i < blkMedia then
    if i < blkMem + 2 ∧ m.getLsbD 0 then s.happen [.ergwSizeWrite (i - blkMem) x] else s
  else if i < blkFault then
    let s1 := s.regPlain i m v
    if i < blkMedia + 512 ∧ (i - blkMedia) % 8 = 0 ∧ m.getLsbD 0 then
      let f := (i - blkMedia) / 8
      s1.happen [if x.getLsbD 0 then .flowEnable f else .flowDisable f]
    else s1
  else if i < blkCtx then
    if 2 ≤ i - blkFault ∧ i - blkFault ≤ 4 then s.faultCmd (i - blkFault) x else s.regPlain i m v
  else if i < blkHost then
    let s1 := s.regPlain i m v
    if i < blkCtx + 512 ∧ (i - blkCtx) % 8 = 0 ∧ m.getLsbD 1 ∧ v.getLsbD 1 then s1.happen [.contextDeadClear ((i - blkCtx) / 8)] else s1
  else if i < blkFab then s.hostWrite i m (if i = blkHost + 4 ∨ 0x800 ≤ i - blkHost then x else v)
  else if i < blkWall then
    if i = blkFab then s.happen [.fabcfgWrite x] else s.regPlain i m v
  else s.wallWrite i m x

end State

/-- REGISTER_WRITE: n bytes, 4 or 8 and naturally aligned, at an offset within the blocks. Outside the host block it is ignored
before stage 5 (R497). -/
def execRegisterWrite (off n : Nat) (v : Dword) (s : State) : Out :=
  let i := off / 8
  if (n ≠ 4 ∧ n ≠ 8) ∨ off % n ≠ 0 ∨ (s.stage ≠ 5 ∧ !(decide (blkHost ≤ i ∧ i < blkFab))) then .next s
  else if n = 8 then .next (s.regWrite i (~~~0#64) v)
  else .next (s.regWrite i (BitVec.ofNat 64 ((2 ^ 32 - 1) * 2 ^ (8 * (off % 8)))) (v <<< (8 * (off % 8))))

end Sys2Proof.Machine
end

