-- ==== Sys2Proof/Machine/Dispatch.lean ====
section
/-! DEFINITION. The meaning of every row of the opcode table. -/
namespace Sys2Proof.Machine

def exec (i : Instr) (s : State) : Host.Outcome State Fault Refusal :=
  match i with
  | .smov f => Sys2Proof.Machine.execSmov f s
  | .smovi f => Sys2Proof.Machine.execSmovi f s
  | .smovh f => Sys2Proof.Machine.execSmovh f s
  | .sadd f => Sys2Proof.Machine.execSadd f s
  | .saddFSi f => Sys2Proof.Machine.execSaddFSi f s
  | .ssub f => Sys2Proof.Machine.execSsub f s
  | .smul f => Sys2Proof.Machine.execSmul f s
  | .smulh f => Sys2Proof.Machine.execSmulh f s
  | .sdiv f => Sys2Proof.Machine.execSdiv f s
  | .srem f => Sys2Proof.Machine.execSrem f s
  | .sand f => Sys2Proof.Machine.execSand f s
  | .sandFSi f => Sys2Proof.Machine.execSandFSi f s
  | .sor f => Sys2Proof.Machine.execSor f s
  | .sorFSi f => Sys2Proof.Machine.execSorFSi f s
  | .sxor f => Sys2Proof.Machine.execSxor f s
  | .sxorFSi f => Sys2Proof.Machine.execSxorFSi f s
  | .snot f => Sys2Proof.Machine.execSnot f s
  | .sshl f => Sys2Proof.Machine.execSshl f s
  | .sshr f => Sys2Proof.Machine.execSshr f s
  | .ssar f => Sys2Proof.Machine.execSsar f s
  | .smin f => Sys2Proof.Machine.execSmin f s
  | .smax f => Sys2Proof.Machine.execSmax f s
  | .scmp f => Sys2Proof.Machine.execScmp f s
  | .ssel f => Sys2Proof.Machine.execSsel f s
  | .spopc f => Sys2Proof.Machine.execSpopc f s
  | .sclz f => Sys2Proof.Machine.execSclz f s
  | .sctz f => Sys2Proof.Machine.execSctz f s
  | .sbfe f => Sys2Proof.Machine.execSbfe f s
  | .sbfi f => Sys2Proof.Machine.execSbfi f s
  | .slea f => Sys2Proof.Machine.execSlea f s
  | .bra f => Sys2Proof.Machine.execBra f s
  | .brc f => Sys2Proof.Machine.execBrc f s
  | .call f => Sys2Proof.Machine.execCall f s
  | .ret f => Sys2Proof.Machine.execRet f s
  | .jmp f => Sys2Proof.Machine.execJmp f s
  | .loop f => Sys2Proof.Machine.execLoop f s
  | .nop f => Sys2Proof.Machine.execNop f s
  | .endGroup f => Sys2Proof.Machine.execEnd f s
  | .mset f => Sys2Proof.Machine.execMset f s
  | .mget f => Sys2Proof.Machine.execMget f s
  | .mand f => Sys2Proof.Machine.execMand f s
  | .mandn f => Sys2Proof.Machine.execMandn f s
  | .mor f => Sys2Proof.Machine.execMor f s
  | .mfirst f => Sys2Proof.Machine.execMfirst f s
  | .mcnt f => Sys2Proof.Machine.execMcnt f s
  | .brzm f => Sys2Proof.Machine.execBrzm f s
  | .split f => Sys2Proof.Machine.execSplit f s
  | .joinI f => Sys2Proof.Machine.execJoin f s
  | .vadd f => Sys2Proof.Machine.execVadd f s
  | .vaddFVi f => Sys2Proof.Machine.execVaddFVi f s
  | .vsub f => Sys2Proof.Machine.execVsub f s
  | .vsubFVi f => Sys2Proof.Machine.execVsubFVi f s
  | .vmul f => Sys2Proof.Machine.execVmul f s
  | .vmulFVi f => Sys2Proof.Machine.execVmulFVi f s
  | .vmulh f => Sys2Proof.Machine.execVmulh f s
  | .vmad f => Sys2Proof.Machine.execVmad f s
  | .vfma f => Sys2Proof.Machine.execVfma f s
  | .vmin f => Sys2Proof.Machine.execVmin f s
  | .vminFVi f => Sys2Proof.Machine.execVminFVi f s
  | .vmax f => Sys2Proof.Machine.execVmax f s
  | .vmaxFVi f => Sys2Proof.Machine.execVmaxFVi f s
  | .vabs f => Sys2Proof.Machine.execVabs f s
  | .vand f => Sys2Proof.Machine.execVand f s
  | .vandFVi f => Sys2Proof.Machine.execVandFVi f s
  | .vor f => Sys2Proof.Machine.execVor f s
  | .vorFVi f => Sys2Proof.Machine.execVorFVi f s
  | .vxor f => Sys2Proof.Machine.execVxor f s
  | .vxorFVi f => Sys2Proof.Machine.execVxorFVi f s
  | .vnot f => Sys2Proof.Machine.execVnot f s
  | .vshl f => Sys2Proof.Machine.execVshl f s
  | .vshlFVi f => Sys2Proof.Machine.execVshlFVi f s
  | .vshr f => Sys2Proof.Machine.execVshr f s
  | .vshrFVi f => Sys2Proof.Machine.execVshrFVi f s
  | .vsar f => Sys2Proof.Machine.execVsar f s
  | .vsarFVi f => Sys2Proof.Machine.execVsarFVi f s
  | .vcmp f => Sys2Proof.Machine.execVcmp f s
  | .vcmpFVi f => Sys2Proof.Machine.execVcmpFVi f s
  | .vsel f => Sys2Proof.Machine.execVsel f s
  | .vmov f => Sys2Proof.Machine.execVmov f s
  | .vmovFVi f => Sys2Proof.Machine.execVmovFVi f s
  | .vbcast f => Sys2Proof.Machine.execVbcast f s
  | .vlane f => Sys2Proof.Machine.execVlane f s
  | .vcvt f => Sys2Proof.Machine.execVcvt f s
  | .vrcp f => Sys2Proof.Machine.execVrcp f s
  | .vrsq f => Sys2Proof.Machine.execVrsq f s
  | .vsqrt f => Sys2Proof.Machine.execVsqrt f s
  | .vexp2 f => Sys2Proof.Machine.execVexp2 f s
  | .vlog2 f => Sys2Proof.Machine.execVlog2 f s
  | .vsin f => Sys2Proof.Machine.execVsin f s
  | .vcos f => Sys2Proof.Machine.execVcos f s
  | .vfract f => Sys2Proof.Machine.execVfract f s
  | .vround f => Sys2Proof.Machine.execVround f s
  | .vpopc f => Sys2Proof.Machine.execVpopc f s
  | .vclz f => Sys2Proof.Machine.execVclz f s
  | .vbfe f => Sys2Proof.Machine.execVbfe f s
  | .vbfi f => Sys2Proof.Machine.execVbfi f s
  | .vunpk f => Sys2Proof.Machine.execVunpk f s
  | .vpack f => Sys2Proof.Machine.execVpack f s
  | .vdot f => Sys2Proof.Machine.execVdot f s
  | .vlut f => Sys2Proof.Machine.execVlut f s
  | .swadd f => Sys2Proof.Machine.execSwadd f s
  | .swmul f => Sys2Proof.Machine.execSwmul f s
  | .swfma f => Sys2Proof.Machine.execSwfma f s
  | .swmax f => Sys2Proof.Machine.execSwmax f s
  | .swcvt f => Sys2Proof.Machine.execSwcvt f s
  | .vshuf f => Sys2Proof.Machine.execVshuf f s
  | .vshfu f => Sys2Proof.Machine.execVshfu f s
  | .vshfd f => Sys2Proof.Machine.execVshfd f s
  | .vxsw f => Sys2Proof.Machine.execVxsw f s
  | .vbal f => Sys2Proof.Machine.execVbal f s
  | .vredu f => Sys2Proof.Machine.execVredu f s
  | .vscan f => Sys2Proof.Machine.execVscan f s
  | .vmatch f => Sys2Proof.Machine.execVmatch f s
  | .vrdln f => Sys2Proof.Machine.execVrdln f s
  | .vwrln f => Sys2Proof.Machine.execVwrln f s
  | .ldg f => Sys2Proof.Machine.execLdg f s
  | .ldgAcq f => Sys2Proof.Machine.execLdgAcq f s
  | .stg f => Sys2Proof.Machine.execStg f s
  | .stgRel f => Sys2Proof.Machine.execStgRel f s
  | .ldgs f => Sys2Proof.Machine.execLdgs f s
  | .ldgsAcq f => Sys2Proof.Machine.execLdgsAcq f s
  | .stgs f => Sys2Proof.Machine.execStgs f s
  | .stgsRel f => Sys2Proof.Machine.execStgsRel f s
  | .atomg f => Sys2Proof.Machine.execAtomg f s
  | .atomh f => Sys2Proof.Machine.execAtomh f s
  | .atomhF f => Sys2Proof.Machine.execAtomhF f s
  | .ldc f => Sys2Proof.Machine.execLdc f s
  | .pref f => Sys2Proof.Machine.execPref f s
  | .waitc f => Sys2Proof.Machine.execWaitc f s
  | .fence f => Sys2Proof.Machine.execFence f s
  | .lds f => Sys2Proof.Machine.execLds f s
  | .sts f => Sys2Proof.Machine.execSts f s
  | .ldss f => Sys2Proof.Machine.execLdss f s
  | .stss f => Sys2Proof.Machine.execStss f s
  | .atoms f => Sys2Proof.Machine.execAtoms f s
  | .ldb f => Sys2Proof.Machine.execLdb f s
  | .stb f => Sys2Proof.Machine.execStb f s
  | .sample f => Sys2Proof.Machine.execSample f s
  | .txld f => Sys2Proof.Machine.execTxld f s
  | .aalloc f => Sys2Proof.Machine.execAalloc f s
  | .afree f => Sys2Proof.Machine.execAfree f s
  | .azero f => Sys2Proof.Machine.execAzero f s
  | .mma f => Sys2Proof.Machine.execMma f s
  | .mmaq f => Sys2Proof.Machine.execMmaq f s
  | .mmav f => Sys2Proof.Machine.execMmav f s
  | .mmac f => Sys2Proof.Machine.execMmac f s
  | .cbld f => Sys2Proof.Machine.execCbld f s
  | .ald f => Sys2Proof.Machine.execAld f s
  | .ast f => Sys2Proof.Machine.execAst f s
  | .aadd f => Sys2Proof.Machine.execAadd f s
  | .astat f => Sys2Proof.Machine.execAstat f s
  | .tbar f => Sys2Proof.Machine.execTbar f s
  | .sbar f => Sys2Proof.Machine.execSbar f s
  | .launch f => Sys2Proof.Machine.execLaunch f s
  | .sleeppt f => Sys2Proof.Machine.execSleeppt f s
  | .sleepptRel f => Sys2Proof.Machine.execSleepptRel f s
  | .srd f => Sys2Proof.Machine.execSrd f s
  | .swr f => Sys2Proof.Machine.execSwr f s
  | .bufwait f => Sys2Proof.Machine.execBufwait f s
  | .bufrelCons f => Sys2Proof.Machine.execBufrelCons f s
  | .bufrelPub f => Sys2Proof.Machine.execBufrelPub f s
  | .bufstat f => Sys2Proof.Machine.execBufstat f s
  | .rtrace f => Sys2Proof.Machine.execRtrace f s
  | .rresume f => Sys2Proof.Machine.execRresume f s
  | .rresumeEnd f => Sys2Proof.Machine.execRresumeEnd f s
  | .rstate f => Sys2Proof.Machine.execRstate f s
  | .rcommit f => Sys2Proof.Machine.execRcommit f s
  | .genpin f => Sys2Proof.Machine.execGenpin f s
  | .genrel f => Sys2Proof.Machine.execGenrel f s
  | .bldcmd f => Sys2Proof.Machine.execBldcmd f s
  | .bldqCur f => Sys2Proof.Machine.execBldqCur f s
  | .bldqPins f => Sys2Proof.Machine.execBldqPins f s
  | .bldqQueue f => Sys2Proof.Machine.execBldqQueue f s
  | .tspawn f => Sys2Proof.Machine.execTspawn f s
  | .tend f => Sys2Proof.Machine.execTend f s
  | .qpop f => Sys2Proof.Machine.execQpop f s
  | .qpush f => Sys2Proof.Machine.execQpush f s
  | .qstat f => Sys2Proof.Machine.execQstat f s
  | .qframeOpen f => Sys2Proof.Machine.execQframeOpen f s
  | .qframeDone f => Sys2Proof.Machine.execQframeDone f s
  | .qframeNext f => Sys2Proof.Machine.execQframeNext f s
  | .yield f => Sys2Proof.Machine.execYield f s
  | .trapI f => Sys2Proof.Machine.execTrap f s
  | .tretRetry f => Sys2Proof.Machine.execTretRetry f s
  | .tretSkip f => Sys2Proof.Machine.execTretSkip f s
  | .tretJmp f => Sys2Proof.Machine.execTretJmp f s
  | .xlmr f => Sys2Proof.Machine.execXlmr f s
  | .xlmw f => Sys2Proof.Machine.execXlmw f s
  | .fltrdRec f => Sys2Proof.Machine.execFltrdRec f s
  | .fltrdSpl f => Sys2Proof.Machine.execFltrdSpl f s
  | .fltrdRng f => Sys2Proof.Machine.execFltrdRng f s
  | .halt f => Sys2Proof.Machine.execHalt f s
  | .haltFatal f => Sys2Proof.Machine.execHaltFatal f s
  | .brk f => Sys2Proof.Machine.execBrk f s
  | .wbar f => Sys2Proof.Machine.execWbar f s
  | .xcopyIn f => Sys2Proof.Machine.execXcopyIn f s
  | .xcopyInc f => Sys2Proof.Machine.execXcopyInc f s
  | .xcopyOut f => Sys2Proof.Machine.execXcopyOut f s
  | .xcopyOutc f => Sys2Proof.Machine.execXcopyOutc f s
  | .xhalo f => Sys2Proof.Machine.execXhalo f s
  | .xim2c f => Sys2Proof.Machine.execXim2c f s
  | .xresume f => Sys2Proof.Machine.execXresume f s
  | .xwaitH f => Sys2Proof.Machine.execXwaitH f s
  | .xwaitOps f => Sys2Proof.Machine.execXwaitOps f s
  | .xwaitSvc f => Sys2Proof.Machine.execXwaitSvc f s
  | .xfill f => Sys2Proof.Machine.execXfill f s
  | .xcollSend f => Sys2Proof.Machine.execXcollSend f s
  | .xcollRed f => Sys2Proof.Machine.execXcollRed f s
  | .xcollGet f => Sys2Proof.Machine.execXcollGet f s
  | .clauseStart a fid => Sys2Proof.Machine.execClauseStart a fid s
  | .clauseLineArrival a fid line => Sys2Proof.Machine.execClauseLineArrival a fid line s
  | .issuerAged a fid => Sys2Proof.Machine.execIssuerAged a fid s
  | .holdEnd a fid => Sys2Proof.Machine.execHoldEnd a fid s
  | .tlbWalkDone walk => Sys2Proof.Machine.execTlbWalkDone walk s
  | .loadReturn op lanes ext => Sys2Proof.Machine.execLoadReturn op lanes ext s
  | .storeAccept op lanes => Sys2Proof.Machine.execStoreAccept op lanes s
  | .atomicReturn op lanes ext => Sys2Proof.Machine.execAtomicReturn op lanes ext s
  | .sweepSegmentAccess op => Sys2Proof.Machine.execSweepSegmentAccess op s
  | .hostAtomicCompletion op lane status val => Sys2Proof.Machine.execHostAtomicCompletion op lane status val s
  | .peerStoreReject op lane code => Sys2Proof.Machine.execPeerStoreReject op lane code s
  | .peerLoadReject op lanes code => Sys2Proof.Machine.execPeerLoadReject op lanes code s
  | .barrierComplete team kind => Sys2Proof.Machine.execBarrierComplete team kind s
  | .sleepWake a fid => Sys2Proof.Machine.execSleepWake a fid s
  | .fragmentQueueRelease core part => Sys2Proof.Machine.execFragmentQueueRelease core part s
  | .groupRelease a => Sys2Proof.Machine.execGroupRelease a s
  | .doorbell q tail => Sys2Proof.Machine.execDoorbell q tail s
  | .queueEntryRead q => Sys2Proof.Machine.execQueueEntryRead q s
  | .admission q => Sys2Proof.Machine.execAdmission q s
  | .gridEligible g => Sys2Proof.Machine.execGridEligible g s
  | .teamPlacement g => Sys2Proof.Machine.execTeamPlacement g s
  | .firmDeadlineShed g => Sys2Proof.Machine.execFirmDeadlineShed g s
  | .hardWaitPreempt g => Sys2Proof.Machine.execHardWaitPreempt g s
  | .groupStart team => Sys2Proof.Machine.execGroupStart team s
  | .leatImageLine a line => Sys2Proof.Machine.execLeatImageLine a line s
  | .gridCompletionRecord g => Sys2Proof.Machine.execGridCompletionRecord g s
  | .arrayOpBegin op => Sys2Proof.Machine.execArrayOpBegin op s
  | .matrixOpEnd op => Sys2Proof.Machine.execMatrixOpEnd op s
  | .mmaqRendezvous core tag => Sys2Proof.Machine.execMmaqRendezvous core tag s
  | .mmavLineArrival op => Sys2Proof.Machine.execMmavLineArrival op s
  | .cbldLoadDone op => Sys2Proof.Machine.execCbldLoadDone op s
  | .aallocGrant core => Sys2Proof.Machine.execAallocGrant core s
  | .bankZeroDone core bank => Sys2Proof.Machine.execBankZeroDone core bank s
  | .bankSpill core bank => Sys2Proof.Machine.execBankSpill core bank s
  | .leaveRequest die holder => Sys2Proof.Machine.execLeaveRequest die holder s
  | .leaveGrant die holder => Sys2Proof.Machine.execLeaveGrant die holder s
  | .leaveExpiry die holder => Sys2Proof.Machine.execLeaveExpiry die holder s
  | .leaveRevoke die holder => Sys2Proof.Machine.execLeaveRevoke die holder s
  | .hdescWrite a h v => Sys2Proof.Machine.execHdescWrite a h v s
  | .engineOpStart x => Sys2Proof.Machine.execEngineOpStart x s
  | .sluicePieceRequest core => Sys2Proof.Machine.execSluicePieceRequest core s
  | .sectorArrival x piece => Sys2Proof.Machine.execSectorArrival x piece s
  | .drainSectorAccept x piece => Sys2Proof.Machine.execDrainSectorAccept x piece s
  | .sluicePark x => Sys2Proof.Machine.execSluicePark x s
  | .engineOpComplete x => Sys2Proof.Machine.execEngineOpComplete x s
  | .rayEnd a lane order => Sys2Proof.Machine.execRayEnd a lane order s
  | .rayPark a lane => Sys2Proof.Machine.execRayPark a lane s
  | .rayStackSpill a lane => Sys2Proof.Machine.execRayStackSpill a lane s
  | .traversalReturn op => Sys2Proof.Machine.execTraversalReturn op s
  | .buildCommandStart die => Sys2Proof.Machine.execBuildCommandStart die s
  | .buildCommandEnd die => Sys2Proof.Machine.execBuildCommandEnd die s
  | .builderPark die => Sys2Proof.Machine.execBuilderPark die s
  | .generationReclaim die gen => Sys2Proof.Machine.execGenerationReclaim die gen s
  | .taskPop die b1 b2 => Sys2Proof.Machine.execTaskPop die b1 b2 s
  | .taskCoreChoice t core => Sys2Proof.Machine.execTaskCoreChoice t core s
  | .taskDispatch t => Sys2Proof.Machine.execTaskDispatch t s
  | .reuseKeyReady t => Sys2Proof.Machine.execReuseKeyReady t s
  | .reuseLookup t => Sys2Proof.Machine.execReuseLookup t s
  | .reuseHitCopyPiece t => Sys2Proof.Machine.execReuseHitCopyPiece t s
  | .taskOutputDrain t => Sys2Proof.Machine.execTaskOutputDrain t s
  | .taskCompletionRecord t => Sys2Proof.Machine.execTaskCompletionRecord t s
  | .packetReceive flow path seq pos stamp marker elems => Sys2Proof.Machine.execPacketReceive flow path seq pos stamp marker elems s
  | .frameSendStart flow => Sys2Proof.Machine.execFrameSendStart flow s
  | .frameLastPacket flow => Sys2Proof.Machine.execFrameLastPacket flow s
  | .frameSubstitution flow => Sys2Proof.Machine.execFrameSubstitution flow s
  | .flowEnable flow => Sys2Proof.Machine.execFlowEnable flow s
  | .flowDisable flow => Sys2Proof.Machine.execFlowDisable flow s
  | .ptTick => Sys2Proof.Machine.execPtTick s
  | .wallStatusSend frame status => Sys2Proof.Machine.execWallStatusSend frame status s
  | .wallStatusReceive card frame status => Sys2Proof.Machine.execWallStatusReceive card frame status s
  | .wallFrameDeadline frame => Sys2Proof.Machine.execWallFrameDeadline frame s
  | .wallRejoin v => Sys2Proof.Machine.execWallRejoin v s
  | .fabcfgWrite v => Sys2Proof.Machine.execFabcfgWrite v s
  | .portUpChange port up => Sys2Proof.Machine.execPortUpChange port up s
  | .fabricInboundRequest card kind addr width arg bytes => Sys2Proof.Machine.execFabricInboundRequest card kind addr width arg bytes s
  | .fabricResponseTimeout req => Sys2Proof.Machine.execFabricResponseTimeout req s
  | .reducePacketMerge a b => Sys2Proof.Machine.execReducePacketMerge a b s
  | .reducePacketArrive key mask vals => Sys2Proof.Machine.execReducePacketArrive key mask vals s
  | .collectivePieceAck x piece => Sys2Proof.Machine.execCollectivePieceAck x piece s
  | .inboundMemWrite off bytes => Sys2Proof.Machine.execInboundMemWrite off bytes s
  | .inboundMemRead off n => Sys2Proof.Machine.execInboundMemRead off n s
  | .inboundAtomicop off kind width x y => Sys2Proof.Machine.execInboundAtomicop off kind width x y s
  | .hostReadCompletion req status bytes => Sys2Proof.Machine.execHostReadCompletion req status bytes s
  | .hostRequestTimeout req => Sys2Proof.Machine.execHostRequestTimeout req s
  | .hablClear => Sys2Proof.Machine.execHablClear s
  | .faultRecordWrite => Sys2Proof.Machine.execFaultRecordWrite s
  | .faultRetry token => Sys2Proof.Machine.execFaultRetry token s
  | .faultKill token => Sys2Proof.Machine.execFaultKill token s
  | .tlbInvalidatePage ctx vpn => Sys2Proof.Machine.execTlbInvalidatePage ctx vpn s
  | .tlbInvalidateContext ctx => Sys2Proof.Machine.execTlbInvalidateContext ctx s
  | .tlbInvalidateAll => Sys2Proof.Machine.execTlbInvalidateAll s
  | .tlbInvalidationDone => Sys2Proof.Machine.execTlbInvalidationDone s
  | .contextPreempt ctx => Sys2Proof.Machine.execContextPreempt ctx s
  | .contextKill ctx => Sys2Proof.Machine.execContextKill ctx s
  | .contextDeadClear ctx => Sys2Proof.Machine.execContextDeadClear ctx s
  | .contextSave ctx => Sys2Proof.Machine.execContextSave ctx s
  | .teamRestore team => Sys2Proof.Machine.execTeamRestore team s
  | .yieldBudgetExpiry ctx => Sys2Proof.Machine.execYieldBudgetExpiry ctx s
  | .fatalDiscard ctx => Sys2Proof.Machine.execFatalDiscard ctx s
  | .ergwSizeWrite die v => Sys2Proof.Machine.execErgwSizeWrite die v s
  | .ergwChangeDone die => Sys2Proof.Machine.execErgwChangeDone die s
  | .gddrRefresh ch => Sys2Proof.Machine.execGddrRefresh ch s
  | .patrolScrub pa => Sys2Proof.Machine.execPatrolScrub pa s
  | .reuseFlush => Sys2Proof.Machine.execReuseFlush s
  | .reuseKeyWrite tenant key => Sys2Proof.Machine.execReuseKeyWrite tenant key s
  | .lvcapWrite v runner => Sys2Proof.Machine.execLvcapWrite v runner s
  | .runnerPowerStep => Sys2Proof.Machine.execRunnerPowerStep s
  | .sensorUpdate watts temps => Sys2Proof.Machine.execSensorUpdate watts temps s
  | .boardPowerCut watts temp ms => Sys2Proof.Machine.execBoardPowerCut watts temp ms s
  | .reset => Sys2Proof.Machine.execReset s
  | .linkTrained => Sys2Proof.Machine.execLinkTrained s
  | .monitorVerify image => Sys2Proof.Machine.execMonitorVerify image s
  | .runnerVerify image => Sys2Proof.Machine.execRunnerVerify image s
  | .memoryTrained ok => Sys2Proof.Machine.execMemoryTrained ok s
  | .deviceReady gm => Sys2Proof.Machine.execDeviceReady gm s
  | .attestationRequest nonce => Sys2Proof.Machine.execAttestationRequest nonce s
  | .svnRaiseRequest kind svn => Sys2Proof.Machine.execSvnRaiseRequest kind svn s
  | .registerWrite off n v => Sys2Proof.Machine.execRegisterWrite off n v s
  | .ptpRateAdjust r lock offs => Sys2Proof.Machine.execPtpRateAdjust r lock offs s
  | .contextSaveDone ctx => Sys2Proof.Machine.execContextSaveDone ctx s

end Sys2Proof.Machine
end

