-- ==== Sys2Proof/Machine/Run.lean ====
section
/-!
DEFINITION. The events of the agenda, each run by the meaning that `exec` calls for its row.
-/
namespace Sys2Proof.Machine

/-- Runs an event. -/
def runEv (e : Ev) (s : State) : Out :=
  match e with
  | .clauseStart a fid => execClauseStart a fid s
  | .clauseLineArrival a fid line => execClauseLineArrival a fid line s
  | .issuerAged a fid => execIssuerAged a fid s
  | .holdEnd a fid => execHoldEnd a fid s
  | .tlbWalkDone walk => execTlbWalkDone walk s
  | .loadReturn op lanes ext => execLoadReturn op lanes ext s
  | .storeAccept op lanes => execStoreAccept op lanes s
  | .atomicReturn op lanes ext => execAtomicReturn op lanes ext s
  | .sweepSegmentAccess op => execSweepSegmentAccess op s
  | .hostAtomicCompletion op lane status val => execHostAtomicCompletion op lane status val s
  | .peerStoreReject op lane code => execPeerStoreReject op lane code s
  | .peerLoadReject op lanes code => execPeerLoadReject op lanes code s
  | .barrierComplete team kind => execBarrierComplete team kind s
  | .sleepWake a fid => execSleepWake a fid s
  | .fragmentQueueRelease core part => execFragmentQueueRelease core part s
  | .groupRelease a => execGroupRelease a s
  | .doorbell q tail => execDoorbell q tail s
  | .queueEntryRead q => execQueueEntryRead q s
  | .admission q => execAdmission q s
  | .gridEligible g => execGridEligible g s
  | .teamPlacement g => execTeamPlacement g s
  | .firmDeadlineShed g => execFirmDeadlineShed g s
  | .hardWaitPreempt g => execHardWaitPreempt g s
  | .groupStart team => execGroupStart team s
  | .leatImageLine a line => execLeatImageLine a line s
  | .gridCompletionRecord g => execGridCompletionRecord g s
  | .arrayOpBegin op => execArrayOpBegin op s
  | .matrixOpEnd op => execMatrixOpEnd op s
  | .mmaqRendezvous core tag => execMmaqRendezvous core tag s
  | .mmavLineArrival op => execMmavLineArrival op s
  | .cbldLoadDone op => execCbldLoadDone op s
  | .aallocGrant core => execAallocGrant core s
  | .bankZeroDone core bank => execBankZeroDone core bank s
  | .bankSpill core bank => execBankSpill core bank s
  | .leaveRequest die holder => execLeaveRequest die holder s
  | .leaveGrant die holder => execLeaveGrant die holder s
  | .leaveExpiry die holder => execLeaveExpiry die holder s
  | .leaveRevoke die holder => execLeaveRevoke die holder s
  | .hdescWrite a h v => execHdescWrite a h v s
  | .engineOpStart x => execEngineOpStart x s
  | .sluicePieceRequest core => execSluicePieceRequest core s
  | .sectorArrival x piece => execSectorArrival x piece s
  | .drainSectorAccept x piece => execDrainSectorAccept x piece s
  | .sluicePark x => execSluicePark x s
  | .engineOpComplete x => execEngineOpComplete x s
  | .rayEnd a lane order => execRayEnd a lane order s
  | .rayPark a lane => execRayPark a lane s
  | .rayStackSpill a lane => execRayStackSpill a lane s
  | .traversalReturn op => execTraversalReturn op s
  | .buildCommandStart die => execBuildCommandStart die s
  | .buildCommandEnd die => execBuildCommandEnd die s
  | .builderPark die => execBuilderPark die s
  | .generationReclaim die gen => execGenerationReclaim die gen s
  | .taskPop die b1 b2 => execTaskPop die b1 b2 s
  | .taskCoreChoice t core => execTaskCoreChoice t core s
  | .taskDispatch t => execTaskDispatch t s
  | .reuseKeyReady t => execReuseKeyReady t s
  | .reuseLookup t => execReuseLookup t s
  | .reuseHitCopyPiece t => execReuseHitCopyPiece t s
  | .taskOutputDrain t => execTaskOutputDrain t s
  | .taskCompletionRecord t => execTaskCompletionRecord t s
  | .packetReceive flow path seq pos stamp marker elems => execPacketReceive flow path seq pos stamp marker elems s
  | .frameSendStart flow => execFrameSendStart flow s
  | .frameLastPacket flow => execFrameLastPacket flow s
  | .frameSubstitution flow => execFrameSubstitution flow s
  | .flowEnable flow => execFlowEnable flow s
  | .flowDisable flow => execFlowDisable flow s
  | .ptTick => execPtTick s
  | .wallStatusSend frame status => execWallStatusSend frame status s
  | .wallStatusReceive card frame status => execWallStatusReceive card frame status s
  | .wallFrameDeadline frame => execWallFrameDeadline frame s
  | .wallRejoin v => execWallRejoin v s
  | .fabcfgWrite v => execFabcfgWrite v s
  | .portUpChange port up => execPortUpChange port up s
  | .fabricInboundRequest card kind addr width arg bytes => execFabricInboundRequest card kind addr width arg bytes s
  | .fabricResponseTimeout req => execFabricResponseTimeout req s
  | .reducePacketMerge a b => execReducePacketMerge a b s
  | .reducePacketArrive key mask vals => execReducePacketArrive key mask vals s
  | .collectivePieceAck x piece => execCollectivePieceAck x piece s
  | .inboundMemWrite off bytes => execInboundMemWrite off bytes s
  | .inboundMemRead off n => execInboundMemRead off n s
  | .inboundAtomicop off kind width x y => execInboundAtomicop off kind width x y s
  | .hostReadCompletion req status bytes => execHostReadCompletion req status bytes s
  | .hostRequestTimeout req => execHostRequestTimeout req s
  | .hablClear => execHablClear s
  | .faultRecordWrite => execFaultRecordWrite s
  | .faultRetry token => execFaultRetry token s
  | .faultKill token => execFaultKill token s
  | .tlbInvalidatePage ctx vpn => execTlbInvalidatePage ctx vpn s
  | .tlbInvalidateContext ctx => execTlbInvalidateContext ctx s
  | .tlbInvalidateAll => execTlbInvalidateAll s
  | .tlbInvalidationDone => execTlbInvalidationDone s
  | .contextPreempt ctx => execContextPreempt ctx s
  | .contextKill ctx => execContextKill ctx s
  | .contextDeadClear ctx => execContextDeadClear ctx s
  | .contextSave ctx => execContextSave ctx s
  | .teamRestore team => execTeamRestore team s
  | .yieldBudgetExpiry ctx => execYieldBudgetExpiry ctx s
  | .fatalDiscard ctx => execFatalDiscard ctx s
  | .ergwSizeWrite die v => execErgwSizeWrite die v s
  | .ergwChangeDone die => execErgwChangeDone die s
  | .gddrRefresh ch => execGddrRefresh ch s
  | .patrolScrub pa => execPatrolScrub pa s
  | .reuseFlush => execReuseFlush s
  | .reuseKeyWrite tenant key => execReuseKeyWrite tenant key s
  | .lvcapWrite v runner => execLvcapWrite v runner s
  | .runnerPowerStep => execRunnerPowerStep s
  | .sensorUpdate watts temps => execSensorUpdate watts temps s
  | .boardPowerCut watts temp ms => execBoardPowerCut watts temp ms s
  | .reset => execReset s
  | .linkTrained => execLinkTrained s
  | .monitorVerify image => execMonitorVerify image s
  | .runnerVerify image => execRunnerVerify image s
  | .memoryTrained ok => execMemoryTrained ok s
  | .deviceReady gm => execDeviceReady gm s
  | .attestationRequest nonce => execAttestationRequest nonce s
  | .svnRaiseRequest kind svn => execSvnRaiseRequest kind svn s
  | .registerWrite off n v => execRegisterWrite off n v s
  | .ptpRateAdjust r lock offs => execPtpRateAdjust r lock offs s
  | .contextSaveDone ctx => execContextSaveDone ctx s

end Sys2Proof.Machine
end

