-- ==== Sys2Proof/Machine/Due.lean ====
section
/-!
DEFINITION. What happens next in the device: the internal events that may happen in this clk, and the issuer whose instruction
executes (log entry 1).
-/
namespace Sys2Proof.Machine

/-- A free choice for an index of its own (log entry 2). -/
def freeChoice (kind x y : Nat) : Bool := Config.freeBit (2 ^ 100 + kind * 2 ^ 200 + x * 2 ^ 300 + y)

namespace State

/-- Events of fragments: lines of a clause that arrive, aging, the ends of holds and sleeps, releases of groups. -/
def fragEvents (s : State) : List Ev :=
  s.agents.flatMap fun (q : Nat × Agent) =>
    (q.2.frags.flatMap fun (f : Nat × Frag) =>
      (if f.2.readyAt.isSome ∧ !f.2.aged then [.issuerAged q.1 f.1] else []) ++
      match f.2.wait with
      | .none => []
      | .fetch ls => ls.map fun l => .clauseLineArrival q.1 f.1 l
      | .sleep _ => [.sleepWake q.1 f.1]
      | _ => [.holdEnd q.1 f.1]) ++
    (if q.2.ended then [.groupRelease q.1] else []) ++ q.2.imgTodo.map fun l => .leatImageLine q.1 l

/-- Lanes whose access still names a window of this card after translation: its own window rejects them (R464). -/
def ownLanes (s : State) (o : Op) : Dword :=
  maskOf ((o.acc.filter fun x => o.todo.getLsbD x.lane && s.paKind x.pa = .peer && natFld x.pa 44 6 = s.card).map (·.lane))

/-- Events of an operation in flight. -/
def opEvents (s : State) (o : Op) : List Ev :=
  if o.returned then []
  else match o.kind with
    | .store .. => [.storeAccept o.id o.todo]
    | .buf true .. => [.storeAccept o.id o.todo]
    | .buf false .. => [.loadReturn o.id o.todo [], .storeAccept o.id o.todo]
    | .atomic .. => [.atomicReturn o.id (o.localLanes s) [], .peerLoadReject o.id (s.ownLanes o) 1]
    | .sweep .. => [.sweepSegmentAccess o.id, .storeAccept o.id 0]
    | .matrix .. => [.arrayOpBegin o.id, .mmavLineArrival o.id, .cbldLoadDone o.id, .matrixOpEnd o.id]
    | .trace .. => [.traversalReturn o.id]
    | .hostAtomic .. => [.atomicReturn o.id 0 []]
    | _ => [.loadReturn o.id (o.localLanes s) [], .peerLoadReject o.id (s.ownLanes o) 1]

def allOps (s : State) : List Op := s.agents.flatMap fun (q : Nat × Agent) => q.2.ops

/-- Events of teams: barriers, starts. -/
def teamEvents (s : State) : List Ev :=
  s.teams.flatMap fun (q : Nat × Team) =>
    (if q.2.started then [] else [.groupStart q.1]) ++
    (if q.2.groups.any fun g => match s.agent? g with
        | some ag => ag.ended || ag.frags.any fun f => match f.2.wait with
          | .barrier .. => true
          | _ => false
        | none => true
      then [.barrierComplete q.1 0, .barrierComplete q.1 1] else [])

/-- Events of launch queues, grids and placement. -/
def gridEvents (s : State) : List Ev :=
  ((List.filter (fun (q : Nat × Dword) => q.1 < 256 && q.1 % 4 = 1 && q.2.getLsbD 12) s.bar).flatMap fun (q : Nat × Dword) =>
    [.queueEntryRead (q.1 / 4), .admission (q.1 / 4)]) ++
  (s.grids.flatMap fun (q : Nat × Grid) =>
    [.gridEligible q.1, .firmDeadlineShed q.1, .hardWaitPreempt q.1, .gridCompletionRecord q.1]) ++
  (if s.grids.isEmpty ∧ s.tasks.isEmpty ∧ s.teams.isEmpty then []
   else match s.offer with
    | some (w, ps) => (match w.kind with
      | .grid g => [.teamPlacement g]
      | .task t => ps.map fun p => .taskCoreChoice t p.core
      | .saved t => [.teamRestore t])
    | none => [])

/-- Holders that may ask for leave, or hold it. -/
def holders (s : State) : List Nat :=
  (KMap.keys s.leaves ++ ((s.agents.filter fun (q : Nat × Agent) => q.2.ops.any fun o => match o.kind with
      | .matrix .. => true
      | _ => false).map fun (q : Nat × Agent) => 4 * q.2.core + q.2.part) ++
    (KMap.keys s.builders).map (512 + ·) ++ (s.xops.map fun (q : Nat × Xop) => 520 + q.2.core)).eraseDups

/-- Events of accumulators, matrix engines and leave. -/
def engineEvents (s : State) : List Ev :=
  ((KMap.keys s.quads).map fun k => .mmaqRendezvous (k / 64) (k % 16)) ++ ((KMap.keys s.aq).map .aallocGrant) ++
  (s.accs.flatMap fun (q : Nat × Bank) => match q.2.st with
    | .zeroing => [.bankZeroDone (q.1 / 64) (q.1 % 64)]
    | _ => []) ++
  (s.holders.flatMap fun h =>
    [.leaveRequest (holderDie h) h, .leaveRevoke (holderDie h) h, .leaveGrant (holderDie h) h, .leaveExpiry (holderDie h) h])

/-- Events of the sluices. -/
def sluiceEvents (s : State) : List Ev :=
  (s.xops.flatMap fun (q : Nat × Xop) =>
    [.engineOpStart q.1, .sluicePark q.1] ++
    (q.2.out.flatMap fun p => [.sectorArrival q.1 p.1, .drainSectorAccept q.1 p.1, .collectivePieceAck q.1 p.1]) ++
    [.engineOpComplete q.1]) ++
  ((s.xops.map fun (q : Nat × Xop) => q.2.core).eraseDups.map .sluicePieceRequest)

/-- Events of rays and builders. The order of visits is free (R353); a generation is reclaimed before the builder's next command,
at the latest 8,192 clk after it may be (R340). -/
def sceneEvents (s : State) : List Ev :=
  (s.agents.flatMap fun (q : Nat × Agent) => q.2.rays.flatMap fun (r : Nat × Ray) =>
    if r.2.st = .running then
      [.rayPark q.1 r.1, .rayStackSpill q.1 r.1,
       .rayEnd q.1 r.1 ((List.range r.2.todo.length).map fun i => (Config.freeDword (2 ^ 70 + s.free + i)).toNat)]
    else []) ++
  (s.gens.flatMap fun (g : Nat × Gen) =>
    let b := s.builder g.2.die
    if g.2.idle ∧ ((b.run.isNone ∧ !b.queue.isEmpty) ∨ g.2.since + 8192 ≤ s.clk ∨ freeChoice 1 g.1 s.clk) then
      [.generationReclaim g.2.die g.1] else []) ++
  ((KMap.keys s.builders).flatMap fun d => [.buildCommandStart d, .builderPark d, .buildCommandEnd d])

/-- The two banks of a pop, distinct and not empty, chosen freely (R367). -/
def popPair (s : State) (die : Nat) : Nat × Nat :=
  let full := (List.range 32).filter fun k => !(s.taskBank die k).isEmpty
  let n := full.length
  let f (j m : Nat) : Nat := (Config.freeDword (2 ^ 71 + 2 * (2 * KMap.get 0 s.popCount die + die) + j)).toNat % max m 1
  let i := f 0 n
  (full.getD i 0, full.getD ((i + 1 + f 1 (n - 1)) % max n 1) 0)

/-- Events of tasks. -/
def taskEvents (s : State) : List Ev :=
  (if s.banks.isEmpty then [] else [0, 1].map fun d => .taskPop d (s.popPair d).1 (s.popPair d).2) ++
  (s.tasks.flatMap fun (q : Nat × Task) =>
    [.reuseKeyReady q.1, .reuseLookup q.1, .reuseHitCopyPiece q.1, .taskDispatch q.1, .taskOutputDrain q.1, .taskCompletionRecord q.1]) ++
  ((KMap.keys s.fragQ).map fun p => .fragmentQueueRelease (p / 4) (p % 4))

/-- Events of media flows and of the wall. -/
def streamEvents (s : State) : List Ev :=
  ((KMap.keys s.flows).flatMap fun f => [.frameSubstitution f, .frameSendStart f, .frameLastPacket f]) ++
  (s.wallBars.filterMap fun n => (s.wallMine n).map fun st => .wallStatusSend n st) ++
  (if s.wallEn then [.wallFrameDeadline s.wallNext] else [])

/-- Events of faults, contexts, links, memories and power. Whether two packets meet in a queue is free (R471), as is the moment at
which the patrol scrub meets a line (R492). -/
def cardEvents (s : State) : List Ev :=
  (if s.faultQ.isEmpty then [] else [.faultRecordWrite]) ++ (if s.tlbInv.isSome then [.tlbInvalidationDone] else []) ++
  ((KMap.keys s.fatals).map .fatalDiscard) ++
  ((KMap.keys s.preempts).flatMap fun c => [.yieldBudgetExpiry c, .contextSave c, .contextSaveDone c]) ++
  ((KMap.keys s.walks).map .tlbWalkDone) ++ ((KMap.keys s.hostReqs).map .hostRequestTimeout) ++
  ((KMap.keys s.fabReqs).map .fabricResponseTimeout) ++
  ((KMap.keys s.redQ).flatMap fun a => (List.filter (fun b => a < b && freeChoice 2 a b) (KMap.keys s.redQ)).map fun b => .reducePacketMerge a b) ++
  ((KMap.keys s.ergDone).map .ergwChangeDone) ++ ((KMap.keys s.refresh).map .gddrRefresh) ++
  ((List.filter (fun l => freeChoice 3 l s.clk) (KMap.keys s.bad)).map fun l => .patrolScrub (128 * l)) ++
  (if s.stage = 5 ∧ s.steer ≤ s.clk ∧ s.steer ≠ 0 then [.runnerPowerStep] else [])

/-- Clauses that may be fetched or started. -/
def startEvents (s : State) : List Ev :=
  s.agents.flatMap fun (q : Nat × Agent) =>
    (q.2.frags.filter fun (f : Nat × Frag) => f.2.k = 0 && f.2.wait = .none && decide (f.2.next ≤ s.clk)).map fun (f : Nat × Frag) =>
      .clauseStart q.1 f.1

/-- Internal events that may happen. -/
def candidates (s : State) : List Ev :=
  s.cardEvents ++ s.fragEvents ++ s.allOps.flatMap s.opEvents ++ s.teamEvents ++ s.engineEvents ++ s.gridEvents ++ s.sluiceEvents ++
    s.sceneEvents ++ s.taskEvents ++ s.streamEvents ++ s.startEvents

/-- An event that is not enabled leaves the state as it is. -/
def changes (s : State) (e : Ev) : Bool :=
  match runEv e s with
  | .next t => !decide (t = s)
  | _ => true

/-- The internal event that happens next in this clk. -/
def due (s : State) : Option Ev := s.candidates.find? s.changes

/-- Fragments whose held instruction goes on; a leat's fragment whose instruction issues. -/
def resumable (s : State) : List (Nat × Nat) :=
  s.agents.flatMap fun (q : Nat × Agent) =>
    (q.2.frags.filter fun (f : Nat × Frag) =>
      f.2.k ≠ 0 && f.2.wait = .none && s.mayIssue q.2 f.1 &&
        (decide (4 ≤ f.2.phase) || q.2.isLeat && decide (f.2.next ≤ s.clk))).map fun (f : Nat × Frag) => (q.1, f.1)

/-- Partitions that hold groups. -/
def partitions (s : State) : List Nat :=
  ((s.agents.filter fun (q : Nat × Agent) => !q.2.isLeat).map fun (q : Nat × Agent) => 4 * q.2.core + q.2.part).eraseDups

/-- The fragment whose instruction executes: one that goes on, or what a partition chooses in this clk (R168). -/
def issuing (s : State) : Option (Nat × Nat) :=
  match s.resumable with
  | x :: _ => some x
  | [] => (s.partitions.filterMap fun p => (s.choose p).bind fun c => if c.fr.k = 0 then none else some (c.a, c.fid)).head?

/-- The class and the word of the instruction at a fragment's pc. -/
def wordAt (s : State) (a fid : Nat) : Option (Cls × Dword) :=
  (s.agent? a).bind fun ag => (KMap.find? ag.frags fid).bind fun fr =>
    (fr.code[fr.k - 1]?).map fun w => ((Header.dec fr.hdr).cls, w)

end State

/-- The first input whose clk has come, and the inputs that remain. -/
def State.inputDue (s : State) : Option (Ev × List (Nat × Ev)) :=
  match s.inputs with
  | (t, e) :: is => if t ≤ s.clk then some (e, is) else none
  | [] => none

/-- Without power (R490) nothing happens until power returns with RESET. -/
def State.unpowered (s : State) : Out :=
  match s.inputs with
  | (t, .reset) :: is => runEv .reset { s with clk := max t s.clk, inputs := is, power := true }
  | _ => .fault .noPower

/-- Executes the instruction at a fragment's pc; a word that decodes to none is ILLEGAL_OP with detail 0 (R58, R404). -/
def execAt (a fid : Nat) (s : State) : Out :=
  let s1 := { s with cur := (a, fid) }
  match s.wordAt a fid with
  | none => .fault .noIssuer
  | some (cls, w) =>
    match decodeIn cls w with
    | some i => exec i s1
    | none => .next (s1.raise a fid (illegalOp 0))

end Sys2Proof.Machine
end

