-- ==== Sys2Proof/Machine/Step.lean ====
section
/-!
DEFINITION. One step of the device, and the state whose next step runs a given instruction.
-/
namespace Sys2Proof.Machine

/-- One step: the agenda's first event; else an input whose clk has come; else an internal event that may happen in this clk; else
the instruction of an issuer; else one clk passes. -/
def step (s : State) : Host.Outcome State Fault Refusal :=
  if s.power then
    match s.agenda with
    | e :: es => runEv e { s with agenda := es }
    | [] =>
      match s.inputDue with
      | some (e, is) => runEv e { s with inputs := is }
      | none =>
        match s.due with
        | some e => runEv e s
        | none =>
          match s.issuing with
          | some (a, fid) => execAt a fid s
          | none => execPtTick s
  else s.unpowered

/-- A resident group of one context, one team and one fragment, in the middle of a clause whose only word is the instruction. -/
def State.withFetchWord (s : State) (nbits w : Nat) : State :=
  let hdr : Dword := if nbits ≤ 64 then 0x07FF_FC00_0000_0000#64 else BitVec.ofNat 64 w
  let word : Dword := if nbits ≤ 64 then BitVec.ofNat 64 w else BitVec.ofNat 64 (w / 2 ^ 64)
  let fr : Frag := { h := 0x1_0000, hdr := hdr, k := 1, em := 0, own := 0xFFFF_FFFF#64, code := [word], next := s.clk }
  let ag : Agent := { kind := .group, core := 0, ctx := 0, team := 1, frags := [(0, fr)] }
  { (s.barPut (blkHost + 0x20) 0 4 5) with
    agenda := []
    inputs := []
    agents := [(1, ag)]
    teams := [(1, { grid := 0, ctx := 0, idx := 0, core := 0, groups := [1] })] }

end Sys2Proof.Machine
end

