-- ==== Sys2Proof/Safety.lean ====
section
/-!
DEFINITION. What the claims speak of: a step that answers a next state, a run of such steps, an issuer whose instruction may
issue, and what an instruction that acts on its own agent leaves everywhere else.
-/
namespace Sys2Proof.Safety
open Sys2Proof.Machine

/-- A step of the device answers a next state: neither a fault nor a refusal. -/
def steps (s : State) : Prop := ∃ t, step s = .next t

/-- n steps of the device answer next states. -/
def runs (s : State) (n : Nat) : Prop := ∃ t, Sys2Proof.core.run n s = .next t

/-- Memory is in its one canonical form. -/
abbrev memOk (s : State) : Prop := Memory.wf s.mem

/-! ## Issuers -/

/-- No write of the agent's is on its way: no fixed-latency write (R29), no operation in flight with a destination register or a
read window (R30). -/
abbrev settled (ag : Agent) : Prop := ag.pend = [] ∧ ∀ o ∈ ag.ops, o.dsts = [] ∧ o.win = []

/-- The issuer c takes its instruction for the first time, and no hazard of R30 can meet it. -/
abbrev ready (s : State) (c : Iss) : Prop := s.issuer = some c ∧ settled c.ag ∧ c.fr.phase < 4

/-- The issuer c is held at an instruction that it has issued before (R226), and no hazard can meet it. -/
abbrev held (s : State) (c : Iss) : Prop := s.issuer = some c ∧ settled c.ag ∧ 4 ≤ c.fr.phase

/-- A group that runs no trap handler. -/
abbrev plainGroup (c : Iss) : Prop := c.ag.kind = .group ∧ c.ag.handler = none

/-- ALL is 0, or the instruction stands in a group's trap handler (R58 step 6). -/
abbrev allOk (c : Iss) (all : BitVec 1) : Prop := all = 0 ∨ (c.ag.kind = .group ∧ c.ag.handler.isSome = true)

/-- In a leat the scalar fields name s0 to s31 (R51). -/
abbrev scalarsOk (c : Iss) (rs : List (BitVec 7)) : Prop := c.ag.kind ≠ .group → ∀ r ∈ rs, r.toNat < 32

/-- The pipe's slots after an instruction of the issuer that takes 1 + `extra` of them from this clk on (R28, R168). -/
def pipe (s : State) (c : Iss) (extra : Nat) : KMap Nat :=
  if c.ag.isLeat then s.slots else KMap.put s.slots (4 * c.ag.core + c.ag.part) (s.clk + 1 + extra)

/-- The instruction answers a next state in which the issuer's agent is `ag'`, the pipe has given `extra` slots beyond one, and
nothing else differs: no other agent, no byte of memory, no other field of the state. -/
def acts (i : Instr) (s : State) (c : Iss) (extra : Nat) (ag' : Agent) : Prop :=
  ∃ t, exec i s = .next t ∧ t.agent? c.a = some ag' ∧ (∀ b, b ≠ c.a → t.agent? b = s.agent? b)
    ∧ (∀ pa, rdB t.mem pa = rdB s.mem pa) ∧ t.slots = pipe s c extra ∧ { t with agents := s.agents, slots := s.slots } = s

/-! ## Scalar arithmetic (R82) -/

/-- The low w bits of a register as an integer, signed when sgn. -/
def operand (w : Nat) (sgn : Bool) (x : Dword) : Int :=
  let u := x.toNat % 2 ^ w
  if sgn ∧ 2 ^ (w - 1) ≤ u then (u : Int) - 2 ^ w else u

/-- What s(SD) receives for an exact result: its low w bits, sign-extended when sgn, else zero-extended. -/
def written (w : Nat) (sgn : Bool) (r : Int) : Dword :=
  let u := (r % 2 ^ w).toNat
  if sgn ∧ 2 ^ (w - 1) ≤ u then BitVec.ofNat 64 (u + (2 ^ 64 - 2 ^ w)) else BitVec.ofNat 64 u

/-- Operand B of F-S3 before it is narrowed (R37): the register, or AUX extended. -/
def operandB (f : FS3) (sgn : Bool) (ag : Agent) : Dword :=
  if f.im = 1 then (if sgn then f.aux.signExtend 64 else f.aux.setWidth 64) else ag.sr f.sb.toNat

/-- w and sgn of the four scalar types (R82): I32, N32, I64, N64. -/
def scalarTypes : List (BitVec 4 × Nat × Bool) := [(0, 32, true), (1, 32, false), (9, 64, true), (10, 64, false)]

/-- The agent after an instruction that writes s(d) with latency `lat` and passes on (R28, R29): the write is readable `lat` clk
later. -/
def wroteS (s : State) (c : Iss) (d : BitVec 7) (x : Dword) (lat : Nat) (stl : BitVec 3) : Agent :=
  { c.ag with
    pend := [{ fid := c.fid, dst := .s d.toNat, vals := [(0, x)], ready := s.clk + lat }]
    frags := KMap.put c.ag.frags c.fid (c.fr.adv (s.clk + 1 + stl.toNat)) }

/-! ## Control transfer -/

/-- The instruction stands last in its clause, whose words are those its header counts (R23, R25). -/
abbrev lastWord (c : Iss) : Prop := c.fr.k = c.fr.code.length ∧ c.fr.code.length = (Header.dec c.fr.hdr).count.toNat + 1

/-- H + 8 × (COUNT + 2): the header of the next clause in sequence. -/
def nextClause (c : Iss) : Nat := c.fr.h + 8 * ((Header.dec c.fr.hdr).count.toNat + 2)

/-- One scalar write with latency 2 on its way. -/
def link (s : State) (c : Iss) (d : BitVec 7) (x : Dword) : List Pend :=
  [{ fid := c.fid, dst := .s d.toNat, vals := [(0, x)], ready := s.clk + 2 }]

/-- The agent with these writes on their way and its fragment at the header at t, not before clk n. -/
def sentTo (c : Iss) (ps : List Pend) (t n : Nat) : Agent :=
  { c.ag with pend := ps, frags := KMap.put c.ag.frags c.fid { c.fr.goHdr t with next := n } }

/-- First clk at the target of a taken transfer (R94): no earlier than i + 3 and i + 1 + STL. -/
def takenAt (s : State) (stl : BitVec 3) : Nat := max (s.clk + 3) (s.clk + 1 + stl.toNat)

/-- The agent with these writes on their way and its fragment past the instruction, with a new em. -/
def passedOn (s : State) (c : Iss) (ps : List Pend) (em : Dword) (stl : BitVec 3) : Agent :=
  { c.ag with pend := ps, frags := KMap.put c.ag.frags c.fid ({ c.fr with em := em }.adv (s.clk + 1 + stl.toNat)) }

/-! ## Vectors -/

/-- A source field of F-V3 (R36, R39, R51): a scalar register below 128, a vector register of the group's, or unused and zero. -/
abbrev sourceOk (c : Iss) (used sel : Bool) (field : BitVec 10) : Prop :=
  if used then (if sel then field.toNat < 128 else field.toNat < c.ag.nv) else sel = false ∧ field = 0

/-- The operand fields of an F-V3 word that uses the sources said, in a group (R39, R51, R171). -/
abbrev vectorOk (c : Iss) (f : FV3) (a b cc : Bool) : Prop :=
  c.ag.kind = .group ∧ allOk c f.all ∧ sourceOk c a (f.sel.getLsbD 0) f.va ∧ sourceOk c b (f.sel.getLsbD 1) f.vb
    ∧ sourceOk c cc (f.sel.getLsbD 2) f.vc
    ∧ (f.sel.getLsbD 3 = true → f.sel.getLsbD 0 = true ∨ f.sel.getLsbD 1 = true ∨ f.sel.getLsbD 2 = true)

/-- The operand fields of an F-VI word in a group (R40, R51). -/
abbrev vectorImmOk (c : Iss) (f : FVI) : Prop :=
  c.ag.kind = .group ∧ allOk c f.all ∧ f.vd.toNat < c.ag.nv ∧ f.va.toNat < c.ag.nv
    ∧ (3 ≤ f.ty.toNat → f.ty.toNat ≤ 6 → f.imm.toNat / 2 ^ 16 = 0) ∧ (7 ≤ f.ty.toNat → f.imm.toNat / 2 ^ 8 = 0)

/-- MOD holds a rounding mode with a float type, SAT with an integer type, and nothing else (R50, R171). -/
abbrev arithMod (ty mod : BitVec 4) : Prop :=
  mod.toNat % 2 = 0 ∧ (tyFloat ty = true → mod.toNat / 2 % 2 = 0) ∧ (tyFloat ty = false → mod.toNat < 4)

/-- The operands of lane l under SEL (R39). -/
def laneA (c : Iss) (f : FV3) (l : Nat) : Word := opVA f c.ag l
def laneB (c : Iss) (f : FV3) (l : Nat) : Word := opVB f c.ag l
def laneC (c : Iss) (f : FV3) (l : Nat) : Word := opVC f c.ag l

/-- The passes an instruction is issued in (R127). -/
def twoPasses (c : Iss) (all : BitVec 1) : Bool × Bool := passes c.ag.width (c.active all) all

/-- The writes of one vector register (R128): each pass writes its own lanes, readable `lat` clk after its own clk. -/
def vectorWrites (s : State) (c : Iss) (all : BitVec 1) (d lat : Nat) (g : Nat → Word) : List Pend :=
  let vals := (lanesOf (c.active all)).map fun l => (l, (g l).setWidth 64)
  let one := fun (v : List (Nat × Dword)) (t : Nat) => if v.isEmpty then [] else [{ fid := c.fid, dst := Reg.v d, vals := v, ready := t : Pend }]
  if twoPasses c all = (true, true) then
    one (vals.filter fun v => v.1 < 32) (s.clk + lat) ++ one (vals.filter fun v => 32 ≤ v.1) (s.clk + 1 + lat)
  else one vals (s.clk + lat)

/-- The agent after a vector instruction with these writes on their way (R28): its second pass, if there is one, delays the next
instruction by one clk. -/
def vectorDone (s : State) (c : Iss) (all : BitVec 1) (ps : List Pend) (stl : BitVec 3) : Agent :=
  { c.ag with
    pend := ps
    frags := KMap.put c.ag.frags c.fid (c.fr.adv (s.clk + extraPass (twoPasses c all) + 1 + stl.toNat)) }

/-- An F-V3 instruction writes g l to each active lane l of v(VD), with latency `lat`, and changes nothing else. -/
def lanewise (s : State) (c : Iss) (f : FV3) (i : Instr) (lat : Nat) (g : Nat → Word) : Prop :=
  acts i s c (extraPass (twoPasses c f.all)) (vectorDone s c f.all (vectorWrites s c f.all f.vd.toNat lat g) f.stl)

/-- The same for F-VI. -/
def lanewiseImm (s : State) (c : Iss) (f : FVI) (i : Instr) (lat : Nat) (g : Nat → Word) : Prop :=
  acts i s c (extraPass (twoPasses c f.all)) (vectorDone s c f.all (vectorWrites s c f.all f.vd.toNat lat g) f.stl)

/-- Each element of the result from the elements of a and b (R49, R170). -/
def each2 (ty : BitVec 4) (g : Nat → Nat → Nat) (a b : Word) : Word :=
  ofElems ty ((List.range (32 / elemBits ty)).map fun k =>
    g (fldN a (k * elemBits ty) (elemBits ty)) (fldN b (k * elemBits ty) (elemBits ty)))

/-- Each element of the result from the elements of a, b and c. -/
def each3 (ty : BitVec 4) (g : Nat → Nat → Nat → Nat) (a b c : Word) : Word :=
  ofElems ty ((List.range (32 / elemBits ty)).map fun k =>
    g (fldN a (k * elemBits ty) (elemBits ty)) (fldN b (k * elemBits ty) (elemBits ty)) (fldN c (k * elemBits ty) (elemBits ty)))

/-- An exact integer as an element of the type: wrapped, or with SAT clamped to the type's range (R102, R173). -/
def fit (ty mod : BitVec 4) (x : Int) : Nat :=
  let n := elemBits ty
  let lo : Int := if elemSgn ty then -2 ^ (n - 1) else 0
  let hi : Int := if elemSgn ty then 2 ^ (n - 1) - 1 else 2 ^ n - 1
  let y := if mod.toNat / 2 % 2 = 1 then max lo (min hi x) else x
  (y % 2 ^ n).toNat

/-- A result of R173 or R174: exact over the integers, rounded once over the floats. -/
def arithOf (ty mod : BitVec 4) (int : Int → Int → Int) (flt : Fmt → RM → Nat → Nat → Nat) (x y : Nat) : Nat :=
  if tyFloat ty then flt (tyFmt ty) (RM.ofBits (mod.toNat / 4)) x y else fit ty mod (int (elemVal ty x) (elemVal ty y))

/-- L of the rows with integer and float types (R172). -/
def arithLat (ty : BitVec 4) : Nat := if tyFloat ty then 6 else 4

/-! ## Memory -/

/-- The state once the pipe has given the instruction its slots. -/
def slotted (s : State) (c : Iss) (extra : Nat) : State := { s with slots := pipe s c extra }

/-- The fields of a load or a store are in order (R41, R42, R51, R223): `scalar` for the S forms, whose ALL is not examined. -/
abbrev memFields (c : Iss) (f : FMEM) (scalar : Bool) (maxSch : Nat) : Prop :=
  f.width.toNat ≤ 4 ∧ f.sch.toNat ≤ maxSch
    ∧ (if scalar then
        f.data.toNat < 128 ∧ f.voff = 0x3FF ∧ (f.width = 4 → f.data.toNat % 2 = 0)
          ∧ (c.ag.kind ≠ .group → f.sbase.toNat < 32 ∧ f.data.toNat + (if f.width = 4 then 1 else 0) < 32)
      else
        c.ag.kind = .group ∧ allOk c f.all ∧ f.data.toNat % widthRegs f.width = 0 ∧ f.data.toNat + widthRegs f.width ≤ c.ag.nv
          ∧ (f.voff = 0x3FF ∨ f.voff.toNat < c.ag.nv))

/-- The fields of an atomic that admits the scopes up to `maxSch` (R44, R235). -/
abbrev atomFields (c : Iss) (f : FMEM) (maxSch : Nat) : Prop :=
  c.ag.kind = .group ∧ allOk c f.all ∧ (f.width = 2 ∨ f.width = 3) ∧ f.sch.toNat ≤ maxSch
    ∧ (f.width = 2 → aopOf f ≤ 14) ∧ (f.width = 3 → aopOf f ≤ 9)
    ∧ (let k := widthRegs f.width * (if aopOf f = 9 then 2 else 1)
      f.data.toNat % k = 0 ∧ f.data.toNat + k ≤ c.ag.nv) ∧ (f.voff = 0x3FF ∨ f.voff.toNat < c.ag.nv)

/-- The counter has room (R218); a leat has none. -/
abbrev room (c : Iss) (k : Ctr) : Prop := c.ag.kind ≠ .group ∨ c.ag.ctrVal k < 63

/-- What the issuer asks of memory: the lanes with their addresses (R224) and what R225 must know of them. -/
def request (c : Iss) (f : FMEM) (sp : Space) (scalar : Bool) (disp : Int) (write atomic : Bool) (host : Option Bool) : Req :=
  { sp := sp, n := 2 ^ f.width.toNat, write := write, atomic := atomic, host := host
    accs := if scalar then [(0, ((c.ag.sr f.sbase.toNat).toNat : Int) + disp)]
      else (lanesOf (c.active f.all)).map fun l =>
        (l, ((c.ag.sr f.sbase.toNat).toNat : Int) + (if f.voff = 0x3FF then 0 else ((c.ag.vr f.voff.toNat l).toNat : Int)) + disp) }

/-- The checks of R225 pass for an issuer whose instruction has not waited for a translation. -/
abbrev checked (s : State) (c : Iss) (extra : Nat) (q : Req) (l : List (Nat × Nat × Nat)) : Prop :=
  c.fr.phase = 0 ∧ q.check (slotted s c extra) c.ag false = .ok l

/-- A new operation in flight (R218): not returned, every lane of it still to be performed. -/
def newOp (s : State) (c : Iss) (ctr : Ctr) (kind : OpKind) (accs : List Acc) (dsts : Regs) (due : Nat) : Op :=
  { id := s.ids, fid := c.fid, ctr := if c.ag.isLeat then none else some ctr, issue := s.clk, due := due, kind := kind, acc := accs,
    todo := maskOf (accs.map (·.lane)), dsts := dsts, pc := c.fr.pc }

/-- The agent with one more operation in flight, its fragment changed by g. -/
def withOp (c : Iss) (o : Op) (g : Frag → Frag) : Agent :=
  { c.ag with ops := c.ag.ops ++ [o], frags := KMap.upd c.ag.frags c.fid g }

/-- The fragment goes on after STL. -/
def goesOn (s : State) (extra : Nat) (stl : BitVec 3) (fr : Frag) : Frag := fr.adv (s.clk + extra + 1 + stl.toNat)

/-- The fragment is held until the operation returns (R226, R256). -/
def waitsFor (s : State) (id : Nat) (fr : Frag) : Frag := { fr with wait := .ops [id] false, phase := 4, iss := s.clk, hop := id }

/-- The next state in which the issuer's agent is `ag'`, memory reads as before everywhere, and nothing differs beyond `rest`. -/
def answers (i : Instr) (s : State) (c : Iss) (ag' : Agent) (rest : State → Prop) : Prop :=
  ∃ t, exec i s = .next t ∧ t.agent? c.a = some ag' ∧ (∀ b, b ≠ c.a → t.agent? b = s.agent? b)
    ∧ (∀ pa, rdB t.mem pa = rdB s.mem pa) ∧ rest t

/-! ## System instructions -/

/-- The operand fields of an F-SYS word (R48, R51): the sub-code given, fields that the row does not use zero, ALL allowed, in a leat
scalar registers below 32. -/
abbrev sysFields (c : Iss) (f : FSYS) (sub : BitVec 4) (sd sa sb res : Bool) (imm : BitVec 19) : Prop :=
  allOk c f.all ∧ f.sub = sub ∧ (sd = false → f.sd = 0) ∧ (sa = false → f.sa = 0) ∧ (sb = false → f.sb = 0)
    ∧ (res = false → f.res = 0) ∧ f.imm &&& ~~~imm = 0 ∧ scalarsOk c [f.sd, f.sa, f.sb]

/-- The fragments once the issuer's has passed the instruction. -/
def passed (s : State) (c : Iss) (stl : BitVec 3) : KMap Frag := KMap.upd c.ag.frags c.fid (goesOn s 0 stl)

/-- The fragments while the issuer's waits at the instruction, with what the hold keeps. -/
def waiting (s : State) (c : Iss) (w : Wait) (hop : Nat) : KMap Frag :=
  KMap.upd c.ag.frags c.fid fun fr => { fr with wait := w, phase := 4, iss := s.clk, hop := hop }

/-- The next state is the one in which the fault x has been delivered at the instruction (R6), which took its issue slot. -/
def raises (i : Instr) (s : State) (c : Iss) (x : Flt) : Prop := exec i s = .next (State.raise (slotted s c 0) c.a c.fid x)

/-- The agent in its trap handler (R419, R420): em empty, the handler's first clause 12 clk later; saved are em, s120 to s127 and
the fault's record; LM holds the lanes at fault. -/
def trapped (s : State) (c : Iss) (x : Flt) : Agent :=
  { c.ag with
    lm := x.lm
    impure := c.ag.impure || decide (x.code = 14)
    handler := some
      { fid := c.fid, emSave := c.fr.em, shadow := (List.range 8).map fun i => c.ag.sr (120 + i), code := x.code
        record := faultRec (c.ag.raiser c.fid c.fr.pc) 1 x 0 s.pt, frag := { c.fr with phase := 0, wait := .none, fault := none, hop := 0 } }
    frags := KMap.put c.ag.frags c.fid { c.fr.goHdr (s.ctxHandler c.ag.ctx) with em := 0, next := s.clk + 12 } }

/-! ## Matrix instructions -/

/-- A matrix operation in flight on M (R287), as it was issued. -/
def matrixOp (s : State) (c : Iss) (opc : Nat) (f : FMTX) (m : Mtx) (dsts win : Regs) (due : Nat) : Op :=
  { id := s.ids, fid := c.fid, ctr := some .m, issue := s.clk, due := due, kind := .matrix opc f m, dsts := dsts, win := win }

/-- A matrix operation with the parts said enters the engine of the issuer's partition; the fragment goes on. -/
def entersEngine (i : Instr) (s : State) (c : Iss) (opc : Nat) (f : FMTX) (dsts win : Regs) (due : Nat) (parts : Mtx → Prop)
    (rest : State → Prop) : Prop :=
  ∃ m : Mtx, m.core = c.ag.core ∧ m.part = c.ag.part ∧ m.begun = none ∧ parts m
    ∧ answers i s c (withOp c (matrixOp s c opc f m dsts win due) (goesOn s 0 f.stl)) rest

/-! ## Records in memory -/

/-- The n-byte record at a that an instruction of the issuer reads, as one number: it lies inside the space, its pages are
translated in the core's TLB, and all of it on this card. -/
abbrev recordAt (s : State) (c : Iss) (a n x : Nat) : Prop :=
  a + n ≤ 2 ^ 48 ∧ (match s.recParts c.ag a n false false with
    | .ok ps => if ps.all fun p => s.onCard p.2.1 then some (s.partsRead ps).2 else none
    | .error _ => none) = some x

/-- The fragments once the issuer's has ended the hold of its instruction (R241). -/
def released (s : State) (c : Iss) (stl : BitVec 3) : KMap Frag :=
  KMap.upd c.ag.frags c.fid fun fr => fr.adv (max (s.clk + 1) (fr.iss + 1 + stl.toNat))

/-! ## Events -/

/-- The event answers a next state: s' but for agent a, which is ag' there. -/
def leaves (e : Instr) (s s' : State) (a : Nat) (ag' : Agent) : Prop :=
  ∃ t, exec e s = .next t ∧ t.agent? a = some ag' ∧ (∀ b, b ≠ a → t.agent? b = s.agent? b) ∧ { t with agents := s.agents } = s'

/-- The event changes nothing but fragment fid of agent a, by g. -/
def moves (e : Instr) (s : State) (a fid : Nat) (ag : Agent) (g : Frag → Frag) : Prop :=
  leaves e s s a { ag with frags := KMap.upd ag.frags fid g }

/-- The event answers a next state of which P holds. -/
def brings (e : Instr) (s : State) (P : State → Prop) : Prop := ∃ t, exec e s = .next t ∧ P t

/-- Fragment fid of agent a. -/
abbrev fragOf (s : State) (a fid : Nat) (ag : Agent) (fr : Frag) : Prop := s.agent? a = some ag ∧ KMap.find? ag.frags fid = some fr

end Sys2Proof.Safety
end

