-- ==== Sys2Proof/WellFormed.lean ====
section
/-!
DEFINITION. Well-formed instructions: those that a word of the opcode map names (R52 to R55) and whose always-reserved fields are
zero (R38, R47). An instruction that is not well-formed is still data: what a word with a nonzero reserved field does is the
ILLEGAL_OP of R58, which its meaning raises.
-/
namespace Sys2Proof

/-- The row of a word is chosen by its OPC and, in the SYS class, by its SUB (R55): SUB names this row. -/
def Instr.rowOk : Instr → Bool
  | .sleeppt f => f.sub ≠ 1
  | .sleepptRel f => f.sub = 1
  | .bufrelCons f => f.sub ≠ 1
  | .bufrelPub f => f.sub = 1
  | .rresume f => f.sub.toNat % 2 ≠ 1
  | .rresumeEnd f => f.sub.toNat % 2 = 1
  | .bldqCur f => f.sub ≠ 1 && f.sub ≠ 2
  | .bldqPins f => f.sub = 1
  | .bldqQueue f => f.sub = 2
  | .qframeOpen f => f.sub ≠ 1 && f.sub ≠ 2
  | .qframeDone f => f.sub = 1
  | .qframeNext f => f.sub = 2
  | .tretRetry f => f.sub ≠ 1 && f.sub ≠ 2
  | .tretSkip f => f.sub = 1
  | .tretJmp f => f.sub = 2
  | .fltrdRec f => f.sub ≠ 1 && f.sub ≠ 2
  | .fltrdSpl f => f.sub = 1
  | .fltrdRng f => f.sub = 2
  | .halt f => f.sub ≠ 1
  | .haltFatal f => f.sub = 1
  | .xcopyIn f => f.sub ≠ 1 && f.sub ≠ 2 && f.sub ≠ 3
  | .xcopyInc f => f.sub = 1
  | .xcopyOut f => f.sub = 2
  | .xcopyOutc f => f.sub = 3
  | .xwaitH f => f.sub ≠ 1 && f.sub ≠ 2
  | .xwaitOps f => f.sub = 1
  | .xwaitSvc f => f.sub = 2
  | .xcollSend f => f.sub ≠ 1 && f.sub ≠ 2
  | .xcollRed f => f.sub = 1
  | .xcollGet f => f.sub = 2
  | _ => true

/-- The fields that the format tables mark reserved, and those that R36, R38, R45 and R52 reserve in whole rows, are zero. -/
def Instr.rsvOk : Instr → Bool
  | .smovi f => f.rsv = 0 && f.sa = 0
  | .smovh f => f.rsv = 0 && f.sa = 0
  | .saddFSi f => f.rsv = 0
  | .sandFSi f => f.rsv = 0
  | .sorFSi f => f.rsv = 0
  | .sxorFSi f => f.rsv = 0
  | .bra f => f.rsv = 0
  | .brc f => f.rsv = 0
  | .call f => f.rsv = 0
  | .ret f => f.rsv = 0
  | .jmp f => f.rsv = 0
  | .loop f => f.rsv = 0
  | .brzm f => f.rsv = 0
  | .nop f => f.cond = 0 && f.sc = 0 && f.sl = 0 && f.rsv = 0 && f.off = 0
  | .endGroup f => f.cond = 0 && f.sc = 0 && f.sl = 0 && f.rsv = 0 && f.off = 0
  | .vmovFVi f => f.va = 0
  | .swadd f => f.sr = 0
  | .swmul f => f.sr = 0
  | .swfma f => f.sr = 0
  | .swmax f => f.sr = 0
  | _ => true

/-- A register access of the host is 4 or 8 bytes wide (R456). -/
def Instr.argsOk : Instr → Bool
  | .registerWrite _ n _ => n = 4 || n = 8
  | _ => true

def Instr.wellFormed (i : Instr) : Bool := i.rowOk && i.rsvOk && i.argsOk

end Sys2Proof
end

