-- ==== Sys2Proof/Certificates/Slice0/Obligations.lean ====
section
/-!
DEFINITION. The claims about this model, for the provers.
-/
open Sys2Proof Sys2Proof.Machine Sys2Proof.Safety

/-- R497: stage 0, no reason. R395: PSTAT 0. R495: MR0 to MR3 zero. R489: LVCAP 160 units each, PWRST 0, ECCCNT 0. R458: HCTO 10,000 µs, HERR
0. R411: every context disabled, alive and without a handler, its yield budget 25,000 clk. R381: every flow off, GUARD 500,000 ns. R408: the
fault queue off and empty. R460: FABCFG 0. Nothing runs, and the board has power. -/
def Obligations.ResetLeaves : Prop :=
  let s := State.reset
  s.stage = 0 ∧ s.barFld 0xA_0020 8 8 = 0 ∧ s.pstat = 0 ∧ s.power = true ∧ s.pt = 0
    ∧ (∀ i, i < 4 → s.mrs.getD i [] = List.replicate 64 0#8)
    ∧ s.lvcap 0 = 160 ∧ s.lvcap 1 = 160 ∧ s.barRd 0xA_0022 = 0 ∧ s.barRd 0xA_0024 = 0 ∧ s.barRd 0xA_0004 = 10000 ∧ s.barRd 0xA_0001 = 0
    ∧ (∀ c, c < 64 → s.ctxEn c = false ∧ s.ctxDead c = false ∧ s.ctxHandler c = 0 ∧ s.ctxBudget c = 25000)
    ∧ (∀ f, f < 64 → s.flowOn f = false ∧ s.guard f = 500000 ∧ s.troff f = 0)
    ∧ s.fqHead = 0 ∧ s.fqTail = 0 ∧ s.barFld 0x6_0000 56 1 = 0 ∧ s.barRd 0xC_0000 = 0 ∧ s.faultQ = []
    ∧ s.agents = [] ∧ s.teams = [] ∧ s.grids = [] ∧ s.tasks = [] ∧ s.agenda = []

/-- R33 to R48: one word of each format. SADD I64 s2 := s1 + s1, STL 1; SADD.I; VADD F32; VCMP with an immediate; an F-MEM atomic; a
sweep; MMA with a handle; LOOP; QPOP; XCOPY.IN: each field where the layout of its format puts it. -/
def Obligations.WordsDecode : Prop :=
  decodeIn .alu 0x0320_4040_8090_0000#64 = some (.sadd { stl := 1, all := 0, sd := 2, sa := 1, sb := 1, sc := 0, ty := 9, im := 0, cc := 0, aux := 0 })
    ∧ decodeIn .alu 0x40A0_2004_0140_0200#64
      = some (.vadd { stl := 5, all := 0, vd := 8, va := 4, vb := 5, vc := 0, ty := 2, mod := 0, sel := 0 })
    ∧ decodeIn .alu 0x8BA0_0C01_2A41_0000#64 = some (.vcmpFVi { stl := 5, all := 0, vd := 3, va := 1, ty := 2, mod := 10, imm := 0x41_0000 })
    ∧ decodeIn .alu 0xA800_4042_5408_0800#64
      = some (.swfma { ty := 0, stl := 0, all := 0, cnt := 64, sd := 8, sa := 9, sb := 10, stepd := 4, stepa := 4, stepb := 0, sr := 0 })
    ∧ decodeIn .alu 0x2500_0200_0000_0000#64 = some (.loop { stl := 0, all := 0, cond := 0, sc := 1, sl := 0, rsv := 0, off := 0 })
    ∧ decodeIn .mem 0x0800_1050_0490_0000#64
      = some (.atomg { stl := 0, all := 0, data := 4, sbase := 10, voff := 2, width := 2, sch := 2, imm := 0 })
    ∧ decodeIn .mtx 0x0300_8051_00A0_0600#64
      = some (.mma { stl := 0, all := 0, abank := 2, a := 5, b := 64, fb := 20, kst := 0, ah := 1, clr := 1, mopt := 0 })
    ∧ decodeIn .sys 0x1C01_0240_0188_0014#64
      = some (.qpop { stl := 0, all := 0, sd := 8, sa := 9, sb := 0, res := 3, sub := 1, imm := 20 })
    ∧ decodeIn .sys 0x3000_0002_8000_0000#64
      = some (.xcopyIn { stl := 0, all := 0, sd := 0, sa := 0, sb := 5, res := 0, sub := 0, imm := 0 })
    ∧ Header.dec 0x07FF_FC00_0000_0000#64
      = { cls := .alu, count := 1, wg := 15, ws := 15, we := 15, wm := 15, hw := 0, h := 0, hst := 0, hph := 0, rsv := 0 }
    ∧ Header.dec 0x43FF_FE01_4000_0000#64
      = { cls := .mem, count := 0, wg := 15, ws := 15, we := 15, wm := 15, hw := 1, h := 0, hst := 2, hph := 1, rsv := 0 }
    ∧ decodeWord .alu 0xFF00_0000_0000_0000#64 = .unassigned ∧ decodeWord .alu 0x3000_0000_0000_0000#64 ≠ .unassigned

/-- R34 to R55: for every instruction whose row its SUB names (the reserved fields at any value), the word that encodes it decodes to it in
its class; for every class and every 64-bit word that decodes, its instruction encodes to that word in that class: no bit of a word is
dropped, and no two words hold one instruction. The same holds of clause headers (R33). -/
def Obligations.EncodeDecodeAgree : Prop :=
  (∀ (i : Instr) (c : Cls) (w : Dword), i.rowOk = true → encode i = some (c, w) → decodeIn c w = some i)
    ∧ (∀ (c : Cls) (w : Dword) (i : Instr), decodeIn c w = some i → encode i = some (c, w) ∧ i.rowOk = true)
    ∧ (∀ h : Header, Header.dec (Header.enc h) = h) ∧ (∀ w : Dword, Header.enc (Header.dec w) = w)

/-- With no event on the agenda, no input whose clk has come and no internal event due, the step executes the word at the pc of the
issuer that the arbitration chooses (R168): exec of the instruction that it decodes to in the class of its clause (R34), or ILLEGAL_OP with
detail 0 (R58 step 2). An event of the agenda, an input and an internal event each run as exec of their row; with nothing to do,
one clk passes. The order of events within a clk is the model's (log entry 1).
The model's choices that it rests on: log entry 1. -/
def Obligations.StepRunsTheDecodedInstruction : Prop :=
  ∀ (s : State), s.power = true →
    (s.agenda = [] → s.inputDue = none → s.due = none →
      (∀ a fid cls w, s.issuing = some (a, fid) → s.wordAt a fid = some (cls, w) →
        (∀ i, decodeIn cls w = some i → step s = exec i { s with cur := (a, fid) })
        ∧ (decodeIn cls w = none → step s = .next (State.raise { s with cur := (a, fid) } a fid { code := 3, detail := 0 })))
      ∧ (s.issuing = none → step s = exec .ptTick s))
    ∧ (∀ e es, s.agenda = e :: es → ∃ i : Instr, step s = exec i { s with agenda := es } ∧ ∀ t, runEv e t = exec i t)
    ∧ (∀ e is, s.agenda = [] → s.inputDue = some (e, is) → ∃ i : Instr, step s = exec i { s with inputs := is } ∧ ∀ t, runEv e t = exec i t)
    ∧ (∀ e, s.agenda = [] → s.inputDue = none → s.due = some e → ∃ i : Instr, step s = exec i s ∧ ∀ t, runEv e t = exec i t)

/-- R419, R420: a TRAP fault of a group whose context has a handler enters it on the faulting fragment: the header at HANDLER 12 clk
later, em 0, LM the lanes at fault; saved are em, s120 to s127, the fragment and the record of R406. R402, R410, R418: a REPLAY or DEBUG
fault stops the group where it is, and its record goes to the fault queue with a token that names it; a leat is parked likewise (R313).
R421, R423: a TRAP fault of a leat or without a handler, and every FATAL one, is fatal: DEAD is set, and the discard comes next;
in the handler the code is HANDLER_FAULT, with the codes of both faults in INFO. No register, no byte of memory, no other agent changes. -/
def Obligations.FaultsAreDelivered : Prop :=
  ∀ (s : State) (a fid : Nat) (ag : Agent) (fr : Frag) (f : Flt), fragOf s a fid ag fr → f.code < 48 →
    ag.ctx < 64 → ag.tenant < 16 → ag.core < 128 → ag.part < 4 → ag.slot < 256 → fid < 16 →
    let t := s.raise a fid f
    let code := f.code
    let trapClass := (3 ≤ code ∧ code ≤ 16)
    let replay := (code = 1 ∨ code = 2 ∨ code = 17)
    let elsewhere := (∀ b, b ≠ a → t.agent? b = s.agent? b) ∧ t.mem = s.mem ∧ t.teams = s.teams ∧ t.clk = s.clk
    let bits := fun (r : BitVec 512) (lo n : Nat) => r.toNat / 2 ^ lo % 2 ^ n
    let recorded := fun (r : BitVec 512) (cls : Nat) => bits r 8 3 = cls ∧ bits r 32 6 = ag.ctx ∧ bits r 38 4 = ag.tenant ∧ bits r 42 7 = ag.core
      ∧ bits r 12 4 = (match ag.kind with | .group => 0 | .leat tail => if tail then 2 else 1)
      ∧ bits r 320 64 = s.pt ∧ bits r 128 48 = f.pc.getD fr.pc % 2 ^ 48 ∧ bits r 192 64 = f.lm.toNat
      ∧ (ag.kind = .group → bits r 49 2 = ag.part ∧ bits r 51 8 = ag.slot ∧ bits r 59 4 = fid)
    let asRaised := fun (r : BitVec 512) => bits r 0 8 = code ∧ bits r 16 16 = f.detail % 2 ^ 16 ∧ bits r 64 64 = f.addr % 2 ^ 64
      ∧ bits r 384 128 = f.info % 2 ^ 128
    let fatal := fun (P : BitVec 512 → Prop) => KMap.find? s.fatals ag.ctx = none → elsewhere ∧ t.agent? a = some ag ∧ t.ctxDead ag.ctx = true
      ∧ t.agenda = .fatalDiscard ag.ctx :: s.agenda ∧ ∃ r, KMap.find? t.fatals ag.ctx = some (r, false) ∧ recorded r 2 ∧ bits r 256 32 = 0 ∧ P r
    let stopped := ∃ r, t.faultQ = s.faultQ ++ [r] ∧ recorded r (if code = 17 then 4 else 0) ∧ asRaised r ∧ bits r 256 32 = s.tokenNext % 2 ^ 32
      ∧ KMap.find? t.tokens s.tokenNext = some (.agent a fid)
    (ag.kind = .group → ag.handler = none → trapClass → s.ctxHandler ag.ctx ≠ 0 → f.pc = none →
      elsewhere ∧ t.faultQ = s.faultQ ∧ t.fatals = s.fatals ∧ ∃ ag' fr' h, fragOf t a fid ag' fr' ∧ ag'.sregs = ag.sregs ∧ ag'.vregs = ag.vregs
        ∧ ag'.ops = ag.ops ∧ ag'.lm = f.lm ∧ (∀ g, g ≠ fid → KMap.find? ag'.frags g = KMap.find? ag.frags g)
        ∧ fr'.h = s.ctxHandler ag.ctx ∧ fr'.k = 0 ∧ fr'.em = 0 ∧ fr'.next = s.clk + 12
        ∧ ag'.handler = some h ∧ h.fid = fid ∧ h.emSave = fr.em ∧ h.code = code ∧ h.shadow = (List.range 8).map (fun i => ag.sr (120 + i))
        ∧ h.frag.h = fr.h ∧ h.frag.k = fr.k ∧ h.frag.em = fr.em ∧ recorded h.record 1 ∧ asRaised h.record)
    ∧ (ag.kind = .group → ag.handler = none → replay → elsewhere ∧ t.fatals = s.fatals ∧ stopped
        ∧ ∃ ag' fr', fragOf t a fid ag' fr' ∧ ag'.sregs = ag.sregs ∧ ag'.vregs = ag.vregs ∧ ag'.ops = ag.ops ∧ ag'.lm = f.lm
          ∧ fr'.h = fr.h ∧ fr'.k = fr.k ∧ fr'.em = fr.em ∧ ∃ st, ag'.stop = some st ∧ st.fid = fid ∧ st.token = s.tokenNext ∧ (st.debug = true ↔ code = 17))
    ∧ (ag.kind ≠ .group → replay → elsewhere ∧ t.fatals = s.fatals ∧ stopped
        ∧ ∃ ag' fr', fragOf t a fid ag' fr' ∧ ag'.sregs = ag.sregs ∧ ag'.vregs = ag.vregs ∧ fr'.pc = fr.pc ∧ fr'.wait = .stopped s.tokenNext)
    ∧ (ag.kind ≠ .group → ¬replay → fatal asRaised)
    ∧ (ag.kind = .group → ag.handler = none → trapClass → s.ctxHandler ag.ctx = 0 → fatal asRaised)
    ∧ (ag.kind = .group → ag.handler = none → 32 ≤ code → fatal asRaised)
    ∧ (∀ h, ag.kind = .group → ag.handler = some h → h.code < 256 → fatal fun r => bits r 0 8 = 34 ∧ bits r 384 8 = code
        ∧ bits r 392 16 = f.detail % 2 ^ 16 ∧ bits r 408 8 = h.code)

/-- R58 steps 3 to 7: on an issuer, a vector instruction in a leat, a leat's instruction in a group and a handler's instruction outside a
handler are detail 1; a nonzero reserved field is detail 2; an illegal type is detail 3; ALL = 1 outside a handler is detail 4;
then a register outside the allocation is ILLEGAL_REG: of the scalar F-S3, the vector F-V3 and some F-SYS rows, each step only where
no earlier one applies. The instruction has no other effect. -/
def Obligations.IllegalWordsRaise : Prop :=
  ∀ (s : State) (c : Iss), s.issuer = some c →
    let fate := fun (i : Instr) (x : Flt) => exec i s = .next (s.raise c.a c.fid x)
    let detail := fun (i : Instr) (d : Nat) => fate i { code := 3, detail := d }
    (∀ (mk : FS3 → Instr) (f : FS3), mk ∈ [Instr.sadd, .ssub, .smul, .smulh, .sdiv, .srem, .sand, .sor, .sxor, .sshl, .sshr, .ssar, .smin, .smax] →
      let used := f.cc ≠ 0 ∨ f.sc ≠ 0 ∨ (f.im = 1 ∧ f.sb ≠ 0) ∨ (f.im = 0 ∧ f.aux ≠ 0)
      let ty := f.ty ∈ [(0 : BitVec 4), 1, 9, 10]
      (used → detail (mk f) 2)
      ∧ (¬used → ¬ty → detail (mk f) 3)
      ∧ (¬used → ty → f.all = 1 → ¬(c.ag.kind = .group ∧ c.ag.handler.isSome = true) → detail (mk f) 4)
      ∧ (¬used → ty → f.all = 0 → c.ag.kind ≠ .group → (32 ≤ f.sd.toNat ∨ 32 ≤ f.sa.toNat ∨ 32 ≤ f.sb.toNat) → fate (mk f) { code := 4 }))
    ∧ (∀ (mk : FV3 → Instr) (f : FV3), mk ∈ [Instr.vadd, .vsub, .vmul, .vmin, .vmax] →
      let used := f.vc ≠ 0 ∨ f.sel.getLsbD 2 = true ∨ (f.sel.getLsbD 0 = true ∧ 128 ≤ f.va.toNat) ∨ (f.sel.getLsbD 1 = true ∧ 128 ≤ f.vb.toNat)
        ∨ (f.sel.getLsbD 3 = true ∧ f.sel.getLsbD 0 = false ∧ f.sel.getLsbD 1 = false)
      (c.ag.kind ≠ .group → detail (mk f) 1)
      ∧ (c.ag.kind = .group → used → detail (mk f) 2)
      ∧ (c.ag.kind = .group → ¬used → f.mod = 0 → 9 ≤ f.ty.toNat → detail (mk f) 3)
      ∧ (c.ag.kind = .group → ¬used → f.ty.toNat ≤ 8 → f.mod = 0 → f.all = 1 → c.ag.handler = none → detail (mk f) 4)
      ∧ (c.ag.kind = .group → ¬used → f.ty.toNat ≤ 8 → f.mod = 0 → f.all = 0 →
          (c.ag.nv ≤ f.vd.toNat ∨ (f.sel.getLsbD 0 = false ∧ c.ag.nv ≤ f.va.toNat) ∨ (f.sel.getLsbD 1 = false ∧ c.ag.nv ≤ f.vb.toNat)) →
          fate (mk f) { code := 4 }))
    ∧ (∀ (mk : FSYS → Instr) (f : FSYS), mk ∈ [Instr.xcopyIn, .xcopyInc, .xcopyOut, .xcopyOutc, .xhalo, .xim2c, .xresume, .xwaitH, .xwaitOps, .xwaitSvc, .xfill] →
      c.ag.kind = .group → detail (mk f) 1)
    ∧ (∀ (mk : FSYS → Instr) (f : FSYS), mk ∈ [Instr.tretRetry, .tretSkip, .tretJmp, .fltrdRec, .fltrdSpl, .fltrdRng, .xlmr, .xlmw] →
      c.ag.kind = .group → c.ag.handler = none → detail (mk f) 1)

/-- R30, R31, on SADD: a fixed-latency write of s(SA) is on its way. With CHK the instruction raises STALL_SHORT with detail 0 and has no
effect; without CHK it reads the value before that write. Detail 1 where a counted operation is still to write s(SA), detail 2
where one is still to write s(SD), or a fixed-latency write of s(SD) on its way would complete later than this one's. A write on
its way that completes first is no hazard.
The model's choices that it rests on: log entries 11 and 12. -/
def Obligations.HazardsAndTheScoreboard : Prop :=
  ∀ (s : State) (c : Iss) (f : FS3), s.issuer = some c → c.fr.phase < 4 → c.ag.kind = .group → f.all = 0 → f.ty = 9 → f.cc = 0 → f.sc = 0 →
    f.im = 0 → f.aux = 0 → f.sb = f.sa → f.sd ≠ f.sa →
    let short := fun (d : Nat) => exec (.sadd f) s = .next (s.raise c.a c.fid { code := 12, detail := d })
    let sum : Dword := c.ag.sr f.sa.toNat + c.ag.sr f.sa.toNat
    let w : Pend := { fid := c.fid, dst := .s f.sd.toNat, vals := [(0, sum)], ready := s.clk + 2 }
    let goes := acts (.sadd f) s c 0
      { c.ag with
        pend := c.ag.pend ++ [w]
        frags := KMap.put c.ag.frags c.fid (c.fr.adv (s.clk + 1 + f.stl.toNat)) }
    (∀ p, c.ag.pend = [p] → c.ag.ops = [] → p.fid = c.fid → p.vals.map (·.1) = [0] →
      (p.dst = .s f.sa.toNat → s.clk < p.ready → (c.fr.chk = true → short 0) ∧ (c.fr.chk = false → goes))
      ∧ (p.dst = .s f.sd.toNat → (c.fr.chk = true → s.clk + 2 < p.ready → short 2) ∧ ((c.fr.chk = false ∨ p.ready ≤ s.clk + 2) → goes)))
    ∧ (∀ o r, c.ag.pend = [] → c.ag.ops = [o] → o.fid = c.fid → o.dsts = [(.s r, 1)] → o.win = [] → c.fr.chk = true →
      (r = f.sa.toNat → short 1) ∧ (r = f.sd.toNat → short 2))

/-- The canonical form of the model's memory is kept by every step of the device, whatever event or instruction it is: a store, an
atomic, a unit's or the host's write, the discard of an erg window's bytes, the zeroing of training, a reset. The form is the model's
way to hold the memory of R200 as plain data, so that equal memories are equal data. -/
def Obligations.MemoryStaysCanonical : Prop :=
  ∀ (s t : State), memOk s → step s = .next t → memOk t

/-- The invariant of MemoryStaysCanonical holds at reset, and of the state that a host's load of one instruction leaves.
The model's choices that it rests on: log entry 10. -/
def Obligations.MemoryIsCanonicalAtReset : Prop :=
  memOk State.reset ∧ ∀ n w, memOk (State.reset.withFetchWord n w)

/-- R82, R83, R85, R86: the eight arithmetic instructions of the scalar unit, register and immediate form, at each of the four
types: s(SD) receives the exact result narrowed to w bits and extended, readable from clk i + L on; nothing else changes but the
fragment's place. -/
def Obligations.ScalarArithmetic : Prop :=
  ∀ (s : State) (c : Iss) (f : FS3) (w : Nat) (sgn : Bool), ready s c → allOk c f.all → (f.ty, w, sgn) ∈ scalarTypes →
    scalarsOk c [f.sd, f.sa, f.sb] → f.cc = 0 → f.sc = 0 → (f.im = 1 → f.sb = 0) → (f.im = 0 → f.aux = 0) →
    let a := operand w sgn (c.ag.sr f.sa.toNat)
    let b := operand w sgn (operandB f sgn c.ag)
    let does := fun i (r : Int) lat => acts i s c 0 (wroteS s c f.sd (written w sgn r) lat f.stl)
    let divLat := if w = 32 then 20 else 36
    does (.sadd f) (a + b) 2 ∧ does (.ssub f) (a - b) 2 ∧ does (.smul f) (a * b) 4 ∧ does (.smulh f) (a * b / 2 ^ w) 4
      ∧ does (.sdiv f) (if b = 0 then -1 else a.tdiv b) divLat ∧ does (.srem f) (if b = 0 then a else a.tmod b) divLat
      ∧ does (.smin f) (min a b) 2 ∧ does (.smax f) (max a b) 2

/-- R83, R84, R89: the logical instructions, the shifts by b[6:0] (at the width or beyond, nothing or the sign is left) and SLEA,
whose CC is its shift count. -/
def Obligations.ScalarLogicAndShifts : Prop :=
  ∀ (s : State) (c : Iss) (f : FS3) (w : Nat) (sgn : Bool), ready s c → allOk c f.all → (f.ty, w, sgn) ∈ scalarTypes →
    scalarsOk c [f.sd, f.sa, f.sb] → f.sc = 0 → (f.im = 1 → f.sb = 0) → (f.im = 0 → f.aux = 0) →
    let a := (c.ag.sr f.sa.toNat).toNat % 2 ^ w
    let b := (operandB f sgn c.ag).toNat % 2 ^ w
    let n := b % 128
    let does := fun i (r : Int) => acts i s c 0 (wroteS s c f.sd (written w sgn r) 2 f.stl)
    (f.cc = 0 →
      does (.sand f) ((a &&& b : Nat) : Int) ∧ does (.sor f) ((a ||| b : Nat) : Int) ∧ does (.sxor f) ((a ^^^ b : Nat) : Int)
        ∧ does (.sshl f) ((a * 2 ^ n : Nat) : Int) ∧ does (.sshr f) ((a / 2 ^ n : Nat) : Int)
        ∧ does (.ssar f) (operand w true (c.ag.sr f.sa.toNat) / 2 ^ n))
      ∧ does (.slea f) ((a + b * 2 ^ f.cc.toNat : Nat) : Int)

/-- R83: the instructions of one source. The counts are characterised by what they count: the 1 bits; the n for which the value
has exactly n leading zeros; the n for which 2^n divides it and 2^(n+1) does not, w for 0.
R87, R88: SCMP under its six conditions (CC 6 and 7 are illegal, detail 3), SSEL, and the bit fields with the position and the
length clamped to the width. -/
def Obligations.ScalarUnaryAndCompare : Prop :=
  (∀ (s : State) (c : Iss) (f : FS3) (w : Nat) (sgn : Bool), ready s c → allOk c f.all → (f.ty, w, sgn) ∈ scalarTypes →
     scalarsOk c [f.sd, f.sa] → f.cc = 0 → f.sb = 0 → f.sc = 0 → f.im = 0 → f.aux = 0 →
     let a := (c.ag.sr f.sa.toNat).toNat % 2 ^ w
     let does := fun i (r : Int) => acts i s c 0 (wroteS s c f.sd (written w sgn r) 2 f.stl)
     does (.smov f) a ∧ does (.snot f) (2 ^ w - 1 - a)
       ∧ does (.spopc f) ((List.range w).filter fun k => a / 2 ^ k % 2 = 1).length
       ∧ (∃ n : Nat, n ≤ w ∧ a < 2 ^ (w - n) ∧ (n < w → 2 ^ (w - n - 1) ≤ a) ∧ does (.sclz f) n)
       ∧ (∃ n : Nat, n ≤ w ∧ a % 2 ^ n = 0 ∧ (n < w → a % 2 ^ (n + 1) ≠ 0) ∧ does (.sctz f) n))
    ∧ (∀ (s : State) (c : Iss) (f : FS3) (w : Nat) (sgn : Bool), ready s c → allOk c f.all → (f.ty, w, sgn) ∈ scalarTypes →
         scalarsOk c [f.sd, f.sa, f.sb, f.sc] → (f.im = 1 → f.sb = 0) → (f.im = 0 → f.aux = 0) →
         let a := operand w sgn (c.ag.sr f.sa.toNat)
         let b := operand w sgn (operandB f sgn c.ag)
         let ua := (c.ag.sr f.sa.toNat).toNat % 2 ^ w
         let ub := (operandB f sgn c.ag).toNat % 2 ^ w
         let uc := (c.ag.sr f.sc.toNat).toNat % 2 ^ w
         let pos := min (ub % 64) w
         let len := min (ub / 256 % 128) (w - pos)
         let field := ua / 2 ^ pos % 2 ^ len
         let does := fun i (r : Int) => acts i s c 0 (wroteS s c f.sd (written w sgn r) 2 f.stl)
         (f.sc = 0 →
           (f.cc = 0 → does (.scmp f) (if a = b then 1 else 0)) ∧ (f.cc = 1 → does (.scmp f) (if a ≠ b then 1 else 0))
             ∧ (f.cc = 2 → does (.scmp f) (if a < b then 1 else 0)) ∧ (f.cc = 3 → does (.scmp f) (if a ≤ b then 1 else 0))
             ∧ (f.cc = 4 → does (.scmp f) (if b < a then 1 else 0)) ∧ (f.cc = 5 → does (.scmp f) (if b ≤ a then 1 else 0))
             ∧ (5 < f.cc.toNat → exec (.scmp f) s = .next (s.raise c.a c.fid { code := 3, detail := 3 }))
             ∧ (f.cc = 0 → does (.sbfe f) (if sgn ∧ 0 < len ∧ 2 ^ (len - 1) ≤ field then (field : Int) - 2 ^ len else field)))
           ∧ (f.cc = 0 → does (.ssel f) (if uc ≠ 0 then ua else ub)
             ∧ does (.sbfi f) ((uc - uc / 2 ^ pos % 2 ^ len * 2 ^ pos + ua % 2 ^ len * 2 ^ pos : Nat) : Int)))

/-- R90: the forms with a 32-bit immediate, which is sign-extended for I32 and I64 and zero-extended for N32 and N64. SMOVH takes
TY N64 only. -/
def Obligations.ScalarImmediate : Prop :=
  ∀ (s : State) (c : Iss) (f : FSI) (w : Nat) (sgn : Bool), ready s c → allOk c f.all → (f.ty, w, sgn) ∈ scalarTypes →
    scalarsOk c [f.sd, f.sa] → f.rsv = 0 →
    let imm : Dword := if sgn then f.imm.signExtend 64 else f.imm.setWidth 64
    let ua := (c.ag.sr f.sa.toNat).toNat % 2 ^ w
    let ub := imm.toNat % 2 ^ w
    let puts := fun i (x : Dword) => acts i s c 0 (wroteS s c f.sd x 2 f.stl)
    let does := fun i (r : Nat) => puts i (written w sgn r)
    does (.saddFSi f) (ua + ub) ∧ does (.sandFSi f) (ua &&& ub) ∧ does (.sorFSi f) (ua ||| ub) ∧ does (.sxorFSi f) (ua ^^^ ub)
      ∧ (f.sa = 0 → puts (.smovi f) imm
        ∧ (f.ty = 10 → puts (.smovh f) (BitVec.ofNat 64 (f.imm.toNat * 2 ^ 32 + (c.ag.sr f.sd.toNat).toNat % 2 ^ 32))))

/-- R92: BRA, BRC, CALL and LOOP. A taken transfer goes to H + 8 × OFF32, or, when that lies outside 0 .. 2^48 - 8, raises
ILLEGAL_ADDR and writes nothing; one that is not taken passes to the next clause in sequence. CALL writes the next clause's
header to SL, LOOP the decremented counter to SC, with L = 2. -/
def Obligations.RelativeBranches : Prop :=
  ∀ (s : State) (c : Iss) (f : FBR), ready s c → lastWord c → allOk c f.all → scalarsOk c [f.sc, f.sl] → f.rsv = 0 →
    let target : Int := (c.fr.h : Int) + 8 * f.off.toInt
    let inside := 0 ≤ target ∧ target ≤ 2 ^ 48 - 8
    let x := c.ag.sr f.sc.toNat
    let goes := fun i ps => acts i s c 0 (sentTo c ps target.toNat (takenAt s f.stl))
    let falls := fun i ps => acts i s c 0 (sentTo c ps (nextClause c) (s.clk + 1 + f.stl.toNat))
    let faults := fun i => exec i s = .next (State.raise { s with slots := pipe s c 0 } c.a c.fid
      { code := 6, addr := (target % 2 ^ 64).toNat })
    (f.cond = 0 → f.sc = 0 → f.sl = 0 → (inside → goes (.bra f) []) ∧ (¬inside → faults (.bra f)))
      ∧ (f.cond = 0 → f.sc = 0 →
        (inside → goes (.call f) (link s c f.sl (BitVec.ofNat 64 (nextClause c)))) ∧ (¬inside → faults (.call f)))
      ∧ (f.cond = 0 → f.sl = 0 →
        (x - 1 ≠ 0 → inside → goes (.loop f) (link s c f.sc (x - 1))) ∧ (x - 1 ≠ 0 → ¬inside → faults (.loop f))
          ∧ (x - 1 = 0 → falls (.loop f) (link s c f.sc 0)))
      ∧ (f.sl = 0 → ∀ holds : Prop,
          (f.cond = 0 ∧ holds) ∨ (f.cond = 1 ∧ (holds ↔ x = 0)) ∨ (f.cond = 2 ∧ (holds ↔ x ≠ 0)) ∨ (f.cond = 3 ∧ (holds ↔ x.toInt < 0))
            ∨ (f.cond = 4 ∧ (holds ↔ 0 ≤ x.toInt)) ∨ (f.cond = 5 ∧ (holds ↔ 0 < x.toInt)) ∨ (f.cond = 6 ∧ (holds ↔ x.toInt ≤ 0))
            ∨ (f.cond = 7 ∧ (holds ↔ x.toNat % 2 = 1)) ∨ (f.cond = 8 ∧ (holds ↔ x.toNat % 2 = 0)) →
          (holds → inside → goes (.brc f) []) ∧ (holds → ¬inside → faults (.brc f)) ∧ (¬holds → falls (.brc f) []))

/-- R93: RET and JMP go to s(SC) + 8 × OFF32, computed without wrap: outside the 48-bit space ILLEGAL_ADDR, else misaligned
MISALIGN. R91: NOP has its issue slot and its STL only.
R140: BRZM in a group is taken exactly when no lane of em below the width is set in s(SC). -/
def Obligations.RegisterBranchesAndMasks : Prop :=
  (∀ (s : State) (c : Iss) (f : FBR), ready s c → allOk c f.all → scalarsOk c [f.sc] → f.rsv = 0 → f.cond = 0 → f.sl = 0 →
     let t : Int := ((c.ag.sr f.sc.toNat).toNat : Int) + 8 * f.off.toInt
     let does := fun i =>
       (0 ≤ t → t < 2 ^ 48 → t % 8 = 0 → acts i s c 0 (sentTo c [] t.toNat (takenAt s f.stl)))
         ∧ (0 ≤ t → t < 2 ^ 48 → t % 8 ≠ 0 →
           exec i s = .next (State.raise { s with slots := pipe s c 0 } c.a c.fid { code := 8, addr := t.toNat }))
         ∧ (t < 0 ∨ 2 ^ 48 ≤ t →
           exec i s = .next (State.raise { s with slots := pipe s c 0 } c.a c.fid { code := 6, addr := (t % 2 ^ 64).toNat }))
     (f.off = 0 → does (.ret f)) ∧ does (.jmp f)
       ∧ (f.sc = 0 → f.off = 0 → acts (.nop f) s c 0 (passedOn s c [] c.fr.em f.stl)))
    ∧ (∀ (s : State) (c : Iss) (f : FBR), ready s c → lastWord c → c.ag.kind = .group → c.ag.width ≤ 64 → allOk c f.all → f.rsv = 0 →
         f.cond = 0 → f.sl = 0 →
         let target : Int := (c.fr.h : Int) + 8 * f.off.toInt
         let inside := 0 ≤ target ∧ target ≤ 2 ^ 48 - 8
         let empty := ∀ l, l < c.ag.width → ¬(c.fr.em.getLsbD l = true ∧ (c.ag.sr f.sc.toNat).getLsbD l = true)
         (empty → inside → acts (.brzm f) s c 0 (sentTo c [] target.toNat (takenAt s f.stl)))
           ∧ (empty → ¬inside → exec (.brzm f) s = .next (State.raise { s with slots := pipe s c 0 } c.a c.fid
               { code := 6, addr := (target % 2 ^ 64).toNat }))
           ∧ (¬empty → acts (.brzm f) s c 0 (sentTo c [] (nextClause c) (s.clk + 1 + f.stl.toNat))))

/-- R139: the mask instructions in a group, register and immediate form: the new em, which holds from the next instruction on, and
the scalar result with L = 2. -/
def Obligations.MaskInstructions : Prop :=
  ∀ (s : State) (c : Iss) (f : FS3), ready s c → c.ag.kind = .group → allOk c f.all → c.ag.width ≤ 64 → f.ty = 10 → f.cc = 0 →
    f.sc = 0 → (f.im = 1 → f.sb = 0) → (f.im = 0 → f.aux = 0) →
    let b : Dword := if f.im = 1 then f.aux.setWidth 64 else c.ag.sr f.sb.toNat
    let em := c.fr.em
    let a := c.ag.sr f.sa.toNat
    let result := fun i (em' : Dword) (x : Dword) => acts i s c 0 (passedOn s c (link s c f.sd x) em' f.stl)
    (f.sa = 0 →
      (f.sd = 0 → acts (.mset f) s c 0 (passedOn s c [] (b &&& c.fr.own) f.stl))
        ∧ result (.mand f) (em &&& b) em ∧ result (.mandn f) (em &&& ~~~b) em ∧ result (.mor f) ((em ||| b) &&& c.fr.own) em
        ∧ (f.im = 0 → f.sb = 0 → result (.mget f) em em)
        ∧ (f.im = 1 → exec (.mget f) s = .next (s.raise c.a c.fid { code := 3, detail := 2 })))
      ∧ (f.im = 0 → f.sb = 0 →
        (∃ n : Nat, n ≤ 64 ∧ (∀ j, j < n → j < c.ag.width → a.getLsbD j = false) ∧ (n < 64 → n < c.ag.width ∧ a.getLsbD n = true)
          ∧ result (.mfirst f) em (BitVec.ofNat 64 n))
        ∧ result (.mcnt f) em (BitVec.ofNat 64 ((List.range c.ag.width).filter fun j => a.getLsbD j).length))
      ∧ (f.im = 1 → exec (.mfirst f) s = .next (s.raise c.a c.fid { code := 3, detail := 2 })
        ∧ exec (.mcnt f) s = .next (s.raise c.a c.fid { code := 3, detail := 2 }))

/-- R143, R144: SPLIT in a group that is no task's, with a free entry e and a target inside the space: with lanes on both sides the
smaller side (the label's on a tie) becomes the lowest fragment number not in use, eligible 3 clk later; with lanes on one side
only, nothing is detached. JOIN on the innermost entry: the first party waits; with the other one there already, the parent goes
on with both. Without a free entry SPLIT raises ILLEGAL_SPLIT, as does JOIN without an entry or at a second JOIN address. -/
def Obligations.SplitAndJoin : Prop :=
  ∀ (s : State) (c : Iss) (f : FS3), ready s c → lastWord c → c.ag.kind = .group → c.ag.task = none → allOk c f.all → f.ty = 10 →
    f.im = 0 → f.cc = 0 → f.sb = 0 → f.sc = 0 → f.sd = 0 →
    let wm := wmask c.ag.width
    let t := c.fr.em &&& c.ag.sr f.sa.toNat &&& wm
    let n := c.fr.em &&& ~~~(c.ag.sr f.sa.toNat) &&& wm
    let target : Int := (c.fr.h : Int) + 8 * f.aux.toInt
    let inside := 0 ≤ target ∧ target ≤ 2 ^ 48 - 8
    let next := nextClause c
    let fall := s.clk + 1 + f.stl.toNat
    let at' := fun (fr : Frag) (h n : Nat) => { fr.goHdr h with next := n }
    let raised := fun (x : Flt) => State.raise { s with slots := pipe s c 0 } c.a c.fid x
    ((∀ e, e < 8 → (KMap.find? c.ag.split e).isSome) → exec (.split f) s = .next (raised { code := 7 }))
      ∧ (∀ e, e < 8 → KMap.find? c.ag.split e = none → (∀ d, d < e → (KMap.find? c.ag.split d).isSome) →
        (¬inside → exec (.split f) s = .next (raised { code := 6, addr := (target % 2 ^ 64).toNat }))
        ∧ (inside → (t = 0 ∨ n = 0) → acts (.split f) s c 0
          { c.ag with
            splitSeq := c.ag.splitSeq + 1
            frags := KMap.put c.ag.frags c.fid (if n = 0 ∧ t ≠ 0 then at' c.fr target.toNat (takenAt s f.stl) else at' c.fr next fall)
            split := KMap.put c.ag.split e { pmask := c.fr.own, cmask := 0, pid := c.fid, cid := 15, seq := c.ag.splitSeq } })
        ∧ (∀ k, k ≤ 8 → c.ag.fidUsed k = false → (∀ j, j < k → c.ag.fidUsed j = true) → inside → t ≠ 0 → n ≠ 0 →
          let low := popc t ≤ popc n
          let m := if low then t else n
          let fr := { c.fr with own := c.fr.own &&& ~~~m, em := c.fr.em &&& ~~~m }
          let child : Frag := { h := if low then target.toNat else next, em := m, own := m, chk := c.fr.chk, next := s.clk + 3 }
          acts (.split f) s c 0
            { c.ag with
              splitSeq := c.ag.splitSeq + 1
              frags := KMap.put (KMap.put c.ag.frags c.fid
                (if low then at' fr next fall else at' fr target.toNat (takenAt s f.stl))) k child
              split := KMap.put c.ag.split e
                { pmask := c.fr.own &&& ~~~m, cmask := m, pid := c.fid, cid := k, seq := c.ag.splitSeq } }))
      ∧ (f.sa = 0 → f.aux = 0 →
        (c.ag.entriesOf c.fid = [] → exec (.joinI f) s = .next (raised { code := 7 }))
        ∧ (∀ e ent es, c.ag.entriesOf c.fid = (e, ent) :: es →
          (ent.jpc ≠ 0 → ent.jpc ≠ c.fr.pc → exec (.joinI f) s = .next (raised { code := 7 }))
          ∧ (ent.jpc = 0 ∨ ent.jpc = c.fr.pc → ent.pid = c.fid → ent.cid ≠ 15 →
            (ent.ca = false → acts (.joinI f) s c 0
              { c.ag with
                split := KMap.put c.ag.split e { ent with jpc := c.fr.pc, pa := true, pem := c.fr.em }
                frags := KMap.upd c.ag.frags c.fid fun fr => { fr with wait := .join e, next := fall } })
            ∧ (ent.ca = true → ∀ ch, KMap.find? c.ag.frags ent.cid = some ch → acts (.joinI f) s c 0
              { c.ag with
                split := KMap.del c.ag.split e
                frags := KMap.put (KMap.del c.ag.frags ent.cid) c.fid
                  { c.fr.goHdr next with own := ent.pmask ||| ent.cmask, em := c.fr.em ||| ent.cem, next := takenAt s f.stl } }))))

/-- R170 to R174: each element of each active lane is computed exactly and wrapped or, with SAT, clamped (integer types), or
rounded once under RM (float types; VMAD twice); inactive lanes and everything else keep their values. -/
def Obligations.VectorArithmetic : Prop :=
  (∀ (s : State) (c : Iss) (f : FV3), ready s c → f.vd.toNat < c.ag.nv → f.ty.toNat ≤ 8 → arithMod f.ty f.mod →
    let int := tyFloat f.ty = false
    let does := fun i int flt => lanewise s c f i (arithLat f.ty) fun l => each2 f.ty (arithOf f.ty f.mod int flt) (laneA c f l) (laneB c f l)
    (vectorOk c f true true false →
      does (.vadd f) (fun x y => x + y) (fun D rm x y => D.fadd rm x y) ∧ does (.vsub f) (fun x y => x - y) (fun D rm x y => D.fsub rm x y)
        ∧ does (.vmul f) (fun x y => x * y) (fun D rm x y => D.fmul rm x y)
        ∧ (int → f.mod = 0 → lanewise s c f (.vmulh f) 4 fun l => each2 f.ty
            (fun x y => (elemVal f.ty x * elemVal f.ty y / 2 ^ elemBits f.ty % 2 ^ elemBits f.ty).toNat) (laneA c f l) (laneB c f l)))
      ∧ (vectorOk c f true true true →
        (int → lanewise s c f (.vmad f) 4 fun l => each3 f.ty
            (fun x y z => fit f.ty f.mod (elemVal f.ty x * elemVal f.ty y + elemVal f.ty z)) (laneA c f l) (laneB c f l) (laneC c f l))
          ∧ (¬int → let D := tyFmt f.ty
            let rm := RM.ofBits (f.mod.toNat / 4)
            lanewise s c f (.vmad f) 6 (fun l => each3 f.ty (fun x y z => D.fadd rm (D.fmul rm x y) z) (laneA c f l) (laneB c f l) (laneC c f l))
              ∧ lanewise s c f (.vfma f) 6 (fun l => each3 f.ty (fun x y z => D.ffma rm x y z) (laneA c f l) (laneB c f l) (laneC c f l)))))
  ∧ ∀ (s : State) (c : Iss) (f : FVI), ready s c → vectorImmOk c f → f.ty.toNat ≤ 8 → arithMod f.ty f.mod →
    let does := fun i int flt => lanewiseImm s c f i (arithLat f.ty) fun l =>
      each2 f.ty (arithOf f.ty f.mod int flt) (c.ag.vr f.va.toNat l) (expandImm f.ty f.imm)
    does (.vaddFVi f) (fun x y => x + y) (fun D rm x y => D.fadd rm x y) ∧ does (.vsubFVi f) (fun x y => x - y) (fun D rm x y => D.fsub rm x y)
      ∧ does (.vmulFVi f) (fun x y => x * y) (fun D rm x y => D.fmul rm x y)

/-- R175, R177, R178: the lesser or greater element, the absolute value, the mask of a comparison (all ones where it holds, zero
where it does not), and the selection by a nonzero element.
R172, R176, R178: logic on the whole lane, shifts of each element by bits [6:0] of its own count, moves, the broadcast of a
scalar pair, and the lane numbers. -/
def Obligations.VectorChoiceAndLogic : Prop :=
  (let least := fun (isMax : Bool) (ty : BitVec 4) (x y : Nat) =>
     if tyFloat ty then (tyFmt ty).fminmax isMax x y
     else if isMax then (if elemVal ty x < elemVal ty y then y else x) else (if elemVal ty x < elemVal ty y then x else y)
   let compares := fun (ty cond : BitVec 4) (x y : Nat) =>
     let a := (tyFmt ty).decode x
     let b := (tyFmt ty).decode y
     let order := if tyFloat ty then FV.cmp a b else elemVal ty x - elemVal ty y
     let unordered := tyFloat ty ∧ (a.isNan ∨ b.isNan)
     if (unordered ∧ (cond = 1 ∨ cond = 6))
       ∨ (¬unordered ∧ ((cond = 0 ∧ order = 0) ∨ (cond = 1 ∧ order ≠ 0) ∨ (cond = 2 ∧ order < 0) ∨ (cond = 3 ∧ order ≤ 0)
         ∨ (cond = 4 ∧ 0 < order) ∨ (cond = 5 ∧ 0 ≤ order))) then 2 ^ elemBits ty - 1 else 0
   (∀ (s : State) (c : Iss) (f : FV3), ready s c → f.vd.toNat < c.ag.nv → f.ty.toNat ≤ 8 →
     let A := laneA c f
     let B := laneB c f
     (vectorOk c f true true false →
       (f.mod = 0 → lanewise s c f (.vmin f) (arithLat f.ty) (fun l => each2 f.ty (least false f.ty) (A l) (B l))
         ∧ lanewise s c f (.vmax f) (arithLat f.ty) (fun l => each2 f.ty (least true f.ty) (A l) (B l)))
       ∧ (f.mod.toNat % 2 = 0 → f.mod.toNat / 2 < (if tyFloat f.ty then 7 else 6) →
         lanewise s c f (.vcmp f) (arithLat f.ty) (fun l => each2 f.ty (compares f.ty (BitVec.ofNat 4 (f.mod.toNat / 2))) (A l) (B l))))
       ∧ (vectorOk c f true false false → (f.mod = 0 ∨ (f.mod = 2 ∧ tyFloat f.ty = false)) →
         lanewise s c f (.vabs f) (arithLat f.ty) fun l => each2 f.ty (fun x _ =>
           if tyFloat f.ty then (if ((tyFmt f.ty).decode x).isNan then (tyFmt f.ty).nan else x % (tyFmt f.ty).signBit)
           else if elemSgn f.ty then fit f.ty f.mod (elemVal f.ty x).natAbs else x) (A l) (A l))
       ∧ (vectorOk c f true true true → f.mod = 0 →
         lanewise s c f (.vsel f) 4 fun l => each3 f.ty (fun x y z => if z ≠ 0 then x else y) (A l) (B l) (laneC c f l)))
   ∧ ∀ (s : State) (c : Iss) (f : FVI), ready s c → vectorImmOk c f → f.ty.toNat ≤ 8 →
     let A := c.ag.vr f.va.toNat
     let b := expandImm f.ty f.imm
     (f.mod = 0 → lanewiseImm s c f (.vminFVi f) (arithLat f.ty) (fun l => each2 f.ty (least false f.ty) (A l) b)
       ∧ lanewiseImm s c f (.vmaxFVi f) (arithLat f.ty) (fun l => each2 f.ty (least true f.ty) (A l) b))
       ∧ (f.mod.toNat % 2 = 0 → f.mod.toNat / 2 < (if tyFloat f.ty then 7 else 6) →
         lanewiseImm s c f (.vcmpFVi f) (arithLat f.ty) (fun l => each2 f.ty (compares f.ty (BitVec.ofNat 4 (f.mod.toNat / 2))) (A l) b)))
    ∧ (let shl := fun (ty : BitVec 4) (x y : Nat) => x * 2 ^ (y % 128) % 2 ^ elemBits ty
       let shr := fun (_ : BitVec 4) (x y : Nat) => x / 2 ^ (y % 128)
       let sar := fun (ty : BitVec 4) (x y : Nat) =>
         let v : Int := if 2 ^ (elemBits ty - 1) ≤ x then (x : Int) - 2 ^ elemBits ty else x
         (v / 2 ^ (y % 128) % 2 ^ elemBits ty).toNat
       (∀ (s : State) (c : Iss) (f : FV3), ready s c → f.vd.toNat < c.ag.nv → f.ty.toNat ≤ 8 → f.mod = 0 →
         let A := laneA c f
         let B := laneB c f
         (vectorOk c f true true false →
           lanewise s c f (.vand f) 4 (fun l => A l &&& B l) ∧ lanewise s c f (.vor f) 4 (fun l => A l ||| B l)
             ∧ lanewise s c f (.vxor f) 4 (fun l => A l ^^^ B l)
             ∧ (tyFloat f.ty = false → lanewise s c f (.vshl f) 4 (fun l => each2 f.ty (shl f.ty) (A l) (B l))
               ∧ lanewise s c f (.vshr f) 4 (fun l => each2 f.ty (shr f.ty) (A l) (B l))
               ∧ lanewise s c f (.vsar f) 4 (fun l => each2 f.ty (sar f.ty) (A l) (B l))))
           ∧ (vectorOk c f true false false → lanewise s c f (.vnot f) 4 (fun l => ~~~(A l)) ∧ lanewise s c f (.vmov f) 4 A)
           ∧ (f.ty.toNat ≤ 1 → f.vd.toNat % 2 = 0 → f.vd.toNat + 1 < c.ag.nv → f.sel = 1 → vectorOk c f true false false →
             let x := (c.ag.sr f.va.toNat).toNat
             acts (.vbcast f) s c (extraPass (twoPasses c f.all)) (vectorDone s c f.all
               (vectorWrites s c f.all f.vd.toNat 4 (fun _ => BitVec.ofNat 32 x)
                 ++ vectorWrites s c f.all (f.vd.toNat + 1) 4 (fun _ => BitVec.ofNat 32 (x / 2 ^ 32))) f.stl))
           ∧ (f.ty.toNat ≤ 1 → vectorOk c f (f.sel.getLsbD 0) false false →
             lanewise s c f (.vlane f) 4 fun l => BitVec.ofNat 32 l + (if f.sel.getLsbD 0 then A l else 0)))
       ∧ ∀ (s : State) (c : Iss) (f : FVI), ready s c → vectorImmOk c f → f.ty.toNat ≤ 8 → f.mod = 0 →
         let A := c.ag.vr f.va.toNat
         let b := expandImm f.ty f.imm
         lanewiseImm s c f (.vandFVi f) 4 (fun l => A l &&& b) ∧ lanewiseImm s c f (.vorFVi f) 4 (fun l => A l ||| b)
           ∧ lanewiseImm s c f (.vxorFVi f) 4 (fun l => A l ^^^ b)
           ∧ (tyFloat f.ty = false → lanewiseImm s c f (.vshlFVi f) 4 (fun l => each2 f.ty (shl f.ty) (A l) b)
             ∧ lanewiseImm s c f (.vshrFVi f) 4 (fun l => each2 f.ty (shr f.ty) (A l) b)
             ∧ lanewiseImm s c f (.vsarFVi f) 4 (fun l => each2 f.ty (sar f.ty) (A l) b))
           ∧ (f.va = 0 → lanewiseImm s c f (.vmovFVi f) 4 (fun _ => b)))

/-- R172, R183, R184: the functions of one float operand, correctly rounded under RM by the model's arithmetic of chapter 5, with
L = 14 for the transcendental rows and 6 for VFRACT and VROUND.
R179 to R182, R187: bit counts, bit fields as SBFE and SBFI, widening and narrowing of packed elements, the dot product of
packed integers, the table lookup, and VCVT, whose stochastic
form (XOP 1) advances the group's stochastic state. -/
def Obligations.VectorFunctionsBitsPacking : Prop :=
  (∀ (s : State) (c : Iss) (f : FV3), ready s c → f.vd.toNat < c.ag.nv → tyFloat f.ty = true → f.mod.toNat % 4 = 0 →
     vectorOk c f true false false →
     let D := tyFmt f.ty
     let rm := RM.ofBits (f.mod.toNat / 4)
     let does := fun i lat (g : Nat → Nat) => lanewise s c f i lat fun l => each2 f.ty (fun x _ => g x) (laneA c f l) (laneA c f l)
     does (.vrcp f) 14 (D.fun1 .rcp rm) ∧ does (.vrsq f) 14 (D.fun1 .rsq rm) ∧ does (.vsqrt f) 14 (D.fun1 .sqrt rm)
       ∧ does (.vexp2 f) 14 (D.fun1 .exp2 rm) ∧ does (.vlog2 f) 14 (D.fun1 .log2 rm) ∧ does (.vsin f) 14 (D.fun1 .sin rm)
       ∧ does (.vcos f) 14 (D.fun1 .cos rm) ∧ does (.vfract f) 6 (D.ffract rm) ∧ does (.vround f) 6 (D.fround rm))
    ∧ (∀ (s : State) (c : Iss) (f : FV3), ready s c → f.vd.toNat < c.ag.nv → f.ty.toNat ≤ 8 →
         let A := laneA c f
         let B := laneB c f
         let n := elemBits f.ty
         let u := fun (x : Word) (k n : Nat) => x.toNat / 2 ^ (k * n) % 2 ^ n
         let v := fun (x : Word) (k n : Nat) => if elemSgn f.ty ∧ 2 ^ (n - 1) ≤ u x k n then (u x k n : Int) - 2 ^ n else (u x k n : Int)
         (f.mod = 0 → tyFloat f.ty = false → vectorOk c f true false false →
           lanewise s c f (.vpopc f) 4 (fun l => each2 f.ty (fun x _ => ((List.range n).filter fun k => x / 2 ^ k % 2 = 1).length) (A l) (A l))
             ∧ (∀ clz : Nat → Nat, (∀ x, x < 2 ^ n → clz x ≤ n ∧ x < 2 ^ (n - clz x) ∧ (clz x < n → 2 ^ (n - clz x - 1) ≤ x)) →
               lanewise s c f (.vclz f) 4 (fun l => each2 f.ty (fun x _ => clz x) (A l) (A l))))
           ∧ (f.mod = 0 → f.ty.toNat ≤ 1 → vectorOk c f true true false →
             lanewise s c f (.vbfe f) 4 fun l =>
               let pos := min ((B l).toNat % 64) 32
               let len := min ((B l).toNat / 256 % 128) (32 - pos)
               let field := (A l).toNat / 2 ^ pos % 2 ^ len
               BitVec.ofInt 32 (if f.ty = 0 ∧ 0 < len ∧ 2 ^ (len - 1) ≤ field then (field : Int) - 2 ^ len else field))
           ∧ (f.mod = 0 → f.ty.toNat ≤ 1 → vectorOk c f true true true →
             lanewise s c f (.vbfi f) 4 fun l =>
               let pos := min ((B l).toNat % 64) 32
               let len := min ((B l).toNat / 256 % 128) (32 - pos)
               let z := (laneC c f l).toNat
               BitVec.ofNat 32 (z - z / 2 ^ pos % 2 ^ len * 2 ^ pos + (A l).toNat % 2 ^ len * 2 ^ pos))
           ∧ (5 ≤ f.ty.toNat → f.mod.toNat ≤ 1 → vectorOk c f true false false →
             lanewise s c f (.vunpk f) 4 fun l =>
               if n = 16 then BitVec.ofInt 32 (v (A l) f.mod.toNat 16)
               else BitVec.ofInt 32 (v (A l) (2 * f.mod.toNat) 8 % 2 ^ 16 + v (A l) (2 * f.mod.toNat + 1) 8 % 2 ^ 16 * 2 ^ 16))
           ∧ (5 ≤ f.ty.toNat → (f.mod = 0 ∨ f.mod = 2) → vectorOk c f true true false →
             lanewise s c f (.vpack f) 4 fun l =>
               let e := fun (x : Word) k => fit f.ty f.mod (v x k (2 * n))
               if n = 16 then BitVec.ofNat 32 (e (A l) 0 + e (B l) 0 * 2 ^ 16)
               else BitVec.ofNat 32 (e (A l) 0 + e (A l) 1 * 2 ^ 8 + e (B l) 0 * 2 ^ 16 + e (B l) 1 * 2 ^ 24))
           ∧ (5 ≤ f.ty.toNat → (f.mod = 0 ∨ f.mod = 2) → vectorOk c f true true true →
             lanewise s c f (.vdot f) 4 fun l =>
               let z := laneC c f l
               let t : BitVec 4 := if elemSgn f.ty then 0 else 1
               let x := (((List.range (32 / n)).map fun k => v (A l) k n * v (B l) k n).sum) + (if elemSgn f.ty then z.toInt else z.toNat)
               BitVec.ofNat 32 (fit t f.mod x))
           ∧ ((f.ty = 8 ∨ f.ty = 6) → f.mod = 0 → f.sel.getLsbD 1 = true → f.vb.toNat % 2 = 0 → f.sel.getLsbD 3 = false → vectorOk c f true true false →
             let t := (c.ag.sr f.vb.toNat).toNat + 2 ^ 64 * (c.ag.sr (f.vb.toNat + 1)).toNat
             lanewise s c f (.vlut f) 8 fun l => each2 f.ty (fun x _ => t / 2 ^ (n * (x % (128 / n))) % 2 ^ n) (A l) (A l))
           ∧ (tyFloat f.ty = true → f.ty ≠ 2 → f.mod.toNat % 4 = 0 → vectorOk c f true true true →
             lanewise s c f (.vdot f) 6 fun l => BitVec.ofNat 32 (dotF (tyFmt f.ty) (RM.ofBits (f.mod.toNat / 4))
               [fldN (A l) 0 16, fldN (A l) 16 16] [fldN (B l) 0 16, fldN (B l) 16 16] (f32.decode (laneC c f l).toNat)))
           ∧ (f.ty = 0 → f.vb.toNat < 23 → f.sel.getLsbD 1 = false →
             let row := cvRow f.vb.toNat
             let rm := RM.ofBits (f.mod.toNat / 4)
             let sat := decide (f.mod.toNat / 2 % 2 = 1)
             (row.rm = false → f.mod.toNat < 4) → (row.ps = false → f.mod.toNat % 4 = 0) →
             vectorOk c { f with vb := 0 } true false row.c →
             (f.mod.toNat % 2 = 0 → lanewise s c f (.vcvt f) 6 fun l => cvLane f.vb.toNat rm sat (fun _ => none) (A l) (laneC c f l))
               ∧ (f.mod.toNat % 2 = 1 → f.mod.toNat < 4 → c.ag.pure = false →
                 let x := srNext c.ag.srx
                 let ws := vectorWrites s c f.all f.vd.toNat 6 fun l => cvLane f.vb.toNat rm sat (fun e => some (srRnd x l e)) (A l) (laneC c f l)
                 let done : Agent := { (vectorDone s c f.all ws f.stl) with srx := x }
                 acts (.vcvt f) s c (extraPass (twoPasses c f.all)) done)))

/-- R195 to R197, R199: a shuffle gives each active lane another lane's value, whether or not that lane is active; VBAL and VMATCH
give a lane mask; VRDLN and VWRLN read and write one lane.
R198: VREDU combines each element of the active lanes in ascending order, VSCAN gives each active lane the combination of the
active lanes up to it (or, with XOP, below it); with none, the identity, +0 for a sum. A 32-bit integer sum without SAT is
written exactly. -/
def Obligations.CrossLaneInstructions : Prop :=
  (∀ (s : State) (c : Iss) (f : FV3), ready s c → f.ty.toNat ≤ 1 → f.mod = 0 → c.ag.width ≤ 64 →
     let A := laneA c f
     let act := lanesOf (c.active f.all)
     let n := if f.sel.getLsbD 1 then (laneB c f 0).toNat % 128 else f.vb.toNat
     let countOk := c.ag.kind = .group ∧ allOk c f.all ∧ sourceOk c true (f.sel.getLsbD 0) f.va ∧ f.vb.toNat < 128
       ∧ (f.sel.getLsbD 3 = true → f.sel.toNat % 8 ≠ 0)
     let scalar := fun i lat (x : Dword) => acts i s c (extraPass (twoPasses c f.all))
       { c.ag with
         pend := [{ fid := c.fid, dst := .s f.vd.toNat, vals := [(0, x)], ready := s.clk + extraPass (twoPasses c f.all) + lat }]
         frags := KMap.put c.ag.frags c.fid (c.fr.adv (s.clk + extraPass (twoPasses c f.all) + 1 + f.stl.toNat)) }
     (f.vd.toNat < c.ag.nv →
       (vectorOk c f true true false →
         lanewise s c f (.vshuf f) 8 fun l => if (laneB c f l).toNat % 128 < c.ag.width then A ((laneB c f l).toNat % 128) else 0)
       ∧ (countOk → sourceOk c true (f.sel.getLsbD 2) f.vc →
         lanewise s c f (.vshfu f) 8 (fun l => if n ≤ l then A (l - n) else laneC c f l)
           ∧ lanewise s c f (.vshfd f) 8 (fun l => if l + n < c.ag.width then A (l + n) else laneC c f l))
       ∧ (countOk → sourceOk c false (f.sel.getLsbD 2) f.vc →
         lanewise s c f (.vxsw f) 8 (fun l => A (l ^^^ (n &&& (c.ag.width - 1))))
           ∧ (f.sel.getLsbD 0 = true → acts (.vwrln f) s c (extraPass (twoPasses c f.all)) (vectorDone s c f.all
               (if n < c.ag.width ∧ n ∈ act then
                 [{ fid := c.fid, dst := .v f.vd.toNat, vals := [(n, (A n).setWidth 64)],
                    ready := s.clk + (if 32 ≤ n then extraPass (twoPasses c f.all) else 0) + 8 }]
               else []) f.stl))))
       ∧ (f.vd.toNat < 128 →
         (countOk → sourceOk c false (f.sel.getLsbD 2) f.vc → f.vd.toNat < 128 →
           let x : Word := if n < c.ag.width then A n else 0
           scalar (.vrdln f) 8 (if f.ty = 0 then x.signExtend 64 else x.setWidth 64))
         ∧ (vectorOk c f true false false →
           (∀ m : Dword, (∀ l, l < 64 → (m.getLsbD l = true ↔ l ∈ act ∧ A l ≠ 0)) → scalar (.vbal f) 12 m)
             ∧ (∀ m : Dword, (∀ l, l < 64 → (m.getLsbD l = true ↔ l ∈ act ∧ A l = A (act.headD 0))) → scalar (.vmatch f) 10 m))))
    ∧ (∀ (s : State) (c : Iss) (f : FV3), ready s c → f.ty.toNat ≤ 8 → vectorOk c { f with vb := 0 } true false false → f.sel.getLsbD 1 = false →
         let op := f.vb.toNat
         let flt := tyFloat f.ty = true
         op < 6 → (flt → op < 3) → (f.mod.toNat / 4 ≠ 0 → op = 0 ∧ flt) → (f.mod.toNat / 2 % 2 = 1 → op = 0 ∧ ¬flt) →
         let n := elemBits f.ty
         let act := lanesOf (c.active f.all)
         let value := fun (k l : Nat) => let x := fldN (laneA c f l) (k * n) n
           if op = 0 ∧ ¬flt then elemVal f.ty x else (x : Int)
         let unit := if op = 0 then 0 else redIdentity op f.ty
         let combined := fun (k : Nat) (ls : List Nat) => match ls.map (value k) with
           | [] => unit
           | x :: xs => xs.foldl (redOp op f.ty f.mod) x
         let elem := fun (x : Int) => if op = 0 ∧ ¬flt then fit f.ty f.mod x else (x % 2 ^ n).toNat
         let packed := fun (ls : List Nat) => ofElems f.ty ((List.range (32 / n)).map fun k => elem (combined k ls))
         (f.mod.toNat % 2 = 0 → f.vd.toNat < 128 →
           let x := if f.ty.toNat ≤ 1 ∧ op = 0 ∧ f.mod = 0 then BitVec.ofInt 64 (combined 0 act)
             else if f.ty = 0 then (packed act).signExtend 64 else (packed act).setWidth 64
           acts (.vredu f) s c (extraPass (twoPasses c f.all))
             { c.ag with
               pend := [{ fid := c.fid, dst := .s f.vd.toNat, vals := [(0, x)], ready := s.clk + extraPass (twoPasses c f.all) + 12 }]
               frags := KMap.put c.ag.frags c.fid (c.fr.adv (s.clk + extraPass (twoPasses c f.all) + 1 + f.stl.toNat)) })
           ∧ (f.vd.toNat < c.ag.nv →
             lanewise s c f (.vscan f) 12 fun l => packed (act.filter fun k => if f.mod.toNat % 2 = 1 then k < l else k ≤ l)))

/-- R218, R224 to R230, R256: a load of legal fields whose checks of R225 pass puts one operation in flight on its counter (G, S for
the scratchpad; a leat counts none), with its lanes and destination registers; a plain load of a group lets the next instruction
go on, an acquire and a leat's load hold issue until it returns. Registers and memory keep their values; of the rest of the state
only the pipe's slots, the numbering of operations, the free draw of the erg's hits and, for lanes in the host aperture, the
requests on the host link differ.
The model's choices that it rests on: log entries 13 and 23. -/
def Obligations.LoadsIssue : Prop :=
  ∀ (s : State) (c : Iss) (f : FMEM) (l : List (Nat × Nat × Nat)), ready s c →
    let loads := fun i (sp : Space) (scalar : Bool) (maxSch : Nat) (ord : Option Nat) (ldc : Bool) =>
      let e := if scalar then 0 else extraPass (twoPasses c f.all)
      let dsts : Regs := if scalar then (List.range (if f.width = 4 then 2 else 1)).map fun k => (.s (f.data.toNat + k), 1)
        else (List.range (widthRegs f.width)).map fun k => (.v (f.data.toNat + k), c.active f.all)
      let ctr := if sp = .glob then Ctr.g else .s
      memFields c f scalar maxSch → room c ctr → checked s c e (request c f sp scalar f.imm.toInt false false none) l →
      ∃ due, answers i s c
        (withOp c (newOp s c ctr (.load sp f.data.toNat scalar f.sch.toNat ord ldc)
            (l.map fun x => { lane := x.1, va := x.2.1, pa := x.2.2, n := 2 ^ f.width.toNat }) dsts due)
          (if ord.isSome ∨ c.ag.kind ≠ .group then waitsFor s s.ids else goesOn s e f.stl))
        fun t => s.ids < t.ids
          ∧ { t with agents := s.agents, slots := s.slots, ids := s.ids, free := s.free, openRows := s.openRows, hostReqs := s.hostReqs } = s
          ∧ (sp = .scr → t.free = s.free ∧ t.openRows = s.openRows ∧ t.hostReqs = s.hostReqs)
          ∧ ((∀ x ∈ l, s.paKind x.2.2 ≠ .host) → t.hostReqs = s.hostReqs)
    loads (.ldg f) .glob false 3 none false ∧ loads (.ldc f) .glob false 1 none true ∧ loads (.lds f) .scr false 0 none false
      ∧ loads (.ldgs f) .glob true 3 none false ∧ loads (.ldss f) .scr true 0 none false
      ∧ loads (.ldgAcq f) .glob false 4 (some f.sch.toNat) false ∧ loads (.ldgsAcq f) .glob true 4 (some f.sch.toNat) false

/-- R218, R224 to R230: a store takes the values of its lanes at issue and puts one operation in flight; memory changes only when its
lanes are accepted. A release (R256) issues once the agent's accesses have returned, and, where its scope checks pass (R271),
leaves the line records that the scope checker writes and drops the lines that it may write from the core's L1.
The model's choices that it rests on: log entries 23, 33 and 36. -/
def Obligations.StoresIssue : Prop :=
  ∀ (s : State) (c : Iss) (f : FMEM) (l : List (Nat × Nat × Nat)), ready s c →
    let value := fun (scalar : Bool) (lane : Nat) =>
      let regs := if scalar then [(c.ag.sr f.data.toNat).toNat, (c.ag.sr (f.data.toNat + 1)).toNat]
        else (List.range 4).map fun k => (c.ag.vr (f.data.toNat + k) lane).toNat
      let w := if scalar then 64 else 32
      BitVec.ofNat 128 ((regs.zipIdx.map fun r => r.1 * 2 ^ (w * r.2)).sum % 2 ^ (8 * 2 ^ f.width.toNat))
    let e := fun (scalar : Bool) => if scalar then 0 else extraPass (twoPasses c f.all)
    let accs := fun (scalar : Bool) => l.map fun x =>
      ({ lane := x.1, va := x.2.1, pa := x.2.2, n := 2 ^ f.width.toNat, x := value scalar x.1 } : Acc)
    let op := fun (sp : Space) (scalar : Bool) (ord : Option Nat) due =>
      newOp s c (if sp = .glob then Ctr.g else .s) (.store sp scalar f.sch.toNat ord) (accs scalar) [] due
    let next := fun (scalar : Bool) => if c.ag.kind ≠ .group then waitsFor s s.ids else goesOn s (e scalar) f.stl
    let buffered := (∀ x ∈ l, s.paKind x.2.2 ≠ .peer) ∨ ((KMap.find? s.peerBuf c.ag.core).getD []).length < 64
    let stores := fun i (sp : Space) (scalar : Bool) (maxSch : Nat) =>
      memFields c f scalar maxSch → room c (if sp = .glob then Ctr.g else .s) → (sp = .glob → buffered) →
      checked s c (e scalar) (request c f sp scalar f.imm.toInt true false none) l →
      ∃ due, answers i s c (withOp c (op sp scalar none due) (next scalar)) fun t =>
        t.ids = s.ids + 1 ∧ { t with agents := s.agents, slots := s.slots, ids := s.ids } = s
    let releases := fun i (scalar : Bool) =>
      memFields c f scalar 4 → room c .g → buffered → (∀ o ∈ c.ag.ops, o.kind.isAccess = true → o.returned = true) →
      (∀ r ∈ s.fabReqs, r.2.agent ≠ c.a) → s.heldPeer c.ag.core c.ag.ctx = none →
      checked s c (e scalar) (request c f .glob scalar f.imm.toInt true false none) l →
      ∀ s1, State.scopeAll (slotted s c (e scalar)) (State.identOf (slotted s c (e scalar)) c.ag) f.sch.toNat (some 0) (accs scalar) = (s1, []) →
      ∃ due, answers i s c (withOp c (op .glob scalar (some f.sch.toNat) due) (next scalar)) fun t =>
        t.ids = s.ids + 1 ∧ t.lines = s1.lines
          ∧ { t with agents := s.agents, slots := s.slots, ids := s.ids, lines := s.lines, cores := s.cores } = s
    stores (.stg f) .glob false 3 ∧ stores (.stgs f) .glob true 3 ∧ stores (.sts f) .scr false 0 ∧ stores (.stss f) .scr true 0
      ∧ releases (.stgRel f) false ∧ releases (.stgsRel f) true

/-- R235, R238, R239: an atomic of legal fields whose checks of R225 pass puts one operation in flight, with its operands (and the
new values of a CAS) as the registers hold them. ATOMG counts on E, ATOMS on S. One with a release issues once the agent's
accesses have returned; one with an acquire, and one at a target card, holds issue until it returns. ATOMH holds issue whatever
its order, ATOMH.F, which has a status register, only for an acquire; both have requests on the host link.
The model's choices that it rests on: log entry 23. -/
def Obligations.AtomicsIssue : Prop :=
  ∀ (s : State) (c : Iss) (f : FMEM) (l : List (Nat × Nat × Nat)), ready s c →
    (2 ≤ ordOf f → (∀ o ∈ c.ag.ops, o.kind.isAccess = true → o.returned = true) ∧ (∀ r ∈ s.fabReqs, r.2.agent ≠ c.a)
      ∧ s.heldPeer c.ag.core c.ag.ctx = none) →
    let e := extraPass (twoPasses c f.all)
    let k := widthRegs f.width
    let acquires := ordOf f % 2 = 1
    let value := fun (r lane : Nat) => BitVec.ofNat 128
      (((List.range k).map fun j => (c.ag.vr (r + j) lane).toNat * 2 ^ (32 * j)).sum % 2 ^ (8 * 2 ^ f.width.toNat))
    let acc := fun (x : Nat × Nat × Nat) => ({ lane := x.1, va := x.2.1, pa := x.2.2, n := 2 ^ f.width.toNat, x := value f.data.toNat x.1,
                                               y := if aopOf f = 9 then value (f.data.toNat + k) x.1 else 0 } : Acc)
    let accs := l.map acc
    let dsts : Regs := (List.range k).map fun j => (.v (f.data.toNat + j), c.active f.all)
    (atomFields c f 1 → room c .s → checked s c e (request c f .scr false (fld f.imm 0 13).toInt true true (some false)) l →
        ∃ due g, answers (.atoms f) s c
          (withOp c (newOp s c .s (.atomic .scr (aopOf f) (ordOf f) f.sch.toNat f.data.toNat) accs dsts due) g)
          fun t => { t with agents := s.agents, slots := s.slots, ids := s.ids } = s ∧ (acquires → g = waitsFor s s.ids)
            ∧ (¬acquires → g = goesOn s e f.stl))
      ∧ (atomFields c f 4 → room c .e → checked s c e (request c f .glob false (fld f.imm 0 13).toInt true true (some false)) l →
        ∀ s1, (acquires → s1 = s) →
          (¬acquires → State.scopeAll (slotted s c e) (State.identOf (slotted s c e) c.ag) f.sch.toNat (some 1) accs = (s1, [])) →
        ∃ due g, answers (.atomg f) s c
          (withOp c (newOp s c .e (.atomic .glob (aopOf f) (ordOf f) f.sch.toNat f.data.toNat) accs dsts due) g)
          fun t => t.ids = s.ids + 1 ∧ t.lines = s1.lines
            ∧ { t with agents := s.agents, slots := s.slots, ids := s.ids, lines := s.lines, cores := s.cores, free := s.free,
                       openRows := s.openRows } = s
            ∧ (acquires ∨ (∃ x ∈ l, s.paKind x.2.2 = .peer) → g = waitsFor s s.ids)
            ∧ (¬acquires → (∀ x ∈ l, s.paKind x.2.2 ≠ .peer) → g = goesOn s e f.stl))
      ∧ (∀ stat : Bool, atomFields c f 3 → f.sch = 3 → aopOf f ≤ 9 → room c .e → (stat = true → f.imm.toNat % 64 = 0) →
        checked s c e (request c f .glob false (if stat then 0 else (fld f.imm 0 13).toInt) true true (some true)) l →
        (∀ x ∈ l, s.paKind x.2.2 = .host ∧ s.habl.contains (x.2.2 % 2 ^ 51 / 4096) = false ∧ x.1 < 64) → l ≠ [] → (l.map (·.1)).Nodup →
        (∀ r ∈ s.hostReqs, r.2.op ≠ s.ids) → (∀ o ∈ c.ag.ops, o.id < s.ids) →
        ∃ t o, exec (if stat then .atomhF f else .atomh f) s = .next t
          ∧ (t.agent? c.a).bind (fun ag => ag.findOp s.ids) = some o ∧ o.ctr = some .e ∧ o.todo = maskOf (l.map (·.1))
          ∧ o.acc = accs ∧ o.kind = .hostAtomic (aopOf f) f.data.toNat (if stat then some (fldN f.imm 6 7) else none)
          ∧ (∃ r ∈ t.hostReqs, r.2.op = s.ids ∧ r.2.agent = c.a) ∧ (∀ pa, rdB t.mem pa = rdB s.mem pa))

/-- R234: PREF moves lines in the core's L1 at most. R241: WAITC passes on when its counter is at most s(SBASE) and otherwise holds
issue until it is. R242: FENCE passes on when nothing of the agent's is to be waited for; an acquire beyond its own group
invalidates its core's L1; with accesses open a release waits for them.
R189 to R192: a sweep of a group is checked as a whole: every segment of every repetition inside the team's scratchpad, every
base a multiple of 4, no range lock. It then puts one operation in flight on S, and its accesses follow one a clk; a register or a
byte of the scratchpad does not change at issue. SWCVT with SR (to F16 or BF16) advances the stochastic state by CNT.
The model's choices that it rests on: log entries 29 and 33. -/
def Obligations.WaitsAndSweeps : Prop :=
  (∀ (s : State) (c : Iss) (f : FMEM), ready s c → allOk c f.all →
     (c.ag.kind = .group → f.data = 0 → f.width = 0 → f.sch.toNat ≤ 2 → (f.voff = 0x3FF ∨ f.voff.toNat < c.ag.nv) →
         let e := extraPass (twoPasses c f.all)
         answers (.pref f) s c { c.ag with frags := KMap.upd c.ag.frags c.fid (goesOn s e f.stl) } fun t =>
           { t with agents := s.agents, slots := s.slots, cores := s.cores } = s)
       ∧ (c.ag.kind = .group → f.data = 0 → f.voff = 0 → f.width = 0 → f.sch = 0 → f.imm.toNat < 4 →
         let k := [Ctr.g, .s, .e, .m].getD f.imm.toNat .g
         let t := min (c.ag.sr f.sbase.toNat).toNat 63
         (c.ag.ctrVal k ≤ t → acts (.waitc f) s c 0 { c.ag with frags := KMap.upd c.ag.frags c.fid (goesOn s 0 f.stl) })
           ∧ (t < c.ag.ctrVal k → (∀ o ∈ c.ag.ops, o.rej = none) → acts (.waitc f) s c 0
             { c.ag with frags := KMap.upd c.ag.frags c.fid fun fr => { fr with wait := .ctr k t, phase := 4, iss := s.clk, hop := t } }))
       ∧ (f.data = 0 → f.voff = 0x3FF → f.width = 0 → f.sbase = 0 → f.sch.toNat ≤ 4 → 0 < f.imm.toNat → f.imm.toNat < 4 →
         let kind := f.imm.toNat
         let open' := (c.ag.ops.filter fun o => o.kind.isAccess && !o.returned).map (·.id)
         let wall := decide (2 ≤ kind) && decide (f.sch = 4)
         (open' = [] → (wall = true → ∀ r ∈ s.fabReqs, r.2.agent = c.a → r.2.kind ≠ 1) → (2 ≤ kind → s.heldPeer c.ag.core c.ag.ctx = none) →
           let wide := kind % 2 = 1 ∧ f.sch ≠ 0
           let after := max (if wide then s.clk + 9 else s.clk) (s.clk + 1 + f.stl.toNat)
           answers (.fence f) s c { c.ag with frags := KMap.upd c.ag.frags c.fid fun fr => fr.adv after } fun t =>
             { t with agents := s.agents, slots := s.slots, cores := s.cores } = s ∧ (wide → (t.core c.ag.core).l1 = []))
         ∧ (open' ≠ [] → (∀ o ∈ c.ag.ops, o.rej = none) → acts (.fence f) s c 0
             { c.ag with frags := KMap.upd c.ag.frags c.fid fun fr => { fr with wait := .ops open' wall, phase := 4, iss := s.clk } })))
    ∧ (∀ (s : State) (c : Iss) (f : FSWP) (kind : Nat), ready s c → c.ag.kind = .group → room c .s → f.cnt ≠ 0 → s.rlocks = [] →
         (kind = 4 → f.sb = 0 ∧ f.stepb = 0) → (f.sr = 1 → kind = 4 ∧ f.ty.toNat ≤ 1 ∧ c.ag.pure = false) →
         let x := fun (r : BitVec 5) => (c.ag.sr r.toNat).toNat
         let size := ((s.teamOf c.ag).size : Int)
         let fits := fun (r : BitVec 5) (step : BitVec 8) (n : Int) =>
           x r < 2 ^ 32 ∧ x r % 4 = 0 ∧ (∀ k, k < f.cnt.toNat → 0 ≤ (x r : Int) + 32 * k * step.toInt ∧ (x r : Int) + 32 * k * step.toInt + n ≤ size)
         let n := if kind < 4 then (128, 128) else if f.ty.toNat ≤ 1 then (64, 128) else (128, 64)
         fits f.sd f.stepd n.1 → fits f.sa f.stepa n.2 → (kind < 4 → fits f.sb f.stepb 128) →
         let i := if kind = 0 then Instr.swadd f else if kind = 1 then .swmul f else if kind = 2 then .swfma f else if kind = 3 then .swmax f else .swcvt f
         let o : Op := { (newOp s c .s (.sweep (min kind 4) f.ty.toNat (f.sr = 1) f.cnt.toNat 0 0 (x f.sd) (x f.sa) (x f.sb) f.stepd.toInt
           f.stepa.toInt f.stepb.toInt [] [] []) [] [] (s.clk + 1)) with sc := [c.ag.srx], pc := 0 }
         kind ≤ 4 → answers i s c
           { (withOp c o (goesOn s 0 f.stl)) with
             srx := if f.sr = 1 then (List.range f.cnt.toNat).foldl (fun x _ => srNext x) c.ag.srx else c.ag.srx } fun t =>
           t.ids = s.ids + 1 ∧ { t with agents := s.agents, slots := s.slots, ids := s.ids } = s)

/-- R97, R14 to R18, R134, R157, R282, R383, R395, R420: SRD in a group writes the register named to s(SD) with L = 2. An index
that names no register raises ILLEGAL_OP with detail 3, one of the handler's own with detail 1 outside a handler, and in a pure
task every other register than 0x000, 0x010, 0x011 and 0x012 raises PURITY (R379).
The model's choices that it rests on: log entry 18. -/
def Obligations.ControlRegisterReads : Prop :=
  ∀ (s : State) (c : Iss) (f : FSYS), ready s c → c.ag.kind = .group → sysFields c f 0 true false false false 0xFFF →
    let ag := c.ag
    let nat := fun (x : Nat) => BitVec.ofNat 64 x
    let team := s.teamOf ag
    let all : List (Nat × Dword) :=
      [(0x000, if ag.gchk then 1 else 0), (0x001, nat (ag.core + ag.part * 2 ^ 7 + ag.slot * 2 ^ 9 + ag.ctx * 2 ^ 17 + ag.tenant * 2 ^ 23)),
       (0x002, nat s.pt), (0x003, nat c.fr.pc), (0x011, nat team.idx), (0x012, nat (c.fid + 16 * ag.split.length)),
       (0x010, nat (ag.gidx + (team.ngroups - 1) * 2 ^ 6 + (if ag.width = 16 then 0 else if ag.width = 32 then 1 else 2) * 2 ^ 12
          + (if team.pair then 2 ^ 14 else 0) + team.pos * 2 ^ 15 + (team.strip.length - 1) * 2 ^ 18
          + (if team.strip.isEmpty then 0 else 2 ^ 21) + (ag.nv / 16 - 1) * 2 ^ 32)),
       (0x020, ag.lrec), (0x021, ag.dln), (0x022, ag.lcls), (0x023, ag.srx), (0x030, maskOf (ag.banks.map (·.1))), (0x050, s.pstat),
       (0x060, ag.lm), (0x081, nat s.wallst)]
        ++ (List.range 16).map fun k => (0x040 + k, KMap.get 0 ag.qb k)
    let handlers : List (Nat × (Handler → Dword)) :=
      (0x061, fun h => h.emSave) :: (List.range 8).map fun k => (0x068 + k, fun h => h.shadow.getD k 0)
    let reads := fun x => acts (.srd f) s c 0 (wroteS s c f.sd x 2 f.stl)
    (ag.pure = true → (f.imm.toNat ∉ [0x000, 0x010, 0x011, 0x012]) → f.imm.toNat ∈ all.map (·.1) → raises (.srd f) s c { code := 14 })
      ∧ (∀ p ∈ all, f.imm.toNat = p.1 → (ag.pure = false ∨ p.1 ∈ [0x000, 0x010, 0x011, 0x012]) → reads p.2)
      ∧ (∀ p ∈ handlers, f.imm.toNat = p.1 → ag.pure = false →
        (∀ h, ag.handler = some h → reads (p.2 h)) ∧ (ag.handler = none → raises (.srd f) s c { code := 3, detail := 1 }))
      ∧ (0x82 ≤ f.imm.toNat → raises (.srd f) s c { code := 3, detail := 3 })

/-- R98, R15, R311, R420: SWR in a group writes s(SA) to the register named: GCHK, SRX, QB0 to QB15, in a handler EMSAVE and SHADOW0
to 7; a read-only register keeps its value, and an ASPILL of a bank that is not foreign changes nothing (R422). In a leat it
writes GCHK, or a handle's HDESC (R314): with EN clear the handle is released, with a legal configuration it is held, FREE and
with a zeroed header. An index that names no register raises ILLEGAL_OP with detail 3, a handler's outside one detail 1. -/
def Obligations.ControlRegisterWrites : Prop :=
  ∀ (s : State) (c : Iss) (f : FSYS), ready s c → sysFields c f 0 false true false false 0xFFF →
    let i := f.imm.toNat
    let v := c.ag.sr f.sa.toNat
    let on := passed s c f.stl
    let same := { c.ag with frags := on }
    let does := fun ag => acts (.swr f) s c 0 ag
    (c.ag.kind = .group →
      (i = 0 → does { same with gchk := v.getLsbD 0 })
        ∧ (i = 0x23 → c.ag.pure = false → does { same with srx := v })
        ∧ (i = 0x23 → c.ag.pure = true → raises (.swr f) s c { code := 14 })
        ∧ (∀ k, k < 16 → i = 0x40 + k → does { same with qb := KMap.set 0 c.ag.qb k (v &&& 0x8000_0000_0000_003F#64) })
        ∧ (i ∈ [0x01, 0x02, 0x03, 0x10, 0x11, 0x12, 0x20, 0x21, 0x22, 0x30, 0x31, 0x38, 0x50, 0x60, 0x80, 0x81] → does same)
        ∧ (∀ h, c.ag.handler = some h →
          (i = 0x61 → does { same with handler := some { h with emSave := v } })
            ∧ (∀ k, k < 8 → i = 0x68 + k → does { same with handler := some { h with shadow := h.shadow.set k v } })
            ∧ (i = 0x62 → (∀ b ∈ c.ag.banks, b.2 = v.toNat % 64 → (s.bank c.ag.core b.2).tag = c.ag.ctx) → does same))
        ∧ (c.ag.handler = none → i = 0x61 ∨ i = 0x62 ∨ (0x68 ≤ i ∧ i ≤ 0x6F) → raises (.swr f) s c { code := 3, detail := 1 })
        ∧ (i = 4 ∨ i = 0x51 ∨ 0x82 ≤ i → raises (.swr f) s c { code := 3, detail := 3 }))
      ∧ (c.ag.kind ≠ .group →
        (i = 0 → does { same with gchk := v.getLsbD 0 })
          ∧ (i = 4 ∨ (0x81 ≤ i ∧ i < 0x100) ∨ 0x200 ≤ i → raises (.swr f) s c { code := 3, detail := 3 })
          ∧ (∀ h x, h < 256 → i = 0x100 + h → KMap.find? s.handles (256 * (s.teamOf c.ag).core + h) = some x → x.team = c.ag.team →
            x.st = 0 → (∀ o ∈ s.xops, 256 * o.2.core + o.2.h ≠ 256 * (s.teamOf c.ag).core + h) → v = 0 →
            answers (.swr f) s c same fun t => t.handles = KMap.del s.handles (256 * (s.teamOf c.ag).core + h)
              ∧ { t with agents := s.agents, slots := s.slots, handles := s.handles } = s)
          ∧ (∀ h tm roff dsec lay nrel, h < 256 → i = 0x100 + h → KMap.find? s.handles (256 * (s.teamOf c.ag).core + h) = none →
            KMap.find? s.teams c.ag.team = some tm → KMap.wf 0 tm.scr = true → roff % 64 = 0 → 1 ≤ dsec → dsec ≤ 256 → lay < 4 → nrel < 64 →
            roff + 64 + 512 * dsec ≤ min tm.size (2 ^ 20) →
            v = BitVec.ofNat 64 (roff + dsec * 2 ^ 32 + lay * 2 ^ 41 + nrel * 2 ^ 45 + 2 ^ 63) →
            answers (.swr f) s c same fun t =>
              KMap.find? t.handles (256 * (s.teamOf c.ag).core + h)
                  = some { roff := roff, dsec := dsec, layout := lay, nrel := nrel + 1, team := c.ag.team }
                ∧ (∀ k, k ≠ 256 * (s.teamOf c.ag).core + h → KMap.find? t.handles k = KMap.find? s.handles k)
                ∧ (∀ tm', KMap.find? t.teams c.ag.team = some tm' → ∀ a, rdB tm'.scr a =
                    if roff ≤ a ∧ a < roff + 64 then 0 else rdB tm.scr a)
                ∧ { t with agents := s.agents, slots := s.slots, handles := s.handles, teams := s.teams } = s))

/-- R99: T is s(SA), or with .REL pt + s(SA), at most 2^64 - 1. With pt ≥ T the instruction behaves as a NOP; otherwise the fragment
issues nothing further until pt reaches T, which it keeps. A pure task's raises PURITY.
R148 to R150: TBAR and SBAR in a group without live split entries: the group has arrived at its next barrier of the kind, and its
fragment waits there, whatever em holds. With a live entry ILLEGAL_SPLIT. -/
def Obligations.TimeAndBarriers : Prop :=
  (∀ (s : State) (c : Iss) (f : FSYS) (rel : Bool), ready s c → sysFields c f (if rel then 1 else 0) false true false false 0 →
     let i := if rel then Instr.sleepptRel f else .sleeppt f
     let x := (c.ag.sr f.sa.toNat).toNat
     let t := if rel then (if s.pt + x < 2 ^ 64 then s.pt + x else 2 ^ 64 - 1) else x
     (c.ag.pure = true → raises i s c { code := 14 })
       ∧ (c.ag.pure = false → t ≤ s.pt → acts i s c 0 { c.ag with frags := passed s c f.stl })
       ∧ (c.ag.pure = false → s.pt < t → acts i s c 0 { c.ag with frags := waiting s c (.sleep t) t }))
    ∧ (∀ (s : State) (c : Iss) (f : FSYS), ready s c → c.ag.kind = .group → sysFields c f 0 false false false false 0 →
         (c.ag.split ≠ [] → raises (.tbar f) s c { code := 7 } ∧ raises (.sbar f) s c { code := 7 })
           ∧ (c.ag.split = [] → c.fr.hop = 0 →
             acts (.tbar f) s c 0 { c.ag with tbar := c.ag.tbar + 1, frags := waiting s c (.barrier 0 (c.ag.tbar + 1)) 0 }
               ∧ acts (.sbar f) s c 0 { c.ag with sbar := c.ag.sbar + 1, frags := waiting s c (.barrier 1 (c.ag.sbar + 1)) 0 }))

/-- R434, R438: TRAP in a group whose context has a handler enters it (R419, R420): em empty, LM, the saved em and s120 to s127, the
record with code 15 and DETAIL; without one the fault is fatal: the context is DEAD and its record waits for the discard (R423).
HALT.FATAL outside a handler is fatal with code 35. BRK with DBG stops the group at the BRK under a fresh token and a DEBUG record
joins the queue; without DBG it acts as NOP, but in a handler each of the three is HANDLER_FAULT (R421). -/
def Obligations.TrapsAndBreakpoints : Prop :=
  ∀ (s : State) (c : Iss) (f : FSYS) (sub : BitVec 4), ready s c → sysFields c f sub false false false false 0xFFFF →
    let d := f.imm.toNat
    let x := c.ag.ctx
    let dead := fun i (code info : Nat) => ∃ t, exec i s = .next t ∧ t.ctxDead x = true ∧ t.agent? c.a = some c.ag
      ∧ KMap.find? t.fatals x
          = some (faultRec (c.ag.raiser c.fid c.fr.pc) 2 { code := code, detail := if code = 34 then 0 else d, info := info } 0 s.pt, false)
      ∧ t.agenda = Ev.fatalDiscard x :: s.agenda ∧ (∀ pa, rdB t.mem pa = rdB s.mem pa) ∧ t.teams = s.teams
    x < 64 →
    (c.ag.kind = .group → c.ag.handler = none → s.ctxHandler x ≠ 0 → sub = 0 →
        acts (.trapI f) s c 0 (trapped s c { code := 15, detail := d }))
      ∧ (KMap.find? s.fatals x = none →
        (c.ag.handler = none → (c.ag.kind ≠ .group ∨ s.ctxHandler x = 0) → sub = 0 → dead (.trapI f) 15 0)
        ∧ (c.ag.handler = none → sub = 1 → dead (.haltFatal f) 35 0)
        ∧ (∀ h, c.ag.kind = .group → c.ag.handler = some h →
          (sub = 0 → dead (.trapI f) 34 (15 + d * 2 ^ 8 + h.code * 2 ^ 24)) ∧ (sub = 1 → dead (.haltFatal f) 34 (35 + d * 2 ^ 8 + h.code * 2 ^ 24))
            ∧ (sub = 0 → dead (.brk f) 34 (17 + d * 2 ^ 8 + h.code * 2 ^ 24))))
      ∧ (sub = 0 → c.ag.handler = none →
        (s.ctxDbg x = false → acts (.brk f) s c 0 { c.ag with frags := passed s c f.stl })
        ∧ (s.ctxDbg x = true → ∃ t, exec (.brk f) s = .next t
          ∧ t.faultQ = s.faultQ ++ [faultRec (c.ag.raiser c.fid c.fr.pc) 4 { code := 17, detail := d } s.tokenNext s.pt]
          ∧ KMap.find? t.tokens s.tokenNext = some (.agent c.a c.fid)
          ∧ (c.ag.kind = .group → (t.agent? c.a).bind (·.stop) = some { fid := c.fid, token := s.tokenNext, debug := true })
          ∧ (c.ag.kind ≠ .group → ((t.agent? c.a).bind fun ag => (KMap.find? ag.frags c.fid).map (·.wait)) = some (.stopped s.tokenNext))
          ∧ (∀ pa, rdB t.mem pa = rdB s.mem pa) ∧ t.agenda = s.agenda))

/-- R435: TRET in a handler without fixed-latency writes of its own on their way restores s120 to s127 from SHADOW0 to 7 and em from
EMSAVE, leaves the handler and lets the faulting fragment issue from TRET's issue + 3 on: RETRY at the faulting instruction (a
header fault: at the header), SKIP at the next instruction of the clause, after the last one at H + 8 × (COUNT + 2) (past the
liveness record after YIELD), JMP at s(SA). LM keeps its value. A target outside 0 .. 2^48 - 8 or misaligned is HANDLER_FAULT.
The model's choices that it rests on: log entry 17. -/
def Obligations.ReturnFromTrap : Prop :=
  ∀ (s : State) (c : Iss) (f : FSYS) (h : Handler) (k : BitVec 4), ready s c → c.ag.kind = .group → c.ag.handler = some h →
    h.shadow.length = 8 → sysFields c f k false (k = 2) false false 0 →
    let t := (c.ag.sr f.sa.toNat).toNat
    let at' := max (s.clk + 3) (s.clk + 1 + f.stl.toNat)
    let regs : KMap Dword := (List.range 8).foldl (fun m i => KMap.set 0 m (120 + i) (h.shadow.getD i 0)) c.ag.sregs
    let back := fun i (fr : Frag) => acts i s c 0
      { c.ag with sregs := regs, handler := none, frags := KMap.put c.ag.frags c.fid { fr with em := h.emSave, own := c.fr.own, next := at' } }
    let g := h.frag
    let after := g.h + 8 * (g.code.length + 1)
    (k = 0 → g.wait = .none → g.phase = 0 → (0 < g.k → back (.tretRetry f) g) ∧ (g.k = 0 → back (.tretRetry f) (g.goHdr g.h)))
      ∧ (k = 1 →
        (0 < g.k → g.k < g.code.length → back (.tretSkip f) { g with k := g.k + 1, phase := 0, wait := .none, fault := none, hop := 0 })
        ∧ ((g.k = 0 ∨ g.k = g.code.length) → (g.k = 0 ∨ g.live = []) → g.code ≠ [] → back (.tretSkip f) (g.goHdr after))
        ∧ (g.k = g.code.length → g.live ≠ [] → back (.tretSkip f) (g.goHdr (after + 64))))
      ∧ (k = 2 →
        (t ≤ 2 ^ 48 - 8 → t % 8 = 0 → back (.tretJmp f) (g.goHdr t))
        ∧ (2 ^ 48 - 8 < t → raises (.tretJmp f) s c { code := 6, addr := t })
        ∧ (t ≤ 2 ^ 48 - 8 → t % 8 ≠ 0 → raises (.tretJmp f) s c { code := 8, addr := t }))

/-- R436, R437: in a handler XLMR reads the lane s(SB)[5:0] of v(s(SA)[9:0]), with P the pair of an even register, 0 for a lane at or
above the width, with L = 8; XLMW writes that lane and nothing else. FLTRD writes a dword of the fault record, of a split-table
entry or of a range-lock entry of the core, with L = 2. -/
def Obligations.HandlerAccess : Prop :=
  ∀ (s : State) (c : Iss) (f : FSYS) (h : Handler), ready s c → c.ag.kind = .group → c.ag.handler = some h →
    let r := (c.ag.sr f.sa.toNat).toNat % 1024
    let l := (c.ag.sr f.sb.toNat).toNat % 64
    let v := c.ag.sr f.sd.toNat
    let writes := fun i (ps : List (Reg × List (Nat × Dword))) (lat : Nat) =>
      acts i s c 0
        { c.ag with
          pend := ps.map fun p => { fid := c.fid, dst := p.1, vals := p.2, ready := s.clk + lat }
          frags := KMap.put c.ag.frags c.fid (goesOn s 0 f.stl c.fr) }
    (∀ p : Bool, sysFields c f (if p then 1 else 0) true true true false 0 → r + (if p then 1 else 0) < c.ag.nv → (p = true → r % 2 = 0) →
        writes (.xlmr f) [(.s f.sd.toNat, [(0,
          if c.ag.width ≤ l then 0#64 else BitVec.ofNat 64 ((c.ag.vr r l).toNat + if p then 2 ^ 32 * (c.ag.vr (r + 1) l).toNat else 0))])] 8
          ∧ writes (.xlmw f) (if c.ag.width ≤ l then [] else (.v r, [(l, v &&& 0xFFFF_FFFF#64)]) ::
              if p then [(.v (r + 1), [(l, v >>> 32)])] else []) 8)
      ∧ (∀ p : Bool, sysFields c f (if p then 1 else 0) true true true false 0 → (p = true ∧ r % 2 = 1) →
        raises (.xlmr f) s c { code := 3, detail := 3 } ∧ raises (.xlmw f) s c { code := 3, detail := 3 })
      ∧ (∀ p : Bool, sysFields c f (if p then 1 else 0) true true true false 0 → ¬(p = true ∧ r % 2 = 1) → c.ag.nv ≤ r →
        raises (.xlmr f) s c { code := 4 } ∧ raises (.xlmw f) s c { code := 4 })
      ∧ (∀ d e : Nat, d < 8 → e < 64 → f.imm.toNat = d + 8 * e → ∀ k, sysFields c f k true false false false 0x1FF →
        let reads := fun i x => writes i [(.s f.sd.toNat, [(0, x)])] 2
        (k = 0 → e = 0 → reads (.fltrdRec f) (BitVec.ofNat 64 (h.record.toNat / 2 ^ (64 * d))))
        ∧ (k = 1 → e < 8 → d < 4 → (KMap.find? c.ag.split e = none → reads (.fltrdSpl f) 0)
          ∧ ∀ n, KMap.find? c.ag.split e = some n → reads (.fltrdSpl f) (match d with
            | 0 => n.pmask
            | 1 => n.cmask
            | 2 => BitVec.ofNat 64 (n.jpc + n.pid * 2 ^ 48 + n.cid * 2 ^ 52 + n.pa.toNat * 2 ^ 56 + n.ca.toNat * 2 ^ 57 + 2 ^ 58)
            | _ => 0))
        ∧ (k = 2 → d < 2 → (KMap.find? s.rlocks (64 * c.ag.core + e) = none → reads (.fltrdRng f) 0)
          ∧ ∀ n, KMap.find? s.rlocks (64 * c.ag.core + e) = some n → reads (.fltrdRng f) (BitVec.ofNat 64 (n.bits.toNat / 2 ^ (64 * d))))
        ∧ ((k = 0 → e ≠ 0 → exec (.fltrdRec f) s = .next (s.raise c.a c.fid { code := 3, detail := 3 }))
          ∧ (k = 1 → 8 ≤ e ∨ 4 ≤ d → exec (.fltrdSpl f) s = .next (s.raise c.a c.fid { code := 3, detail := 3 }))
          ∧ (k = 2 → 2 ≤ d → exec (.fltrdRng f) s = .next (s.raise c.a c.fid { code := 3, detail := 3 }))))

/-- R433: YIELD with a valid liveness record goes on at H + 8 × (COUNT + 2) + 64 with the timing of a taken branch, or, with a
pre-emption of the context pending, waits at its yield point; an invalid record raises ILLEGAL_OP with detail 5 either way.
R95, R145, R310, R438: END of the only fragment, and HALT of any, end the group or leat once no operation is in flight, else wait
for its counters. HALT also abandons a trap being handled; END in a handler raises ILLEGAL_OP with detail 1. END of a detached
fragment counts as its arrival: its parent goes on alone when it waits at the JOIN, else it will not wait there.
The model's choices that it rests on: log entry 14. -/
def Obligations.YieldsAndEnds : Prop :=
  (∀ (s : State) (c : Iss) (f : FSYS), ready s c → lastWord c → c.ag.kind = .group → c.ag.handler = none →
     sysFields c f 0 false false false false 0 →
     let r := numOf c.fr.live
     let off := fun i => r / 2 ^ (192 + 64 * i) % 2 ^ 32
     let len := fun i => r / 2 ^ (224 + 64 * i) % 2 ^ 32
     let valid := r / 2 ^ 449 % 2 ^ 63 = 0 ∧ r % 2 ^ 64 < 2 ^ (c.ag.nv / 16)
       ∧ (∀ i, i < 4 → off i % 4 = 0 ∧ len i % 4 = 0 ∧ (len i ≠ 0 → off i + len i ≤ (s.teamOf c.ag).size))
       ∧ (∀ i j, i < j → j < 4 → len i ≠ 0 → len j ≠ 0 → off i + len i ≤ off j ∨ off j + len j ≤ off i)
     (¬valid → raises (.yield f) s c { code := 3, detail := 5 })
       ∧ (valid → (∀ o ∈ c.ag.ops, o.rej = none) →
         (KMap.find? s.preempts c.ag.ctx = none → acts (.yield f) s c 0
           { c.ag with frags := KMap.upd c.ag.frags c.fid fun fr => { fr.goHdr (nextClause c + 64) with next := takenAt s f.stl } })
         ∧ (KMap.find? s.preempts c.ag.ctx ≠ none → c.fr.hop = 0 → acts (.yield f) s c 0 { c.ag with frags := waiting s c .yield 0 })))
    ∧ (∀ (s : State) (c : Iss), ready s c → (∀ o ∈ c.ag.ops, o.rej = none) → c.fr.hop = 0 →
         (∀ f : FBR, allOk c f.all → f.rsv = 0 → f.cond = 0 → f.sc = 0 → f.sl = 0 → f.off = 0 →
             (c.ag.handler.isSome = true → c.ag.kind = .group → exec (.endGroup f) s = .next (s.raise c.a c.fid { code := 3, detail := 1 }))
             ∧ (c.ag.handler = none → c.ag.frags = [(c.fid, c.fr)] → c.ag.split = [] →
               (c.ag.ops = [] → acts (.endGroup f) s c 0 { c.ag with frags := [], ended := true })
                 ∧ (c.ag.ops ≠ [] → acts (.endGroup f) s c 0 { c.ag with frags := waiting s c .ended 0 }))
             ∧ (∀ e n p pf, c.ag.handler = none → c.ag.kind = .group → c.ag.split = [(e, n)] → n.cid = c.fid → n.pid = p → p < c.fid → c.fid < 15 →
               c.ag.frags = [(p, pf), (c.fid, c.fr)] →
               (pf.wait ≠ .join e → acts (.endGroup f) s c 0
                   { c.ag with frags := [(p, pf)], split := [(e, { n with ca := true, cem := 0 })] })
                 ∧ (pf.wait = .join e → acts (.endGroup f) s c 0
                   { c.ag with split := [], frags := [(p, { pf.goHdr pf.nextHdr with em := n.pem, next := s.clk + 3 })] })))
           ∧ (∀ f : FSYS, sysFields c f 0 false false false false 0 →
             (c.ag.frags.map (·.1)).Nodup →
             (c.ag.ops = [] → acts (.halt f) s c 0 { c.ag with frags := [], split := [], handler := none, ended := true })
               ∧ (c.ag.ops ≠ [] → acts (.halt f) s c 0
                 { c.ag with frags := [(c.fid, { c.fr with wait := .ended, phase := 4, iss := s.clk })], split := [], handler := none })))

/-- R331, R320: LDB at a FULL handle and STB at a FREE one of the group's team, with the layout of the handle and logical offsets
inside its data, put one operation in flight on S whose lanes lie at ROFF + 64 + the layout's image of their offsets; no register
and no byte changes yet. A handle in another state holds the issue; no such handle ILLEGAL_REG, another layout
ILLEGAL_HANDLE_LAYOUT, an offset outside ILLEGAL_ADDR, a misaligned one MISALIGN. -/
def Obligations.BufferAccesses : Prop :=
  ∀ (s : State) (c : Iss) (f : FMEM) (store : Bool), ready s c → c.ag.kind = .group → allOk c f.all → f.sbase = 0 → f.width.toNat ≤ 4 →
    f.sch.toNat ≤ 3 → f.data.toNat % widthRegs f.width = 0 → f.data.toNat + widthRegs f.width ≤ c.ag.nv →
    (f.voff = 0x3FF ∨ f.voff.toNat < c.ag.nv) → room c .s → c.ag.pure = false →
    let i := if store then Instr.stb f else .ldb f
    let e := extraPass (twoPasses c f.all)
    let h := f.imm.toNat / 2 ^ 11
    let k := 256 * (s.teamOf c.ag).core + h
    let n : Nat := 2 ^ f.width.toNat
    let off := fun (l : Nat) => (if f.voff = 0x3FF then 0 else ((c.ag.vr f.voff.toNat l).toNat : Int)) + (fld f.imm 0 11).toInt
    let lanes := lanesOf (c.active f.all)
    let stops := fun x => exec i s = .next (State.raise (slotted s c e) c.a c.fid x)
    let at' := fun (lay : Nat) (t : Nat) =>
      if lay = 1 then t / 128 * 128 + (t / 16 % 8 ^^^ t / 128 % 8) * 16 + t % 16
      else if lay = 2 then t / 64 * 64 + (t / 16 % 4 ^^^ t / 64 % 4) * 16 + t % 16
      else if lay = 3 then t / 256 * 256 + (t / 32 % 8 ^^^ t / 256 % 8) * 32 + t % 32 else t
    ((KMap.find? s.handles k = none ∨ ∃ x, KMap.find? s.handles k = some x ∧ x.team ≠ c.ag.team) → stops { code := 4 })
      ∧ (∀ x, KMap.find? s.handles k = some x → x.team = c.ag.team →
        (x.layout ≠ f.sch.toNat → stops { code := 11 })
        ∧ (x.layout = f.sch.toNat → x.st ≠ (if store then 0 else 2) → acts i s c e
            { c.ag with frags := KMap.upd c.ag.frags c.fid fun fr =>
                { fr with wait := .handle h (if store then 0 else 2) 2 0xFFFF_FFFF_FFFF_FFFF#64, phase := 0, iss := s.clk } })
        ∧ (x.layout = f.sch.toNat → x.st = (if store then 0 else 2) →
          (∀ l ∈ lanes, (∀ m ∈ lanes, m < l → 0 ≤ off m ∧ off m + n ≤ 512 * x.dsec) → (off l < 0 ∨ 512 * x.dsec < off l + n) →
            ∃ m, stops { code := 6, addr := (off l % 2 ^ 64).toNat, lm := m })
          ∧ ((∀ l ∈ lanes, 0 ≤ off l ∧ off l + n ≤ 512 * x.dsec) →
            (∀ l ∈ lanes, (∀ m ∈ lanes, m < l → off m % n = 0) → off l % n ≠ 0 → ∃ m, stops { code := 8, addr := (off l).toNat, lm := m })
            ∧ ((∀ l ∈ lanes, off l % n = 0 ∧ (x.roff + 64 + at' x.layout (off l).toNat) % n = 0
                ∧ x.roff + 64 + at' x.layout (off l).toNat + n ≤ (s.teamOf c.ag).size) → s.rlocks = [] →
              ∃ due, answers i s c
                (withOp c
                  (newOp s c .s (if store then .store .scr false 0 none else .load .scr f.data.toNat false 0 none false)
                    (lanes.map fun l =>
                      ({ lane := l, va := x.roff + 64 + at' x.layout (off l).toNat, pa := x.roff + 64 + at' x.layout (off l).toNat, n := n,
                         x := if store then BitVec.ofNat 128 (((List.range (widthRegs f.width)).map fun j =>
                           (c.ag.vr (f.data.toNat + j) l).toNat * 2 ^ (32 * j)).sum % 2 ^ (8 * n)) else 0 } : Acc))
                    (if store then [] else (List.range (widthRegs f.width)).map fun j => (.v (f.data.toNat + j), c.active f.all)) due)
                  (goesOn s e f.stl)) fun t =>
                t.ids = s.ids + 1 ∧ (t.core c.ag.core).l1 = []
                  ∧ { t with agents := s.agents, slots := s.slots, ids := s.ids, cores := s.cores } = s))))

/-- R332, R319, R267: BUFWAIT at a handle of the team writes 0 when the handle stands in the state and phase asked for (and the core's
L1 is invalidated: an acquire), 1 when pt has reached s(SA), both with L = 2; else it holds the issue with its deadline kept.
R332, R317: BUFREL.CONS at a FULL handle lowers RELS, and at 0 the handle is FREE (deferred while a matrix operation reads it,
R304). BUFREL.PUB at a FREE handle with 1 to 512 × DSEC bytes makes it FULL with a new phase and its header's sector bits, ARRIVED
and EXPECT written. Both are releases: with accesses open they wait. In any other state ILLEGAL_OP with detail 8.
R332: BUFSTAT writes STATE, PHASE, the parked flags, ARRIVED, EXPECT and RELS of a handle of the agent's team to s(SD) with L = 2,
and 0 for a handle that it does not hold.
The model's choices that it rests on: log entry 112. -/
def Obligations.HandleInstructions : Prop :=
  (∀ (s : State) (c : Iss) (f : FSYS), ready s c → c.ag.kind = .group → sysFields c f 0 true true false true 7 →
     let k := 256 * (s.teamOf c.ag).core + f.res.toNat
     let st := f.imm.toNat % 4
     let ph := f.imm.toNat / 4
     let dl := c.ag.sr f.sa.toNat
     let after := fun x => { c.ag with pend := link s c f.sd x, frags := passed s c f.stl }
     ((KMap.find? s.handles k = none ∨ ∃ x, KMap.find? s.handles k = some x ∧ x.team ≠ c.ag.team) → raises (.bufwait f) s c { code := 4 })
       ∧ (∀ x, KMap.find? s.handles k = some x → x.team = c.ag.team →
         (x.st = st → x.phase = ph → answers (.bufwait f) s c (after 0) fun t =>
             (t.core c.ag.core).l1 = [] ∧ { t with agents := s.agents, slots := s.slots, cores := s.cores } = s)
           ∧ (¬(x.st = st ∧ x.phase = ph) → dl.toNat ≤ s.pt → acts (.bufwait f) s c 0 (after 1))
           ∧ (¬(x.st = st ∧ x.phase = ph) → s.pt < dl.toNat →
             acts (.bufwait f) s c 0 { c.ag with frags := waiting s c (.handle f.res.toNat st ph dl) dl.toNat })))
    ∧ (∀ (s : State) (c : Iss) (f : FSYS) (pub : Bool), ready s c → c.ag.kind = .group →
         sysFields c f (if pub then 1 else 0) false pub false true 0 →
         let i := if pub then Instr.bufrelPub f else .bufrelCons f
         let k := 256 * (s.teamOf c.ag).core + f.res.toNat
         let n := (c.ag.sr f.sa.toNat).toNat
         let on := { c.ag with frags := passed s c f.stl }
         let open' := (c.ag.ops.filter fun o => o.kind.isAccess && !o.returned).map (·.id)
         ((KMap.find? s.handles k = none ∨ ∃ x, KMap.find? s.handles k = some x ∧ x.team ≠ c.ag.team) → raises i s c { code := 4 })
           ∧ (∀ x, KMap.find? s.handles k = some x → x.team = c.ag.team →
             let fine := if pub then x.st = 0 ∧ 1 ≤ n ∧ n ≤ 512 * x.dsec else x.st = 2 ∧ 1 ≤ x.rels
             (¬fine → raises i s c { code := 3, detail := 8 })
               ∧ (fine → open' ≠ [] → acts i s c 0 { c.ag with frags := waiting s c (.ops open' false) n })
               ∧ (fine → open' = [] → pub = false → answers i s c on fun t =>
                 { t with agents := s.agents, slots := s.slots, handles := s.handles } = s
                   ∧ t.handles = KMap.put s.handles k (if 1 < x.rels then { x with rels := x.rels - 1 }
                       else if s.matrixReads k x then { x with rels := 0, deferred := true } else { x with rels := 0, st := 0, deferred := false }))
               ∧ (fine → open' = [] → pub = true → ∀ tm, KMap.find? s.teams c.ag.team = some tm → KMap.wf 0 tm.scr = true → x.dsec ≤ 256 →
                 answers i s c on fun t =>
                   { t with agents := s.agents, slots := s.slots, handles := s.handles, teams := s.teams } = s
                     ∧ t.handles = KMap.put s.handles k { x with st := 2, phase := 1 - x.phase, expect := n, arrived := n, rels := x.nrel }
                     ∧ ∃ tm', KMap.find? t.teams c.ag.team = some tm' ∧ rdN tm'.scr 32 x.roff = 2 ^ ((n + 511) / 512) - 1
                       ∧ rdN tm'.scr 4 (x.roff + 32) = n ∧ rdN tm'.scr 4 (x.roff + 36) = n ∧ rdN tm'.scr 4 (x.roff + 40) = 0
                       ∧ ∀ a, a < x.roff ∨ x.roff + 44 ≤ a → rdB tm'.scr a = rdB tm.scr a)))
    ∧ (∀ (s : State) (c : Iss) (f : FSYS), ready s c → sysFields c f 0 true false false true 0 →
         let k := 256 * (s.teamOf c.ag).core + f.res.toNat
         let reads := fun (x : Nat) => acts (.bufstat f) s c 0 (wroteS s c f.sd (BitVec.ofNat 64 x) 2 f.stl)
         ((KMap.find? s.handles k = none ∨ ∃ x, KMap.find? s.handles k = some x ∧ x.team ≠ c.ag.team) → reads 0)
           ∧ (∀ x, KMap.find? s.handles k = some x → x.team = c.ag.team → (∀ o ∈ s.xops, 256 * o.2.core + o.2.h = k → o.2.pk = false) →
             reads (x.st + x.phase * 2 ^ 2 + 2 ^ 5 + 2 ^ 6 + x.arrived * 2 ^ 8 + x.expect * 2 ^ 26 + (if x.st = 2 then x.rels else 0) * 2 ^ 44)))

/-- R244 to R247, R218: SAMPLE and TXLD with a legal descriptor in the core's descriptor cache and the checks of R225 passed on the
descriptor and on every texel put one operation in flight on G, with the coordinates of the active lanes; an illegal descriptor
raises ILLEGAL_OP with detail 5; a descriptor that the cache lacks is read first. No register and no byte of memory changes.
The model's choices that it rests on: log entry 35. -/
def Obligations.ImagesIssue : Prop :=
  ∀ (s : State) (c : Iss) (f : FMEM) (sample : Bool), ready s c → c.fr.phase = 0 → c.ag.kind = .group → allOk c f.all → f.imm = 0 →
    f.width = 3 ∨ f.width = 4 → f.sch.toNat ≤ 3 → f.voff.toNat % 4 = 0 → f.voff.toNat + 4 ≤ c.ag.nv →
    f.data.toNat % widthRegs f.width = 0 → f.data.toNat + widthRegs f.width ≤ c.ag.nv → f.voff ≠ 0x3FF → room c .g → c.active f.all ≠ 0 →
    (∀ o ∈ c.ag.ops, o.id ≠ s.ids) →
    let i := if sample then Instr.sample f else .txld f
    let e := extraPass (twoPasses c f.all)
    let act := c.active f.all
    let addr := (c.ag.sr f.sbase.toNat).toNat
    ∀ l0, descCheck (slotted s c e) c act sample addr = .ok l0 →
      (∀ d : BitVec 768, ((s.core c.ag.core).dsc.find? fun x => x.1 = c.ag.ctx && x.2.1 = addr) = some (c.ag.ctx, addr, d) →
        let im := d.setWidth 512
        let smp : Option (BitVec 256) := if sample then some (d.extractLsb' 512 256) else none
        let co := (lanesOf act).map fun l => (l, (List.range 4).map fun k => c.ag.vr (f.voff.toNat + k) l)
        let q : Req :=
          { sp := .glob, n := texelBytes (imFmt im)
            accs := co.flatMap fun x => (imgAddrs im smp x.2).map fun (a : Nat) => (x.1, (a : Int)) }
        (imBad im smp = true → exec i s = .next (State.raise (slotted s c e) c.a c.fid { code := 3, detail := 5 }))
          ∧ (imBad im smp = false → ∀ l, q.check (slotted s c e) c.ag false = .ok l → ∃ due,
            let o := newOp s c .g (.image f.data.toNat (f.width = 4) f.sch.toNat im smp co)
              (l.map fun x => { lane := x.1, va := x.2.1, pa := x.2.2, n := q.n })
              ((List.range (widthRegs f.width)).map fun j => (.v (f.data.toNat + j), act)) due
            answers i s c (withOp c { o with todo := act } (goesOn s e f.stl)) fun t =>
              s.ids < t.ids
                ∧ { t with agents := s.agents, slots := s.slots, ids := s.ids, free := s.free, openRows := s.openRows, hostReqs := s.hostReqs } = s))
        ∧ (((s.core c.ag.core).dsc.find? fun x => x.1 = c.ag.ctx && x.2.1 = addr) = none →
          ∃ until', answers i s c
            { c.ag with frags := KMap.upd c.ag.frags c.fid fun fr => { fr with wait := .clk until', phase := 0, iss := s.clk } } fun t =>
              { t with agents := s.agents, slots := s.slots, cores := s.cores } = s
                ∧ ∃ d, (t.core c.ag.core).dsc.head? = some (c.ag.ctx, addr, d))

/-- R284, R303: AALLOC for n logical banks that are not held, with no request before it and n banks FREE or PARKED, maps them in order
(FREE ones first, the lowest number first), tags each FREE one with the context, and returns 4 clk later on M; else it waits in the
core's queue; a bank already held: ILLEGAL_REG. AFREE of held banks unmaps them and zeroes them; a bank not held: ILLEGAL_REG.
AZERO and ASTAT (R301, R302) enter the engine as operations on M; AZERO of a bank not held: ILLEGAL_REG, of a foreign one with a
handler: ACC_TAG (R285).
R295, R301: AST and AADD of a held bank with its context's tag: a range that leaves the space is ILLEGAL_ADDR, a misaligned one
MISALIGN, one that another engine holds RANGE_LOCK; with its pages translated (and writable for AST) the operation enters the
engine and its range of 10,240 bytes is locked on the core.
The model's choices that it rests on: log entry 15. -/
def Obligations.BanksAndTransfers : Prop :=
  (∀ (s : State) (c : Iss) (f : FMTX), ready s c → c.ag.kind = .group → allOk c f.all → f.a = 0 → f.b = 0 → f.fb = 0 → f.kst = 0 → f.ah = 0 →
     f.clr = 0 →
     let n := f.mopt.toNat
     let lb := f.abank.toNat
     let core := c.ag.core
     let queue := (KMap.find? s.aq core).getD []
     (1 ≤ n → lb + n ≤ 64 →
         ((∃ k, k < n ∧ KMap.find? c.ag.banks (lb + k) ≠ none) → raises (.aalloc f) s c { code := 4 })
         ∧ ((∀ k, k < n → KMap.find? c.ag.banks (lb + k) = none) → decodeIn .mtx (c.fr.code.getD (c.fr.k - 1) 0) = some (.aalloc f) →
           (n ≤ (s.freeBanks core).length → queue = [] → room c .m →
             ∃ t ag, exec (.aalloc f) s = .next t ∧ t.agent? c.a = some ag ∧ (∀ b, b ≠ c.a → t.agent? b = s.agent? b)
               ∧ (∃ o, ag.ops = c.ag.ops ++ [o] ∧ o.ctr = some .m ∧ o.due = s.clk + 4 ∧ o.dsts = [])
               ∧ ag.frags = (KMap.upd c.ag.frags c.fid fun fr => goesOn s 0 f.stl { fr with iss := s.clk }) ∧ ag.sregs = c.ag.sregs ∧ ag.vregs = c.ag.vregs ∧ t.mem = s.mem
               ∧ (∀ k, k < n → ∃ p, (s.freeBanks core)[k]? = some p ∧ KMap.find? ag.banks (lb + k) = some p
                   ∧ (t.bank core p).st = .held ∧ (t.bank core p).holder = c.a
                   ∧ ((s.bank core p).st = .free → (t.bank core p).tag = c.ag.ctx ∧ (t.bank core p).vals = []))
               ∧ (∀ l, l < lb ∨ lb + n ≤ l → KMap.find? ag.banks l = KMap.find? c.ag.banks l)
               ∧ (∀ p, p ∉ (s.freeBanks core).take n → t.bank core p = s.bank core p))
             ∧ ((s.freeBanks core).length < n → queue = [] → c.fr.hop = 0 → answers (.aalloc f) s c
                 { c.ag with frags := waiting s c (.aalloc n) 0 } fun t =>
               { t with agents := s.agents, slots := s.slots, aq := s.aq } = s ∧ (KMap.find? t.aq core).getD [] = [(c.a, c.fid)])))
       ∧ (1 ≤ n → lb + n ≤ 64 →
         ((∃ k, k < n ∧ KMap.find? c.ag.banks (lb + k) = none) → raises (.afree f) s c { code := 4 })
         ∧ (∀ p, n = 1 → KMap.find? c.ag.banks lb = some p → (s.bank core p).tag = c.ag.ctx →
           answers (.afree f) s c { c.ag with banks := KMap.del c.ag.banks lb, frags := passed s c f.stl } fun t =>
             { t with agents := s.agents, slots := s.slots, accs := s.accs } = s
               ∧ t.accs = KMap.put s.accs (64 * core + p) { st := .zeroing, vals := (s.bank core p).vals, at' := s.clk + 16 }))
       ∧ (room c .m → n = 0 →
         (KMap.find? c.ag.banks lb = none → raises (.azero f) s c { code := 4 })
         ∧ (∀ p, KMap.find? c.ag.banks lb = some p →
           ((s.bank core p).tag ≠ c.ag.ctx → s.ctxHandler c.ag.ctx ≠ 0 →
             raises (.azero f) s c { code := 16, info := p + 64 * (s.bank core p).tag })
           ∧ ((s.bank core p).tag = c.ag.ctx → entersEngine (.azero f) s c 2 f [] [] s.clk (fun m => m.phys = p) fun t =>
             { t with agents := s.agents, slots := s.slots, ids := s.ids } = s ∧ t.ids = s.ids + 1)))
       ∧ (room c .m → n < 128 → entersEngine (.astat f) s c 11 f [(.s n, 1)] [] s.clk (fun _ => True) fun t =>
         { t with agents := s.agents, slots := s.slots, ids := s.ids } = s ∧ t.ids = s.ids + 1))
    ∧ (∀ (s : State) (c : Iss) (f : FMTX) (store : Bool), ready s c → c.ag.kind = .group → allOk c f.all → f.a = 0 → f.b = 0 → f.kst = 0 →
         f.ah = 0 → (store = true → f.clr = 0) → f.mopt = 0 → room c .m →
         let i := if store then Instr.ast f else .aadd f
         let a := (c.ag.sr f.fb.toNat).toNat
         let lock := mtxLock c.ag a 1 (if store then 1 else 0) 10240
         (KMap.find? c.ag.banks f.abank.toNat = none → raises i s c { code := 4 })
           ∧ (∀ p, KMap.find? c.ag.banks f.abank.toNat = some p →
             (2 ^ 48 < a + 10240 → raises i s c { code := 6, addr := a })
             ∧ (a + 10240 ≤ 2 ^ 48 → a % 128 ≠ 0 → raises i s c { code := 8, addr := a })
             ∧ (a + 10240 ≤ 2 ^ 48 → a % 128 = 0 →
               (∀ e, s.lockConf c.ag.core lock = some e → raises i s c { code := 10, addr := lockBase e, info := e.toNat })
               ∧ (s.lockConf c.ag.core lock = none → c.ag.pure = false → c.fr.phase = 0 → (s.bank c.ag.core p).tag = c.ag.ctx →
                 (∀ x ∈ pageParts a 10240, s.l1tlb c.ag.core c.ag.ctx x.1 ≠ none) →
                 ∀ pgs, s.pagesOf c.ag a 10240 store = .ok pgs → (store = true → s.protFault c.ag a 10240 = none) →
                 (∃ k, k < 64 ∧ KMap.find? s.rlocks (64 * c.ag.core + k) = none) →
                 entersEngine i s c (if store then 9 else 10) f [] [] s.clk (fun m => m.phys = p ∧ m.addr = a ∧ m.pages = pgs) fun t =>
                   { t with agents := s.agents, slots := s.slots, ids := s.ids, rlocks := s.rlocks } = s ∧ t.ids = s.ids + 1
                     ∧ ∃ k, k < 64 ∧ KMap.find? s.rlocks (64 * c.ag.core + k) = none
                       ∧ (∀ j, j < k → KMap.find? s.rlocks (64 * c.ag.core + j) ≠ none)
                       ∧ t.rlocks = KMap.put s.rlocks (64 * c.ag.core + k) { op := s.ids, bits := lock }))))

/-- R300: ALD of a held bank of the context without a multiply on it: lane l receives elements 16 × POS + P × l + j in order from its
lowest bits, each converted from FA40 by the format, SAT and RM of the control word, with L = 10. With SCL each covered row has a
scale (R121), its elements are scaled by it, and s(SS) receives the rows' scales 10 clk after the last pass. An invalid control word
raises ILLEGAL_OP with detail 5.
The model's choices that it rests on: log entry 46. -/
def Obligations.LoadFromAccumulators : Prop :=
  ∀ (s : State) (c : Iss) (f : FMTX) (p : Nat), ready s c → c.ag.kind = .group → allOk c f.all → f.b = 0 → f.kst = 0 → f.clr = 0 → f.ah = 0 →
    f.mopt.toNat < 256 → (f.mopt.toNat < 128 → f.mopt = 0) → f.a.toNat < c.ag.nv → c.ag.ops = [] →
    KMap.find? c.ag.banks f.abank.toNat = some p → (s.bank c.ag.core p).tag = c.ag.ctx →
    let scl := decide (128 ≤ f.mopt.toNat)
    let ss := f.mopt.toNat % 128
    let ctl := c.ag.sr f.fb.toNat
    let fmt := ctl.toNat / 2 ^ 8 % 8
    let per := if fmt = 0 then 1 else if fmt ≤ 2 then 2 else 4
    let first := 16 * (ctl.toNat % 128)
    let rm := RM.ofBits (ctl.toNat / 2 ^ 12 % 4)
    let sat := ctl.getLsbD 11
    let e := extraPass (twoPasses c f.all)
    let valid := ctl.toNat / 2 ^ 7 % 2 = 0 ∧ ctl.toNat < 2 ^ 14 ∧ fmt ≤ 5 ∧ first + c.ag.width * per ≤ 2048
      ∧ (scl = true → per = 4 ∧ ctl.toNat % 2 = 0)
    let elem := fun (k : Nat) => fa40.decode (KMap.get 0 (s.bank c.ag.core p).vals k).toNat
    let row := fun (r : Nat) => blockScale fmt rm sat ((List.range 32).map fun j => elem (32 * r + j))
    let code := fun (k : Nat) => if scl then (row (k / 32)).2.getD (k % 32) 0 else aldConv fmt rm sat (elem k)
    let word := fun (l : Nat) => BitVec.ofNat 32 ((List.range per).map fun j => code (first + per * l + j) * 2 ^ (32 / per * j)).sum
    let rows := (first + c.ag.width * per + 31) / 32 - first / 32
    let scales := BitVec.ofNat 64 ((List.range rows).map fun k => (row (first / 32 + k)).1 * 2 ^ (8 * k)).sum
    (¬valid → exec (.ald f) s = .next (State.raise (slotted s c e) c.a c.fid { code := 3, detail := 5 }))
      ∧ (valid → acts (.ald f) s c e
        (vectorDone s c f.all (vectorWrites s c f.all f.a.toNat 10 word ++
          if scl then [{ fid := c.fid, dst := .s ss, vals := [(0, scales)], ready := s.clk + e + 10 }] else []) f.stl))

/-- R287, R295, R297 to R299: a multiply of a group that has none in flight, with its format-block record at hand and every check of
R295 passed (plan pl): MMA, MMAV and MMAC enter the engine with their locks registered, MMAV with its result register pending; MMAQ
waits at the rendezvous of its tag. A check that fails is the fault raised. CBLD owns the table slot from its issue on. No register,
accumulator or byte of memory changes at issue.
The model's choices that it rests on: log entries 42 and 44. -/
def Obligations.MultipliesIssue : Prop :=
  ∀ (s : State) (c : Iss) (f : FMTX), ready s c → c.ag.kind = .group → allOk c f.all → room c .m → c.fr.phase = 0 → f.mopt.toNat < 512 →
    (∀ opc, (opc = 3 ∧ f.mopt = 0) ∨ (opc = 4 ∧ f.mopt.toNat < 16) ∨ (opc = 5 ∧ f.mopt.toNat < 128 ∧ f.ah = 0 ∧ f.b.toNat % 2 = 0)
        ∨ (opc = 6 ∧ f.mopt.toNat < 2 ∧ f.kst.toNat ≤ 1) → (f.ah = 1 → f.a.toNat < 256) → c.ag.multiplies = false →
      let i := if opc = 3 then Instr.mma f else if opc = 4 then .mmaq f else if opc = 5 then .mmav f else .mmac f
      let a := (c.ag.sr f.fb.toNat).toNat
      ∀ s0 blk, s.blkFetch c a = (none, s0, some blk) → { s0 with cores := s.cores, free := s.free } = s →
        let s1 := slotted s0 c 0
        State.pagesMiss s1 c ((if opc = 5 then mmavLanes f c else []).flatMap fun p =>
          if p.2 % 128 = 0 ∧ p.2 < 2 ^ 48 then (pageParts p.2 (Blk.lb blk opc (mulS f) 0)).map (·.1) else []) = none →
        (∀ x, State.mulChecks s1 c opc f (some blk) = .error x → exec i s = .next (State.raise s1 c.a c.fid x))
          ∧ (∀ pl, State.mulChecks s1 c opc f (some blk) = .ok pl → State.tagFault s1 c pl.phys = none → (∀ h, pl.hnd = some h → h.2.st = 2) →
            (∀ l, pl.hlock = some l → s.lockConf l.1 l.2 = none) →
            (opc = 4 → c.fr.hop = 0 → answers i s c { c.ag with frags := waiting s c (.room 1 f.mopt.toNat) 0 } fun t =>
                { t with agents := s.agents, slots := s.slots, cores := s.cores, free := s.free, quads := s.quads } = s
                  ∧ (c.a, c.fid) ∈ (KMap.find? t.quads (16 * (4 * c.ag.core + c.ag.part) + f.mopt.toNat)).getD [])
              ∧ (opc ≠ 4 → ∀ s2, State.lockAll s1 s.ids (pl.locks ++ pl.hlock.toList) = some s2 →
                entersEngine i s c opc f (if opc = 5 then [(.s f.mopt.toNat, 1)] else []) pl.win s.clk
                  (fun m => m.phys = pl.phys ∧ m.blk = pl.blk ∧ m.addr = a ∧ m.act = pl.act) fun t =>
                  { t with agents := s.agents, slots := s.slots, cores := s.cores, free := s.free, ids := s.ids, rlocks := s.rlocks } = s
                    ∧ t.rlocks = s2.rlocks ∧ t.ids = s.ids + 1)))
      ∧ (f.abank = 0 → f.b = 0 → f.fb = 0 → f.kst = 0 → f.clr = 0 → f.ah = 0 → f.mopt.toNat < 4 →
        let bytes := if f.mopt.toNat / 2 = 1 then 16 else 512
        let regs := (bytes + 4 * c.ag.width - 1) / (4 * c.ag.width)
        (c.ag.nv < f.a.toNat + regs → raises (.cbld f) s c { code := 4 })
          ∧ (f.a.toNat + regs ≤ c.ag.nv → entersEngine (.cbld f) s c 7 f []
            ((List.range regs).map fun k => (Reg.v (f.a.toNat + k), wmask c.ag.width)) (s.clk + 24) (fun _ => True) fun t =>
              { t with agents := s.agents, slots := s.slots, ids := s.ids, engs := s.engs } = s ∧ t.ids = s.ids + 1
                ∧ KMap.find? (t.eng c.ag.core c.ag.part).own (f.mopt.toNat % 2) = some c.a
                ∧ (t.eng c.ag.core c.ag.part).tabs = (s.eng c.ag.core c.ag.part).tabs))

/-- R354 to R356: with the scene handle read (the hold for it over) and valid, RTRACE puts one operation on E: with CURGEN 0 every
active lane's result is a MISS; with a live CURGEN every active lane has a ray of that operation in the generation, of the values of
its registers, running unless they are invalid; other lanes keep their rays. A lane that holds a live ray: ILLEGAL_OP with detail 8;
an invalid handle: detail 5; in a pure task PURITY. RRESUME and RRESUME.END answer NORAY for a lane without a suspended ray; END ends
a suspended one, RRESUME moves it on. RSTATE puts an operation on E. RCOMMIT sets the bits of the lanes whose candidate it accepts,
with L = 4. No register changes at issue, nor does any agent but the issuer's.
R359, R360: with the handle read (the hold for it over) and valid, GENPIN writes CURGEN and pins that generation for the group, or
with CURGEN 0 pins nothing; GENREL gives one such pin back, and raises ILLEGAL_OP with detail 8 when the group holds none. BLDCMD
places its record in the queue of the builder that the scene's handle names and writes 0, or with 64 commands there writes 1 and
places nothing. BLDQ writes CURGEN with the number of live generations, the pins of a generation, or the state of the queue.
The model's choices that it rests on: log entries 71, 73, 74, 75 and 115. -/
def Obligations.RaysAndScenes : Prop :=
  (∀ (s : State) (c : Iss) (f : FSYS), ready s c → s.reap = s → c.ag.kind = .group → c.ag.width ≤ 64 →
     let act := c.active f.all
     let e := extraPass (twoPasses c f.all)
     let vd := f.imm.toNat % 128 * 8
     let regs : Regs := (List.range 8).map fun k => (.v (vd + k), act)
     let keeps := fun (t : State) (ag : Agent) =>
       t.agent? c.a = some ag ∧ (∀ b, b ≠ c.a → t.agent? b = s.agent? b) ∧ ag.sregs = c.ag.sregs ∧ ag.vregs = c.ag.vregs ∧ ag.pend = []
     (let vr := f.imm.toNat / 128 * 8
       let a := (c.ag.sr f.sa.toNat).toNat
       c.fr.phase = 3 → f.sub.toNat < 8 → sysFields c f f.sub false true false true 0x3FFF → vd + 8 ≤ c.ag.nv → vr + 8 ≤ c.ag.nv → room c .e →
       let faults := fun x => exec (.rtrace f) s = .next (State.raise (slotted s c e) c.a c.fid x)
       (c.ag.pure = true → faults { code := 14 })
         ∧ (c.ag.pure = false → 2 ^ 48 < a + 64 → faults { code := 6, addr := a })
         ∧ (c.ag.pure = false → a + 64 ≤ 2 ^ 48 → a % 64 ≠ 0 → faults { code := 8, addr := a })
         ∧ (c.ag.pure = false → a % 64 = 0 → ∀ x, recordAt (slotted s c e) c a 64 x →
           let h := BitVec.ofNat 512 x
           let raised := fun d m => ∃ cores, exec (.rtrace f) s
             = .next (State.raise { slotted s c e with cores := cores } c.a c.fid { code := 3, detail := d, lm := m })
           (cursedHandle h = true → raised 5 0)
           ∧ (cursedHandle h = false →
             (∀ m, m = maskOf ((lanesOf act).filter fun l => (KMap.find? c.ag.rays l).isSome) → m ≠ 0 → raised 8 m)
             ∧ ((∀ l ∈ lanesOf act, KMap.find? c.ag.rays l = none) →
               (x / 2 ^ 192 % 2 ^ 32 = 0 →
                 let res := (lanesOf act).map fun l => (l, [0, c.ag.vr (vr + 7) l, 0xFFFF_FFFF, 0xFFFF_FFFF, 0, 0, 0, 0])
                 let o : Op := { (newOp s c .e (.trace vd res) [] regs (s.clk + 12)) with todo := 0 }
                 answers (.rtrace f) s c { c.ag with ops := c.ag.ops ++ [o], frags := released s c f.stl } fun t =>
                   t.ids = s.ids + 1 ∧ { t with agents := s.agents, slots := s.slots, ids := s.ids, cores := s.cores } = s)
               ∧ (∀ id g, State.genOf s c.ag.ctx a (x / 2 ^ 192 % 2 ^ 32) = some (id, g) → x / 2 ^ 192 % 2 ^ 32 ≠ 0 →
                 (lanesOf act).length ≤ s.raySlots c.ag.core →
                 ∃ t ag, exec (.rtrace f) s = .next t ∧ keeps t ag ∧ ag.frags = released s c f.stl
                   ∧ (∃ o ∈ ag.ops, o.id = s.ids ∧ o.ctr = some .e ∧ o.issue = s.clk ∧ o.dsts = regs)
                   ∧ (∀ l, l ∉ lanesOf act → KMap.find? ag.rays l = KMap.find? c.ag.rays l)
                   ∧ (∀ l ∈ lanesOf act, ∃ r, KMap.find? ag.rays l = some r ∧ r.op = s.ids ∧ r.gen = id ∧ r.mask = f.res.toNat
                     ∧ r.flags = f.sub.toNat ∧ r.ray = ((List.range 8).map fun k => c.ag.vr (vr + k) l)
                     ∧ r.st = (if rayInvalid r.ray then .done else .running)))))))
       ∧ (∀ fin : Bool, let i := if fin then Instr.rresumeEnd f else .rresume f
         let short := f.imm.getLsbD 17
         let vt := f.imm.toNat / 128 % 1024
         sysFields c f (if fin then 1 else 0) false false false false (if short then 0x3FFFF else 0x2007F) → vd + 8 ≤ c.ag.nv →
         (short = true → vt < c.ag.nv) → room c .e → c.ag.pure = false → (∀ o ∈ c.ag.ops, o.id ≠ s.ids) →
         ∃ t ag o res, exec i s = .next t ∧ keeps t ag ∧ ag.frags = KMap.upd c.ag.frags c.fid (goesOn s e f.stl)
           ∧ ag.ops = c.ag.ops ++ [o] ∧ o.id = s.ids ∧ o.ctr = some .e ∧ o.issue = s.clk ∧ o.dsts = regs ∧ o.kind = .trace vd res
           ∧ (∀ l, l ∉ lanesOf act → KMap.find? ag.rays l = KMap.find? c.ag.rays l)
           ∧ ∀ l ∈ lanesOf act,
             ((∀ r, KMap.find? c.ag.rays l = some r → r.st ≠ .suspended) →
               (l, [15, 0, 0, 0, 0, 0, 0, 0]) ∈ res ∧ o.todo.getLsbD l = false ∧ KMap.find? ag.rays l = KMap.find? c.ag.rays l)
             ∧ ∀ r, KMap.find? c.ag.rays l = some r → r.st = .suspended →
               ∃ r', KMap.find? ag.rays l = some r' ∧ r'.op = s.ids ∧ r'.cand = none ∧ r'.hit = r.hit ∧ r'.slot = r.slot
                 ∧ (fin = true → r'.st = .done ∧ o.todo.getLsbD l = false ∧ (l, r'.result) ∈ res)
                 ∧ (fin = false → short = false → r.stop = false → FV.cmp (wval r.tmax) (wval (r.ray.getD 3 0)) ≠ -1 →
                   r'.st = .running ∧ r'.tmax = r.tmax ∧ o.todo.getLsbD l = true))
       ∧ (let vs := f.imm.toNat % 64 * 16
         sysFields c f 0 false false false false 0x3F → vs + 16 ≤ c.ag.nv → room c .e →
         answers (.rstate f) s c
           (withOp c { id := s.ids, fid := c.fid, ctr := some .e, issue := s.clk, due := s.clk, kind := .rstate vs act none,
                       dsts := (List.range 16).map fun k => (.v (vs + k), act), pc := c.fr.pc } (goesOn s e f.stl)) fun t =>
           { t with agents := s.agents, slots := s.slots, ids := s.ids } = s ∧ t.ids = s.ids + 1)
       ∧ (let vt := f.imm.toNat * 2
         sysFields c f 0 true false false false 0x1FF → vt + 2 ≤ c.ag.nv →
         let hit := fun (l : Nat) (k : RayCand) =>
           ({ t := c.ag.vr vt l, prim := k.prim, inst := k.inst, u := c.ag.vr (vt + 1) l, v := 0, front := false, box := true, depth := k.depth } : RayHit)
         let accepted := fun l => ∃ r k, KMap.find? c.ag.rays l = some r ∧ r.st = .suspended ∧ r.cand = some k
           ∧ r.within (c.ag.vr vt l) = true ∧ r.accepts (hit l k) = true
         ∃ t ag m, exec (.rcommit f) s = .next t ∧ t.agent? c.a = some ag ∧ (∀ b, b ≠ c.a → t.agent? b = s.agent? b) ∧ t.mem = s.mem
           ∧ ag = { c.ag with
             rays := ag.rays
             pend := [{ fid := c.fid, dst := .s f.sd.toNat, vals := [(0, m)], ready := s.clk + e + 4 }]
             frags := KMap.put c.ag.frags c.fid (goesOn s e f.stl c.fr) }
           ∧ (∀ l, l < 64 → (m.getLsbD l = true ↔ l ∈ lanesOf act ∧ accepted l))
           ∧ (∀ l, m.getLsbD l = false ∨ 64 ≤ l → KMap.find? ag.rays l = KMap.find? c.ag.rays l)
           ∧ (∀ l r k, l ∈ lanesOf act → accepted l → KMap.find? c.ag.rays l = some r → r.cand = some k →
             KMap.find? ag.rays l = some { r with hit := some (hit l k), tmax := c.ag.vr vt l, stop := r.stop || r.flags % 2 = 1 })))
    ∧ (∀ (s : State) (c : Iss) (f : FSYS), ready s c → c.ag.kind = .group →
         let a := (c.ag.sr f.sa.toNat).toNat
         let wrote := fun (x : Nat) => { c.ag with pend := link s c f.sd (BitVec.ofNat 64 x), frags := released s c f.stl }
         (c.fr.phase = 3 → c.ag.pure = false → a % 64 = 0 → ∀ x, recordAt (slotted s c 0) c a 64 x →
           let cur := x / 2 ^ 192 % 2 ^ 32
           let onlyCores := fun (t : State) => { t with agents := s.agents, slots := s.slots, cores := s.cores } = s
           (sysFields c f 0 true true false false 0 →
             (cursedHandle (BitVec.ofNat 512 x) = true → ∃ cores, exec (.genpin f) s
                 = .next (State.raise { slotted s c 0 with cores := cores } c.a c.fid { code := 3, detail := 5 }))
               ∧ (cursedHandle (BitVec.ofNat 512 x) = false → cur ≠ 0 → 16 ≤ c.ag.pins.length → ∃ cores, exec (.genpin f) s
                 = .next (State.raise { slotted s c 0 with cores := cores } c.a c.fid { code := 3, detail := 8 }))
               ∧ (cursedHandle (BitVec.ofNat 512 x) = false → cur = 0 → State.genOf s c.ag.ctx a 0 = none → answers (.genpin f) s c (wrote 0) onlyCores)
               ∧ (cursedHandle (BitVec.ofNat 512 x) = false → c.ag.pins.length < 16 → ∀ id g, State.genOf s c.ag.ctx a cur = some (id, g) →
                 KMap.find? s.gens id = some g →
                 ∃ t, exec (.genpin f) s = .next t ∧ t.agent? c.a = some { wrote cur with pins := c.ag.pins ++ [(a, id)] }
                   ∧ (∀ b, b ≠ c.a → t.agent? b = s.agent? b) ∧ KMap.find? t.gens id = some { g with pins := g.pins + 1 }
                   ∧ (∀ k, k ≠ id → KMap.find? t.gens k = KMap.find? s.gens k)))
             ∧ (s.reap = s → cursedHandle (BitVec.ofNat 512 x) = false →
               (sysFields c f 0 true true false false 0 →
                 answers (.bldqCur f) s c (wrote (cur + (s.sceneGens c.ag.ctx a).length % 16 * 2 ^ 32)) onlyCores)
               ∧ (sysFields c f 1 true true true false 0 → let g := (c.ag.sr f.sb.toNat).toNat % 2 ^ 32
                 (∀ id y, State.genOf s c.ag.ctx a g = some (id, y) → answers (.bldqPins f) s c (wrote y.pins) onlyCores)
                 ∧ (State.genOf s c.ag.ctx a g = none → ∃ cores, exec (.bldqPins f) s
                   = .next (State.raise { slotted s c 0 with cores := cores } c.a c.fid { code := 3, detail := 8 })))
               ∧ (sysFields c f 2 true true false false 0 → let b := s.builder (x / 2 ^ 63 % 2)
                 (b.run ≠ none ∨ b.queue = []) →
                 answers (.bldqQueue f) s c (wrote (((b.queue ++ (b.run.map (·.cmd)).toList).filter fun y =>
                   y.ctx = c.ag.ctx && (y.bits.toNat / 2 ^ 64 % 2 ^ 48 = a)).length + b.queue.length * 2 ^ 7)) onlyCores)))
           ∧ (sysFields c f 0 false true true false 0 → let num := (c.ag.sr f.sb.toNat).toNat % 2 ^ 32
             ((∀ q ∈ c.ag.pins, q.1 = a → ∀ x ∈ s.gens, x.1 = q.2 → x.2.num ≠ num) → raises (.genrel f) s c { code := 3, detail := 8 })
             ∧ (∀ id g, c.ag.pins = [(a, id)] → (id, g) ∈ s.gens → KMap.find? s.gens id = some g → g.num = num →
               ∃ t, exec (.genrel f) s = .next t ∧ t.agent? c.a = some { c.ag with pins := [], frags := passed s c f.stl }
                 ∧ (∀ b, b ≠ c.a → t.agent? b = s.agent? b) ∧ (KMap.find? t.gens id).map (·.pins) = some (g.pins - 1)
                 ∧ (∀ k, k ≠ id → KMap.find? t.gens k = KMap.find? s.gens k)))
           ∧ (sysFields c f 0 true true false false 0 →
             (c.ag.pure = true → raises (.bldcmd f) s c { code := 14 } ∧ raises (.genpin f) s c { code := 14 })
             ∧ (c.ag.pure = false → 2 ^ 48 < a + 64 → raises (.bldcmd f) s c { code := 6, addr := a })
             ∧ (c.ag.pure = false → a + 64 ≤ 2 ^ 48 → a % 64 ≠ 0 → raises (.bldcmd f) s c { code := 8, addr := a })
             ∧ (c.ag.pure = false → a % 64 = 0 → c.fr.phase = 3 → (∀ o ∈ c.ag.ops, o.kind.isAccess = true → o.returned = true) →
               s.heldPeer c.ag.core c.ag.ctx = none → ∀ x h die, recordAt (slotted s c 0) c a 64 x →
               let scene := x / 2 ^ 64 % 2 ^ 48
               recordAt (slotted s c 0) c scene 8 h → State.bldDie (slotted s c 0) c.ag.ctx scene = .ok (slotted s c 0, die) →
               let b := s.builder die
               (b.queue.length < 64 → answers (.bldcmd f) s c (wrote 0) fun t =>
                   { t with agents := s.agents, slots := s.slots, builders := s.builders } = s
                     ∧ t.builder die = { b with queue := b.queue ++ [{ bits := BitVec.ofNat 512 x, addr := a, ctx := c.ag.ctx }] }
                     ∧ ∀ d, d ≠ die → t.builder d = s.builder d)
                 ∧ (64 ≤ b.queue.length → answers (.bldcmd f) s c (wrote 1) fun t => { t with agents := s.agents, slots := s.slots } = s))))

/-- R364, R366: with its record read (the hold for it over) and nothing of the agent's to be waited for, TSPAWN places the record with
the die's next serial: class 0 in the EDF lane, any other in the first bank with room from the push pointer on, which then stands
past it; s(SD) receives 0, or 1 when there is no room. Outside the space, misaligned, in a pure task: ILLEGAL_ADDR, MISALIGN,
PURITY. R365: TEND in a task ends its group once no operation is in flight; with a live split entry ILLEGAL_SPLIT, outside a task
ILLEGAL_OP with detail 1.
R166: LAUNCH with its record readable and nothing of the agent's to be waited for puts an operation on G that writes the status to
s(SD) 200 clk later: 2 for a queue that is off, not a device queue or another context's, 3 for a class above the queue's, 1 for a
full ring; else 0, and the record stands in the entry at TAIL, which has grown by 1. Outside the space, misaligned, in a pure task:
ILLEGAL_ADDR, MISALIGN, PURITY, and nothing is enqueued.
The model's choices that it rests on: log entry 54. -/
def Obligations.TasksAndLaunches : Prop :=
  (∀ (s : State) (c : Iss) (f : FSYS), ready s c → c.ag.kind = .group →
     let a := (c.ag.sr f.sa.toNat).toNat
     let wrote := fun (x : Nat) => { c.ag with pend := link s c f.sd (BitVec.ofNat 64 x), frags := released s c f.stl }
     (sysFields c f 0 true true false false 3 → f.imm ≠ 3 →
       (2 ^ 48 < a + 256 → raises (.tspawn f) s c { code := 6, addr := a })
       ∧ (a + 256 ≤ 2 ^ 48 → a % 64 ≠ 0 → raises (.tspawn f) s c { code := 8, addr := a })
       ∧ (a + 256 ≤ 2 ^ 48 → a % 64 = 0 → c.ag.pure = true → raises (.tspawn f) s c { code := 14 })
       ∧ (a % 64 = 0 → c.ag.pure = false → c.fr.phase = 3 → (∀ o ∈ c.ag.ops, o.kind.isAccess = true → o.returned = true) →
         s.heldPeer c.ag.core c.ag.ctx = none → ∀ x, recordAt (slotted s c 0) c a 256 x →
         let die := if f.imm = 0 then c.ag.core / 64 else f.imm.toNat - 1
         let serial := KMap.get 0 s.taskSerial die
         let rec' : TaskRec := { bits := BitVec.ofNat 2048 x, addr := a, ctx := c.ag.ctx, serial := serial }
         let placed := fun (k : Nat) (more : State → Prop) => answers (.tspawn f) s c (wrote 0) fun t =>
           t.banks = KMap.put s.banks (64 * die + k) (s.taskBank die k ++ [rec'])
             ∧ t.taskSerial = KMap.set 0 s.taskSerial die ((serial + 1) % 2 ^ 64) ∧ more t
             ∧ { t with agents := s.agents, slots := s.slots, banks := s.banks, taskSerial := s.taskSerial, pushPtr := s.pushPtr } = s
         let full := answers (.tspawn f) s c (wrote 1) fun t => { t with agents := s.agents, slots := s.slots } = s
         (x / 2 ^ 48 % 4 = 0 →
           ((s.taskBank die 32).length < 256 → placed 32 fun t => t.pushPtr = s.pushPtr) ∧ (256 ≤ (s.taskBank die 32).length → full))
         ∧ (x / 2 ^ 48 % 4 ≠ 0 → let p := KMap.get 0 s.pushPtr die
           (∀ i, i < 32 → (s.taskBank die ((p + i) % 32)).length < 256 → (∀ j, j < i → 256 ≤ (s.taskBank die ((p + j) % 32)).length) →
             placed ((p + i) % 32) fun t => t.pushPtr = KMap.set 0 s.pushPtr die (((p + i) % 32 + 1) % 32))
           ∧ ((∀ i, i < 32 → 256 ≤ (s.taskBank die ((p + i) % 32)).length) → full))))
       ∧ (sysFields c f 0 false false false false 0 → c.ag.handler = none →
         (c.ag.task = none → raises (.tend f) s c { code := 3, detail := 1 })
         ∧ (c.ag.task ≠ none → c.ag.split ≠ [] → raises (.tend f) s c { code := 7 })
         ∧ (c.ag.task ≠ none → c.ag.split = [] → c.ag.frags = [(c.fid, c.fr)] → (∀ o ∈ c.ag.ops, o.rej = none) → c.fr.hop = 0 →
           (c.ag.ops = [] → acts (.tend f) s c 0 { c.ag with frags := [], ended := true })
             ∧ (c.ag.ops ≠ [] → acts (.tend f) s c 0 { c.ag with frags := waiting s c .ended 0 }))))
    ∧ (∀ (s : State) (c : Iss) (f : FSYS), ready s c → c.ag.kind = .group → sysFields c f 0 true true false false 0x3F → room c .g →
         let a := (c.ag.sr f.sa.toNat).toNat
         let q := f.imm.toNat
         let word := fun i => s.barRd (4 * q + i)
         let head := (word 2).toNat % 2 ^ 32
         let tail := (word 3).toNat % 2 ^ 32
         let size := 2 ^ ((word 1).toNat % 16 + 4)
         let ctx := (word 1).toNat / 2 ^ 4 % 64
         (2 ^ 48 < a + 128 → raises (.launch f) s c { code := 6, addr := a })
           ∧ (a + 128 ≤ 2 ^ 48 → a % 64 ≠ 0 → raises (.launch f) s c { code := 8, addr := a })
           ∧ (a + 128 ≤ 2 ^ 48 → a % 64 = 0 → c.ag.pure = true → raises (.launch f) s c { code := 14 })
           ∧ (a + 128 ≤ 2 ^ 48 → a % 64 = 0 → c.ag.pure = false → (∀ o ∈ c.ag.ops, o.kind.isAccess = true → o.returned = true) →
             s.heldPeer c.ag.core c.ag.ctx = none → ∀ ps, State.recParts (slotted s c 0) c.ag a 128 false false = .ok ps →
             (∀ p ∈ ps, s.onCard p.2.1 = true) →
             let lr := (s.partsRead ps).2
             let op := fun (status : Nat) =>
               withOp c { id := s.ids, fid := c.fid, ctr := some .g, issue := s.clk, due := s.clk + 200, kind := .launch f.sd.toNat status,
                          dsts := [(.s f.sd.toNat, 1)], pc := c.fr.pc } (goesOn s 0 f.stl)
             let turned := fun status => answers (.launch f) s c (op status) fun t =>
               { t with agents := s.agents, slots := s.slots, ids := s.ids } = s ∧ t.ids = s.ids + 1
             let off := (word 1).getLsbD 12 = false ∨ (word 1).getLsbD 14 = false ∨ ctx ≠ c.ag.ctx
             let low := lr / 2 ^ 56 % 4 < (word 1).toNat / 2 ^ 10 % 4
             let full := (tail + 2 ^ 32 - head) % 2 ^ 32 = size
             (off → turned 2) ∧ (¬off → low → turned 3) ∧ (¬off → ¬low → full → turned 1)
               ∧ (¬off → ¬low → ¬full → ∀ s1, State.ctxWrite (slotted s c 0) ctx ((word 0).toNat % 2 ^ 48 + 128 * (tail % size)) (bytesOf 128 lr) = .ok s1 →
                 ∃ t, exec (.launch f) s = .next t ∧ t.agent? c.a = some (op 0) ∧ (∀ b, b ≠ c.a → t.agent? b = s.agent? b) ∧ t.mem = s1.mem
                   ∧ (t.barRd (4 * q + 3)).toNat % 2 ^ 32 = (tail + 1) % 2 ^ 32 ∧ (∀ j, j ≠ 4 * q + 3 → t.barRd j = s.barRd j))))

/-- R383, R390, R391: on a queue bound to a flow of the context of the right direction and form, QPOP that may go on (elements for all
active lanes, the end of the frame, the deadline, the flow stopped) takes them in ascending lanes, moves the read position and puts
one operation on E with its status; else it holds the issue. QPUSH reserves places for its active lanes in the open frame as far as
there is room, with its status, as one operation on E. Any other binding raises ILLEGAL_OP with detail 8, a pure task PURITY. On die 0
both take 32 clk more (R454).
R388, R392, R393: on a bound flow, OPEN takes the object of the oldest PT that is neither OPEN nor RENDERED, gives it the PT of
s(SA) and answers 0, or 1 while another object is OPEN; DONE makes the open object RENDERED and answers 0, or past PT - GUARD
SUBSTITUTED and 2; NEXT drops the oldest frame and sets the pop deadline. The status is readable 2 clk after, on die 0 after 32 more
clk (R454). QSTAT writes the item asked for. Any other binding raises ILLEGAL_OP with detail 8, a pure task PURITY.
The model's choices that it rests on: log entries 88, 94 and 97. -/
def Obligations.StreamsAndFrames : Prop :=
  (∀ (s : State) (c : Iss) (f : FSYS) (pair : Bool), ready s c → c.ag.kind = .group → c.ag.width ≤ 64 →
     sysFields c f f.sub true true false true 0x3FF → f.sub.toNat < 4 → f.res.toNat < 16 → room c .e → pair = decide (f.sub.toNat ≤ 1) →
     f.imm.toNat + (if pair then 2 else 1) ≤ c.ag.nv → (pair = true → f.imm.toNat % 2 = 0) → (∀ o ∈ c.ag.ops, o.id ≠ s.ids) →
     let v := f.imm.toNat
     let act := c.active f.all
     let n := (lanesOf act).length
     let e := extraPass (twoPasses c f.all)
     let q := KMap.get 0 c.ag.qb f.res.toNat
     let flow := q.toNat % 64
     let suits := if f.sub.toNat ≤ 1 then s.flowKind flow = 0 else f.sub.toNat = s.flowKind flow + 1
     let bound := fun (send : Prop) => q.getLsbD 63 = true ∧ s.flowOn flow = true ∧ s.flowCtx flow = c.ag.ctx ∧ suits ∧ send
     let lag := if c.ag.core < 64 then 32 else 0
     let stops := fun i x => exec i s = .next (State.raise (slotted s c e) c.a c.fid x)
     let regs : Regs := (if pair then [(.v v, act), (.v (v + 1), act)] else [(.v v, act)]) ++ [(.s f.sd.toNat, 1), (.s f.sa.toNat, 1)]
     let op := fun (o : Op) => o.id = s.ids ∧ o.ctr = some .e ∧ o.issue = s.clk
     let rest := fun (t : State) => { t with agents := s.agents, slots := s.slots, ids := s.ids, flows := s.flows } = s ∧ t.ids = s.ids + 1
     (¬bound (flow < 32) → stops (.qpop f) { code := 3, detail := 8 })
       ∧ (¬bound (32 ≤ flow) → stops (.qpush f) { code := 3, detail := 8 })
       ∧ (bound (flow < 32) → c.ag.pure = true → stops (.qpop f) { code := 14 })
       ∧ (bound (32 ≤ flow) → c.ag.pure = true → stops (.qpush f) { code := 14 })
       ∧ (bound (flow < 32) → c.ag.pure = false → let x := s.flow flow
         let got := (x.ready n).1
         (s.popReady flow n = true → ∃ o vals st, op o ∧ o.dsts = regs ∧ o.todo = 0 ∧ o.due = s.clk + 24 + lag
           ∧ o.kind = .qpop flow f.sub.toNat v f.sd.toNat f.sa.toNat vals st ∧ vals.map (·.1) = (lanesOf act).take got
           ∧ st = (if n ≤ got then 0 else (if x.late s.pt = true then 1 else 0) + (if (x.ready n).2 = true then 2 else 0))
           ∧ answers (.qpop f) s c (withOp c o (goesOn s e f.stl)) fun t =>
             rest t ∧ t.flows = KMap.put s.flows flow { x with pos := x.pos + got })
         ∧ (s.popReady flow n = false → ∃ o, op o ∧ o.dsts = regs ∧ o.todo ≠ 0
           ∧ answers (.qpop f) s c (withOp c o fun fr => { fr with wait := .qpop flow, phase := 4, iss := s.clk, hop := s.ids }) fun t =>
             rest t ∧ t.flows = s.flows))
       ∧ (bound (32 ≤ flow) → c.ag.pure = false → let x := s.flow flow
         (∀ k ob, x.cur = some k → KMap.find? x.objs k = some ob → ob.st = 0 →
           let got := min n (s.flowTotal flow - ob.wpos)
           ∃ o els, op o ∧ o.dsts = [(.s f.sd.toNat, 1), (.s f.sa.toNat, 1)] ∧ o.due = s.clk + 24 + lag ∧ els.length = got
             ∧ o.kind = .qpush flow ob.ord ob.wpos (maskOf ((lanesOf act).take got)) els f.sd.toNat f.sa.toNat (if got < n then 2 else 0)
             ∧ answers (.qpush f) s c (withOp c o (goesOn s e f.stl)) fun t => rest t
               ∧ t.flows = KMap.put s.flows flow { x with objs := KMap.upd x.objs k fun y => { y with wpos := y.wpos + got } })
         ∧ (x.cur = none → ∃ o, op o ∧ o.kind = .qpush flow 0 0 0 [] f.sd.toNat f.sa.toNat 4
             ∧ answers (.qpush f) s c (withOp c o (goesOn s e f.stl)) rest)))
    ∧ (∀ (s : State) (c : Iss) (f : FSYS), ready s c → c.fr.phase = 0 → c.ag.kind = .group → f.res.toNat < 16 →
         let q := KMap.get 0 c.ag.qb f.res.toNat
         let flow := q.toNat % 64
         let x := s.flow flow
         let bound := fun (send : Prop) => q.getLsbD 63 = true ∧ s.flowOn flow = true ∧ s.flowCtx flow = c.ag.ctx ∧ send
         let a := (c.ag.sr f.sa.toNat).toNat
         let answered := fun i (st : Nat) (y : Flow) => answers i s c
           (if c.ag.core < 64 then
             { c.ag with frags := KMap.upd c.ag.frags c.fid fun fr => { fr with wait := .clk (s.clk + 32), phase := 5, iss := s.clk, hop := st } }
             else { c.ag with pend := link s c f.sd (BitVec.ofNat 64 st), frags := passed s c f.stl }) fun t =>
           { t with agents := s.agents, slots := s.slots, flows := s.flows } = s ∧ t.flow flow = y
             ∧ ∀ k, k ≠ flow → KMap.find? t.flows k = KMap.find? s.flows k
         (sysFields c f 0 true true false true 0 →
           (¬bound (32 ≤ flow) → raises (.qframeOpen f) s c { code := 3, detail := 8 })
           ∧ (bound (32 ≤ flow) → c.ag.pure = true → raises (.qframeOpen f) s c { code := 14 })
           ∧ (bound (32 ≤ flow) → c.ag.pure = false →
             ((∃ y ∈ x.objs, y.2.st = 0) → answered (.qframeOpen f) 1 x)
             ∧ (∀ k o, (∀ y ∈ x.objs, y.2.st ≠ 0) → x.objs = [(k, o)] → 2 ≤ o.st → answered (.qframeOpen f) 0
               { x with cur := some k, ords := x.ords + 1
                        objs := [(k, { o with pt := a, st := 0, wpos := 0, ord := x.ords, opened := s.clk, sent := none, due := none })] })))
           ∧ (sysFields c f 1 true false false true 0 →
             (¬bound (32 ≤ flow) → raises (.qframeDone f) s c { code := 3, detail := 8 })
             ∧ (bound (32 ≤ flow) → c.ag.pure = false →
               (s.pushing flow s.ids = true → acts (.qframeDone f) s c 0
                 { c.ag with frags := waiting s c (.pushes flow s.ids) (128 * s.ids + flow) })
               ∧ (s.pushing flow s.ids = false →
                 (x.cur = none → answered (.qframeDone f) 1 x)
                 ∧ (∀ k o, x.cur = some k → KMap.find? x.objs k = some o →
                   (o.st = 3 → answered (.qframeDone f) 2 x)
                   ∧ (o.st = 1 ∨ o.st = 2 → answered (.qframeDone f) 1 x)
                   ∧ (o.st = 0 → s.pt + s.guard flow < o.pt → answered (.qframeDone f) 0 { x with objs := KMap.put x.objs k { o with st := 1 } })
                   ∧ (o.st = 0 → o.pt ≤ s.pt + s.guard flow → answered (.qframeDone f) 2
                     { x with objs := KMap.put x.objs k { o with st := 3 }, subs := x.subs ++ [o.pt], nsub := x.nsub + 1 })))))
           ∧ (sysFields c f 2 true true false true 0 →
             (¬bound (flow < 32) → raises (.qframeNext f) s c { code := 3, detail := 8 })
             ∧ (bound (flow < 32) → c.ag.pure = false →
               answered (.qframeNext f) 0 { x with frames := x.frames.drop 1, pos := 0, deadline := some a }))
           ∧ (sysFields c f f.sub true false false true 0 → f.sub.toNat < 4 →
             let ready' := s.clk + 2 + (if c.ag.core < 64 then 32 else 0)
             let reads := fun (v : Nat) => acts (.qstat f) s c 0
               { c.ag with pend := [{ fid := c.fid, dst := .s f.sd.toNat, vals := [(0, BitVec.ofNat 64 v)], ready := ready' }], frags := passed s c f.stl }
             (¬bound True → raises (.qstat f) s c { code := 3, detail := 8 })
             ∧ (bound True → c.ag.pure = true → raises (.qstat f) s c { code := 14 })
             ∧ (bound (flow < 32) → c.ag.pure = false →
               (f.sub = 0 → reads (x.pos % 2 ^ 24 + x.frames.length * 2 ^ 24 + x.dropped % 2 ^ 32 * 2 ^ 32))
               ∧ (f.sub = 3 → reads x.bOnly)
               ∧ (∀ fr frs, x.frames = fr :: frs → (f.sub = 1 → reads fr.media) ∧ (f.sub = 2 → reads fr.hw)))
             ∧ (bound (32 ≤ flow) → c.ag.pure = false →
               (f.sub = 3 → reads (x.nsub % 2 ^ 64))
               ∧ (∀ k o, x.objs = [(k, o)] → (f.sub = 0 → reads o.pt) ∧ (f.sub = 1 → reads (o.st + o.wpos % 2 ^ 24 * 2 ^ 8))))))

/-- R477: WBAR on a queue bound to a flow of the wall, on a live member card, with a frame object of the frame's PT and nothing of the
agent's to be waited for, completes its release for the frame; where the frame has been decided it writes the members that rendered
it to s(SD) and the live members to s(SB) with L = 2 (on die 0 after 32 more clk), else it waits. A queue not so bound, a card that
is no member, a missing frame object: ILLEGAL_OP with detail 8.
R475: a card's status for frame N goes out once, when it may, and the card knows it at once. R476: another member's status is known
from its arrival; RENDERED of a live member clears its run, SUBSTITUTED adds one to it, and with the third the card leaves the
view and MSI-X vector 1 is signalled; a join mark brings a member back into the view with no run; a second status for the frame
changes nothing. At PT(N) every live member whose status has not arrived has one more in its run. REJOIN is heard only by an out card.
The model's choices that it rests on: log entry 99. -/
def Obligations.Wall : Prop :=
  (∀ (s : State) (c : Iss) (f : FSYS), ready s c → c.fr.phase = 0 → c.ag.kind = .group → f.res.toNat < 16 → sysFields c f 0 true true true true 0 →
     let q := KMap.get 0 c.ag.qb f.res.toNat
     let flow := q.toNat % 64
     let n := (c.ag.sr f.sa.toNat).toNat
     let bound := q.getLsbD 63 = true ∧ s.flowOn flow = true ∧ s.flowCtx flow = c.ag.ctx ∧ s.wallFlow flow = true
     let object := ∃ y ∈ (s.flow flow).objs, y.2.pt = s.wallPt n
     let member := s.wallEn = true ∧ s.wallMember s.card = true
     (¬bound ∨ ¬member → raises (.wbar f) s c { code := 3, detail := 8 })
       ∧ (bound → member → c.ag.pure = true → raises (.wbar f) s c { code := 14 })
       ∧ (bound → member → c.ag.pure = false → ¬object → raises (.wbar f) s c { code := 3, detail := 8 })
       ∧ (bound → member → c.ag.pure = false → object → (∀ o ∈ c.ag.ops, o.rej = none) →
         (∀ w, State.releaseWait (slotted s c 0) c.a c.ag 4 = some w → acts (.wbar f) s c 0 { c.ag with frags := waiting s c w (64 * n + flow) })
         ∧ (State.releaseWait (slotted s c 0) c.a c.ag 4 = none → s.heldPeer c.ag.core c.ag.ctx = none →
           ∃ t ag, exec (.wbar f) s = .next t ∧ t.agent? c.a = some ag ∧ (∀ b, b ≠ c.a → t.agent? b = s.agent? b)
             ∧ n ∈ t.wallBars ∧ t.mem = s.mem
             ∧ (t.wbarReady flow n = false → ag = { c.ag with frags := KMap.upd c.ag.frags c.fid fun fr =>
                 { fr with wait := .wbar flow n, phase := 5, iss := s.clk, hop := 64 * n + flow } })
             ∧ (t.wbarReady flow n = true → c.ag.core < 64 → ag = { c.ag with frags := KMap.upd c.ag.frags c.fid fun fr =>
                 { fr with wait := .clk (s.clk + 32), phase := 6, iss := s.clk, hop := 64 * n + flow } })
             ∧ (t.wbarReady flow n = true → 64 ≤ c.ag.core → ag =
               { c.ag with
                 pend := link s c f.sd (t.wallRendered n) ++ [{ fid := c.fid, dst := .s f.sb.toNat, vals := [(0, t.wallLive)], ready := s.clk + 2 }]
                 frags := passed s c f.stl }))))
    ∧ (∀ (s : State),
         let run := fun (t : State) (c : Nat) => KMap.get 0 t.wallRuns c
         let known := fun (t : State) (c n st : Nat) => KMap.find? (t.wallOf n) c = some st
         (∀ n st, s.wallMine n = some st →
           brings (.wallStatusSend n st) s fun t => t.wallSent = s.wallSent ++ [(n, st)] ∧ t.mem = s.mem ∧ t.agents = s.agents)
         ∧ (∀ c n st, c < 64 → c ≠ s.card → 1 ≤ st → st ≤ 3 → s.wallEn = true → s.wallMember c = true →
           let e : Instr := .wallStatusReceive c n st
           ((KMap.find? (s.wallOf n) c).isSome = true → exec e s = .next s)
           ∧ (KMap.find? (s.wallOf n) c = none →
             (s.wallStat.length < 8 → brings e s fun t => known t c n st ∧ t.mem = s.mem ∧ t.agents = s.agents)
             ∧ (st = 3 → brings e s fun t => run t c = 0 ∧ t.wallLive = s.wallLive ||| laneBit c ∧ (∀ d, d ≠ c → run t d = run s d))
             ∧ (st ≠ 3 → (n < s.wallNext ∨ s.wallLive.getLsbD c = false) →
               brings e s fun t => t.wallRuns = s.wallRuns ∧ t.wallLive = s.wallLive)
             ∧ (st ≠ 3 → s.wallNext ≤ n → s.wallLive.getLsbD c = true →
               (st = 1 → brings e s fun t => run t c = 0 ∧ t.wallLive = s.wallLive ∧ (∀ d, d ≠ c → run t d = run s d))
               ∧ (st = 2 → run s c < 2 → brings e s fun t => run t c = run s c + 1 ∧ t.wallLive = s.wallLive ∧ (∀ d, d ≠ c → run t d = run s d))
               ∧ (st = 2 → 2 ≤ run s c → s.barFld (blkHost + 0x203) 32 1 = 0 →
                 brings e s fun t => run t c = 3 ∧ t.wallLive = s.wallLive &&& ~~~(laneBit c) ∧ (∀ d, d ≠ c → run t d = run s d)
                   ∧ t.hostOut = s.hostOut ++ [((s.barRd (blkHost + 0x202)).toNat, bytesOf 4 (s.barFld (blkHost + 0x203) 0 32))]))))
         ∧ (∀ n, s.wallDue n = true → brings (.wallFrameDeadline n) s fun t => t.wallNext = n + 1 ∧ t.wallStat = s.wallStat ∧ t.mem = s.mem
             ∧ ∀ c, c < 64 →
               (s.wallLive.getLsbD c = true ∧ KMap.find? (s.wallOf n) c = none → run t c = min 3 (run s c + 1)
                 ∧ (t.wallLive.getLsbD c = true ↔ run s c < 2))
               ∧ (¬(s.wallLive.getLsbD c = true ∧ KMap.find? (s.wallOf n) c = none) → run t c = run s c ∧ t.wallLive.getLsbD c = s.wallLive.getLsbD c))
         ∧ (∀ v : Dword, (v.getLsbD 1 = true → s.wallOut = true → exec (.wallRejoin v) s = .next { s with wallRejoin := true })
             ∧ ((v.getLsbD 1 = false ∨ s.wallOut = false) → exec (.wallRejoin v) s = .next s)))

/-- R325: in a leat, with a handle of its team, its record read (the hold for it over) and legal, and a legal placement, XCOPY (four
forms), XIM2C and XCOLL (three forms) put one engine operation of the handle at the sluice, which waits for its start; the leat waits
with it. XFILL and XHALO do so without a record. A handle of no or another team: ILLEGAL_REG; a record address outside the space or
misaligned: ILLEGAL_ADDR, MISALIGN; a length of 0 or past the handle's data: ILLEGAL_OP with detail 8.
R329, R330: in a leat XRESUME sets the handle's parked operations running again. XWAIT.H ends when the handle stands in the state
and phase asked for; XWAIT.OPS when no operation of the leat's waits or runs, and writes how many are parked; XWAIT.SVC when the
host has acknowledged every parked operation of the handle, and writes their number. Otherwise each holds the issue.
The model's choices that it rests on: log entries 58, 59 and 61. -/
def Obligations.EngineOperations : Prop :=
  (∀ (s : State) (c : Iss) (f : FSYS), ready s c → (∃ tail, c.ag.kind = .leat tail) →
     let core := (s.teamOf c.ag).core
     let a := (c.ag.sr f.sa.toNat).toNat
     let pl := (c.ag.sr f.sb.toNat).toNat
     let key := 256 * core + f.res.toNat
     let unheld := KMap.find? s.handles key = none ∨ ∃ h, KMap.find? s.handles key = some h ∧ h.team ≠ c.ag.team
     let new := fun (kind : XKind) (n e : Nat) =>
       ({ core := core, by' := if c.ag.kind = .leat true then 1 else 0, agent := c.a, kind := kind, ctx := c.ag.ctx, team := c.ag.team,
          h := f.res.toNat, o := pl % 2 ^ 32, n := n, expect := e, pc := c.fr.pc } : Xop)
     let starts := fun i (x : Xop) (iss : Frag → Nat) => answers i s c
       { c.ag with frags := KMap.upd c.ag.frags c.fid fun fr => { fr with wait := .xop s.ids, phase := 4, iss := iss fr } } fun t =>
       t.xops = KMap.put s.xops s.ids x ∧ t.ids = s.ids + 1 ∧ { t with agents := s.agents, ids := s.ids, xops := s.xops } = s
     let recorded := fun i (sub : BitVec 4) (kind : XKind) (chk : State → BitVec 512 → Except Flt (Nat × Option Nat))
         (late : State → BitVec 512 → Handle → Nat → Nat → Bool) =>
       sysFields c f sub false true true true 0 →
         (unheld → raises i s c { code := 4 })
         ∧ (∀ h, KMap.find? s.handles key = some h → h.team = c.ag.team →
           (2 ^ 48 < a + 64 → raises i s c { code := 6, addr := a })
           ∧ (a + 64 ≤ 2 ^ 48 → a % 64 ≠ 0 → raises i s c { code := 8, addr := a })
           ∧ (a % 64 = 0 → c.fr.phase = 3 → placeEarly h kind (c.ag.sr f.sb.toNat) = false → ∀ x, recordAt (slotted s c 0) c a 64 x →
             let d := BitVec.ofNat 512 x
             let e := if kind.opens then pl / 2 ^ 32 else h.expect
             (∀ y, chk s d = .error y → raises i s c y)
             ∧ (∀ n lay, chk (slotted s c 0) d = .ok (n, lay) →
               (placeBad h kind (pl % 2 ^ 32) n e = true → raises i s c { code := 3, detail := 8 })
               ∧ (placeBad h kind (pl % 2 ^ 32) n e = false → late (slotted s c 0) d h (pl % 2 ^ 32) n = false →
                 (lay.getD h.layout ≠ h.layout → raises i s c { code := 11 })
                 ∧ (lay.getD h.layout = h.layout → starts i { new kind n e with desc := d } fun fr => fr.iss)))))
     recorded (.xcopyIn f) 0 .xin shapeChk (fun _ _ _ _ _ => false) ∧ recorded (.xcopyInc f) 1 .xinc shapeChk (fun _ _ _ _ _ => false)
       ∧ recorded (.xcopyOut f) 2 .xout shapeChk (fun _ _ _ _ _ => false) ∧ recorded (.xcopyOutc f) 3 .xoutc shapeChk (fun _ _ _ _ _ => false)
       ∧ recorded (.xim2c f) 0 .im2c gatherChk (fun _ _ _ _ _ => false) ∧ recorded (.xim2c f) 1 .im2cInc gatherChk (fun _ _ _ _ _ => false)
       ∧ recorded (.xcollSend f) 0 .send collChk (collLate 0) ∧ recorded (.xcollRed f) 1 .red collChk (collLate 1)
       ∧ recorded (.xcollGet f) 2 .get collChk (collLate 2)
       ∧ (∀ inc : Bool, sysFields c f (if inc then 1 else 0) false true true true 0x1FF → c.fr.phase < 3 →
         let kind : XKind := if inc then .fillInc else .fill
         let k := f.imm.toNat
         (unheld → raises (.xfill f) s c { code := 4 })
         ∧ (∀ h, KMap.find? s.handles key = some h → h.team = c.ag.team →
           let e := if kind.opens then pl / 2 ^ 32 else h.expect
           let n := min (pl % 2 ^ 32 + 512 * k) e - pl % 2 ^ 32
           (k = 0 ∨ 256 < k → raises (.xfill f) s c { code := 3, detail := 8 })
           ∧ (1 ≤ k → k ≤ 256 → placeEarly h kind (c.ag.sr f.sb.toNat) = false → placeBad h kind (pl % 2 ^ 32) n e = false →
             starts (.xfill f) { new kind n e with src := c.ag.sr f.sa.toNat } fun _ => s.clk)))
       ∧ (∀ inc : Bool, sysFields c f (if inc then 1 else 0) true true true true 0 → c.fr.phase < 3 →
         let kind : XKind := if inc then .haloInc else .halo
         (unheld → raises (.xhalo f) s c { code := 4 })
         ∧ (∀ h, KMap.find? s.handles key = some h → h.team = c.ag.team →
           let src := (c.ag.sr f.sa.toNat).toNat
           let n := src / 2 ^ 32 % 2 ^ 17
           let e := if kind.opens then pl / 2 ^ 32 else h.expect
           let x := { new kind n e with src := c.ag.sr f.sa.toNat, sbar := (c.ag.sr f.sd.toNat).toNat }
           (∀ t, State.haloSource s x = some t → ∀ tm, KMap.find? s.teams t.1 = some tm → src % 2 ^ 32 + n ≤ tm.size) →
           src / 2 ^ 49 % 8 = 0 → src / 2 ^ 56 = 0 → placeEarly h kind (c.ag.sr f.sb.toNat) = false →
           placeBad h kind (pl % 2 ^ 32) n e = false → starts (.xhalo f) x fun _ => s.clk)))
    ∧ (∀ (s : State) (c : Iss) (f : FSYS), ready s c → (∃ tail, c.ag.kind = .leat tail) → c.fr.hop = 0 →
         let key := 256 * (s.teamOf c.ag).core + f.res.toNat
         let unheld := KMap.find? s.handles key = none ∨ ∃ h, KMap.find? s.handles key = some h ∧ h.team ≠ c.ag.team
         let wrote := fun (n : Nat) => { c.ag with pend := link s c f.sd (BitVec.ofNat 64 n), frags := passed s c f.stl }
         let parked := s.xops.filter fun p => decide (256 * p.2.core + p.2.h = key) && decide (p.2.st = .parked)
         (sysFields c f 0 false false false true 0 →
           (unheld → raises (.xresume f) s c { code := 4 })
           ∧ (∀ h, KMap.find? s.handles key = some h → h.team = c.ag.team →
             (parked = [] → acts (.xresume f) s c 0 { c.ag with frags := passed s c f.stl })
             ∧ (∀ x o, parked = [(x, o)] → KMap.find? s.xops x = some o → ∃ todo, answers (.xresume f) s c { c.ag with frags := passed s c f.stl } fun t =>
               KMap.find? t.xops x = some { o with st := .running, pk := false, sv := false, fault := none, again := decide (o.kind = .red), todo := todo }
                 ∧ (∀ y, y ≠ x → KMap.find? t.xops y = KMap.find? s.xops y) ∧ { t with agents := s.agents, xops := s.xops } = s)))
           ∧ (sysFields c f 0 false false false true 7 →
             (unheld → raises (.xwaitH f) s c { code := 4 })
             ∧ (∀ h, KMap.find? s.handles key = some h → h.team = c.ag.team → let st := f.imm.toNat % 4
               let ph := f.imm.toNat / 4
               (h.st = st → h.phase = ph → acts (.xwaitH f) s c 0 { c.ag with frags := passed s c f.stl })
               ∧ (¬(h.st = st ∧ h.phase = ph) → acts (.xwaitH f) s c 0
                 { c.ag with frags := waiting s c (.handle f.res.toNat st ph 0xFFFF_FFFF_FFFF_FFFF#64) 0 })))
           ∧ (sysFields c f 1 true false false false 0 → let mine := s.xops.filter fun p => decide (p.2.agent = c.a) && decide (p.2.by' ≠ 2)
             ((∃ p ∈ mine, p.2.st ≠ .parked) → acts (.xwaitOps f) s c 0 { c.ag with frags := waiting s c .xops 0 })
             ∧ ((∀ p ∈ mine, p.2.st = .parked) → acts (.xwaitOps f) s c 0 (wrote mine.length)))
           ∧ (sysFields c f 2 true false false true 0 →
             (unheld → raises (.xwaitSvc f) s c { code := 4 })
             ∧ (∀ h, KMap.find? s.handles key = some h → h.team = c.ag.team →
               ((∃ p ∈ parked, p.2.sv = false) → acts (.xwaitSvc f) s c 0 { c.ag with frags := waiting s c (.xsvc key) 0 })
               ∧ ((∀ p ∈ parked, p.2.sv = true) → acts (.xwaitSvc f) s c 0 (wrote parked.length)))))

/-- R23, R27, R57, R168, R308, R500: a leat's clause is fetched from its store, its words after its header; one that R25 or R57
forbids raises ILLEGAL_CLAUSE, one beyond the store ILLEGAL_ADDR. A fetched clause whose counter conditions hold starts at its
first instruction when the partition chooses it, with CHK as it stands then (R18); a leat's starts at once. A missing line reaches
the core's clause cache with the bytes that memory holds, and the fragment waits for the others. An issuer that has been ready for
512 clk without a start counts as aged.
The model's choices that it rests on: log entry 37. -/
def Obligations.ClausesStart : Prop :=
  ∀ (s : State) (a fid : Nat) (ag : Agent) (fr : Frag), fragOf s a fid ag fr →
    (s.mayIssue ag fid = true → fr.k = 0 → fr.wait = .none → fr.next ≤ s.clk →
      (ag.kind ≠ .group → fr.code = [] →
        let hdr : Dword := BitVec.ofNat 64 (rdN ag.store 8 fr.h)
        let n := (Header.dec hdr).count.toNat + 2
        let cl : Clause :=
          { hdr := hdr, code := (List.range (n - 1)).map fun j => BitVec.ofNat 64 (rdN ag.store 8 (fr.h + 8 * (j + 1))), live := [] }
        let got := fun x : Frag => { x with hdr := cl.hdr, code := cl.code, live := [], phase := 0 }
        (65536 < fr.h + 8 → exec (.clauseStart a fid) s = .next (s.raise a fid { code := 6, addr := fr.h % 2 ^ 64 }))
          ∧ (fr.h + 8 * n ≤ 65536 →
            (clauseBad true cl = false → moves (.clauseStart a fid) s a fid ag got)
              ∧ (clauseBad true cl = true →
                exec (.clauseStart a fid) s = .next ((s.updFrag a fid got).raise a fid { code := 5 }))))
      ∧ (fr.code ≠ [] →
          let h := Header.dec fr.hdr
          (h.wg = 15 ∨ ag.ctrVal .g ≤ h.wg.toNat) → (h.ws = 15 ∨ ag.ctrVal .s ≤ h.ws.toNat) → (h.we = 15 ∨ ag.ctrVal .e ≤ h.we.toNat) →
          (h.wm = 15 ∨ ag.ctrVal .m ≤ h.wm.toNat) → h.hw = 0 →
          (ag.kind ≠ .group ∨ ∃ x, s.choose (4 * ag.core + ag.part) = some x ∧ x.a = a ∧ x.fid = fid) →
          leaves (.clauseStart a fid) s { s with ids := s.ids + 1 } a
            { ag with frags := KMap.upd ag.frags fid fun x =>
                { x with k := 1, chk := ag.gchk, started := s.ids, phase := 0, readyAt := none, aged := false } }))
    ∧ (∀ ls line, fr.wait = .fetch ls → line ∈ ls → s.onCard line = true → s.bad = [] → fr.iss + lineLat s ag.core line 0 ≤ s.clk →
        brings (.clauseLineArrival a fid line) s fun t =>
          (∃ l ∈ (t.core ag.core).cc, l.pa = line ∧ l.data = BitVec.ofNat 1024 (rdN s.mem 128 line))
            ∧ t.agent? a = some { ag with frags := KMap.upd ag.frags fid fun x =>
                { x with wait := if ls.filter (· ≠ line) = [] then .none else .fetch (ls.filter (· ≠ line)) } }
            ∧ (∀ b, b ≠ a → t.agent? b = s.agent? b) ∧ { t with agents := s.agents, cores := s.cores } = s)
    ∧ (∀ t, fr.readyAt = some t → t + 512 ≤ s.clk → moves (.issuerAged a fid) s a fid ag fun x => { x with aged := true })

/-- R99: a sleeping fragment goes on once pt has reached T. R226, R241, R242, R319, R415, R433: an instruction that holds issue goes
on once its walk is done, its clk has come, its counter is at the threshold, the operations that it waits for have returned, its
handle shows the state and phase or pt has reached the deadline, its context is no longer being pre-empted. R372: with fewer than
16 fragments of task groups eligible on the partition, the queued fragment whose task has the best key goes on.
The model's choices that it rests on: log entries 15 and 87. -/
def Obligations.WaitsEnd : Prop :=
  ∀ (s : State), (∀ (a fid : Nat) (ag : Agent) (fr : Frag), fragOf s a fid ag fr →
    (∀ t, fr.wait = .sleep t → t ≤ s.pt → moves (.sleepWake a fid) s a fid ag fun x => { x with wait := .none })
    ∧ ((match fr.wait with
        | .walk w => KMap.find? s.walks w = none
        | .clk t => t ≤ s.clk
        | .ctr c n => ag.ctrVal c ≤ n
        | .ops ids wall => (∀ o ∈ ag.ops, o.id ∈ ids → o.returned = true) ∧ (wall = true → ∀ r ∈ s.fabReqs, ¬(r.2.agent = a ∧ r.2.kind = 1))
        | .handle h st ph dl => s.handleIn ag h st ph = true ∨ dl.toNat ≤ s.pt
        | .yield => KMap.find? s.preempts ag.ctx = none
        | .ended => ag.ops = []
        | .wbar flow n => s.wbarReady flow n = true
        | .xops => s.xRunning a = false
        | .xsvc k => s.xUnserved k = false
        | _ => False) →
      moves (.holdEnd a fid) s a fid ag fun x => { x with wait := .none, woke := s.clk + 1 }))
  ∧ (∀ (core part : Nat) (q : List (Nat × Nat)) (x : Nat × Nat) (ag : Agent) (fr : Frag),
      let key (y : Nat × Nat) : BitVec 2048 × Nat :=
        match (s.agent? y.1).bind fun a => a.task.bind fun t => KMap.find? s.tasks t with
        | some t => (t.bits, t.serial)
        | none => (0, 0)
      s.taskFrags (4 * core + part) < 16 → KMap.find? s.fragQ (4 * core + part) = some q → (∀ y ∈ q, (s.agent? y.1).isSome) → q.Nodup →
      x ∈ q →
      (∀ y ∈ q, y ≠ x → taskBefore false (key x) (key y) = true ∧ taskBefore false (key y) (key x) = false) → fragOf s x.1 x.2 ag fr →
      let rest := q.erase x
      let at' := 4 * core + part
      leaves (.fragmentQueueRelease core part) s { s with fragQ := if rest = [] then KMap.del s.fragQ at' else KMap.put s.fragQ at' rest } x.1
        { ag with frags := KMap.upd ag.frags x.2 fun y => { y with wait := .none, next := max y.next s.clk } })

/-- R219, R228 to R231, R235: a lane of an operation that is due and that no earlier access of its agent blocks is performed. A plain
load writes to its registers what the core's L1 holds, else what memory holds (R209), or the scratchpad's bytes; it changes no byte
of memory. A store writes its bytes to the scratchpad, to memory on this card, or to the host, and changes no register. An atomic
writes the value of its operation (R235) and its registers receive the old value. R189, R190, R192: a sweep's first access reads the
segment of A; its last one writes the results to the destination's segment, and 20 clk after the last repetition's, 16 more where a
segment lay in the partner core, the sweep returns. R246: a lane of TXLD out of range reads nothing and receives zeros. Each lane
performed counts no more, and with the last one the operation returns.
The model's choices that it rests on: log entries 12, 23 and 27. -/
def Obligations.AccessesArePerformed : Prop :=
  ∀ (s : State) (op a : Nat) (ag : Agent) (o : Op), s.opOwner op = some (a, ag, o) → s.agent? a = some ag → (∀ q ∈ ag.ops, q.id = op → q = o) →
    o.returned = false → o.due ≤ s.clk →
    (∀ x, o.acc = [x] → x.lane < 64 → o.todo = laneBit x.lane → o.clash = [] → ag.blocked o o.todo = false → s.bad = [] →
      let done := fun (ag' : Agent) => ∀ q ∈ ag'.ops, q.id = op → q.todo = 0 ∧ (o.rej = none → q.returned = true)
      let lands := fun (t : State) (scalar : Bool) (data v : Nat) =>
        let g := (dataVals scalar data x.n (BitVec.ofNat 128 v)).foldl (fun g d => g.setReg d.1 [(x.lane, d.2)]) ag
        (∀ b, b ≠ a → t.agent? b = s.agent? b) ∧ ∃ ag', t.agent? a = some ag' ∧ ag'.sregs = g.sregs ∧ ag'.vregs = g.vregs ∧ done ag'
      let stays := fun (t : State) =>
        (∀ b, b ≠ a → t.agent? b = s.agent? b) ∧ ∃ ag', t.agent? a = some ag' ∧ ag'.sregs = ag.sregs ∧ ag'.vregs = ag.vregs ∧ done ag'
      let bytes := bytesOf x.n x.x.toNat
      (∀ sp data scalar hint ldc, o.kind = .load sp data scalar hint none ldc → (sp = .scr ∨ s.onCard x.pa = true) →
        brings (.loadReturn op o.todo []) s fun t => t.mem = s.mem ∧ t.teams = s.teams
          ∧ lands t scalar data (if sp = .scr then rdN (s.teamOf ag).scr x.n x.pa
              else if ag.kind ≠ .group then rdN s.mem x.n x.pa
              else match (s.core ag.core).l1.find? fun l => l.pa = lineOf x.pa with
                | some l => l.read x.pa x.n
                | none => rdN s.mem x.n x.pa))
      ∧ (∀ sp scalar hint ord, o.kind = .store sp scalar hint ord →
        (sp = .scr → brings (.storeAccept op o.todo) s fun t => t.mem = s.mem ∧ stays t
          ∧ ∀ tm, t.team? tm = (s.team? tm).map fun y => if tm = ag.team then { y with scr := wrBytes y.scr x.pa bytes } else y)
        ∧ (sp = .glob → s.onCard x.pa = true → s.reuse = [] →
          brings (.storeAccept op o.todo) s fun t => t.mem = wrBytes s.mem x.pa bytes ∧ t.teams = s.teams ∧ stays t)
        ∧ (sp = .glob → s.paKind x.pa = .host →
          brings (.storeAccept op o.todo) s fun t => t.mem = s.mem ∧ t.teams = s.teams ∧ stays t
            ∧ t.hostOut = s.hostOut ++ [(x.pa % 2 ^ 51, bytes)]))
      ∧ (∀ sp aop ord sch data, o.kind = .atomic sp aop ord sch data → (sp = .scr ∨ ord % 2 = 0) →
        (sp = .scr →
          let old := rdN (s.teamOf ag).scr x.n x.pa
          brings (.atomicReturn op o.todo []) s fun t => t.mem = s.mem ∧ lands t false data old
            ∧ ∀ tm, t.team? tm = (s.team? tm).map fun y =>
                if tm = ag.team then { y with scr := ((atomVal aop x.n old x.x.toNat x.y.toNat).map (wrN y.scr x.n x.pa)).getD y.scr } else y)
        ∧ (sp = .glob → s.onCard x.pa = true → s.reuse = [] →
          let old := rdN s.mem x.n x.pa
          brings (.atomicReturn op o.todo []) s fun t => t.teams = s.teams ∧ lands t false data old
            ∧ t.mem = ((atomVal aop x.n old x.x.toNat x.y.toNat).map fun v => wrBytes s.mem x.pa (bytesOf x.n v)).getD s.mem)))
    ∧ (∀ data w128 hint d c l, o.kind = .image data w128 hint d none [(l, c)] → o.acc = [] → o.clash = [] → l < 64 → o.todo = laneBit l →
        imgAddrs d none c = [] →
        brings (.loadReturn op o.todo []) s fun t => t.mem = s.mem ∧ (∀ b, b ≠ a → t.agent? b = s.agent? b)
          ∧ ∃ ag', t.agent? a = some ag' ∧ (∀ q ∈ ag'.ops, q.id = op → q.todo = 0 ∧ (o.rej = none → q.returned = true))
            ∧ ∀ k, k < (if w128 then 4 else 2) → ag'.vr (data + k) l = 0)
    ∧ (∀ kind ty sr cnt rep stage d x y sd sx sy ga gb gd, o.kind = .sweep kind ty sr cnt rep stage d x y sd sx sy ga gb gd → rep ≠ cnt →
        (∀ q ∈ ag.ops, op ≤ q.id) →
        let tm := s.teamOf ag
        let n := segBytes kind ty
        let far := fun (off len : Nat) => tm.touchesPartner ag.core off = true ∨ tm.touchesPartner ag.core (off + len - 1) = true
        (stage = 0 →
          let off := (segAt x.toNat sx rep).toNat
          brings (.sweepSegmentAccess op) s fun t => t.mem = s.mem ∧ t.teams = s.teams
            ∧ ∃ ag', t.agent? a = some ag' ∧ ag'.sregs = ag.sregs ∧ ag'.vregs = ag.vregs ∧ ∀ q ∈ ag'.ops, q.id = op →
                q.kind = .sweep kind ty sr cnt rep 1 d x y sd sx sy (scrWords tm off (n.2.1 / 4)) gb gd ∧ q.due = s.clk + 1
                  ∧ (far off n.2.1 → q.em.getLsbD 0 = true))
        ∧ (stage = sweepAccs kind - 1 →
          let off := (segAt d.toNat sd rep).toNat
          let out := sweepOut kind ty (if sr then some ((List.range (rep + 1)).foldl (fun z _ => srNext z) (o.sc.headD 0)) else none) ga gb gd
          brings (.sweepSegmentAccess op) s fun t => t.mem = s.mem
            ∧ (∀ tm', t.team? tm' = (s.team? tm').map fun z =>
                if tm' = ag.team then { z with scr := wrBytes z.scr off (out.flatMap fun w => bytesOf 4 w.toNat) } else z)
            ∧ ∃ ag', t.agent? a = some ag' ∧ ag'.sregs = ag.sregs ∧ ag'.vregs = ag.vregs ∧ ∀ q ∈ ag'.ops, q.id = op →
                q.kind = .sweep kind ty sr cnt (rep + 1) 0 d x y sd sx sy [] [] []
                  ∧ (q.due = s.clk + if rep + 1 ≠ cnt then 1 else if far off n.1 ∨ o.em ≠ 0 then 36 else 20)))

/-- R457, R458: a host read that completes ends its request; an Unsupported Request, a Completer Abort and a timeout after HCTO
microseconds of 1,250 clk are logged in HERR with the address, while no other error is, and poisoned data is a fatal fault of the
context. A line that a piece of a sluice operation reads is kept for the piece; where no data come, all ones. R238: a FetchAdd, Swap or CAS that the host completes gives its lane the old value; an Unsupported Request or Completer
Abort fails the lane. HABL_CLEAR empties the list. R243: a peer line whose store is rejected is held with its bytes and code; no
response within 1,250,000 clk is XLATE. R465: lanes that a target rejects write nothing; the operation is not counted off, and the
fault names them with the PC of its instruction. R415: a walk that is done wakes what waits for it, and the core's TLB holds the
translation it found.
The model's choices that it rests on: log entries 25 and 65. -/
def Obligations.RequestsBeyondTheCard : Prop :=
  ∀ (s : State),
    (∀ (req a : Nat) (r : HostReq) (ag : Agent) (o : Op), KMap.find? s.hostReqs req = some r →
      r.agent = a → r.piece = none →
      s.agent? a = some ag → ag.findOp r.op = some o → (∀ q ∈ ag.ops, q.id = r.op → q = o) →
      let logged := fun (t : State) (bit : Nat) => s.barFld (blkHost + 1) 0 4 = 0 →
        t.barFld (blkHost + 1) bit 1 = 1 ∧ t.barFld (blkHost + 2) 0 51 = r.pa % 2 ^ 51
      let plain := ∃ sp data scalar hint ldc, o.kind = .load sp data scalar hint none ldc
      (∀ status bytes, r.due ≤ s.clk → ag.blocked o r.lanes = false → s.bad = [] →
        (plain → status < 3 →
          brings (.hostReadCompletion req status bytes) s fun t => KMap.find? t.hostReqs req = none ∧ t.mem = s.mem
            ∧ (1 ≤ status → logged t (status - 1)))
        ∧ (status = 3 → KMap.find? s.fatals ag.ctx = none →
          brings (.hostReadCompletion req status bytes) s fun t => KMap.find? t.hostReqs req = none ∧ t.ctxDead ag.ctx = true
            ∧ KMap.find? t.fatals ag.ctx = some (faultRec (ag.raiser o.fid 0) 2 { code := 33, detail := 7, addr := r.pa } 0 s.pt, false)))
      ∧ (r.due + 1250 * s.barFld (blkHost + 4) 0 64 ≤ s.clk + 100 → s.bad = [] → plain →
        brings (.hostRequestTimeout req) s fun t => KMap.find? t.hostReqs req = none ∧ t.mem = s.mem ∧ logged t 2)
      ∧ (∀ lane status val aop data sst x, o.kind = .hostAtomic aop data sst → s.hostReqs = [(req, r)] → r.due ≤ s.clk → r.lanes.getLsbD lane = true →
        lane < 64 → s.opOwner r.op = some (a, ag, o) → o.acc = [x] → x.lane = lane → o.todo = laneBit lane → o.clash = [] → o.flt = none →
        (status = 0 → (aop = 0 ∨ 8 ≤ aop) →
          brings (.hostAtomicCompletion r.op lane status val) s fun t => t.hostReqs = [] ∧ t.mem = s.mem ∧ ∃ ag', t.agent? a = some ag'
            ∧ (let g := (dataVals false data x.n (BitVec.ofNat 128 (val.toNat % 2 ^ (8 * x.n)))).foldl (fun g d => g.setReg d.1 [(lane, d.2)]) ag
              ag'.sregs = g.sregs ∧ ag'.vregs = g.vregs))
        ∧ (1 ≤ status → status < 3 →
          brings (.hostAtomicCompletion r.op lane status val) s fun t => t.hostReqs = [] ∧ t.mem = s.mem ∧ ∃ ag', t.agent? a = some ag'
            ∧ ag'.sregs = ag.sregs ∧ ag'.vregs = ag.vregs ∧ ∀ q ∈ ag'.ops, q.id = r.op → q.todo = 0 ∧ q.failed.getLsbD lane = true)))
    ∧ (∀ (req p : Nat) (r : HostReq) (o : Xop), KMap.find? s.hostReqs req = some r → r.piece = some p → KMap.find? s.xops r.op = some o →
        let logged := fun (t : State) (bit : Nat) => s.barFld (blkHost + 1) 0 4 = 0 →
          t.barFld (blkHost + 1) bit 1 = 1 ∧ t.barFld (blkHost + 2) 0 51 = r.pa % 2 ^ 51
        let lands := fun (t : State) (line : List Byte) => KMap.find? t.hostReqs req = none
          ∧ KMap.find? t.xops r.op = some { o with host := o.host ++ [(p, r.pa, line)] }
        (r.due ≤ s.clk → ∀ bytes,
          (bytes.length = 128 → brings (.hostReadCompletion req 0 bytes) s fun t => lands t bytes
            ∧ { t with hostReqs := s.hostReqs, xops := s.xops } = s)
          ∧ (∀ status, status = 1 ∨ status = 2 →
            brings (.hostReadCompletion req status bytes) s fun t => lands t (List.replicate 128 0xFF) ∧ logged t (status - 1) ∧ t.mem = s.mem)
          ∧ (KMap.find? s.fatals o.ctx = none →
            brings (.hostReadCompletion req 3 bytes) s fun t => KMap.find? t.hostReqs req = none ∧ t.ctxDead o.ctx = true
              ∧ KMap.find? t.fatals o.ctx
                = some (faultRec { (s.xRaiser o) with pc := o.pc } 2 { code := 33, detail := 7, addr := r.pa } 0 s.pt, false)))
        ∧ (r.due + 1250 * s.barFld (blkHost + 4) 0 64 ≤ s.clk + 100 →
          brings (.hostRequestTimeout req) s fun t => lands t (List.replicate 128 0xFF) ∧ logged t 2 ∧ t.mem = s.mem))
    ∧ exec .hablClear s = .next { s with habl := [] }
    ∧ (∀ (req : Nat) (r : FabReq), KMap.find? s.fabReqs req = some r → r.kind = 1 →
        let held := (KMap.find? s.peerBuf r.core).getD []
        let rejected := fun (e : Instr) (c : Nat) =>
          (∀ l ∈ held, l.pa ≠ lineOf r.pa) →
            exec e s = .next { s with
              fabReqs := KMap.del s.fabReqs req
              peerBuf := KMap.put s.peerBuf r.core (held ++ [{ ctx := r.ctx, va := r.va, pa := lineOf r.pa, code := c, bytes := r.data }]) }
        (∀ lane, rejected (.peerStoreReject req lane 1) 1 ∧ rejected (.peerStoreReject req lane 2) 2)
          ∧ (r.due + 1250000 ≤ s.clk → rejected (.fabricResponseTimeout req) 1))
    ∧ (∀ (op a : Nat) (ag : Agent) (o : Op) (x : Acc) (code : Nat), s.opOwner op = some (a, ag, o) → s.agent? a = some ag → o.due ≤ s.clk →
        (∀ q ∈ ag.ops, q.id = op → q = o) → o.acc = [x] → x.lane < 64 → o.todo = laneBit x.lane → s.paKind x.pa = .peer → o.rej = none →
        code = 1 ∨ code = 2 →
        brings (.peerLoadReject op o.todo code) s fun t => t.mem = s.mem ∧ ∃ ag', t.agent? a = some ag' ∧ ag'.sregs = ag.sregs ∧ ag'.vregs = ag.vregs
          ∧ { t with agents := s.agents } = s ∧ ∀ q ∈ ag'.ops, q.id = op →
              q.rej = some { code := code, detail := if code = 2 then 1 + 2 ^ 10 else 5, lm := laneBit x.lane, addr := x.va, pc := some o.pc })
    ∧ (∀ (walk : Nat) (w : Walk) (tl : Tlb), KMap.find? s.walks walk = some w → w.due ≤ s.clk →
        s.walk w.ctx w.va = .ok tl →
        brings (.tlbWalkDone walk) s fun t => KMap.find? t.walks walk = none ∧ t.mem = s.mem
          ∧ (∃ e ∈ (t.core w.core).tlb, e.ctx = w.ctx ∧ e.covers w.ctx w.va = true)
          ∧ ∀ a ag fid fr, fragOf s a fid ag fr → fr.wait = .walk walk →
              ∃ ag' fr', t.agent? a = some ag' ∧ KMap.find? ag'.frags fid = some fr' ∧ fr'.wait = .none)

/-- R152: a write of TAIL sets it; one that passes the ring's size on an enabled queue sets ERR and clears EN. R502, R501: an entry's
read takes the load latency of its slower line; an entry beyond the space disables its queue, one that does not translate parks it
under a token. R152, R155: an entry read is admitted with its descriptor's copy, or rejected with its REASON, and HEAD advances. A grid
whose time has come is eligible from then on. R161: a FIRM grid whose DLINE has passed while a team waits is shed. R158, R159: once no
team is left, bytes 8 to 31 of the record are written, then bytes 0 to 7, and the grid is complete.
The model's choices that it rests on: log entries 49, 50 and 53. -/
def Obligations.QueuesAndGrids : Prop :=
  ∀ (s : State), 
    (∀ (q tail : Nat), q < 64 → s.qDev q = false →
      brings (.doorbell q tail) s fun t => t.qTail q = tail % 2 ^ 32
        ∧ (let passed := s.qEn q = true ∧ s.qSize q < (tail % 2 ^ 32 + 2 ^ 32 - s.qHead q) % 2 ^ 32
          (passed → t.barFld (4 * q + 1) 13 1 = 1 ∧ t.qEn q = false) ∧ (¬passed → t.barRd (4 * q + 1) = s.barRd (4 * q + 1)))
        ∧ { t with bar := s.bar, queues := s.queues } = s)
    ∧ (∀ (q : Nat), s.qNext = some q →
        let at' := s.qEntry q (s.qHead q)
        (2 ^ 48 < at' + 128 → q < 64 →
          brings (.queueEntryRead q) s fun t => t.qEn q = false ∧ t.barFld (4 * q + 1) 13 1 = 1 ∧ t.faultQ.length = s.faultQ.length + 1 ∧ t.mem = s.mem)
        ∧ (at' + 128 ≤ 2 ^ 48 →
          (∀ ps, s.ctxParts (s.qCtx q) at' 128 false = .ok ps →
            exec (.queueEntryRead q) s = .next { s with
              qTurn := (q + 1) % 64, qClk := some s.clk
              queues := KMap.put s.queues q { due := s.clk + s.partsLat 0 0 ps, reading := true } })
          ∧ (∀ f, s.ctxParts (s.qCtx q) at' 128 false = .error f →
            brings (.queueEntryRead q) s fun t => (t.qState q).parked = true ∧ KMap.find? t.tokens s.tokenNext = some (.queue q)
              ∧ t.faultQ = s.faultQ ++ [faultRec { agent := 8, ctx := s.qCtx q, tenant := s.ctxTenant (s.qCtx q), opk := 13 } 0
                  { f with addr := at' } s.tokenNext s.pt])))
    ∧ (∀ (q x : Nat) (d : BitVec 512), q < 64 → (s.qState q).reading = true → (s.qState q).due ≤ s.clk → s.ctxLive (s.qCtx q) = true →
        s.qEn q = true → s.ctxRead (s.qCtx q) (s.qEntry q (s.qHead q)) 128 = .ok (s, x) →
        let lr : BitVec 1024 := BitVec.ofNat 1024 x
        s.readDesc (s.qCtx q) (lrDesc lr) = .ok (s, d) → lrGraph lr = false →
        let why := s.kernelReason (s.qCtx q) lr (.ok (s, d)) (decide (lrClass lr < s.qMax q))
        brings (.admission q) s fun t => t.qHead q = (s.qHead q + 1) % 2 ^ 32 ∧ t.mem = s.mem
          ∧ (∃ g, KMap.find? t.grids s.newSerial = some g ∧ g.ctx = s.qCtx q ∧ g.queue = q ∧ g.lr = lr ∧ g.desc = d ∧ g.cls = lrClass lr
            ∧ g.nbef = lrNbef lr ∧ g.dline = lrDline lr ∧ g.seq = s.gridSeq
            ∧ (why = 0 → g.st = .waiting ∧ g.code = 0) ∧ (why ≠ 0 → g.st = .rec1 ∧ g.code = 4 ∧ g.reason = why))
          ∧ (∀ k, k ≠ s.newSerial → KMap.find? t.grids k = KMap.find? s.grids k))
    ∧ (∀ (k : Nat) (g : Grid), KMap.find? s.grids k = some g →
        (g.st = .waiting → g.due ≤ s.clk → g.nbef ≤ s.pt → lrGraph g.lr = false →
          exec (.gridEligible k) s = .next { s with grids := KMap.upd s.grids k fun y => { y with st := .opened, since := s.clk } })
        ∧ (g.cls = 1 → s.teamWaits g = true → g.dline < s.pt →
          exec (.firmDeadlineShed k) s = .next { s with grids := KMap.upd s.grids k fun y => { y with code := 2 } })
        ∧ (g.st = .opened → lrGraph g.lr = false → (g.code ≠ 0 ∨ lrTeams g.lr ≤ g.run) → (∀ tm ∈ s.teams, tm.2.grid ≠ k) → s.ctxHeld g.ctx = none →
          exec (.gridCompletionRecord k) s = .next { s with
            grids := KMap.upd s.grids k fun y => { y with st := .rec1, code := if y.code = 0 then 1 else y.code, due := s.clk + 1 } })
        ∧ (g.st = .rec1 → g.due ≤ s.clk → g.lost = false → lrGraph g.lr = false →
          let late := g.late || (decide (g.cls ≠ 3) && decide (g.dline < s.pt))
          (lrComp g.lr = 0 → g.node = none → 
            brings (.gridCompletionRecord k) s fun t => KMap.find? t.grids k = none ∧ t.mem = s.mem)
          ∧ (∀ pa, lrComp g.lr ≠ 0 → lrComp g.lr % 32 = 0 → s.ctxPhys g.ctx (lrComp g.lr + 8) true = .ok pa → s.onCard pa = true → s.reuse = [] →
            brings (.gridCompletionRecord k) s fun t =>
              t.mem = wrBytes s.mem pa (bytesOf 24 ({ g with finish := s.pt, late := late }.record / 2 ^ 64))
                ∧ ∃ g', KMap.find? t.grids k = some g' ∧ g'.st = .rec2 ∧ g'.finish = s.pt ∧ g'.late = late))
        ∧ (∀ pa, g.st = .rec2 → g.due ≤ s.clk → g.node = none → lrComp g.lr % 32 = 0 → s.ctxPhys g.ctx (lrComp g.lr) true = .ok pa →
          s.onCard pa = true → s.reuse = [] → 
          brings (.gridCompletionRecord k) s fun t => t.mem = wrBytes s.mem pa (bytesOf 8 g.record) ∧ KMap.find? t.grids k = none))

/-- R160, R165, R502: the arbiter's choice takes its place with one more team, resident 4 clk later and not yet started; a FIRM grid
that would be late is shed instead (R161). R161: a HARD grid that has waited long enough and finds no room asks for the pre-emption of
one context. R309, R502: a line of a leat's image reaches its store a load latency after residency, one line each clk; when the
scratchpad is zeroed and the images are there, the team's groups and leats start. R149, R150, R265: once every group of a team has
arrived or ended with its writes performed, those that wait at the barrier go on and the L1 of their core is empty. R95, R310: an
ended group whose operations have returned gives up its slot, and the last one ends its team.
The model's choices that it rests on: log entries 21, 38, 55 and 56. -/
def Obligations.TeamsComeAndGo : Prop :=
  ∀ (s : State), 
    (∀ (g : Nat) (x : Grid) (w : Waiter) (p : Spot), s.offer = some (w, [p]) → w.kind = .grid g → KMap.find? s.grids g = some x →
      (s.projectedLate x = true → exec (.teamPlacement g) s = .next { s with grids := KMap.upd s.grids g fun y => { y with code := 2 } })
      ∧ (s.projectedLate x = false → kdStrip x.desc = false →
        brings (.teamPlacement g) s fun t => t.mem = s.mem ∧ KMap.find? t.placedAt (p.core / 64) = some s.clk
          ∧ (∃ tm, t.team? s.ids = some tm ∧ tm.grid = g ∧ tm.ctx = x.ctx ∧ tm.idx = x.run ∧ tm.core = p.core ∧ tm.base = p.base
            ∧ tm.size = kdScratch x.desc ∧ tm.ngroups = kdGroups x.desc ∧ tm.resident = s.clk + 4 ∧ tm.started = false)
          ∧ ∃ y, KMap.find? t.grids g = some y ∧ y.run = x.run + 1 ∧ y.last = p.core ∧ y.since = s.clk + 4))
    ∧ (∀ (g : Nat) (x : Grid) (c : Nat), KMap.find? s.grids g = some x → s.hardWaits x = true → s.hasRoom g = false → s.victim x = some c →
        exec (.hardWaitPreempt g) s = .next { s with
          grids := KMap.upd s.grids g fun y => { y with since := s.clk, asked := some c }, agenda := .contextPreempt c :: s.agenda })
    ∧ (∀ (k : Nat) (tm : Team), s.team? k = some tm →
        (tm.started = false → tm.saved = false → tm.due ≤ s.clk →
          (∀ a ∈ tm.leats, ∀ l, s.agent? a = some l → l.imgTodo = []) →
          exec (.groupStart k) s = .next { s with teams := KMap.upd s.teams k fun y => { y with started := true } })
        ∧ (∀ a0 ∈ tm.groups, tm.ngroups ≤ tm.groups.length → tm.groups.Nodup →
            (∀ a ∈ tm.groups, ∀ ag, s.agent? a = some ag →
              (ag.ended = true ∨ tm.tdone + 1 ≤ ag.tbar) ∧ ∀ o ∈ ag.ops, Op.writes o = false) →
            (∃ ag f, s.agent? a0 = some ag ∧ f ∈ ag.frags ∧ f.2.wait = .barrier 0 (tm.tdone + 1)) →
            brings (.barrierComplete k 0) s fun t => t.mem = s.mem ∧ (∃ tm', t.team? k = some tm' ∧ tm'.tdone = tm.tdone + 1)
              ∧ ∀ a ∈ tm.groups, ∀ ag fid fr, fragOf s a fid ag fr → fr.wait = .barrier 0 (tm.tdone + 1) →
                (∃ ag' fr', fragOf t a fid ag' fr' ∧ fr'.wait = .none ∧ s.clk + (if tm.pair then 22 else 6) ≤ fr'.next) ∧ (t.core ag.core).l1 = []))
    ∧ (∀ (a line : Nat) (ag : Agent) (fr : Frag) (ps : List (Nat × Nat × Nat)), fragOf s a 0 ag fr → fr.wait = .none → line ∈ ag.imgTodo →
        let lo := max ag.img (ag.img / 128 * 128 + 128 * line)
        let n := min (ag.img + ag.imgLen) (ag.img / 128 * 128 + 128 * (line + 1)) - lo
        s.ctxParts ag.ctx lo n false = .ok ps → (∀ p ∈ ps, s.onCard p.2.1 = true) →
        max ((s.teamOf ag).resident + line) fr.next + s.partsLat (64 * (ag.core / 64)) 0 ps ≤ s.clk →
        leaves (.leatImageLine a line) s s a
          { ag with
            imgTodo := ag.imgTodo.filter fun l => l ≠ line
            store := wrBytes ag.store (lo - ag.img) (bytesOf n (s.partsRead ps).2) })
    ∧ (∀ (a : Nat) (ag : Agent) (tm : Team), s.agent? a = some ag → ag.kind = .group → ag.ended = true → ag.ops = [] → ag.pend = [] → ag.task = none →
        s.team? ag.team = some tm →
        ((∃ b ∈ tm.groups, b ≠ a ∧ (s.agent? b).isSome = true) →
          brings (.groupRelease a) s fun t => t.agent? a = none ∧ t.mem = s.mem ∧ (t.team? ag.team).isSome = true)
        ∧ ((∀ b ∈ tm.groups, b ≠ a → s.agent? b = none) → tm.leats = [] →
          brings (.groupRelease a) s fun t => t.agent? a = none ∧ t.team? ag.team = none ∧ t.mem = s.mem
            ∧ ∀ q ∈ t.handles, q.2.team ≠ ag.team))

/-- R287, R305: the head of an engine that holds leave begins no earlier than 4 clk after its issue and than the end of the operation
before, 16 clk later where an operand lies in the partner core; AZERO ends 16 clk later, MMA after S steps of T clk and 4 more, ASTAT
after 2. R302, R296: AZERO leaves +0 in the bank, MMA the products of its panels summed into it. R297: the four MMAQs of a tag enter
their engines together. R299: a CBLD leaves its 32 tables in its slot. R284, R303: a request that can be met maps its logical banks to
the first free physical ones. R281: a bank whose 16 clk of zeroing are over is FREE and holds nothing. R422: a foreign bank that is
held is spilled to its owner and takes its holder's tag.
The model's choices that it rests on: log entry 41. -/
def Obligations.MatrixEngineEvents : Prop :=
  ∀ (s : State),
    (∀ (op a : Nat) (ag : Agent) (o : Op) (opc : Nat) (f : FMTX) (m : Mtx), s.opOwner op = some (a, ag, o) → s.agent? a = some ag →
      (∀ q ∈ ag.ops, q.id = op → q = o) → o.kind = .matrix opc f m →
      let h := 4 * m.core + m.part
      let at' := fun (t : State) (due : Nat) (P : Mtx → Prop) => t.mem = s.mem ∧ ∃ ag', t.agent? a = some ag' ∧ ag'.sregs = ag.sregs
        ∧ ag'.vregs = ag.vregs ∧ ∀ q ∈ ag'.ops, q.id = op → q.due = due ∧ ∃ m', q.kind = .matrix opc f m' ∧ P m'
      (m.quad = [] → (s.engOps m.core m.part).head? = some (a, o) → m.begun = none → s.opBusy op = false → (s.leave h).held = true →
        (s.leave h).start = none → m.ask = false → max (o.issue + 4) (s.eng m.core m.part).last + (if m.far then 16 else 0) ≤ s.clk →
        opc ∈ [2, 3, 11] →
        brings (.arrayOpBegin op) s fun t =>
          at' t (s.clk + if opc = 2 then 16 else if opc = 3 then mulS f * Blk.stepClk m.blk + 4 else 2) fun m' => m'.begun = some s.clk)
      ∧ (o.due ≤ s.clk → o.returned = false → m.begun.isSome = true → 
        (opc = 2 → brings (.matrixOpEnd op) s fun t => t.mem = s.mem ∧ (t.bank m.core m.phys).vals = [] ∧ (t.eng m.core m.part).last = s.clk
          ∧ ∀ b, b ≠ m.phys → b < 64 → m.phys < 64 → t.bank m.core b = s.bank m.core b)
        ∧ (opc = 3 → o.winClash = [] →
          brings (.matrixOpEnd op) s fun t => t.mem = s.mem ∧ (t.eng m.core m.part).last = s.clk
            ∧ (t.bank m.core m.phys).vals = multBank (Blk.span m.blk) (mulS f) (decide (f.clr = 1)) (List.range 64)
              (mulOps (s.teamOf ag) ag.width 3 f m m.snap) (s.bank m.core m.phys).vals))
      ∧ (opc = 5 → m.begun.isSome = true → m.lines = false → o.due ≤ s.clk →
        brings (.mmavLineArrival op) s fun t => t.mem = s.mem ∧ ∃ ag', t.agent? a = some ag' ∧ ag'.sregs = ag.sregs ∧ ag'.vregs = ag.vregs
          ∧ ∀ q ∈ ag'.ops, q.id = op →
            (∃ m', q.kind = .matrix 5 f m' ∧ m'.lines = true ∧ m'.step = m.step)
              ∧ q.due = s.clk + ((mmavShares m f).map fun p => 8 * ((p.2 + 7) / 8)).sum * Blk.stepClk m.blk / 64
                  + if m.step + 1 = mulS f then 4 else 0)
      ∧ (opc = 7 → o.due ≤ s.clk → o.returned = false → s.slotRead m.core m.part (fldN f.mopt 0 1) op = false → s.opBusy op = false → f.ah = 0 →
        o.winClash = [] → 
        brings (.cbldLoadDone op) s fun t => t.mem = s.mem ∧ ∀ i, i < 256 →
          let j := 2 * (i % 8) + if fldN f.mopt 1 1 = 1 then 0 else 16 * (i / 8)
          KMap.get 0 (t.eng m.core m.part).tabs (256 * fldN f.mopt 0 1 + i)
            = BitVec.ofNat 16 (regByte m.snap ag.width f.a.toNat j + 256 * regByte m.snap ag.width f.a.toNat (j + 1))))
    ∧ (∀ (core tag : Nat) (c : Nat → Iss) (f : Nat → FMTX) (pl : Nat → MPlan),
        (∀ p, p < 4 → s.quadHead core p tag = some (c p, f p, .ok (pl p)) ∧ (pl p).locks = [] ∧ (pl p).hlock = none
          ∧ (f p).kst = (f 0).kst ∧ fldN (pl p).blk 64 64 = fldN (pl 0).blk 64 64) →
        (∀ p q, p < 4 → q < 4 → p ≠ q → (c p).a ≠ (c q).a) →
        brings (.mmaqRendezvous core tag) s fun t => t.mem = s.mem ∧ ∀ p, p < 4 → ∃ ag', t.agent? (c p).a = some ag' ∧ ∃ o ∈ ag'.ops,
          o.id = s.ids + p ∧ o.issue = s.clk ∧ ∃ m, o.kind = .matrix 4 (f p) m ∧ m.quad = [s.ids, s.ids + 1, s.ids + 2, s.ids + 3])
    ∧ (∀ (core a fid n : Nat) (rest : List (Nat × Nat)) (ag : Agent) (fr : Frag) (f : FMTX),
        KMap.find? s.aq core = some ((a, fid) :: rest) → fragOf s a fid ag fr → fr.wait = .aalloc n →
        decodeIn .mtx (fr.code.getD (fr.k - 1) 0) = some (.aalloc f) → n ≤ (s.freeBanks core).length → ag.ctrVal .m < 63 →
        brings (.aallocGrant core) s fun t => t.mem = s.mem ∧ ∃ ag', t.agent? a = some ag' ∧ ag'.sregs = ag.sregs ∧ ag'.vregs = ag.vregs
          ∧ (∀ k, k < n → KMap.find? ag'.banks (f.abank.toNat + k) = (s.freeBanks core)[k]?)
          ∧ (∀ b, ¬(f.abank.toNat ≤ b ∧ b < f.abank.toNat + n) → KMap.find? ag'.banks b = KMap.find? ag.banks b)
          ∧ ∃ fr', KMap.find? ag'.frags fid = some fr' ∧ fr'.wait = .none ∧ s.clk + 1 ≤ fr'.next)
    ∧ (∀ (core b : Nat), let x := s.bank core b
        (x.st = .zeroing → x.at' ≤ s.clk → s.bankBusy core b = false →
          exec (.bankZeroDone core b) s = .next { s with accs := KMap.del s.accs (64 * core + b) })
        ∧ (∀ ag own, x.st = .held → s.agent? x.holder = some ag → x.tag ≠ ag.ctx → s.agent? x.own.1 = some own →
          brings (.bankSpill core b) s fun t => t.mem = s.mem ∧ (t.bank core b).vals = [] ∧ (t.bank core b).tag = ag.ctx
            ∧ (t.bank core b).st = .held ∧ ∃ own', t.agent? x.own.1 = some own' ∧ KMap.find? own'.spill x.own.2 = some x.vals)
        ∧ (x.st = .parked →
          brings (.bankSpill core b) s fun t => t.mem = s.mem ∧ t.bank core b = { st := .zeroing, at' := s.clk + 16 }))

/-- R306, R487, R488: a holder that still holds leave and asks is granted 48 clk later; one that does not joins its die's queue, an
engine that works for a context under pre-emption before the others. The head of the queue is granted when its units fit LVCAP, and may
start 48 clk later. An idle holder loses its leave after 4,096 clk; one that has held it for 65,536 clk while a request waits loses it
between operations, and queues again when it has more work.
The model's choices that it rests on: log entry 47. -/
def Obligations.LeaveOfTheGovernor : Prop :=
  ∀ (s : State) (die h : Nat), 
    let l := s.leave h
    let q := (KMap.find? s.leaveQ die).getD []
    (holderDie h = die → l.start = none → l.queued = false → (s.leaveNeed h).isSome = true →
      (l.held = true → exec (.leaveRequest die h) s = .next { s with leaves := KMap.put s.leaves h { l with start := some (s.clk + 48) } })
      ∧ (l.held = false →
        brings (.leaveRequest die h) s fun t => t.leave h = { l with queued := true }
          ∧ t.leaveQueue die = (if s.leaveFirst h then q.filter s.leaveFirst ++ h :: q.filter fun x => !s.leaveFirst x else q ++ [h])
          ∧ { t with leaves := s.leaves, leaveQ := s.leaveQ, bar := s.bar } = s))
    ∧ (∀ rest, q = h :: rest → s.unitsHeld die + holderUnits h ≤ s.lvcap die → 
        brings (.leaveGrant die h) s fun t => t.leaveQueue die = rest
          ∧ t.leave h = { held := true, since := s.clk, idle := l.idle, start := some (s.clk + 48) }
          ∧ { t with leaves := s.leaves, leaveQ := s.leaveQ } = s)
    ∧ (holderDie h = die → l.held = true → l.start = none → s.holderBusy h = false → s.holderIdle h + 4096 ≤ s.clk →
        brings (.leaveExpiry die h) s fun t => (t.leave h).held = false ∧ { t with leaves := s.leaves } = s)
    ∧ (holderDie h = die → l.held = true → s.holderRuns h = false → q ≠ [] → l.since + 65536 ≤ s.clk →
        brings (.leaveRevoke die h) s fun t => (t.leave h).held = false ∧ (s.holderBusy h = true → t.leaveQueue die = q ++ [h])
          ∧ { t with leaves := s.leaves, leaveQ := s.leaveQ } = s)

/-- R325, R321, R317: an operation that may start registers its ranges, opens its handle as FILLING or takes it as DRAINING, and has
its place and its pieces. R323: the first operation that requests sends one piece in a clk; a piece that does not translate stops it, and
once the pieces requested are done it parks under a token, with PK. R217, R221, R457: each 128-byte host line of a fill piece is one
request on the host link, and the piece does not land before its lines have arrived. R318, R320: a fill piece's bytes land in the handle; with the last
piece of a sector ARRIVED grows by the sector's bytes below EXPECT, and at EXPECT the handle is FULL. A drain piece goes to memory; with
the last one of its sector ARRIVED falls, and at 0 the handle is FREE. R268: with the last piece done the entries are removed and the
operation ends. R314: a leat's write of HDESC with EN clear releases a FREE handle.
The model's choices that it rests on: log entries 57 and 60. -/
def Obligations.SluiceEvents : Prop :=
  ∀ (s : State) (x : Nat) (o : Xop), KMap.find? s.xops x = some o →
    let k := 256 * o.core + o.h
    (∀ s1 hd, o.st = .waiting → s.xMayStart o = true → s.lockAll x (s.xEntries o) = some s1 → KMap.find? s.handles k = some hd →
      brings (.engineOpStart x) s fun t => t.mem = s.mem ∧ t.rlocks = s1.rlocks
        ∧ (∃ y, KMap.find? t.xops x = some y ∧ y.st = .running ∧ y.reg = s.ids ∧ y.began = s.clk ∧ y.todo = List.range ((o.n + 63) / 64))
        ∧ (∃ h', KMap.find? t.handles k = some h' ∧ (o.kind.opens = true → h'.st = 1 ∧ h'.phase = 1 - hd.phase ∧ h'.expect = o.expect
              ∧ h'.arrived = 0)
            ∧ (o.kind.opens = false → h' = { hd with st := if o.kind.takes then 3 else hd.st })))
    ∧ (∀ p rest, KMap.find? s.sluices o.core ≠ some s.clk → s.xHead o.core = some (x, o) → s.xBusy x o = false → o.kind.coll = false →
        o.todo = p :: rest →
        (∀ line, s.xProbe o p = .ok line →
          exec (.sluicePieceRequest o.core) s = .next { (s.xHostReqs x o p) with
            sluices := KMap.put s.sluices o.core s.clk
            xops := KMap.upd s.xops x fun y =>
              { y with todo := rest, out := y.out ++ [(p, s.clk + s.xLat o p line)], pas := y.pas ++ [(p, s.xPas o p)] } }
          ∧ (s.xHostLines o p = [] → s.xHostReqs x o p = s)
          ∧ { s.xHostReqs x o p with hostReqs := s.hostReqs, ids := s.ids } = s
          ∧ ∀ i l, (s.xHostLines o p)[i]? = some l →
              KMap.find? (s.xHostReqs x o p).hostReqs (s.ids + i)
                = some { agent := 0, op := x, lanes := 0, pa := l, due := s.clk + 100 + (if o.core / 64 = 0 then 0 else 32), piece := some p })
        ∧ (∀ f, s.xProbe o p = .error f →
          exec (.sluicePieceRequest o.core) s = .next { s with xops := KMap.upd s.xops x fun y => { y with fault := some f } }))
    ∧ (∀ piece due hd tm, o.kind = .fill → (piece, due) ∈ o.out → due ≤ s.clk → KMap.find? s.handles k = some hd → s.team? o.team = some tm →
        hd.layout = 0 → KMap.wf 0 tm.scr = true → hd.team = o.team → s.xAwaits x piece = false →
        brings (.sectorArrival x piece) s fun t => t.mem = s.mem
          ∧ (∃ y, KMap.find? t.xops x = some y ∧ ∀ d, (piece, d) ∉ y.out)
          ∧ (o.lastOf piece = false → t.handles = s.handles ∧ ∃ tm', t.team? o.team = some tm'
            ∧ ∀ i, i < o.len piece → rdB tm'.scr (hd.roff + 64 + (o.o + 64 * piece + i)) = BitVec.ofNat 8 (o.src.toNat / 2 ^ (8 * ((o.o + 64 * piece + i) % 8))))
          ∧ (o.lastOf piece = true → natFld (rdN tm.scr 32 hd.roff) (o.sector piece) 1 = 0 →
            ∃ h', KMap.find? t.handles k = some h' ∧ h'.arrived = hd.arrived + min 512 (hd.expect - 512 * o.sector piece)
              ∧ (h'.arrived = hd.expect → hd.st = 1 → h'.st = 2 ∧ h'.rels = hd.nrel)))
    ∧ (∀ piece, s.xAwaits x piece = true → exec (.sectorArrival x piece) s = .next s)
    ∧ (∀ piece due hd, (o.kind = .xout ∨ o.kind = .xoutc ∨ o.kind = .drain) → (piece, due) ∈ o.out → due ≤ s.clk → KMap.find? s.handles k = some hd →
        brings (.drainSectorAccept x piece) s fun t => (∃ y, KMap.find? t.xops x = some y ∧ ∀ d, (piece, d) ∉ y.out)
          ∧ (o.lastOf piece = false → t.handles = s.handles)
          ∧ (o.lastOf piece = true → natFld (s.hdrN hd 0 32) (o.sector piece) 1 = 1 →
            ∃ h', KMap.find? t.handles k = some h' ∧ h'.arrived = hd.arrived - min 512 (hd.expect - 512 * o.sector piece)
              ∧ (h'.arrived = 0 → hd.st = 3 → h'.st = 0)))
    ∧ (∀ f, o.st = .running → o.out = [] → o.fault = some f →
        brings (.sluicePark x) s fun t => t.mem = s.mem ∧ KMap.find? t.tokens s.tokenNext = some (.sluice x)
          ∧ KMap.find? t.xops x = some { o with st := .parked, pk := true, sv := false } ∧ t.faultQ.length = s.faultQ.length + 1)
    ∧ (o.st = .running → o.fault = none → o.todo = [] → o.out = [] → 
        brings (.engineOpComplete x) s fun t => t.mem = s.mem ∧ KMap.find? t.xops x = none ∧ ∀ e ∈ t.rlocks, e.2.op ≠ x)
    ∧ (∀ a ag h hd, s.agent? a = some ag → ag.kind ≠ .group → KMap.find? s.handles (256 * (s.teamOf ag).core + h) = some hd → hd.team = ag.team →
        hd.st = 0 → s.opsOn (256 * (s.teamOf ag).core + h) = false →
        exec (.hdescWrite a h 0) s = .next { s with handles := KMap.del s.handles (256 * (s.teamOf ag).core + h) })

/-- R464: a request of another card through a window that admits it loads or stores the local bytes and is answered; one that the
window rejects is answered with its code and changes nothing. R471: two packets of a queue that may merge become one with both bitmaps.
R472: a packet whose piece is not complete is kept with its contributor's bit; a second one from the same contributor is discarded. R473: a
piece that a destination acknowledged ends, and with the last one of its sector the sector is done. R460: with EN set a write of FABCFG
changes EN only; otherwise it takes the fields, and EN only when the coordinates lie in the dimensions and at most 64 cards result. A
change of a port shows in PORTST and signals vector 2.
The model's choices that it rests on: log entries 62, 63 and 64. -/
def Obligations.FabricEvents : Prop :=
  ∀ (s : State), 
    (s.barFld blkFab 39 1 = 1 → ∀ (card addr width : Nat) (bytes : List Byte),
      (∀ e kind arg, s.window card addr (decide (kind ≠ 0)) = .error e →
        exec (.fabricInboundRequest card kind addr width arg bytes) s = .next { s with fabAns := s.fabAns ++ [(card, e, [])] })
      ∧ (∀ pa, s.window card addr false = .ok pa → s.onCard pa = true →
        exec (.fabricInboundRequest card 0 addr width 0 bytes) s
          = .next { s with fabAns := s.fabAns ++ [(card, 0, bytesOf width (rdN s.mem width pa))] })
      ∧ (∀ pa, s.window card addr true = .ok pa → s.onCard pa = true → s.reuse = [] →
        brings (.fabricInboundRequest card 1 addr width 0 bytes) s fun t =>
          t.mem = wrBytes s.mem pa (bytes.take width) ∧ t.fabAns = s.fabAns ++ [(card, 0, [])] ∧ t.agents = s.agents))
    ∧ (∀ (a b : Nat) (x y z : RedPkt), KMap.find? s.redQ a = some x → KMap.find? s.redQ b = some y → a ≠ b → redMerge x y = some z →
        exec (.reducePacketMerge a b) s = .next { s with redQ := KMap.put (KMap.del s.redQ b) a z } ∧ z.bits = x.bits ||| y.bits)
    ∧ (s.barFld blkFab 39 1 = 1 → ∀ (key mask pa : Nat) (vals : List Int), mask ≠ 0 →
        let k := RedKey.ofNat key
        s.window (lowest (ofN mask) 0) k.off true = .ok pa →
        (∀ id e, List.find? (fun (p : Nat × RedEnt) => p.2.key = k) s.reduce = some (id, e) → mask &&& e.bits ≠ 0 →
          exec (.reducePacketArrive key mask vals) s
            = .next { s with fabAns := s.fabAns ++ (lanesOf (ofN mask)).map fun c => (c, 0, []) })
        ∧ (s.reduce = [] → k.ordered = false → mask ≠ k.pmask →
          brings (.reducePacketArrive key mask vals) s fun t => t.mem = s.mem
            ∧ ∃ e, KMap.find? t.reduce s.ids = some e ∧ e.key = k ∧ e.bits = mask))
    ∧ (∀ (x piece due : Nat) (o : Xop), KMap.find? s.xops x = some o → o.kind = .send ∨ o.kind = .red → (piece, due) ∈ o.out → due ≤ s.clk →
        (s.xcCards o.desc).contains s.card = false →
        brings (.collectivePieceAck x piece) s fun t => t.mem = s.mem ∧ (∃ y, KMap.find? t.xops x = some y ∧ ∀ d, (piece, d) ∉ y.out)
          ∧ ∀ r ∈ t.fabReqs, ¬(r.2.kind = 3 ∧ r.2.op = x ∧ r.2.va = piece))
    ∧ (∀ (v : Dword),
        (s.barFld blkFab 39 1 = 1 →
          brings (.fabcfgWrite v) s fun t => t.barFld blkFab 0 39 = s.barFld blkFab 0 39 ∧ t.barFld blkFab 39 1 = fldN v 39 1
            ∧ { t with bar := s.bar } = s)
        ∧ (s.barFld blkFab 39 1 = 0 →
          brings (.fabcfgWrite v) s fun t => t.barFld blkFab 0 39 = fldN v 0 39 ∧ { t with bar := s.bar } = s
            ∧ (t.barFld blkFab 39 1 = 1 ↔ fldN v 39 1 = 1 ∧ fldN v 0 6 ≤ fldN v 18 6 ∧ fldN v 6 6 ≤ fldN v 24 6 ∧ fldN v 12 6 ≤ fldN v 30 6
                ∧ (fldN v 18 6 + 1) * (fldN v 24 6 + 1) * (fldN v 30 6 + 1) ≤ 64)))
    ∧ (∀ (port : Nat) (up : Bool), port < 6 → s.barFld (blkFab + 1) (8 * port) 1 ≠ (if up then 1 else 0) →
        brings (.portUpChange port up) s fun t => t.barFld (blkFab + 1) (8 * port) 1 = (if up then 1 else 0) ∧ t.mem = s.mem ∧ t.agents = s.agents
          ∧ (s.barFld (blkHost + 0x200 + 5) 32 1 = 0 → t.hostOut = s.hostOut ++ [((s.barRd (blkHost + 0x200 + 4)).toNat,
              bytesOf 4 (s.barFld (blkHost + 0x200 + 5) 0 32))]))

/-- R348, R351: a running ray whose time has come has visited what was left of its leaves: it is done, or suspended at a candidate, and
its lane no longer holds its operation up. R357: a read that does not translate parks it, and the operation names its lane. R350: a stack
of 32 without a spill area ends the ray as STACK_EXHAUSTED and counts it; with one, the oldest entry goes to memory. R354: the operation
writes the result groups once every lane is done. R344: a command whose record breaks a rule fails with REASON 1; R345: one that passes
the checks takes its time. R341, R346: a build's generation is published, its record written, and the builder is free. R345: a fault of its
reads parks it under a token. R340: a superseded generation without pins goes.
The model's choices that it rests on: log entries 66, 68 and 76. -/
def Obligations.RaysAndBuilds : Prop :=
  ∀ (s : State),
    (∀ (a lane : Nat) (ag : Agent) (r : Ray), s.agent? a = some ag → KMap.find? ag.rays lane = some r → r.st = .running → lane < 64 →
      let regs := fun (t : State) (P : Ray → Prop) => ∃ ag' r', t.agent? a = some ag' ∧ ag'.sregs = ag.sregs ∧ ag'.vregs = ag.vregs
        ∧ KMap.find? ag'.rays lane = some r' ∧ P r' ∧ ∀ q ∈ ag'.ops, q.id = r.op → r'.st = .done → q.todo.getLsbD lane = false
      (∀ order, r.due ≤ s.clk → r.pushes = 0 → s.rayBlocked ag r = none →
        brings (.rayEnd a lane order) s fun t => regs t fun r' => (r'.st = .done ∨ r'.st = .suspended) ∧ (r'.st = .suspended ↔ r'.cand.isSome)
          ∧ r'.op = r.op ∧ r'.slot = r.slot ∧ (r.todo = [] → r'.hit = r.hit ∧ r'.tmax = r.tmax))
      ∧ (∀ f, s.rayBlocked ag r = some f →
        brings (.rayPark a lane) s fun t => t.mem = s.mem ∧ ∃ ag', t.agent? a = some ag' ∧ ag'.sregs = ag.sregs ∧ ag'.vregs = ag.vregs
          ∧ KMap.find? ag'.rays lane = some { r with st := .parked }
          ∧ ∀ q ∈ ag'.ops, q.id = r.op → ∃ g, q.rej = some g ∧ g.lm.getLsbD lane = true)
      ∧ (∀ g, KMap.find? s.gens r.gen = some g → r.pushes ≠ 0 →
        (g.spill = 0 → brings (.rayStackSpill a lane) s fun t => regs t (fun r' => r'.st = .done ∧ r'.code = 3 ∧ r'.cand = none)
          ∧ ∃ g', KMap.find? t.gens r.gen = some g' ∧ g'.exhaust = g.exhaust + 1)
        ∧ (∀ pa, g.spill ≠ 0 → r.spilled < 64 → g.spill % 8 = 0 →
          s.ctxPhys ag.ctx (g.spill + 512 * (2048 * ag.core + r.slot) + 8 * r.spilled) true = .ok pa → s.onCard pa = true → s.reuse = [] →
          brings (.rayStackSpill a lane) s fun t => (∃ g', KMap.find? t.gens r.gen = some g' ∧ g'.spills = g.spills + 1)
            ∧ ∃ ag', t.agent? a = some ag' ∧ KMap.find? ag'.rays lane
              = some { r with spilled := r.spilled + 1, pushes := r.pushes - 1, due := r.due + 24 })))
    ∧ (∀ (op a : Nat) (ag : Agent) (o : Op) (vd : Nat) (res : List (Nat × List Word)), s.opOwner op = some (a, ag, o) → s.agent? a = some ag →
        o.kind = .trace vd res → o.returned = false → o.todo = 0 → o.due ≤ s.clk → o.clash = [] →
        brings (.traversalReturn op) s fun t => ∃ ag', t.agent? a = some ag'
          ∧ (let g := res.foldl (fun g x => x.2.zipIdx.foldl (fun g w => g.setReg (.v (vd + w.2)) [(x.1, w.1.setWidth 64)]) g) ag
            ag'.sregs = g.sregs ∧ ag'.vregs = g.vregs))
    ∧ (∀ (die : Nat), 
        (∀ c cs, (s.builder die).run = none → (s.builder die).queue = c :: cs → s.builderLeave die = true →
          (∀ p ∈ s.gens, ¬(p.2.die = die ∧ p.2.idle = true)) → s.ninth die c = false → cmdBad c.bits = true →
          brings (.buildCommandStart die) s fun t => t.mem = s.mem ∧ t.gens = s.gens
            ∧ t.builder die = { queue := cs, run := some { cmd := c, stage := 2, code := 4, reason := 1, due := s.clk } })
        ∧ (∀ r s1 g pool need, (s.builder die).run = some r → r.stage = 0 → r.parked = false → r.fault = none →
          s.planBuild die r.cmd = (s1, .make g pool need) →
          brings (.buildCommandStart die) s fun t => ∃ r', (t.builder die).run = some r' ∧ r'.stage = 1
            ∧ r'.due = s.clk + buildTime (bcOp r.cmd.bits) g.nprim ∧ ∃ g', r'.gen = some g' ∧ g'.num = g.num ∧ g'.prims = g.prims
              ∧ ∀ p ∈ g'.pages, p ∈ pool)
        ∧ (∀ r, (s.builder die).run = some r → r.parked = false → r.fault = none → r.due ≤ s.clk →
          let rests := fun (t : State) => (t.builder die).run = none ∧ (t.builder die).queue = (s.builder die).queue ∧ (t.leave (512 + die)).idle = s.clk
          (r.stage = 2 → r.gen = none → r.code = 4 → badComp (bcComp r.cmd.bits) 32 = false →
            (bcComp r.cmd.bits = 0 → brings (.buildCommandEnd die) s fun t => rests t ∧ t.mem = s.mem)
            ∧ (∀ s1 s2, bcComp r.cmd.bits ≠ 0 →
              s.ctxWrite r.cmd.ctx (bcComp r.cmd.bits + 8) (bytesOf 8 s.pt ++ bytesOf 8 r.grec ++ bytesOf 8 0) = .ok s1 →
              s1.ctxWrite r.cmd.ctx (bcComp r.cmd.bits) (bytesOf 8 (4 + r.reason * 2 ^ 8 + r.num * 2 ^ 32)) = .ok s2 →
              brings (.buildCommandEnd die) s fun t => (t.builder die).run = none ∧ t.mem = s2.mem))
          ∧ (∀ g s1, r.stage = 1 → r.gen = some g → s.publishGen g = .ok s1 → r.code = 1 → bcComp r.cmd.bits = 0 →
            brings (.buildCommandEnd die) s fun t => (t.builder die).run = none ∧ t.mem = s1.mem ∧ t.gens = s1.gens))
        ∧ (∀ r f, (s.builder die).run = some r → r.fault = some f → r.parked = false →
          brings (.builderPark die) s fun t => t.mem = s.mem ∧ (t.builder die).run = some { r with parked := true }
            ∧ KMap.find? t.tokens s.tokenNext = some (.builder die) ∧ t.faultQ.length = s.faultQ.length + 1))
    ∧ (∀ (die k : Nat) (g : Gen), KMap.find? s.gens k = some g → g.st = 2 → g.pins = 0 → g.bind = [] → 
        brings (.generationReclaim die k) s fun t => KMap.find? t.gens k = none ∧ (∀ j, j ≠ k → KMap.find? t.gens j = KMap.find? s.gens j))

/-- R366, R367: a pop takes the best record of the EDF lane when it has one. R370, R371: a core chosen reserves the task's place, claims
its handles and stages its inputs; with them full, the group starts 8 clk after the dispatch on empty caches. R375: a pure task's key is
ready 30 clk after its inputs, and its lookup takes 200 clk, 32 more from the other die; a hit copies the entry's pieces one by one, a miss
is dispatched. R373: the ended group's full outputs are drained and the others released; then the record is due. R374: the record's bytes
8 to 31 are written, then bytes 0 to 7, and the task is over. R378: a flush empties the reuse table, and a tenant's new key empties
that tenant's part.
The model's choices that it rests on: log entries 80, 82, 83 and 84. -/
def Obligations.TasksFromPopToRecord : Prop :=
  ∀ (s : State),
    (∀ (die b1 b2 : Nat) (r : TaskRec) (rest : List TaskRec), s.mayPop die = true → bankHead true (s.taskBank die 32) = some (r, rest) →
      
      brings (.taskPop die b1 b2) s fun t => t.mem = s.mem ∧ t.taskBank die 32 = rest
        ∧ ∃ x, KMap.find? t.tasks s.ids = some x ∧ x.bits = r.bits ∧ x.ctx = r.ctx ∧ x.die = die ∧ x.serial = r.serial
          ∧ (x.st = .hold ∨ (x.st = .recording ∧ (x.code = 4 ∧ x.reason ≠ 0 ∨ x.code = 2))))
    ∧ (∀ (k : Nat) (x : Task), KMap.find? s.tasks k = some x →
        let now := fun (e : Instr) (g : Task → Task) => exec e s = .next { s with tasks := KMap.upd s.tasks k g }
        (∀ w p, s.offer = some (w, [p]) → w.kind = .task k →
          brings (.taskCoreChoice k p.core) s fun t => t.mem = s.mem
            ∧ (∃ y, KMap.find? t.tasks k = some y ∧ y.core = p.core ∧ y.st = .staging ∧ y.began = s.pt ∧ y.team = s.ids)
            ∧ (∃ tm, t.team? s.ids = some tm ∧ tm.core = p.core ∧ tm.base = p.base ∧ tm.size = kdScratch x.desc)
            ∧ (∃ ag, t.agent? (s.ids + 1) = some ag ∧ ag.core = p.core ∧ ag.started = false ∧ ag.task = some k ∧ ag.nv = kdNv x.desc
              ∧ ag.width = kdWidth x.desc))
        ∧ (∀ ag tm, x.st = .ready → s.preempting x.ctx = false → s.ctxLive x.ctx = true → s.agent? x.agent = some ag → s.team? x.team = some tm →
          
          brings (.taskDispatch k) s fun t => t.mem = s.mem ∧ (∃ y, KMap.find? t.tasks k = some y ∧ y.st = .running)
            ∧ t.agent? x.agent = some { ag with started := true } ∧ t.team? x.team = some { tm with resident := s.clk, due := s.clk + 8 }
            ∧ (t.core x.core).l1 = [] ∧ (t.core x.core).cc = [])
        ∧ (x.st = .staging → s.taskFull x = true → kdPure x.desc = true → s.reuseOn = true →
          now (.reuseKeyReady k) fun y => { y with st := .keying, due := s.clk + 30, key := s.taskKey x })
        ∧ (x.st = .keying → x.due ≤ s.clk → now (.reuseKeyReady k) fun y => { y with st := .lookup, due := s.clk + if x.die = 0 then 200 else 232 })
        ∧ (x.st = .lookup → x.due ≤ s.clk →
          ((s.reuseOn = false ∨ ∀ e ∈ s.reuse, ¬(e.2.tenant = s.ctxTenant x.ctx ∧ e.2.key = x.key)) →
            now (.reuseLookup k) fun y => { y with st := .ready })
          ∧ (∀ e, s.reuseOn = true → List.find? (fun (e : Nat × ReuseEnt) => e.2.tenant = s.ctxTenant x.ctx && e.2.key = x.key) s.reuse = some e →
            now (.reuseLookup k) fun y => { y with st := .copying, ent := e.1, piece := 0, due := s.clk }))
        ∧ (x.st = .copying → x.parked = false →
          (KMap.find? s.reuse x.ent = none → now (.reuseHitCopyPiece k) fun y => { y with st := .ready })
          ∧ (∀ e, KMap.find? s.reuse x.ent = some e → (copyPieces x e).length ≤ x.piece →
            now (.reuseHitCopyPiece k) fun y => { y with st := .recording, reused := true, due := s.clk })
          ∧ (∀ e p s1 v s2, KMap.find? s.reuse x.ent = some e → (copyPieces x e)[x.piece]? = some p → s.pieceDue x x.piece p ≤ s.clk →
            s.ctxRead x.ctx p.1 p.2.2 = .ok (s1, v) → s1.ctxWrite x.ctx p.2.1 (bytesOf p.2.2 v) = .ok s2 →
            brings (.reuseHitCopyPiece k) s fun t => t.mem = s2.mem))
        ∧ (x.st = .ended →
          brings (.taskOutputDrain k) s fun t => t.mem = s.mem ∧ ∃ y, KMap.find? t.tasks k = some y ∧ y.st = .draining
            ∧ (declWords x.decl = [] → y.outmiss = 0 ∧ t.xops = s.xops))
        ∧ (x.st = .draining → (∀ o ∈ s.xops, ¬(o.2.task = k ∧ o.2.by' = 2)) →
          now (.taskOutputDrain k) fun y => { y with st := .recording, due := s.clk })
        ∧ (x.st = .recording → x.parked = false → x.lost = false → s.mayRecord x = false → 
          (trComp x.bits = 0 → brings (.taskCompletionRecord k) s fun t => KMap.find? t.tasks k = none ∧ t.mem = s.mem)
          ∧ (∀ s1 s2, trComp x.bits ≠ 0 →
            s.ctxWrite x.ctx (trComp x.bits + 8) (bytesOf 8 s.pt ++ bytesOf 8 x.began ++ bytesOf 8 0) = .ok s1 →
            s1.ctxWrite x.ctx (trComp x.bits) (bytesOf 8 (x.code + (if trClass x.bits ≠ 3 ∧ x.dline < s.pt then 16 else 0)
              + (if x.reused then 32 else 0) + x.reason * 2 ^ 8 + x.outmiss * 2 ^ 16 + x.core * 2 ^ 32)) = .ok s2 →
            brings (.taskCompletionRecord k) s fun t => t.mem = s2.mem)))
    ∧ brings .reuseFlush s (fun t => t.reuse = [] ∧ t.tasks = s.tasks ∧ t.agents = s.agents)
    ∧ (∀ (tenant : Nat) (key : List Byte), tenant < 16 →
        brings (.reuseKeyWrite tenant key) s fun t => (∀ e ∈ t.reuse, e.2.tenant ≠ tenant) ∧ t.tasks = s.tasks ∧ t.agents = s.agents)

/-- R386, R387: on an enabled receive flow, the elements of a packet join the frame of its RTP timestamp, and the marker ends it; a newer
timestamp opens a frame behind the others, or with every buffer taken counts one dropped frame; an older one changes no frame; of two
copies on a DUAL flow, the second changes nothing (one whose stamp is older is discarded: log entry 89). R388, R389: an OPEN object becomes
SUBSTITUTED at PT - GUARD, no sooner than the clk after its OPEN; at PT + TROFF the frame starts on the wire under its own RTP
timestamp, from its buffer, or for a SUBSTITUTED one from what the last PRESENTED frame held; its last packet makes a frame PRESENTED.
R381, R394: EN rises only for a valid descriptor, with every object fresh; its fall discards frames and objects, and QPOPs on the
flow stop waiting. R7, R395, R497: a clk passes; pt advances by 0.8 × (1 + r) ns in stages 4 and 5, r within 10^-3.
The model's choices that it rests on: log entries 89, 90 and 95. -/
def Obligations.PortEvents : Prop :=
  ∀ (s : State),
    (∀ (f path seq pos stamp : Nat) (marker : Bool) (es : List Dword), f < 32 → s.flowOn f = true →
      let x := s.flow f
      let dual := s.fdesc f 19 1 = 1
      let e : Instr := .packetReceive f path seq pos stamp marker es
      let kept := fun (t : State) => t.mem = s.mem ∧ t.agents = s.agents ∧ t.bar = s.bar ∧ (∀ g, g ≠ f → t.flow g = s.flow g)
      let taken := fun (a b : RxFrame) => b.stamp = a.stamp ∧ b.hw = a.hw ∧ b.media = a.media
        ∧ b.total = (if marker then min a.total (pos + es.length) else a.total)
        ∧ (∀ (i : Nat) (w : Dword), es[i]? = some w → pos + i < a.total → KMap.find? b.els (pos + i) = some w)
        ∧ ∀ p, (p < pos ∨ pos + es.length ≤ p ∨ a.total ≤ p) → KMap.find? b.els p = KMap.find? a.els p
      (dual → x.seen.contains seq = true → exec e s = .next s)
      ∧ (path = 0 ∨ (dual ∧ path = 1) → ¬(dual ∧ x.seen.contains seq = true) →
        ((∃ fr ∈ x.frames, fr.stamp = stamp) →
          brings e s fun (t : State) => kept t ∧ (t.flow f).frames.length = x.frames.length
            ∧ ∀ (i : Nat) (a b : RxFrame), x.frames[i]? = some a → (t.flow f).frames[i]? = some b → if a.stamp = stamp then taken a b else b = a)
        ∧ ((∀ fr ∈ x.frames, fr.stamp ≠ stamp) →
          (∀ l, x.lastStamp = some l → newer stamp l = false → brings e s fun (t : State) => kept t ∧ (t.flow f).frames = x.frames ∧ (t.flow f).dropped = x.dropped)
          ∧ ((x.lastStamp = none ∨ ∃ l, x.lastStamp = some l ∧ newer stamp l = true) →
            (s.flowBufs f ≤ x.frames.length → x.dropStamp ≠ some stamp →
              brings e s fun (t : State) => kept t ∧ (t.flow f).frames = x.frames ∧ (t.flow f).dropped = x.dropped + 1)
            ∧ (x.frames.length < s.flowBufs f →
              brings e s fun (t : State) => kept t ∧ (t.flow f).lastStamp = some stamp ∧ ∃ b, (t.flow f).frames = x.frames ++ [b]
                ∧ taken { stamp := stamp, total := s.flowTotal f, hw := s.pt, media := b.media } b)))))
    ∧ (∀ f, let x := s.flow f
        (∀ k o, List.find? (fun (q : Nat × SendObj) => q.2.st = 0) x.objs = some (k, o) →
          ((s.pt + s.guard f < o.pt ∨ s.clk ≤ o.opened) → exec (.frameSubstitution f) s = .next s)
          ∧ (o.pt ≤ s.pt + s.guard f → o.opened < s.clk → ∃ x', exec (.frameSubstitution f) s = .next (s.setFlow f x')
              ∧ x' = { x with objs := KMap.put x.objs k { o with st := 3 }, subs := x.subs ++ [o.pt], nsub := x.nsub + 1 }))
        ∧ (s.flowOn f = true →
          (∀ p, x.subs.find? (fun p => decide (p + s.troff f ≤ s.pt)) = some p →
            brings (.frameSendStart f) s fun t => t.mem = s.mem ∧ (t.flow f).subs = x.subs.erase p ∧ (t.flow f).objs = x.objs
              ∧ t.mediaOut = s.mediaOut ++ [(f, p * (if s.flowKind f = 1 then 48000 else 90000) / 10 ^ 9 % 2 ^ 32, x.shown)])
          ∧ (∀ k o, (∀ p ∈ x.subs, s.pt < p + s.troff f) → s.sendDue f = some (k, o) →
            brings (.frameSendStart f) s fun t => t.mem = s.mem ∧ (t.flow f).subs = x.subs
              ∧ t.mediaOut = s.mediaOut ++ [(f, o.pt * (if s.flowKind f = 1 then 48000 else 90000) / 10 ^ 9 % 2 ^ 32, o.buf)]
              ∧ ∃ d, s.clk < d ∧ (t.flow f).objs = KMap.put x.objs k { o with sent := some s.pt, due := some d }))
        ∧ (∀ k o, s.lastDue f = some (k, o) → exec (.frameLastPacket f) s = .next (s.setFlow f
            { x with objs := KMap.put x.objs k { o with st := 2, due := none }, shown := o.buf }))
        ∧ (f < 64 → s.flowOn f = false →
          (s.flowValid f = false → exec (.flowEnable f) s = .next s)
          ∧ (s.flowValid f = true → 
            brings (.flowEnable f) s fun t => t.mem = s.mem ∧ t.flowOn f = true ∧ (t.flow f).frames = [] ∧ (t.flow f).pos = 0
              ∧ (32 ≤ f → (t.flow f).objs.length = s.flowBufs f ∧ ∀ q ∈ (t.flow f).objs, q.2 = ({} : SendObj))))
        ∧ (s.flowOn f = true → 
          brings (.flowDisable f) s fun t => t.mem = s.mem ∧ t.flowOn f = false ∧ (t.flow f).frames = [] ∧ (t.flow f).objs = []
            ∧ (∀ g, g ≠ f → t.flow g = s.flow g)
            ∧ ∀ a fid ag fr, fragOf s a fid ag fr → ∃ ag' fr', fragOf t a fid ag' fr' ∧ (fr.wait = .qpop f → fr'.wait = .none)))
    ∧ (brings .ptTick s fun t => t.clk = s.clk + 1 ∧ t.mem = s.mem ∧ t.bar = s.bar ∧ t.rate = s.rate
        ∧ t.ptAcc = if s.stage = 4 ∨ s.stage = 5 then (s.ptAcc + 8 * (10 ^ 12 + s.rate)).toNat else s.ptAcc)
    ∧ (∀ (r : Int) (lock : Nat) (offs : Dword),
        (-10 ^ 9 ≤ r → r ≤ 10 ^ 9 → -2 ^ 31 ≤ offs.toInt → offs.toInt < 2 ^ 31 → exec (.ptpRateAdjust r lock offs) s =
          .next { s with rate := r, pstat := BitVec.ofNat 64 (lock % 4 + (offs.toNat % 2 ^ 32) * 2 ^ 32) })
        ∧ ((r < -10 ^ 9 ∨ 10 ^ 9 < r) → exec (.ptpRateAdjust r lock offs) s = .next s))

/-- R409: the oldest record goes to FQBASE + 64 × (FQTAIL mod the ring's size), FQTAIL advances, and MSI-X vector 0 is signalled; with the
ring full or FQEN = 0 it waits and OVF is set. R410: RETRY of a stopped group or a parked leat lets it go on at the same instruction or
header, past a BRK, with parked rays and rejected lanes tried again; of a parked sluice operation of a leat it sets SV; of the
builder, a queue, a record write, it goes on. KILL is fatal to the context of the agent, once it is not saved. A token names its
agent once; one that names none changes nothing.
The model's choices that it rests on: log entries 100, 101 and 102. -/
def Obligations.FaultQueueAndResumption : Prop :=
  ∀ (s : State),
    (∀ r rest, s.faultQ = r :: rest →
      let a := s.barFld blkFault 0 52 + 64 * (s.fqTail % 2 ^ (s.barFld blkFault 52 4 + 6))
      let room := s.barFld blkFault 56 1 = 1 ∧ (s.fqTail + 2 ^ 32 - s.fqHead) % 2 ^ 32 ≠ 2 ^ (s.barFld blkFault 52 4 + 6)
      (room → s.onCard a = true → s.reuse = [] → s.barFld (blkHost + 0x201) 32 1 = 0 →
        brings .faultRecordWrite s fun t => t.faultQ = rest ∧ t.mem = wrBytes s.mem a (bytesOf 64 r.toNat) ∧ t.fqTail = (s.fqTail + 1) % 2 ^ 32
          ∧ t.fqHead = s.fqHead ∧ t.agents = s.agents
          ∧ t.hostOut = s.hostOut ++ [((s.barRd (blkHost + 0x200)).toNat, bytesOf 4 (s.barFld (blkHost + 0x201) 0 32))])
      ∧ (¬room → s.faultWait = false → 
        brings .faultRecordWrite s fun t => t.faultQ = s.faultQ ∧ t.barFld blkFault 57 1 = 1 ∧ t.mem = s.mem ∧ t.agents = s.agents
          ∧ t.fqTail = s.fqTail))
    ∧ (∀ token, KMap.find? s.tokens token = none → exec (.faultRetry token) s = .next s ∧ exec (.faultKill token) s = .next s)
    ∧ (∀ token ref, KMap.find? s.tokens token = some ref → 
      let answered := fun (t : State) => KMap.find? t.tokens token = none ∧ t.mem = s.mem ∧ t.teams = s.teams
      (∀ a fid ag fr, ref = .agent a fid → fragOf s a fid ag fr →
        let goes := fun (f : Frag) => if fr.atBrk then f.k = (fr.adv (s.clk + 1)).k ∧ f.h = (fr.adv (s.clk + 1)).h ∧ f.em = fr.em ∧ f.wait = .none
          else f.pc = fr.pc ∧ f.k = fr.k ∧ f.em = fr.em ∧ f.wait = .none ∧ f.phase = 0
        (∀ st, ag.stop = some st → st.token = token → st.fid = fid →
          brings (.faultRetry token) s fun t => answered t ∧ (∀ b, b ≠ a → t.agent? b = s.agent? b)
            ∧ ∃ ag' fr', fragOf t a fid ag' fr' ∧ goes fr' ∧ ag'.stop = none ∧ ag'.sregs = ag.sregs ∧ ag'.vregs = ag.vregs
              ∧ (st.held = true → (∀ o ∈ ag'.ops, o.rej = none) ∧ ∀ q ∈ ag'.rays, q.2.st ≠ .parked))
        ∧ (ag.stop = none → fr.wait = .stopped token →
          brings (.faultRetry token) s fun t => answered t ∧ (∀ b, b ≠ a → t.agent? b = s.agent? b)
            ∧ ∃ ag' fr', fragOf t a fid ag' fr' ∧ goes fr' ∧ ag'.sregs = ag.sregs ∧ ag'.vregs = ag.vregs)
        ∧ ((s.teamOf ag).saved = false → KMap.find? s.fatals ag.ctx = none →
          brings (.faultKill token) s fun t => answered t ∧ t.agents = s.agents ∧ t.agenda = .fatalDiscard ag.ctx :: s.agenda
            ∧ ∃ r, KMap.find? t.fatals ag.ctx = some (r, false) ∧ r.toNat % 2 ^ 11 = 36 + 2 * 2 ^ 8)
        ∧ ((s.teamOf ag).saved = true → ∀ tm, s.team? ag.team = some tm →
          brings (.faultKill token) s fun t => KMap.find? t.tokens token = none ∧ t.mem = s.mem ∧ t.agents = s.agents ∧ t.fatals = s.fatals
            ∧ t.team? ag.team = some { tm with killed := true }))
      ∧ (∀ x o, ref = .sluice x → KMap.find? s.xops x = some o → o.by' ≠ 2 →
        brings (.faultRetry token) s fun t => answered t ∧ t.agents = s.agents ∧ KMap.find? t.xops x = some { o with sv := true })
      ∧ (∀ die r, ref = .builder die → (s.builder die).run = some r →
        brings (.faultRetry token) s fun t => answered t ∧ t.agents = s.agents ∧ (t.builder die).run = some { r with parked := false, fault := none })
      ∧ (∀ q, ref = .queue q → (s.qState q).parked = true → 
        brings (.faultRetry token) s fun t => answered t ∧ t.agents = s.agents ∧ (t.qState q).parked = false)
      ∧ (∀ g y, ref = .gridRec g → KMap.find? s.grids g = some y → y.st = .parked →
        brings (.faultRetry token) s fun t => answered t ∧ t.agents = s.agents ∧ KMap.find? t.grids g = some { y with st := .rec1, due := s.clk })
      ∧ (∀ k y, ref = .taskRec k → KMap.find? s.tasks k = some y →
        brings (.faultRetry token) s fun t => answered t ∧ t.agents = s.agents ∧ KMap.find? t.tasks k = some { y with parked := false }))

/-- R416: an invalidation drops the translations that it covers from every TLB and walker and sets TIBUSY, which falls 64 or 512 clk later
at the earliest, with no covered access in flight. R423: KILL is fatal: DEAD is set; the discard leaves no agent, team, handle or
engine operation of the context, and its grids and tasks go to their records; with those written, the fatal record goes to the fault
queue. R411: DEAD is cleared, unless the discard runs. R425, R431: a pre-emption begins once; over the budget it ends in WATCHDOG. R425 to
R427: with every agent at a yield point the save starts, 600 clk and more long; at its end every team of the context has left
residency. R428, R430: a restored team is resident at its new place, its groups not started before 600 clk.
The model's choices that it rests on: log entries 48, 103, 104, 105 and 106. -/
def Obligations.ContextsAndTranslations : Prop :=
  ∀ (s : State),
    (∀ (sc ctx va : Nat) (e : Instr), (sc = 0 ∧ va % 4096 = 0 ∧ e = .tlbInvalidatePage ctx (va / 4096)) ∨ (sc = 1 ∧ e = .tlbInvalidateContext ctx)
        ∨ (sc = 2 ∧ e = .tlbInvalidateAll) →
      (s.tlbInv.isSome = true → exec e s = .next s)
      ∧ (s.tlbInv = none → 
        brings e s fun t => t.mem = s.mem ∧ t.barFld (blkFault + 3) 63 1 = 1
          ∧ (∀ core ent, ent ∈ (t.core core).tlb ↔ ent ∈ (s.core core).tlb ∧ ¬(sc = 2 ∨ (sc = 1 ∧ ent.ctx = ctx) ∨ (sc = 0 ∧ ent.covers ctx va = true)))
          ∧ (∀ w ∈ t.walks, w ∈ s.walks ∧ ¬(sc = 2 ∨ (sc = 1 ∧ w.2.ctx = ctx) ∨ (sc = 0 ∧ w.2.ctx = ctx ∧ w.2.va / 2 ^ 16 = va / 2 ^ 16)))
          ∧ ∃ i, t.tlbInv = some i ∧ i.scope = sc ∧ i.due = s.clk + (if sc = 0 then 64 else 512)))
    ∧ (∀ i, s.tlbInv = some i →
      (s.clk < i.due → exec .tlbInvalidationDone s = .next s)
      ∧ (i.due ≤ s.clk → i.ops = [] → i.pieces = [] → 
        brings .tlbInvalidationDone s fun t => t.tlbInv = none ∧ t.barFld (blkFault + 3) 63 1 = 0 ∧ t.mem = s.mem ∧ t.agents = s.agents))
    ∧ (∀ ctx, ctx < 64 →
      let work := fun (t : State) => t.mem = s.mem ∧ t.agents = s.agents ∧ t.teams = s.teams
      (KMap.find? s.fatals ctx = none → 
        (brings (.contextKill ctx) s fun t => work t ∧ t.ctxDead ctx = true ∧ t.agenda = .fatalDiscard ctx :: s.agenda
          ∧ ∃ r, KMap.find? t.fatals ctx = some (r, false) ∧ r.toNat % 2 ^ 11 = 36 + 2 * 2 ^ 8)
        ∧ (brings (.contextDeadClear ctx) s fun t => work t ∧ t.ctxDead ctx = false ∧ t.ctxEn ctx = s.ctxEn ctx)
        ∧ (s.preempting ctx = false → exec (.contextPreempt ctx) s = .next { s with preempts := KMap.put s.preempts ctx { pt := s.pt } }))
      ∧ ((KMap.find? s.fatals ctx).isSome = true → exec (.contextDeadClear ctx) s = .next s ∧ exec (.contextKill ctx) s = .next s
        ∧ exec (.contextPreempt ctx) s = .next s)
      ∧ (s.preempting ctx = true → exec (.contextPreempt ctx) s = .next s)
      ∧ (∀ r, KMap.find? s.fatals ctx = some (r, false) → s.agents.all (fun (q : Nat × Agent) => q.2.ctx ≠ ctx || q.2.ops.isEmpty) = true → 
        brings (.fatalDiscard ctx) s fun t =>
          (∀ q ∈ t.agents, q.2.ctx ≠ ctx) ∧ (∀ q ∈ t.teams, q.2.ctx ≠ ctx) ∧ (∀ q ∈ t.xops, q.2.ctx ≠ ctx)
          ∧ (∀ die b, KMap.find? t.builders die = some b → die < 2 → (∀ c ∈ b.queue, c.ctx ≠ ctx) ∧ ∀ run, b.run = some run → run.cmd.ctx ≠ ctx)
          ∧ (∀ q ∈ t.grids, q.2.ctx = ctx → q.2.st = .rec1 ∧ q.2.code = 3) ∧ (∀ q ∈ t.tasks, q.2.ctx = ctx → q.2.st = .recording ∧ q.2.code = 3)
          ∧ (∀ a ag, s.agent? a = some ag → ag.ctx ≠ ctx → ∃ ag', t.agent? a = some ag' ∧ { ag' with spill := ag.spill } = ag)
          ∧ KMap.find? t.fatals ctx = some (r, true))
      ∧ (∀ r, KMap.find? s.fatals ctx = some (r, true) → 
        ((∃ q ∈ s.grids, q.2.ctx = ctx) → exec (.fatalDiscard ctx) s = .next s)
        ∧ ((∀ q ∈ s.grids, q.2.ctx ≠ ctx) → (∀ q ∈ s.tasks, q.2.ctx ≠ ctx) →
          brings (.fatalDiscard ctx) s fun t => work t ∧ KMap.find? t.fatals ctx = none ∧ t.faultQ = s.faultQ ++ [r]))
      ∧ (s.overBudget ctx = false → exec (.yieldBudgetExpiry ctx) s = .next s)
      ∧ (s.overBudget ctx = true → KMap.find? s.fatals ctx = none → 
        brings (.yieldBudgetExpiry ctx) s fun t => work t ∧ t.ctxDead ctx = true
          ∧ ∃ r, KMap.find? t.fatals ctx = some (r, false) ∧ r.toNat % 2 ^ 11 = 32 + 2 * 2 ^ 8)
      ∧ (s.maySave ctx = false → exec (.contextSave ctx) s = .next s)
      ∧ (∀ p, s.maySave ctx = true → KMap.find? s.preempts ctx = some p →
        brings (.contextSave ctx) s fun t => t.mem = s.mem ∧ t.teams = s.teams
          ∧ (∃ d, KMap.find? t.preempts ctx = some { p with saving := some d } ∧ s.clk ≤ d ∧ (s.residents ctx ≠ [] → s.clk + 600 ≤ d))
          ∧ ∀ a ag ag', s.agent? a = some ag → (a, ag) ∈ s.residents ctx → t.agent? a = some ag' → ag'.latched = true)
      ∧ (∀ p d, KMap.find? s.preempts ctx = some p → p.saving = some d →
        (s.clk < d → exec (.contextSaveDone ctx) s = .next s)
        ∧ (d ≤ s.clk → 
          brings (.contextSaveDone ctx) s fun t => t.mem = s.mem ∧ KMap.find? t.preempts ctx = none
            ∧ (∀ q ∈ s.residents ctx, ∀ tm, s.team? q.2.team = some tm → ∃ tm', t.team? q.2.team = some tm' ∧ tm'.saved = true ∧ tm'.core = tm.core)
            ∧ ∀ a ag, s.agent? a = some ag → (∀ q ∈ s.residents ctx, ∀ tm, s.team? q.2.team = some tm → a ∉ tm.groups ∧ a ∉ tm.leats) →
              t.agent? a = some ag)))
    ∧ (∀ team tm w p, s.offer = some (w, [p]) → w.kind = .saved team → s.team? team = some tm → tm.strip = [] → tm.killed = false → tm.saved = true →
      brings (.teamRestore team) s fun t => t.mem = s.mem ∧ (∃ tm', t.team? team = some tm' ∧ tm'.saved = false ∧ tm'.core = p.core ∧ tm'.base = p.base
          ∧ tm'.scr = tm.scr ∧ s.clk + 604 ≤ tm'.due)
        ∧ ∀ a ∈ tm.groups, a ∉ tm.leats → ∀ ag, s.agent? a = some ag → ∃ ag', t.agent? a = some ag' ∧ ag'.core = (p.place tm.pair ag.gidx).1
          ∧ ag'.part = (p.place tm.pair ag.gidx).2 ∧ ag'.sregs = ag.sregs ∧ ag'.vregs = ag.vregs ∧ ag'.frags = ag.frags)

/-- R455, R456, R497: from stage 5 on the host writes the card's memory and reads it, and its writes of 4 or 8 naturally aligned
bytes go to the register blocks; a read of a register of another size returns all ones. R457, R274: FetchAdd, Swap and CAS of 4 or 8
bytes write their result and return the old value; one that the scope examination refuses, or of another kind, completes with no
value. R5: RW bits take the value, W1C bits that are written 1 clear, RO bits stay; 4 bytes leave the other half. R456, R497: a misaligned
write, and one outside the host block before stage 5, change nothing. R152: a write of TAIL is a doorbell. R408: writes of dwords 2, 3
and 4 are commands, and TIBUSY turns one of dword 3 away. R474: wall registers hold still while EN = 1.
The model's choices that it rests on: log entries 107 and 110. -/
def Obligations.HostRequests : Prop :=
  ∀ (s : State),
    (∀ (off n : Nat) (v : Dword), ((n ≠ 4 ∧ n ≠ 8) ∨ off % n ≠ 0 ∨ (s.stage ≠ 5 ∧ ¬(0x50_0000 ≤ off ∧ off < 0x60_0000))) →
      exec (.registerWrite off n v) s = .next s)
    ∧ (s.stage = 5 → ∀ (v : Dword),
      let sets := fun (off : Nat) (x : Dword) => brings (.registerWrite off 8 v) s fun t =>
        t.barRd (off / 8) = x ∧ (∀ i, i ≠ off / 8 → t.barRd i = s.barRd i) ∧ { t with bar := s.bar } = s
      let old := fun (off : Nat) => s.barRd (off / 8)
      (∀ c, c < 64 →
        (∀ k ∈ [5, 6], sets (0x40_0000 + 64 * c + 8 * k) v)
        ∧ sets (0x40_0000 + 64 * c + 8) ((old (0x40_0000 + 64 * c + 8) &&& ~~~0xFF_FFFF_FFFF#64) ||| (v &&& 0xFF_FFFF_FFFF#64))
        ∧ sets (0x40_0000 + 64 * c + 16) ((old (0x40_0000 + 64 * c + 16) &&& ~~~0xFFFF_FFFF_FFF8#64) ||| (v &&& 0xFFFF_FFFF_FFF8#64))
        ∧ sets (0x40_0000 + 64 * c + 24) ((old (0x40_0000 + 64 * c + 24) &&& ~~~0xFFFF_FFFF#64) ||| (v &&& 0xFFFF_FFFF#64)))
      ∧ sets 0x30_0000 (((old 0x30_0000 &&& ~~~0x1FF_FFFF_FFFF_FFFF#64) ||| (v &&& 0x1FF_FFFF_FFFF_FFFF#64)) &&& ~~~(v &&& 0x200_0000_0000_0000#64))
      ∧ sets 0x30_0008 ((old 0x30_0008 &&& ~~~0xFFFF_FFFF#64) ||| (v &&& 0xFFFF_FFFF#64))
      ∧ sets 0x50_0008 (old 0x50_0008 &&& ~~~(v &&& 0xF#64))
      ∧ sets 0x50_0020 (if 1 ≤ v.toNat ∧ v.toNat ≤ 50000 then v else old 0x50_0020)
      ∧ sets 0x50_0100 (old 0x50_0100)
      ∧ (s.wallEn = false → (∀ off ∈ [0x70_0008, 0x70_0018, 0x70_0020], sets off v) ∧ sets 0x70_0028 (if v = 0 then old 0x70_0028 else v))
      ∧ (s.wallEn = true → ∀ off ∈ [0x70_0008, 0x70_0010, 0x70_0018, 0x70_0020, 0x70_0028], sets off (old off))
      ∧ (∀ c, c < 64 → brings (.registerWrite (0x40_0000 + 64 * c + 44) 4 v) s fun t =>
          t.barRd (0x8_0000 + 8 * c + 5) = (s.barRd (0x8_0000 + 8 * c + 5) &&& 0xFFFF_FFFF#64) ||| (v <<< 32)))
    ∧ (s.stage = 5 → ∀ (v : Dword),
      let tells := fun (off : Nat) (es : List Ev) => brings (.registerWrite off 8 v) s fun t => t.agenda = es ++ s.agenda ∧ t.mem = s.mem
      (∀ q, q < 64 → tells (32 * q + 24) [.doorbell q (fldN v 0 32)])
      ∧ (fldN v 32 2 = 0 → tells 0x30_0010 [.faultRetry (fldN v 0 32)])
      ∧ (fldN v 32 2 = 1 → tells 0x30_0010 [.faultKill (fldN v 0 32)])
      ∧ (s.tlbInv.isSome = true → exec (.registerWrite 0x30_0018 8 v) s = .next s)
      ∧ (s.tlbInv = none → fldN v 42 2 = 0 → tells 0x30_0018 [.tlbInvalidatePage (fldN v 36 6) (fldN v 0 36)])
      ∧ (s.tlbInv = none → fldN v 42 2 = 1 → tells 0x30_0018 [.tlbInvalidateContext (fldN v 36 6)])
      ∧ (s.tlbInv = none → fldN v 42 2 = 2 → tells 0x30_0018 [.tlbInvalidateAll])
      ∧ (fldN v 6 2 = 1 → tells 0x30_0020 [.contextPreempt (fldN v 0 6)])
      ∧ (fldN v 6 2 = 2 → tells 0x30_0020 [.contextKill (fldN v 0 6)])
      ∧ (v.getLsbD 0 = true → tells 0x10_0000 [.ergwSizeWrite 0 v] ∧ tells 0x50_0018 [.hablClear] ∧ tells 0x60_0000 [.fabcfgWrite v]
          ∧ ∀ f, f < 64 → tells (0x20_0000 + 64 * f) [.flowEnable f]))
    ∧ (∀ (off : Nat) (bytes : List Byte) (pa : Nat), s.barMem off = some pa → (s.barMem (off + bytes.length - 1)).isSome = true → bytes ≠ [] →
      (s.stage ≠ 5 → exec (.inboundMemWrite off bytes) s = .next s)
      ∧ (s.stage = 5 → s.reuse = [] → brings (.inboundMemWrite off bytes) s fun t => t.mem = wrBytes s.mem pa bytes
          ∧ t.agents = s.agents ∧ t.teams = s.teams ∧ t.bar = s.bar))
    ∧ (∀ (off : Nat) (bytes : List Byte), 0x3F_0000_0000 ≤ off → off < 0x3F_0080_0000 →
      let i := (off - 0x3F_0000_0000) / 8
      ((bytes.length = 4 ∨ bytes.length = 8) → off % bytes.length = 0 → runnerOnly i = false → i ≠ 0xA_0021 →
        exec (.inboundMemWrite off bytes) s = .next (s.happen [.registerWrite (off - 0x3F_0000_0000) bytes.length (BitVec.ofNat 64 (numOf bytes))]))
      ∧ ((runnerOnly i = true ∨ (bytes.length ≠ 4 ∧ bytes.length ≠ 8) ∨ off % bytes.length ≠ 0) → exec (.inboundMemWrite off bytes) s = .next s))
    ∧ (∀ (off n : Nat), let returns := fun (bs : List Byte) => exec (.inboundMemRead off n) s = .next { s with answers := s.answers ++ [(off, bs)] }
      (∀ pa, s.barMem off = some pa → (s.barMem (off + n - 1)).isSome = true → s.stage = 5 → returns (rdBytes s.mem n pa))
      ∧ (0x3F_0000_0000 ≤ off → off < 0x3F_0080_0000 →
        (n = 8 → off % 8 = 0 → returns (bytesOf 8 (s.regRead ((off - 0x3F_0000_0000) / 8)).toNat))
        ∧ ((n ≠ 4 ∧ n ≠ 8) → returns (List.replicate n 0xFF))))
    ∧ (∀ (off kind width pa : Nat) (x y : Dword), s.barMem off = some pa →
      let e : Instr := .inboundAtomicop off kind width x y
      (s.stage = 5 → (width = 4 ∨ width = 8) → kind ∈ [0, 8, 9] → off % width = 0 →
        let old := s.readN width pa
        let m := 2 ^ (8 * width)
        (∀ s2, s.scopeOne (hostIdent s.card) 3 (some 1) pa = (true, s2) → s.reuse = [] →
          let new := if kind = 0 then (old + x.toNat % m) % m else if kind = 8 then x.toNat % m
            else if old = x.toNat % m then y.toNat % m else old
          
          brings e s fun t => t.answers = s.answers ++ [(off, bytesOf width old)] ∧ t.readN width pa = new
            ∧ (∀ b, ¬(pa ≤ b ∧ b < pa + width) → rdB t.mem b = rdB s.mem b) ∧ t.agents = s.agents ∧ t.lines = s2.lines)
        ∧ ((s.scopeOne (hostIdent s.card) 3 (some 1) pa).1 = false → exec e s = .next { s with answers := s.answers ++ [(off, [])] }))
      ∧ ((s.stage ≠ 5 ∨ (width ≠ 4 ∧ width ≠ 8) ∨ kind ∉ [0, 8, 9]) → exec e s = .next { s with answers := s.answers ++ [(off, [])] }))

/-- R213, R214: SIZE up to 192 takes effect unless BUSY, bytes that leave or join the window read zero, and BUSY lasts
64 + ceil(L / 75) clk, longer for a growth's write-backs. R498: a refresh closes the channel's next bank; R492: the scrub writes corrected
data and changes no memory. R489 to R491: the runner's caps, its power step, the sensors and HOT; the board cuts power, and all state is
lost; a reset too, but for the fused minimum SVNs. R494 to R497: the stages in order; an image accepted is measured, any other ends in
stage 15 with the reason; training zeroes memory and starts pt; a quote holds the measurements and the nonce; a fused minimum only
rises, and not above the running SVN.
The model's choices that it rests on: log entries 10, 108, 109, 110 and 113. -/
def Obligations.BoardEvents : Prop :=
  ∀ (s : State), 
    let stays := fun (t : State) => t.mem = s.mem ∧ t.agents = s.agents ∧ t.teams = s.teams
    (∀ (die : Nat) (v : Dword), die < 2 →
      let n := fldN v 0 8
      let old := s.barFld (0x2_0000 + die) 0 8
      let base := 0x100_0000_0000 + 0x2000_0000 * die
      ((192 < n ∨ s.barFld (0x2_0000 + die) 8 1 = 1) → exec (.ergwSizeWrite die v) s = .next s)
      ∧ (n ≤ 192 → s.barFld (0x2_0000 + die) 8 1 = 0 → 
        brings (.ergwSizeWrite die v) s fun t => t.ergSize die = n * 2 ^ 21 ∧ t.barFld (0x2_0000 + die) 8 1 = 1
          ∧ (∀ a, base + min n old * 2 ^ 21 ≤ a → a < base + max n old * 2 ^ 21 → rdB t.mem a = 0)
          ∧ (∀ a, ¬(base + min n old * 2 ^ 21 ≤ a ∧ a < base + max n old * 2 ^ 21) → rdB t.mem a = rdB s.mem a)
          ∧ ∃ d, KMap.find? t.ergDone die = some d ∧ s.clk + 64 + ((max n old - min n old) * 2 ^ 14 + 74) / 75 ≤ d
            ∧ (n ≤ old → d = s.clk + 64 + ((old - n) * 2 ^ 14 + 74) / 75))
      ∧ (∀ d, KMap.find? s.ergDone die = some d →
        (s.clk < d → exec (.ergwChangeDone die) s = .next s)
        ∧ (d ≤ s.clk → brings (.ergwChangeDone die) s fun t => stays t ∧ t.barFld (0x2_0000 + die) 8 1 = 0 ∧ t.ergSize die = s.ergSize die)))
    ∧ (∀ ch r, KMap.find? s.refresh ch = some r →
      (s.clk < r.start + 304 * (r.count + 1) → exec (.gddrRefresh ch) s = .next s)
      ∧ (r.start + 304 * (r.count + 1) ≤ s.clk → 
        brings (.gddrRefresh ch) s fun t => stays t ∧ KMap.find? t.refresh ch = some { r with count := r.count + 1 }
          ∧ KMap.find? t.openRows (16 * ch + r.count % 16) = none
          ∧ ∀ b, b ≠ 16 * ch + r.count % 16 → KMap.find? t.openRows b = KMap.find? s.openRows b))
    ∧ (∀ pa, (KMap.find? s.bad (pa / 128) = none → exec (.patrolScrub pa) s = .next s)
      ∧ (∀ unc, KMap.find? s.bad (pa / 128) = some unc → 
        brings (.patrolScrub pa) s fun t => stays t ∧ t.openRows = s.openRows ∧ KMap.find? t.bad (pa / 128) = none
          ∧ t.barFld 0xA_0024 (if unc then 32 else 0) 32 = min (s.barFld 0xA_0024 (if unc then 32 else 0) 32 + 1) (2 ^ 32 - 1)
          ∧ t.barFld 0xA_0024 (if unc then 0 else 32) 32 = s.barFld 0xA_0024 (if unc then 0 else 32) 32
          ∧ (unc = true → t.barFld 0xA_0025 63 1 = 1 ∧ t.barFld 0xA_0025 0 52 = pa / 128 * 128 % 2 ^ 52)))
    ∧ (∀ v : Dword, exec (.lvcapWrite v false) s = .next s
      ∧ (fldN v 0 9 ≤ 328 → fldN v 16 9 ≤ 328 → brings (.lvcapWrite v true) s fun t => stays t ∧ t.lvcap 0 = fldN v 0 9 ∧ t.lvcap 1 = fldN v 16 9))
    ∧ (let w := s.barFld 0xA_0023 0 16
       let hot := s.barFld 0xA_0022 1 1 = 1
       ((s.stage ≠ 5 ∨ s.clk < s.steer) → exec .runnerPowerStep s = .next s)
       ∧ (s.stage = 5 → s.steer ≤ s.clk → brings .runnerPowerStep s fun t => stays t ∧ t.steer = s.clk + 1250000
          ∧ (∀ d, d < 2 → (6600 < w ∨ hot → t.lvcap d = s.lvcap d - 16)
            ∧ (w < 6000 → ¬hot → s.lvcap d < 160 → t.lvcap d = min 160 (s.lvcap d + 16))
            ∧ (6000 ≤ w → w ≤ 6600 → ¬hot → t.lvcap d = s.lvcap d))
          ∧ t.barFld 0xA_0022 0 1 = (if 6400 < w then 1 else if w < 6000 then 0 else s.barFld 0xA_0022 0 1)))
    ∧ (∀ (w : Nat) (ts : List Nat), w < 2 ^ 16 → ts.length = 7 →
      brings (.sensorUpdate w ts) s fun t => stays t ∧ t.barRd 0xA_0023 = BitVec.ofNat 64 w
        ∧ t.barRd 0xA_0044 = BitVec.ofNat 64 (w + 2 ^ 63)
        ∧ (∀ i, i < 4 → t.barRd (0xA_0040 + i) = BitVec.ofNat 64 (ts.getD i 0 % 2 ^ 16 + 2 ^ 63))
        ∧ (∀ i, 5 ≤ i → i < 8 → t.barRd (0xA_0040 + i) = BitVec.ofNat 64 (ts.getD (i - 1) 0 % 2 ^ 16 + 2 ^ 63))
        ∧ (t.barFld 0xA_0022 1 1 = 1 ↔ ∃ i, i < 2 ∧ 1600 ≤ ts.getD i 0 % 2 ^ 16 ∧ ts.getD i 0 % 2 ^ 16 < 2 ^ 15))
    ∧ (let lost := { State.reset with fusedSvn := s.fusedSvn, clk := s.clk, free := s.free, inputs := s.inputs }
       (∀ w temp ms, ((7430 < w ∧ 10 ≤ ms) ∨ 1840 ≤ temp → exec (.boardPowerCut w temp ms) s = .next { lost with power := false })
         ∧ ((w ≤ 7430 ∨ ms < 10) → temp < 1840 → exec (.boardPowerCut w temp ms) s = .next s))
       ∧ exec .reset s = .next lost)
    ∧ (let fw := fun (t : State) (n reason : Nat) => t.stage = n ∧ t.barFld 0xA_0020 8 8 = reason
       (s.stage = 0 → brings .linkTrained s fun t => stays t ∧ fw t 1 0 ∧ t.barRd 0xA_0000 = 0x1D0#64)
       ∧ (∀ (kind : Nat) (im : List Byte) (e : Instr), (kind = 1 ∧ e = .monitorVerify im) ∨ (kind = 2 ∧ e = .runnerVerify im) →
         (s.stage ≠ kind → exec e s = .next s)
         ∧ (s.stage = kind →
           (s.accepts kind im = false → brings e s fun t => stays t ∧ fw t 15 kind ∧ t.mrs = s.mrs)
           ∧ (s.accepts kind im = true → brings e s fun t => stays t ∧ fw t (kind + 1) 0 ∧ KMap.find? t.runSvn kind = some (imageSvn im)
              ∧ t.mrs = s.mrs.set (kind - 1) (sha3_512 (s.mrs.getD (kind - 1) [] ++ sha3_512 (im.take (128 + numOf ((im.drop 16).take 8))))))))
       ∧ (s.stage = 3 → brings (.memoryTrained true) s (fun t => fw t 4 0 ∧ t.mem = [] ∧ t.pt = 0)
         ∧ brings (.memoryTrained false) s (fun t => stays t ∧ fw t 15 3))
       ∧ (s.stage = 4 → (brings (.deviceReady none) s fun t => stays t ∧ fw t 5 0 ∧ t.ptAcc = s.ptAcc ∧ t.pstat = s.pstat)
         ∧ ∀ tm, tm < 2 ^ 64 → brings (.deviceReady (some tm)) s fun t => stays t ∧ fw t 5 0 ∧ s.ptAcc ≤ t.ptAcc ∧ tm * 10 ^ 13 ≤ t.ptAcc
             ∧ (t.ptAcc = s.ptAcc ∨ t.ptAcc = tm * 10 ^ 13) ∧ t.pstat ≠ 0)
       ∧ ((s.stage ≠ 0 → exec .linkTrained s = .next s) ∧ (s.stage ≠ 3 → ∀ ok, exec (.memoryTrained ok) s = .next s)
         ∧ (s.stage ≠ 4 → ∀ g, exec (.deviceReady g) s = .next s)))
    ∧ (∀ nonce : List Byte, nonce.length = 64 → (KMap.find? s.runSvn 1).isSome = true → s.mrs.length = 4 → (∀ m ∈ s.mrs, m.length = 64) →
      brings (.attestationRequest nonce) s fun t => stays t ∧ t.quote.take 256 = s.mrs.flatten ∧ (t.quote.drop 256).take 64 = nonce
        ∧ (t.quote.drop 320).take 8 = bytesOf 8 s.pt ∧ t.mrs = s.mrs)
    ∧ (∀ kind svn, let min := (KMap.find? s.fusedSvn kind).getD 0
      (∀ run, KMap.find? s.runSvn kind = some run → svn ≤ run → min < svn →
        exec (.svnRaiseRequest kind svn) s = .next { s with fusedSvn := KMap.put s.fusedSvn kind svn })
      ∧ ((KMap.find? s.runSvn kind = none ∨ (∃ run, KMap.find? s.runSvn kind = some run ∧ run < svn) ∨ svn ≤ min) →
        exec (.svnRaiseRequest kind svn) s = .next s))
end

