-- ==== Sys2Proof/Laws/Encoding.lean ====
section
/-!
SUPPORT. Decoding the word that is put together from a format's fields gives them back; putting the decoded fields of a word
together gives the word back.
-/
namespace Sys2Proof

theorem FS3.dec_enc (opc : BitVec 8) (f : FS3) : FS3.dec (FS3.enc opc f) = f := by
  cases f
  simp only [FS3.dec, FS3.enc, fld, FS3.mk.injEq]
  refine ⟨?_, ?_, ?_, ?_, ?_, ?_, ?_, ?_, ?_, ?_⟩ <;>
  · ext i hi
    simp only [BitVec.getElem_extractLsb', BitVec.getLsbD_append]
    rw [← BitVec.getLsbD_eq_getElem hi]
    repeat (first | rw [if_neg (by omega)] | rw [if_pos (by omega)])
    congr 1 <;> omega

theorem FS3.opc_enc (opc : BitVec 8) (f : FS3) : fld (FS3.enc opc f) 56 8 = opc := by
  simp only [FS3.enc, fld]
  ext i hi
  simp only [BitVec.getElem_extractLsb', BitVec.getLsbD_append]
  rw [← BitVec.getLsbD_eq_getElem hi]
  repeat (first | rw [if_neg (by omega)] | rw [if_pos (by omega)])
  congr 1 <;> omega

theorem FS3.enc_dec (w : Dword) : FS3.enc (fld w 56 8) (FS3.dec w) = w := by
  apply BitVec.eq_of_getLsbD_eq
  intro i hi
  unfold FS3.enc
  simp only [BitVec.getLsbD_append]
  repeat' split
  all_goals (simp only [FS3.dec, fld, BitVec.getLsbD_extractLsb']; rw [decide_eq_true (by omega), Bool.true_and]; congr 1; omega)

theorem FSI.dec_enc (opc : BitVec 8) (f : FSI) : FSI.dec (FSI.enc opc f) = f := by
  cases f
  simp only [FSI.dec, FSI.enc, fld, FSI.mk.injEq]
  refine ⟨?_, ?_, ?_, ?_, ?_, ?_, ?_⟩ <;>
  · ext i hi
    simp only [BitVec.getElem_extractLsb', BitVec.getLsbD_append]
    rw [← BitVec.getLsbD_eq_getElem hi]
    repeat (first | rw [if_neg (by omega)] | rw [if_pos (by omega)])
    congr 1 <;> omega

theorem FSI.opc_enc (opc : BitVec 8) (f : FSI) : fld (FSI.enc opc f) 56 8 = opc := by
  simp only [FSI.enc, fld]
  ext i hi
  simp only [BitVec.getElem_extractLsb', BitVec.getLsbD_append]
  rw [← BitVec.getLsbD_eq_getElem hi]
  repeat (first | rw [if_neg (by omega)] | rw [if_pos (by omega)])
  congr 1 <;> omega

theorem FSI.enc_dec (w : Dword) : FSI.enc (fld w 56 8) (FSI.dec w) = w := by
  apply BitVec.eq_of_getLsbD_eq
  intro i hi
  unfold FSI.enc
  simp only [BitVec.getLsbD_append]
  repeat' split
  all_goals (simp only [FSI.dec, fld, BitVec.getLsbD_extractLsb']; rw [decide_eq_true (by omega), Bool.true_and]; congr 1; omega)

theorem FV3.dec_enc (opc : BitVec 8) (f : FV3) : FV3.dec (FV3.enc opc f) = f := by
  cases f
  simp only [FV3.dec, FV3.enc, fld, FV3.mk.injEq]
  refine ⟨?_, ?_, ?_, ?_, ?_, ?_, ?_, ?_, ?_⟩ <;>
  · ext i hi
    simp only [BitVec.getElem_extractLsb', BitVec.getLsbD_append]
    rw [← BitVec.getLsbD_eq_getElem hi]
    repeat (first | rw [if_neg (by omega)] | rw [if_pos (by omega)])
    congr 1 <;> omega

theorem FV3.opc_enc (opc : BitVec 8) (f : FV3) : fld (FV3.enc opc f) 56 8 = opc := by
  simp only [FV3.enc, fld]
  ext i hi
  simp only [BitVec.getElem_extractLsb', BitVec.getLsbD_append]
  rw [← BitVec.getLsbD_eq_getElem hi]
  repeat (first | rw [if_neg (by omega)] | rw [if_pos (by omega)])
  congr 1 <;> omega

theorem FV3.enc_dec (w : Dword) : FV3.enc (fld w 56 8) (FV3.dec w) = w := by
  apply BitVec.eq_of_getLsbD_eq
  intro i hi
  unfold FV3.enc
  simp only [BitVec.getLsbD_append]
  repeat' split
  all_goals (simp only [FV3.dec, fld, BitVec.getLsbD_extractLsb']; rw [decide_eq_true (by omega), Bool.true_and]; congr 1; omega)

theorem FVI.dec_enc (opc : BitVec 8) (f : FVI) : FVI.dec (FVI.enc opc f) = f := by
  cases f
  simp only [FVI.dec, FVI.enc, fld, FVI.mk.injEq]
  refine ⟨?_, ?_, ?_, ?_, ?_, ?_, ?_⟩ <;>
  · ext i hi
    simp only [BitVec.getElem_extractLsb', BitVec.getLsbD_append]
    rw [← BitVec.getLsbD_eq_getElem hi]
    repeat (first | rw [if_neg (by omega)] | rw [if_pos (by omega)])
    congr 1 <;> omega

theorem FVI.opc_enc (opc : BitVec 8) (f : FVI) : fld (FVI.enc opc f) 56 8 = opc := by
  simp only [FVI.enc, fld]
  ext i hi
  simp only [BitVec.getElem_extractLsb', BitVec.getLsbD_append]
  rw [← BitVec.getLsbD_eq_getElem hi]
  repeat (first | rw [if_neg (by omega)] | rw [if_pos (by omega)])
  congr 1 <;> omega

theorem FVI.enc_dec (w : Dword) : FVI.enc (fld w 56 8) (FVI.dec w) = w := by
  apply BitVec.eq_of_getLsbD_eq
  intro i hi
  unfold FVI.enc
  simp only [BitVec.getLsbD_append]
  repeat' split
  all_goals (simp only [FVI.dec, fld, BitVec.getLsbD_extractLsb']; rw [decide_eq_true (by omega), Bool.true_and]; congr 1; omega)

theorem FMEM.dec_enc (opc : BitVec 8) (f : FMEM) : FMEM.dec (FMEM.enc opc f) = f := by
  cases f
  simp only [FMEM.dec, FMEM.enc, fld, FMEM.mk.injEq]
  refine ⟨?_, ?_, ?_, ?_, ?_, ?_, ?_, ?_⟩ <;>
  · ext i hi
    simp only [BitVec.getElem_extractLsb', BitVec.getLsbD_append]
    rw [← BitVec.getLsbD_eq_getElem hi]
    repeat (first | rw [if_neg (by omega)] | rw [if_pos (by omega)])
    congr 1 <;> omega

theorem FMEM.opc_enc (opc : BitVec 8) (f : FMEM) : fld (FMEM.enc opc f) 56 8 = opc := by
  simp only [FMEM.enc, fld]
  ext i hi
  simp only [BitVec.getElem_extractLsb', BitVec.getLsbD_append]
  rw [← BitVec.getLsbD_eq_getElem hi]
  repeat (first | rw [if_neg (by omega)] | rw [if_pos (by omega)])
  congr 1 <;> omega

theorem FMEM.enc_dec (w : Dword) : FMEM.enc (fld w 56 8) (FMEM.dec w) = w := by
  apply BitVec.eq_of_getLsbD_eq
  intro i hi
  unfold FMEM.enc
  simp only [BitVec.getLsbD_append]
  repeat' split
  all_goals (simp only [FMEM.dec, fld, BitVec.getLsbD_extractLsb']; rw [decide_eq_true (by omega), Bool.true_and]; congr 1; omega)

theorem FSWP.dec_enc (opc : BitVec 6) (f : FSWP) : FSWP.dec (FSWP.enc opc f) = f := by
  cases f
  simp only [FSWP.dec, FSWP.enc, fld, FSWP.mk.injEq]
  refine ⟨?_, ?_, ?_, ?_, ?_, ?_, ?_, ?_, ?_, ?_, ?_⟩ <;>
  · ext i hi
    simp only [BitVec.getElem_extractLsb', BitVec.getLsbD_append]
    rw [← BitVec.getLsbD_eq_getElem hi]
    repeat (first | rw [if_neg (by omega)] | rw [if_pos (by omega)])
    congr 1 <;> omega

theorem FSWP.opc_enc (opc : BitVec 6) (f : FSWP) : fld (FSWP.enc opc f) 58 6 = opc := by
  simp only [FSWP.enc, fld]
  ext i hi
  simp only [BitVec.getElem_extractLsb', BitVec.getLsbD_append]
  rw [← BitVec.getLsbD_eq_getElem hi]
  repeat (first | rw [if_neg (by omega)] | rw [if_pos (by omega)])
  congr 1 <;> omega

theorem FSWP.enc_dec (w : Dword) : FSWP.enc (fld w 58 6) (FSWP.dec w) = w := by
  apply BitVec.eq_of_getLsbD_eq
  intro i hi
  unfold FSWP.enc
  rw [BitVec.getLsbD_append]
  split
  · simp only [FSWP.dec, fld, BitVec.getLsbD_extractLsb']
    rw [decide_eq_true (by omega), Bool.true_and]
    congr 1
    omega
  rw [BitVec.getLsbD_append]
  split
  · simp only [FSWP.dec, fld, BitVec.getLsbD_extractLsb']
    rw [decide_eq_true (by omega), Bool.true_and]
    congr 1
    omega
  rw [BitVec.getLsbD_append]
  split
  · simp only [FSWP.dec, fld, BitVec.getLsbD_extractLsb']
    rw [decide_eq_true (by omega), Bool.true_and]
    congr 1
    omega
  rw [BitVec.getLsbD_append]
  split
  · simp only [FSWP.dec, fld, BitVec.getLsbD_extractLsb']
    rw [decide_eq_true (by omega), Bool.true_and]
    congr 1
    omega
  rw [BitVec.getLsbD_append]
  split
  · simp only [FSWP.dec, fld, BitVec.getLsbD_extractLsb']
    rw [decide_eq_true (by omega), Bool.true_and]
    congr 1
    omega
  rw [BitVec.getLsbD_append]
  split
  · simp only [FSWP.dec, fld, BitVec.getLsbD_extractLsb']
    rw [decide_eq_true (by omega), Bool.true_and]
    congr 1
    omega
  rw [BitVec.getLsbD_append]
  split
  · simp only [FSWP.dec, fld, BitVec.getLsbD_extractLsb']
    rw [decide_eq_true (by omega), Bool.true_and]
    congr 1
    omega
  rw [BitVec.getLsbD_append]
  split
  · simp only [FSWP.dec, fld, BitVec.getLsbD_extractLsb']
    rw [decide_eq_true (by omega), Bool.true_and]
    congr 1
    omega
  rw [BitVec.getLsbD_append]
  split
  · simp only [FSWP.dec, fld, BitVec.getLsbD_extractLsb']
    rw [decide_eq_true (by omega), Bool.true_and]
    congr 1
    omega
  rw [BitVec.getLsbD_append]
  split
  · simp only [FSWP.dec, fld, BitVec.getLsbD_extractLsb']
    rw [decide_eq_true (by omega), Bool.true_and]
    congr 1
    omega
  rw [BitVec.getLsbD_append]
  split
  · simp only [FSWP.dec, fld, BitVec.getLsbD_extractLsb']
    rw [decide_eq_true (by omega), Bool.true_and]
    congr 1
    omega
  simp only [fld, BitVec.getLsbD_extractLsb']
  rw [decide_eq_true (by omega), Bool.true_and]
  congr 1
  omega

theorem FMTX.dec_enc (opc : BitVec 8) (f : FMTX) : FMTX.dec (FMTX.enc opc f) = f := by
  cases f
  simp only [FMTX.dec, FMTX.enc, fld, FMTX.mk.injEq]
  refine ⟨?_, ?_, ?_, ?_, ?_, ?_, ?_, ?_, ?_, ?_⟩ <;>
  · ext i hi
    simp only [BitVec.getElem_extractLsb', BitVec.getLsbD_append]
    rw [← BitVec.getLsbD_eq_getElem hi]
    repeat (first | rw [if_neg (by omega)] | rw [if_pos (by omega)])
    congr 1 <;> omega

theorem FMTX.opc_enc (opc : BitVec 8) (f : FMTX) : fld (FMTX.enc opc f) 56 8 = opc := by
  simp only [FMTX.enc, fld]
  ext i hi
  simp only [BitVec.getElem_extractLsb', BitVec.getLsbD_append]
  rw [← BitVec.getLsbD_eq_getElem hi]
  repeat (first | rw [if_neg (by omega)] | rw [if_pos (by omega)])
  congr 1 <;> omega

theorem FMTX.enc_dec (w : Dword) : FMTX.enc (fld w 56 8) (FMTX.dec w) = w := by
  apply BitVec.eq_of_getLsbD_eq
  intro i hi
  unfold FMTX.enc
  simp only [BitVec.getLsbD_append]
  repeat' split
  all_goals (simp only [FMTX.dec, fld, BitVec.getLsbD_extractLsb']; rw [decide_eq_true (by omega), Bool.true_and]; congr 1; omega)

theorem FBR.dec_enc (opc : BitVec 8) (f : FBR) : FBR.dec (FBR.enc opc f) = f := by
  cases f
  simp only [FBR.dec, FBR.enc, fld, FBR.mk.injEq]
  refine ⟨?_, ?_, ?_, ?_, ?_, ?_, ?_⟩ <;>
  · ext i hi
    simp only [BitVec.getElem_extractLsb', BitVec.getLsbD_append]
    rw [← BitVec.getLsbD_eq_getElem hi]
    repeat (first | rw [if_neg (by omega)] | rw [if_pos (by omega)])
    congr 1 <;> omega

theorem FBR.opc_enc (opc : BitVec 8) (f : FBR) : fld (FBR.enc opc f) 56 8 = opc := by
  simp only [FBR.enc, fld]
  ext i hi
  simp only [BitVec.getElem_extractLsb', BitVec.getLsbD_append]
  rw [← BitVec.getLsbD_eq_getElem hi]
  repeat (first | rw [if_neg (by omega)] | rw [if_pos (by omega)])
  congr 1 <;> omega

theorem FBR.enc_dec (w : Dword) : FBR.enc (fld w 56 8) (FBR.dec w) = w := by
  apply BitVec.eq_of_getLsbD_eq
  intro i hi
  unfold FBR.enc
  simp only [BitVec.getLsbD_append]
  repeat' split
  all_goals (simp only [FBR.dec, fld, BitVec.getLsbD_extractLsb']; rw [decide_eq_true (by omega), Bool.true_and]; congr 1; omega)

theorem FSYS.dec_enc (opc : BitVec 8) (f : FSYS) : FSYS.dec (FSYS.enc opc f) = f := by
  cases f
  simp only [FSYS.dec, FSYS.enc, fld, FSYS.mk.injEq]
  refine ⟨?_, ?_, ?_, ?_, ?_, ?_, ?_, ?_⟩ <;>
  · ext i hi
    simp only [BitVec.getElem_extractLsb', BitVec.getLsbD_append]
    rw [← BitVec.getLsbD_eq_getElem hi]
    repeat (first | rw [if_neg (by omega)] | rw [if_pos (by omega)])
    congr 1 <;> omega

theorem FSYS.opc_enc (opc : BitVec 8) (f : FSYS) : fld (FSYS.enc opc f) 56 8 = opc := by
  simp only [FSYS.enc, fld]
  ext i hi
  simp only [BitVec.getElem_extractLsb', BitVec.getLsbD_append]
  rw [← BitVec.getLsbD_eq_getElem hi]
  repeat (first | rw [if_neg (by omega)] | rw [if_pos (by omega)])
  congr 1 <;> omega

theorem FSYS.enc_dec (w : Dword) : FSYS.enc (fld w 56 8) (FSYS.dec w) = w := by
  apply BitVec.eq_of_getLsbD_eq
  intro i hi
  unfold FSYS.enc
  simp only [BitVec.getLsbD_append]
  repeat' split
  all_goals (simp only [FSYS.dec, fld, BitVec.getLsbD_extractLsb']; rw [decide_eq_true (by omega), Bool.true_and]; congr 1; omega)

theorem Cls.ofBits_bits (c : Cls) : Cls.ofBits c.bits = c := by cases c <;> rfl
theorem Cls.bits_ofBits (b : BitVec 2) : (Cls.ofBits b).bits = b := by revert b; decide

theorem Header.dec_enc (h : Header) : Header.dec (Header.enc h) = h := by
  cases h
  simp only [Header.dec, Header.enc, fld, Header.mk.injEq]
  refine ⟨(congrArg Cls.ofBits ?_).trans (Cls.ofBits_bits _), ?_, ?_, ?_, ?_, ?_, ?_, ?_, ?_, ?_, ?_⟩ <;>
  · ext i hi
    simp only [BitVec.getElem_extractLsb', BitVec.getLsbD_append]
    rw [← BitVec.getLsbD_eq_getElem hi]
    repeat (first | rw [if_neg (by omega)] | rw [if_pos (by omega)])
    congr 1 <;> omega

theorem Header.enc_dec (w : Dword) : Header.enc (Header.dec w) = w := by
  apply BitVec.eq_of_getLsbD_eq
  intro i hi
  unfold Header.enc
  simp only [BitVec.getLsbD_append]
  repeat' split
  all_goals (simp only [Header.dec, fld, Cls.bits_ofBits, BitVec.getLsbD_extractLsb']; rw [decide_eq_true (by omega), Bool.true_and]; congr 1; omega)

end Sys2Proof
end

