-- ==== Sys2Proof/Laws/KMap.lean ====
section
/-!
SUPPORT. What the operations on finite maps do, each said once: reads after writes, and that the canonical forms are kept.
-/
namespace Sys2Proof.KMap
variable {α : Type}

@[simp] theorem find?_nil (i : Nat) : find? ([] : KMap α) i = none := rfl

theorem find?_cons (k : Nat) (v : α) (m : KMap α) (i : Nat) :
    find? ((k, v) :: m) i = if k = i then some v else find? m i := rfl

@[simp] theorem find?_put_self (m : KMap α) (i : Nat) (x : α) : find? (put m i x) i = some x := by
  induction m with
  | nil => simp [put, find?]
  | cons p m ih =>
    obtain ⟨k, v⟩ := p
    simp only [put]
    split
    · simp [find?]
    · split
      · simp [find?]
      · rename_i h1 h2
        simp [find?, h1, ih]

theorem find?_put_ne (m : KMap α) {i j : Nat} (x : α) (h : j ≠ i) : find? (put m i x) j = find? m j := by
  induction m with
  | nil => simp [put, find?, h.symm]
  | cons p m ih =>
    obtain ⟨k, v⟩ := p
    simp only [put]
    split
    · rename_i h1
      subst h1
      simp [find?, h.symm]
    · split
      · simp only [find?, if_neg h.symm]
      · simp only [find?, ih]

@[simp] theorem find?_upd_self (m : KMap α) (i : Nat) (f : α → α) : find? (upd m i f) i = (find? m i).map f := by
  induction m with
  | nil => rfl
  | cons p m ih =>
    obtain ⟨k, v⟩ := p
    simp only [upd, List.map_cons] at ih ⊢
    by_cases h : k = i
    · simp [h, find?]
    · simp only [if_neg h, find?]
      exact ih

theorem find?_upd_ne (m : KMap α) {i j : Nat} (f : α → α) (h : j ≠ i) : find? (upd m i f) j = find? m j := by
  induction m with
  | nil => rfl
  | cons p m ih =>
    obtain ⟨k, v⟩ := p
    simp only [upd, List.map_cons] at ih ⊢
    by_cases hk : k = i
    · subst hk
      simp only [find?, if_neg (Ne.symm h), if_true]
      exact ih
    · simp only [if_neg hk, find?, ih]

/-- A change that leaves every listed value at the key as it is leaves the map. -/
theorem upd_id (m : KMap α) (i : Nat) : upd m i (fun x => x) = m := by
  simp only [upd]
  conv => rhs; rw [← List.map_id m]
  apply List.map_congr_left
  intro p _
  simp

/-! ## The sorted form -/

/-- Every key of the map lies above `b`. -/
def above (b : Nat) (m : KMap α) : Prop := ∀ p ∈ m, b < p.1

theorem sorted_cons (a : Nat) (v : α) (m : KMap α) : sorted ((a, v) :: m) = true ↔ above a m ∧ sorted m = true := by
  induction m generalizing a v with
  | nil => simp [sorted, above]
  | cons p m ih =>
    obtain ⟨b, w⟩ := p
    simp only [sorted, Bool.and_eq_true, decide_eq_true_eq]
    constructor
    · rintro ⟨h1, h2⟩
      refine ⟨fun q hq => ?_, h2⟩
      rcases List.mem_cons.mp hq with rfl | hq
      · exact h1
      · exact Nat.lt_trans h1 (((ih b w).mp h2).1 q hq)
    · rintro ⟨h1, h2⟩
      exact ⟨h1 (b, w) (List.mem_cons_self ..), h2⟩

theorem mem_put {m : KMap α} {i : Nat} {x : α} {p : Nat × α} (h : p ∈ put m i x) : p = (i, x) ∨ p ∈ m := by
  induction m with
  | nil => simpa [put] using h
  | cons q m ih =>
    obtain ⟨k, v⟩ := q
    simp only [put] at h
    split at h
    · rcases List.mem_cons.mp h with rfl | h
      · exact .inl rfl
      · exact .inr (List.mem_cons_of_mem _ h)
    · split at h
      · rcases List.mem_cons.mp h with rfl | h
        · exact .inl rfl
        · exact .inr h
      · rcases List.mem_cons.mp h with rfl | h
        · exact .inr (List.mem_cons_self ..)
        · exact (ih h).imp id (List.mem_cons_of_mem _)

theorem mem_del {m : KMap α} {i : Nat} {p : Nat × α} (h : p ∈ del m i) : p ∈ m := (List.mem_filter.mp h).1

theorem sorted_filter {m : KMap α} (h : sorted m = true) (q : Nat × α → Bool) : sorted (m.filter q) = true := by
  induction m with
  | nil => rfl
  | cons p m ih =>
    obtain ⟨k, v⟩ := p
    have hs := (sorted_cons k v m).mp h
    rw [List.filter_cons]
    split
    · exact (sorted_cons _ _ _).mpr ⟨fun p hp => hs.1 p (List.mem_filter.mp hp).1, ih hs.2⟩
    · exact ih hs.2

theorem sorted_put {m : KMap α} (h : sorted m = true) (i : Nat) (x : α) : sorted (put m i x) = true := by
  induction m with
  | nil => rfl
  | cons q m ih =>
    obtain ⟨k, v⟩ := q
    have hs := (sorted_cons k v m).mp h
    simp only [put]
    split
    · rename_i hk
      subst hk
      exact (sorted_cons _ _ _).mpr hs
    · split
      · rename_i hk hi
        refine (sorted_cons _ _ _).mpr ⟨fun p hp => ?_, h⟩
        rcases List.mem_cons.mp hp with rfl | hp
        · exact hi
        · exact Nat.lt_trans hi (hs.1 p hp)
      · rename_i hk hi
        refine (sorted_cons _ _ _).mpr ⟨fun p hp => ?_, ih hs.2⟩
        rcases mem_put hp with rfl | hp
        · show k < i
          omega
        · exact hs.1 p hp

theorem sorted_del {m : KMap α} (h : sorted m = true) (i : Nat) : sorted (del m i) = true := sorted_filter h _

/-- A map without the keys that `q` refuses. -/
theorem find?_filter_key (m : KMap α) (q : Nat → Bool) (i : Nat) :
    find? (m.filter fun p => q p.1) i = if q i then find? m i else none := by
  induction m with
  | nil => simp
  | cons p m ih =>
    obtain ⟨k, v⟩ := p
    by_cases hq : q k
    · by_cases hk : k = i
      · subst hk; simp [hq, find?]
      · simp only [List.filter_cons, hq, if_true, find?, hk, if_false, ih]
    · by_cases hk : k = i
      · subst hk; simp [hq, ih]
      · simp only [List.filter_cons, hq, find?, hk, if_false, ih, Bool.false_eq_true]

@[simp] theorem find?_del_self (m : KMap α) (i : Nat) : find? (del m i) i = none := by
  have h := find?_filter_key m (fun k => decide (k ≠ i)) i
  simpa [del] using h

theorem find?_del_ne (m : KMap α) {i j : Nat} (hj : j ≠ i) : find? (del m i) j = find? m j := by
  have h := find?_filter_key m (fun k => decide (k ≠ i)) j
  simpa [hj, del] using h

/-- A map whose values change without their keys. -/
theorem find?_mapVals (m : KMap α) {β : Type} (f : Nat → α → β) (i : Nat) :
    find? (m.map fun p => (p.1, f p.1 p.2)) i = (find? m i).map (f i) := by
  induction m with
  | nil => rfl
  | cons p m ih =>
    obtain ⟨k, v⟩ := p
    simp only [List.map_cons, find?]
    split
    · rename_i hk
      subst hk
      rfl
    · exact ih

theorem find?_mem {m : KMap α} {i : Nat} {x : α} (h : find? m i = some x) : (i, x) ∈ m := by
  induction m with
  | nil => simp at h
  | cons q m ih =>
    obtain ⟨k, v⟩ := q
    simp only [find?] at h
    split at h
    · rename_i hk
      injection h with h
      subst hk h
      exact List.mem_cons_self ..
    · exact List.mem_cons_of_mem _ (ih h)

/-! ## Total maps -/

variable [DecidableEq α] {d : α}

theorem wf_iff {m : KMap α} : wf d m = true ↔ sorted m = true ∧ ∀ p ∈ m, p.2 ≠ d := by
  simp [wf, List.all_eq_true]

theorem wf_set {m : KMap α} (h : wf d m = true) (i : Nat) (x : α) : wf d (set d m i x) = true := by
  obtain ⟨h1, h2⟩ := wf_iff.mp h
  unfold set
  split
  · exact wf_iff.mpr ⟨sorted_del h1 i, fun p hp => h2 p (mem_del hp)⟩
  · rename_i hx
    refine wf_iff.mpr ⟨sorted_put h1 i x, fun p hp => ?_⟩
    rcases mem_put hp with rfl | hp
    · exact hx
    · exact h2 p hp

theorem wf_filter {m : KMap α} (h : wf d m = true) (q : Nat × α → Bool) : wf d (m.filter q) = true := by
  obtain ⟨h1, h2⟩ := wf_iff.mp h
  exact wf_iff.mpr ⟨sorted_filter h1 q, fun p hp => h2 p (List.mem_filter.mp hp).1⟩

@[simp] theorem get_set_self (m : KMap α) (i : Nat) (x : α) : get d (set d m i x) i = x := by
  unfold get set
  split
  · rename_i hx
    simp [hx]
  · simp

theorem get_set_ne (m : KMap α) {i j : Nat} (hj : j ≠ i) (x : α) : get d (set d m i x) j = get d m j := by
  unfold get set
  split
  · rw [find?_del_ne m hj]
  · rw [find?_put_ne m x hj]

theorem sorted_set {m : KMap α} (h : sorted m = true) (i : Nat) (x : α) : sorted (set d m i x) = true := by
  unfold set
  split
  · exact sorted_del h i
  · exact sorted_put h i x

end Sys2Proof.KMap
end

