-- ==== Sys2Proof/Laws/State.lean ====
section
/-!
SUPPORT. What each update of the state leaves in each field, one lemma per field per update, so that no later proof unfolds a
record update.
-/
namespace Sys2Proof.Machine.State

/-! ## `writeN` -/

@[simp] theorem writeN_agenda (s : State) (n pa x : Nat) : (s.writeN n pa x).agenda = s.agenda := rfl
@[simp] theorem writeN_inputs (s : State) (n pa x : Nat) : (s.writeN n pa x).inputs = s.inputs := rfl
@[simp] theorem writeN_cur (s : State) (n pa x : Nat) : (s.writeN n pa x).cur = s.cur := rfl
@[simp] theorem writeN_free (s : State) (n pa x : Nat) : (s.writeN n pa x).free = s.free := rfl
@[simp] theorem writeN_ids (s : State) (n pa x : Nat) : (s.writeN n pa x).ids = s.ids := rfl
@[simp] theorem writeN_clk (s : State) (n pa x : Nat) : (s.writeN n pa x).clk = s.clk := rfl
@[simp] theorem writeN_ptAcc (s : State) (n pa x : Nat) : (s.writeN n pa x).ptAcc = s.ptAcc := rfl
@[simp] theorem writeN_rate (s : State) (n pa x : Nat) : (s.writeN n pa x).rate = s.rate := rfl
@[simp] theorem writeN_pstat (s : State) (n pa x : Nat) : (s.writeN n pa x).pstat = s.pstat := rfl
@[simp] theorem writeN_lines (s : State) (n pa x : Nat) : (s.writeN n pa x).lines = s.lines := rfl
@[simp] theorem writeN_bar (s : State) (n pa x : Nat) : (s.writeN n pa x).bar = s.bar := rfl
@[simp] theorem writeN_cores (s : State) (n pa x : Nat) : (s.writeN n pa x).cores = s.cores := rfl
@[simp] theorem writeN_walks (s : State) (n pa x : Nat) : (s.writeN n pa x).walks = s.walks := rfl
@[simp] theorem writeN_l2tlb (s : State) (n pa x : Nat) : (s.writeN n pa x).l2tlb = s.l2tlb := rfl
@[simp] theorem writeN_rlocks (s : State) (n pa x : Nat) : (s.writeN n pa x).rlocks = s.rlocks := rfl
@[simp] theorem writeN_slots (s : State) (n pa x : Nat) : (s.writeN n pa x).slots = s.slots := rfl
@[simp] theorem writeN_hostReqs (s : State) (n pa x : Nat) : (s.writeN n pa x).hostReqs = s.hostReqs := rfl
@[simp] theorem writeN_hostOut (s : State) (n pa x : Nat) : (s.writeN n pa x).hostOut = s.hostOut := rfl
@[simp] theorem writeN_habl (s : State) (n pa x : Nat) : (s.writeN n pa x).habl = s.habl := rfl
@[simp] theorem writeN_answers (s : State) (n pa x : Nat) : (s.writeN n pa x).answers = s.answers := rfl
@[simp] theorem writeN_fabReqs (s : State) (n pa x : Nat) : (s.writeN n pa x).fabReqs = s.fabReqs := rfl
@[simp] theorem writeN_fabOut (s : State) (n pa x : Nat) : (s.writeN n pa x).fabOut = s.fabOut := rfl
@[simp] theorem writeN_peerBuf (s : State) (n pa x : Nat) : (s.writeN n pa x).peerBuf = s.peerBuf := rfl
@[simp] theorem writeN_fabAns (s : State) (n pa x : Nat) : (s.writeN n pa x).fabAns = s.fabAns := rfl
@[simp] theorem writeN_reduce (s : State) (n pa x : Nat) : (s.writeN n pa x).reduce = s.reduce := rfl
@[simp] theorem writeN_redQ (s : State) (n pa x : Nat) : (s.writeN n pa x).redQ = s.redQ := rfl
@[simp] theorem writeN_accs (s : State) (n pa x : Nat) : (s.writeN n pa x).accs = s.accs := rfl
@[simp] theorem writeN_engs (s : State) (n pa x : Nat) : (s.writeN n pa x).engs = s.engs := rfl
@[simp] theorem writeN_aq (s : State) (n pa x : Nat) : (s.writeN n pa x).aq = s.aq := rfl
@[simp] theorem writeN_quads (s : State) (n pa x : Nat) : (s.writeN n pa x).quads = s.quads := rfl
@[simp] theorem writeN_leaves (s : State) (n pa x : Nat) : (s.writeN n pa x).leaves = s.leaves := rfl
@[simp] theorem writeN_leaveQ (s : State) (n pa x : Nat) : (s.writeN n pa x).leaveQ = s.leaveQ := rfl
@[simp] theorem writeN_handles (s : State) (n pa x : Nat) : (s.writeN n pa x).handles = s.handles := rfl
@[simp] theorem writeN_xops (s : State) (n pa x : Nat) : (s.writeN n pa x).xops = s.xops := rfl
@[simp] theorem writeN_sluices (s : State) (n pa x : Nat) : (s.writeN n pa x).sluices = s.sluices := rfl
@[simp] theorem writeN_gens (s : State) (n pa x : Nat) : (s.writeN n pa x).gens = s.gens := rfl
@[simp] theorem writeN_builders (s : State) (n pa x : Nat) : (s.writeN n pa x).builders = s.builders := rfl
@[simp] theorem writeN_tasks (s : State) (n pa x : Nat) : (s.writeN n pa x).tasks = s.tasks := rfl
@[simp] theorem writeN_banks (s : State) (n pa x : Nat) : (s.writeN n pa x).banks = s.banks := rfl
@[simp] theorem writeN_pushPtr (s : State) (n pa x : Nat) : (s.writeN n pa x).pushPtr = s.pushPtr := rfl
@[simp] theorem writeN_popCount (s : State) (n pa x : Nat) : (s.writeN n pa x).popCount = s.popCount := rfl
@[simp] theorem writeN_taskSerial (s : State) (n pa x : Nat) : (s.writeN n pa x).taskSerial = s.taskSerial := rfl
@[simp] theorem writeN_fragQ (s : State) (n pa x : Nat) : (s.writeN n pa x).fragQ = s.fragQ := rfl
@[simp] theorem writeN_reuse (s : State) (n pa x : Nat) : (s.writeN n pa x).reuse = s.reuse := rfl
@[simp] theorem writeN_reuseSerial (s : State) (n pa x : Nat) : (s.writeN n pa x).reuseSerial = s.reuseSerial := rfl
@[simp] theorem writeN_grids (s : State) (n pa x : Nat) : (s.writeN n pa x).grids = s.grids := rfl
@[simp] theorem writeN_serialNext (s : State) (n pa x : Nat) : (s.writeN n pa x).serialNext = s.serialNext := rfl
@[simp] theorem writeN_gridSeq (s : State) (n pa x : Nat) : (s.writeN n pa x).gridSeq = s.gridSeq := rfl
@[simp] theorem writeN_queues (s : State) (n pa x : Nat) : (s.writeN n pa x).queues = s.queues := rfl
@[simp] theorem writeN_qTurn (s : State) (n pa x : Nat) : (s.writeN n pa x).qTurn = s.qTurn := rfl
@[simp] theorem writeN_qClk (s : State) (n pa x : Nat) : (s.writeN n pa x).qClk = s.qClk := rfl
@[simp] theorem writeN_placedAt (s : State) (n pa x : Nat) : (s.writeN n pa x).placedAt = s.placedAt := rfl
@[simp] theorem writeN_bulkTurn (s : State) (n pa x : Nat) : (s.writeN n pa x).bulkTurn = s.bulkTurn := rfl
@[simp] theorem writeN_agents (s : State) (n pa x : Nat) : (s.writeN n pa x).agents = s.agents := rfl
@[simp] theorem writeN_teams (s : State) (n pa x : Nat) : (s.writeN n pa x).teams = s.teams := rfl
@[simp] theorem writeN_faultQ (s : State) (n pa x : Nat) : (s.writeN n pa x).faultQ = s.faultQ := rfl
@[simp] theorem writeN_tokens (s : State) (n pa x : Nat) : (s.writeN n pa x).tokens = s.tokens := rfl
@[simp] theorem writeN_tokenNext (s : State) (n pa x : Nat) : (s.writeN n pa x).tokenNext = s.tokenNext := rfl
@[simp] theorem writeN_faultWait (s : State) (n pa x : Nat) : (s.writeN n pa x).faultWait = s.faultWait := rfl
@[simp] theorem writeN_fatals (s : State) (n pa x : Nat) : (s.writeN n pa x).fatals = s.fatals := rfl
@[simp] theorem writeN_preempts (s : State) (n pa x : Nat) : (s.writeN n pa x).preempts = s.preempts := rfl
@[simp] theorem writeN_cmds (s : State) (n pa x : Nat) : (s.writeN n pa x).cmds = s.cmds := rfl
@[simp] theorem writeN_tlbInv (s : State) (n pa x : Nat) : (s.writeN n pa x).tlbInv = s.tlbInv := rfl
@[simp] theorem writeN_flows (s : State) (n pa x : Nat) : (s.writeN n pa x).flows = s.flows := rfl
@[simp] theorem writeN_mediaOut (s : State) (n pa x : Nat) : (s.writeN n pa x).mediaOut = s.mediaOut := rfl
@[simp] theorem writeN_wallRuns (s : State) (n pa x : Nat) : (s.writeN n pa x).wallRuns = s.wallRuns := rfl
@[simp] theorem writeN_wallOut (s : State) (n pa x : Nat) : (s.writeN n pa x).wallOut = s.wallOut := rfl
@[simp] theorem writeN_wallRejoin (s : State) (n pa x : Nat) : (s.writeN n pa x).wallRejoin = s.wallRejoin := rfl
@[simp] theorem writeN_wallStat (s : State) (n pa x : Nat) : (s.writeN n pa x).wallStat = s.wallStat := rfl
@[simp] theorem writeN_wallBars (s : State) (n pa x : Nat) : (s.writeN n pa x).wallBars = s.wallBars := rfl
@[simp] theorem writeN_wallNext (s : State) (n pa x : Nat) : (s.writeN n pa x).wallNext = s.wallNext := rfl
@[simp] theorem writeN_wallClk (s : State) (n pa x : Nat) : (s.writeN n pa x).wallClk = s.wallClk := rfl
@[simp] theorem writeN_wallSent (s : State) (n pa x : Nat) : (s.writeN n pa x).wallSent = s.wallSent := rfl
@[simp] theorem writeN_power (s : State) (n pa x : Nat) : (s.writeN n pa x).power = s.power := rfl
@[simp] theorem writeN_mrs (s : State) (n pa x : Nat) : (s.writeN n pa x).mrs = s.mrs := rfl
@[simp] theorem writeN_fusedSvn (s : State) (n pa x : Nat) : (s.writeN n pa x).fusedSvn = s.fusedSvn := rfl
@[simp] theorem writeN_runSvn (s : State) (n pa x : Nat) : (s.writeN n pa x).runSvn = s.runSvn := rfl
@[simp] theorem writeN_quote (s : State) (n pa x : Nat) : (s.writeN n pa x).quote = s.quote := rfl
@[simp] theorem writeN_steer (s : State) (n pa x : Nat) : (s.writeN n pa x).steer = s.steer := rfl
@[simp] theorem writeN_openRows (s : State) (n pa x : Nat) : (s.writeN n pa x).openRows = s.openRows := rfl
@[simp] theorem writeN_refresh (s : State) (n pa x : Nat) : (s.writeN n pa x).refresh = s.refresh := rfl
@[simp] theorem writeN_ergDone (s : State) (n pa x : Nat) : (s.writeN n pa x).ergDone = s.ergDone := rfl
@[simp] theorem writeN_bad (s : State) (n pa x : Nat) : (s.writeN n pa x).bad = s.bad := rfl

/-! ## `barWr` -/

@[simp] theorem barWr_agenda (s : State) (i : Nat) (v : Dword) : (s.barWr i v).agenda = s.agenda := rfl
@[simp] theorem barWr_inputs (s : State) (i : Nat) (v : Dword) : (s.barWr i v).inputs = s.inputs := rfl
@[simp] theorem barWr_cur (s : State) (i : Nat) (v : Dword) : (s.barWr i v).cur = s.cur := rfl
@[simp] theorem barWr_free (s : State) (i : Nat) (v : Dword) : (s.barWr i v).free = s.free := rfl
@[simp] theorem barWr_ids (s : State) (i : Nat) (v : Dword) : (s.barWr i v).ids = s.ids := rfl
@[simp] theorem barWr_clk (s : State) (i : Nat) (v : Dword) : (s.barWr i v).clk = s.clk := rfl
@[simp] theorem barWr_ptAcc (s : State) (i : Nat) (v : Dword) : (s.barWr i v).ptAcc = s.ptAcc := rfl
@[simp] theorem barWr_rate (s : State) (i : Nat) (v : Dword) : (s.barWr i v).rate = s.rate := rfl
@[simp] theorem barWr_pstat (s : State) (i : Nat) (v : Dword) : (s.barWr i v).pstat = s.pstat := rfl
@[simp] theorem barWr_mem (s : State) (i : Nat) (v : Dword) : (s.barWr i v).mem = s.mem := rfl
@[simp] theorem barWr_lines (s : State) (i : Nat) (v : Dword) : (s.barWr i v).lines = s.lines := rfl
@[simp] theorem barWr_cores (s : State) (i : Nat) (v : Dword) : (s.barWr i v).cores = s.cores := rfl
@[simp] theorem barWr_walks (s : State) (i : Nat) (v : Dword) : (s.barWr i v).walks = s.walks := rfl
@[simp] theorem barWr_l2tlb (s : State) (i : Nat) (v : Dword) : (s.barWr i v).l2tlb = s.l2tlb := rfl
@[simp] theorem barWr_rlocks (s : State) (i : Nat) (v : Dword) : (s.barWr i v).rlocks = s.rlocks := rfl
@[simp] theorem barWr_slots (s : State) (i : Nat) (v : Dword) : (s.barWr i v).slots = s.slots := rfl
@[simp] theorem barWr_hostReqs (s : State) (i : Nat) (v : Dword) : (s.barWr i v).hostReqs = s.hostReqs := rfl
@[simp] theorem barWr_hostOut (s : State) (i : Nat) (v : Dword) : (s.barWr i v).hostOut = s.hostOut := rfl
@[simp] theorem barWr_habl (s : State) (i : Nat) (v : Dword) : (s.barWr i v).habl = s.habl := rfl
@[simp] theorem barWr_answers (s : State) (i : Nat) (v : Dword) : (s.barWr i v).answers = s.answers := rfl
@[simp] theorem barWr_fabReqs (s : State) (i : Nat) (v : Dword) : (s.barWr i v).fabReqs = s.fabReqs := rfl
@[simp] theorem barWr_fabOut (s : State) (i : Nat) (v : Dword) : (s.barWr i v).fabOut = s.fabOut := rfl
@[simp] theorem barWr_peerBuf (s : State) (i : Nat) (v : Dword) : (s.barWr i v).peerBuf = s.peerBuf := rfl
@[simp] theorem barWr_fabAns (s : State) (i : Nat) (v : Dword) : (s.barWr i v).fabAns = s.fabAns := rfl
@[simp] theorem barWr_reduce (s : State) (i : Nat) (v : Dword) : (s.barWr i v).reduce = s.reduce := rfl
@[simp] theorem barWr_redQ (s : State) (i : Nat) (v : Dword) : (s.barWr i v).redQ = s.redQ := rfl
@[simp] theorem barWr_accs (s : State) (i : Nat) (v : Dword) : (s.barWr i v).accs = s.accs := rfl
@[simp] theorem barWr_engs (s : State) (i : Nat) (v : Dword) : (s.barWr i v).engs = s.engs := rfl
@[simp] theorem barWr_aq (s : State) (i : Nat) (v : Dword) : (s.barWr i v).aq = s.aq := rfl
@[simp] theorem barWr_quads (s : State) (i : Nat) (v : Dword) : (s.barWr i v).quads = s.quads := rfl
@[simp] theorem barWr_leaves (s : State) (i : Nat) (v : Dword) : (s.barWr i v).leaves = s.leaves := rfl
@[simp] theorem barWr_leaveQ (s : State) (i : Nat) (v : Dword) : (s.barWr i v).leaveQ = s.leaveQ := rfl
@[simp] theorem barWr_handles (s : State) (i : Nat) (v : Dword) : (s.barWr i v).handles = s.handles := rfl
@[simp] theorem barWr_xops (s : State) (i : Nat) (v : Dword) : (s.barWr i v).xops = s.xops := rfl
@[simp] theorem barWr_sluices (s : State) (i : Nat) (v : Dword) : (s.barWr i v).sluices = s.sluices := rfl
@[simp] theorem barWr_gens (s : State) (i : Nat) (v : Dword) : (s.barWr i v).gens = s.gens := rfl
@[simp] theorem barWr_builders (s : State) (i : Nat) (v : Dword) : (s.barWr i v).builders = s.builders := rfl
@[simp] theorem barWr_tasks (s : State) (i : Nat) (v : Dword) : (s.barWr i v).tasks = s.tasks := rfl
@[simp] theorem barWr_banks (s : State) (i : Nat) (v : Dword) : (s.barWr i v).banks = s.banks := rfl
@[simp] theorem barWr_pushPtr (s : State) (i : Nat) (v : Dword) : (s.barWr i v).pushPtr = s.pushPtr := rfl
@[simp] theorem barWr_popCount (s : State) (i : Nat) (v : Dword) : (s.barWr i v).popCount = s.popCount := rfl
@[simp] theorem barWr_taskSerial (s : State) (i : Nat) (v : Dword) : (s.barWr i v).taskSerial = s.taskSerial := rfl
@[simp] theorem barWr_fragQ (s : State) (i : Nat) (v : Dword) : (s.barWr i v).fragQ = s.fragQ := rfl
@[simp] theorem barWr_reuse (s : State) (i : Nat) (v : Dword) : (s.barWr i v).reuse = s.reuse := rfl
@[simp] theorem barWr_reuseSerial (s : State) (i : Nat) (v : Dword) : (s.barWr i v).reuseSerial = s.reuseSerial := rfl
@[simp] theorem barWr_grids (s : State) (i : Nat) (v : Dword) : (s.barWr i v).grids = s.grids := rfl
@[simp] theorem barWr_serialNext (s : State) (i : Nat) (v : Dword) : (s.barWr i v).serialNext = s.serialNext := rfl
@[simp] theorem barWr_gridSeq (s : State) (i : Nat) (v : Dword) : (s.barWr i v).gridSeq = s.gridSeq := rfl
@[simp] theorem barWr_queues (s : State) (i : Nat) (v : Dword) : (s.barWr i v).queues = s.queues := rfl
@[simp] theorem barWr_qTurn (s : State) (i : Nat) (v : Dword) : (s.barWr i v).qTurn = s.qTurn := rfl
@[simp] theorem barWr_qClk (s : State) (i : Nat) (v : Dword) : (s.barWr i v).qClk = s.qClk := rfl
@[simp] theorem barWr_placedAt (s : State) (i : Nat) (v : Dword) : (s.barWr i v).placedAt = s.placedAt := rfl
@[simp] theorem barWr_bulkTurn (s : State) (i : Nat) (v : Dword) : (s.barWr i v).bulkTurn = s.bulkTurn := rfl
@[simp] theorem barWr_agents (s : State) (i : Nat) (v : Dword) : (s.barWr i v).agents = s.agents := rfl
@[simp] theorem barWr_teams (s : State) (i : Nat) (v : Dword) : (s.barWr i v).teams = s.teams := rfl
@[simp] theorem barWr_faultQ (s : State) (i : Nat) (v : Dword) : (s.barWr i v).faultQ = s.faultQ := rfl
@[simp] theorem barWr_tokens (s : State) (i : Nat) (v : Dword) : (s.barWr i v).tokens = s.tokens := rfl
@[simp] theorem barWr_tokenNext (s : State) (i : Nat) (v : Dword) : (s.barWr i v).tokenNext = s.tokenNext := rfl
@[simp] theorem barWr_faultWait (s : State) (i : Nat) (v : Dword) : (s.barWr i v).faultWait = s.faultWait := rfl
@[simp] theorem barWr_fatals (s : State) (i : Nat) (v : Dword) : (s.barWr i v).fatals = s.fatals := rfl
@[simp] theorem barWr_preempts (s : State) (i : Nat) (v : Dword) : (s.barWr i v).preempts = s.preempts := rfl
@[simp] theorem barWr_cmds (s : State) (i : Nat) (v : Dword) : (s.barWr i v).cmds = s.cmds := rfl
@[simp] theorem barWr_tlbInv (s : State) (i : Nat) (v : Dword) : (s.barWr i v).tlbInv = s.tlbInv := rfl
@[simp] theorem barWr_flows (s : State) (i : Nat) (v : Dword) : (s.barWr i v).flows = s.flows := rfl
@[simp] theorem barWr_mediaOut (s : State) (i : Nat) (v : Dword) : (s.barWr i v).mediaOut = s.mediaOut := rfl
@[simp] theorem barWr_wallRuns (s : State) (i : Nat) (v : Dword) : (s.barWr i v).wallRuns = s.wallRuns := rfl
@[simp] theorem barWr_wallOut (s : State) (i : Nat) (v : Dword) : (s.barWr i v).wallOut = s.wallOut := rfl
@[simp] theorem barWr_wallRejoin (s : State) (i : Nat) (v : Dword) : (s.barWr i v).wallRejoin = s.wallRejoin := rfl
@[simp] theorem barWr_wallStat (s : State) (i : Nat) (v : Dword) : (s.barWr i v).wallStat = s.wallStat := rfl
@[simp] theorem barWr_wallBars (s : State) (i : Nat) (v : Dword) : (s.barWr i v).wallBars = s.wallBars := rfl
@[simp] theorem barWr_wallNext (s : State) (i : Nat) (v : Dword) : (s.barWr i v).wallNext = s.wallNext := rfl
@[simp] theorem barWr_wallClk (s : State) (i : Nat) (v : Dword) : (s.barWr i v).wallClk = s.wallClk := rfl
@[simp] theorem barWr_wallSent (s : State) (i : Nat) (v : Dword) : (s.barWr i v).wallSent = s.wallSent := rfl
@[simp] theorem barWr_power (s : State) (i : Nat) (v : Dword) : (s.barWr i v).power = s.power := rfl
@[simp] theorem barWr_mrs (s : State) (i : Nat) (v : Dword) : (s.barWr i v).mrs = s.mrs := rfl
@[simp] theorem barWr_fusedSvn (s : State) (i : Nat) (v : Dword) : (s.barWr i v).fusedSvn = s.fusedSvn := rfl
@[simp] theorem barWr_runSvn (s : State) (i : Nat) (v : Dword) : (s.barWr i v).runSvn = s.runSvn := rfl
@[simp] theorem barWr_quote (s : State) (i : Nat) (v : Dword) : (s.barWr i v).quote = s.quote := rfl
@[simp] theorem barWr_steer (s : State) (i : Nat) (v : Dword) : (s.barWr i v).steer = s.steer := rfl
@[simp] theorem barWr_openRows (s : State) (i : Nat) (v : Dword) : (s.barWr i v).openRows = s.openRows := rfl
@[simp] theorem barWr_refresh (s : State) (i : Nat) (v : Dword) : (s.barWr i v).refresh = s.refresh := rfl
@[simp] theorem barWr_ergDone (s : State) (i : Nat) (v : Dword) : (s.barWr i v).ergDone = s.ergDone := rfl
@[simp] theorem barWr_bad (s : State) (i : Nat) (v : Dword) : (s.barWr i v).bad = s.bad := rfl

/-! ## `barPut` -/

@[simp] theorem barPut_agenda (s : State) (i lo n v : Nat) : (s.barPut i lo n v).agenda = s.agenda := rfl
@[simp] theorem barPut_inputs (s : State) (i lo n v : Nat) : (s.barPut i lo n v).inputs = s.inputs := rfl
@[simp] theorem barPut_cur (s : State) (i lo n v : Nat) : (s.barPut i lo n v).cur = s.cur := rfl
@[simp] theorem barPut_free (s : State) (i lo n v : Nat) : (s.barPut i lo n v).free = s.free := rfl
@[simp] theorem barPut_ids (s : State) (i lo n v : Nat) : (s.barPut i lo n v).ids = s.ids := rfl
@[simp] theorem barPut_clk (s : State) (i lo n v : Nat) : (s.barPut i lo n v).clk = s.clk := rfl
@[simp] theorem barPut_ptAcc (s : State) (i lo n v : Nat) : (s.barPut i lo n v).ptAcc = s.ptAcc := rfl
@[simp] theorem barPut_rate (s : State) (i lo n v : Nat) : (s.barPut i lo n v).rate = s.rate := rfl
@[simp] theorem barPut_pstat (s : State) (i lo n v : Nat) : (s.barPut i lo n v).pstat = s.pstat := rfl
@[simp] theorem barPut_mem (s : State) (i lo n v : Nat) : (s.barPut i lo n v).mem = s.mem := rfl
@[simp] theorem barPut_lines (s : State) (i lo n v : Nat) : (s.barPut i lo n v).lines = s.lines := rfl
@[simp] theorem barPut_cores (s : State) (i lo n v : Nat) : (s.barPut i lo n v).cores = s.cores := rfl
@[simp] theorem barPut_walks (s : State) (i lo n v : Nat) : (s.barPut i lo n v).walks = s.walks := rfl
@[simp] theorem barPut_l2tlb (s : State) (i lo n v : Nat) : (s.barPut i lo n v).l2tlb = s.l2tlb := rfl
@[simp] theorem barPut_rlocks (s : State) (i lo n v : Nat) : (s.barPut i lo n v).rlocks = s.rlocks := rfl
@[simp] theorem barPut_slots (s : State) (i lo n v : Nat) : (s.barPut i lo n v).slots = s.slots := rfl
@[simp] theorem barPut_hostReqs (s : State) (i lo n v : Nat) : (s.barPut i lo n v).hostReqs = s.hostReqs := rfl
@[simp] theorem barPut_hostOut (s : State) (i lo n v : Nat) : (s.barPut i lo n v).hostOut = s.hostOut := rfl
@[simp] theorem barPut_habl (s : State) (i lo n v : Nat) : (s.barPut i lo n v).habl = s.habl := rfl
@[simp] theorem barPut_answers (s : State) (i lo n v : Nat) : (s.barPut i lo n v).answers = s.answers := rfl
@[simp] theorem barPut_fabReqs (s : State) (i lo n v : Nat) : (s.barPut i lo n v).fabReqs = s.fabReqs := rfl
@[simp] theorem barPut_fabOut (s : State) (i lo n v : Nat) : (s.barPut i lo n v).fabOut = s.fabOut := rfl
@[simp] theorem barPut_peerBuf (s : State) (i lo n v : Nat) : (s.barPut i lo n v).peerBuf = s.peerBuf := rfl
@[simp] theorem barPut_fabAns (s : State) (i lo n v : Nat) : (s.barPut i lo n v).fabAns = s.fabAns := rfl
@[simp] theorem barPut_reduce (s : State) (i lo n v : Nat) : (s.barPut i lo n v).reduce = s.reduce := rfl
@[simp] theorem barPut_redQ (s : State) (i lo n v : Nat) : (s.barPut i lo n v).redQ = s.redQ := rfl
@[simp] theorem barPut_accs (s : State) (i lo n v : Nat) : (s.barPut i lo n v).accs = s.accs := rfl
@[simp] theorem barPut_engs (s : State) (i lo n v : Nat) : (s.barPut i lo n v).engs = s.engs := rfl
@[simp] theorem barPut_aq (s : State) (i lo n v : Nat) : (s.barPut i lo n v).aq = s.aq := rfl
@[simp] theorem barPut_quads (s : State) (i lo n v : Nat) : (s.barPut i lo n v).quads = s.quads := rfl
@[simp] theorem barPut_leaves (s : State) (i lo n v : Nat) : (s.barPut i lo n v).leaves = s.leaves := rfl
@[simp] theorem barPut_leaveQ (s : State) (i lo n v : Nat) : (s.barPut i lo n v).leaveQ = s.leaveQ := rfl
@[simp] theorem barPut_handles (s : State) (i lo n v : Nat) : (s.barPut i lo n v).handles = s.handles := rfl
@[simp] theorem barPut_xops (s : State) (i lo n v : Nat) : (s.barPut i lo n v).xops = s.xops := rfl
@[simp] theorem barPut_sluices (s : State) (i lo n v : Nat) : (s.barPut i lo n v).sluices = s.sluices := rfl
@[simp] theorem barPut_gens (s : State) (i lo n v : Nat) : (s.barPut i lo n v).gens = s.gens := rfl
@[simp] theorem barPut_builders (s : State) (i lo n v : Nat) : (s.barPut i lo n v).builders = s.builders := rfl
@[simp] theorem barPut_tasks (s : State) (i lo n v : Nat) : (s.barPut i lo n v).tasks = s.tasks := rfl
@[simp] theorem barPut_banks (s : State) (i lo n v : Nat) : (s.barPut i lo n v).banks = s.banks := rfl
@[simp] theorem barPut_pushPtr (s : State) (i lo n v : Nat) : (s.barPut i lo n v).pushPtr = s.pushPtr := rfl
@[simp] theorem barPut_popCount (s : State) (i lo n v : Nat) : (s.barPut i lo n v).popCount = s.popCount := rfl
@[simp] theorem barPut_taskSerial (s : State) (i lo n v : Nat) : (s.barPut i lo n v).taskSerial = s.taskSerial := rfl
@[simp] theorem barPut_fragQ (s : State) (i lo n v : Nat) : (s.barPut i lo n v).fragQ = s.fragQ := rfl
@[simp] theorem barPut_reuse (s : State) (i lo n v : Nat) : (s.barPut i lo n v).reuse = s.reuse := rfl
@[simp] theorem barPut_reuseSerial (s : State) (i lo n v : Nat) : (s.barPut i lo n v).reuseSerial = s.reuseSerial := rfl
@[simp] theorem barPut_grids (s : State) (i lo n v : Nat) : (s.barPut i lo n v).grids = s.grids := rfl
@[simp] theorem barPut_serialNext (s : State) (i lo n v : Nat) : (s.barPut i lo n v).serialNext = s.serialNext := rfl
@[simp] theorem barPut_gridSeq (s : State) (i lo n v : Nat) : (s.barPut i lo n v).gridSeq = s.gridSeq := rfl
@[simp] theorem barPut_queues (s : State) (i lo n v : Nat) : (s.barPut i lo n v).queues = s.queues := rfl
@[simp] theorem barPut_qTurn (s : State) (i lo n v : Nat) : (s.barPut i lo n v).qTurn = s.qTurn := rfl
@[simp] theorem barPut_qClk (s : State) (i lo n v : Nat) : (s.barPut i lo n v).qClk = s.qClk := rfl
@[simp] theorem barPut_placedAt (s : State) (i lo n v : Nat) : (s.barPut i lo n v).placedAt = s.placedAt := rfl
@[simp] theorem barPut_bulkTurn (s : State) (i lo n v : Nat) : (s.barPut i lo n v).bulkTurn = s.bulkTurn := rfl
@[simp] theorem barPut_agents (s : State) (i lo n v : Nat) : (s.barPut i lo n v).agents = s.agents := rfl
@[simp] theorem barPut_teams (s : State) (i lo n v : Nat) : (s.barPut i lo n v).teams = s.teams := rfl
@[simp] theorem barPut_faultQ (s : State) (i lo n v : Nat) : (s.barPut i lo n v).faultQ = s.faultQ := rfl
@[simp] theorem barPut_tokens (s : State) (i lo n v : Nat) : (s.barPut i lo n v).tokens = s.tokens := rfl
@[simp] theorem barPut_tokenNext (s : State) (i lo n v : Nat) : (s.barPut i lo n v).tokenNext = s.tokenNext := rfl
@[simp] theorem barPut_faultWait (s : State) (i lo n v : Nat) : (s.barPut i lo n v).faultWait = s.faultWait := rfl
@[simp] theorem barPut_fatals (s : State) (i lo n v : Nat) : (s.barPut i lo n v).fatals = s.fatals := rfl
@[simp] theorem barPut_preempts (s : State) (i lo n v : Nat) : (s.barPut i lo n v).preempts = s.preempts := rfl
@[simp] theorem barPut_cmds (s : State) (i lo n v : Nat) : (s.barPut i lo n v).cmds = s.cmds := rfl
@[simp] theorem barPut_tlbInv (s : State) (i lo n v : Nat) : (s.barPut i lo n v).tlbInv = s.tlbInv := rfl
@[simp] theorem barPut_flows (s : State) (i lo n v : Nat) : (s.barPut i lo n v).flows = s.flows := rfl
@[simp] theorem barPut_mediaOut (s : State) (i lo n v : Nat) : (s.barPut i lo n v).mediaOut = s.mediaOut := rfl
@[simp] theorem barPut_wallRuns (s : State) (i lo n v : Nat) : (s.barPut i lo n v).wallRuns = s.wallRuns := rfl
@[simp] theorem barPut_wallOut (s : State) (i lo n v : Nat) : (s.barPut i lo n v).wallOut = s.wallOut := rfl
@[simp] theorem barPut_wallRejoin (s : State) (i lo n v : Nat) : (s.barPut i lo n v).wallRejoin = s.wallRejoin := rfl
@[simp] theorem barPut_wallStat (s : State) (i lo n v : Nat) : (s.barPut i lo n v).wallStat = s.wallStat := rfl
@[simp] theorem barPut_wallBars (s : State) (i lo n v : Nat) : (s.barPut i lo n v).wallBars = s.wallBars := rfl
@[simp] theorem barPut_wallNext (s : State) (i lo n v : Nat) : (s.barPut i lo n v).wallNext = s.wallNext := rfl
@[simp] theorem barPut_wallClk (s : State) (i lo n v : Nat) : (s.barPut i lo n v).wallClk = s.wallClk := rfl
@[simp] theorem barPut_wallSent (s : State) (i lo n v : Nat) : (s.barPut i lo n v).wallSent = s.wallSent := rfl
@[simp] theorem barPut_power (s : State) (i lo n v : Nat) : (s.barPut i lo n v).power = s.power := rfl
@[simp] theorem barPut_mrs (s : State) (i lo n v : Nat) : (s.barPut i lo n v).mrs = s.mrs := rfl
@[simp] theorem barPut_fusedSvn (s : State) (i lo n v : Nat) : (s.barPut i lo n v).fusedSvn = s.fusedSvn := rfl
@[simp] theorem barPut_runSvn (s : State) (i lo n v : Nat) : (s.barPut i lo n v).runSvn = s.runSvn := rfl
@[simp] theorem barPut_quote (s : State) (i lo n v : Nat) : (s.barPut i lo n v).quote = s.quote := rfl
@[simp] theorem barPut_steer (s : State) (i lo n v : Nat) : (s.barPut i lo n v).steer = s.steer := rfl
@[simp] theorem barPut_openRows (s : State) (i lo n v : Nat) : (s.barPut i lo n v).openRows = s.openRows := rfl
@[simp] theorem barPut_refresh (s : State) (i lo n v : Nat) : (s.barPut i lo n v).refresh = s.refresh := rfl
@[simp] theorem barPut_ergDone (s : State) (i lo n v : Nat) : (s.barPut i lo n v).ergDone = s.ergDone := rfl
@[simp] theorem barPut_bad (s : State) (i lo n v : Nat) : (s.barPut i lo n v).bad = s.bad := rfl

/-! ## `updAgent` -/

@[simp] theorem updAgent_agenda (s : State) (a : Nat) (f : Agent → Agent) : (s.updAgent a f).agenda = s.agenda := rfl
@[simp] theorem updAgent_inputs (s : State) (a : Nat) (f : Agent → Agent) : (s.updAgent a f).inputs = s.inputs := rfl
@[simp] theorem updAgent_cur (s : State) (a : Nat) (f : Agent → Agent) : (s.updAgent a f).cur = s.cur := rfl
@[simp] theorem updAgent_free (s : State) (a : Nat) (f : Agent → Agent) : (s.updAgent a f).free = s.free := rfl
@[simp] theorem updAgent_ids (s : State) (a : Nat) (f : Agent → Agent) : (s.updAgent a f).ids = s.ids := rfl
@[simp] theorem updAgent_clk (s : State) (a : Nat) (f : Agent → Agent) : (s.updAgent a f).clk = s.clk := rfl
@[simp] theorem updAgent_ptAcc (s : State) (a : Nat) (f : Agent → Agent) : (s.updAgent a f).ptAcc = s.ptAcc := rfl
@[simp] theorem updAgent_rate (s : State) (a : Nat) (f : Agent → Agent) : (s.updAgent a f).rate = s.rate := rfl
@[simp] theorem updAgent_pstat (s : State) (a : Nat) (f : Agent → Agent) : (s.updAgent a f).pstat = s.pstat := rfl
@[simp] theorem updAgent_mem (s : State) (a : Nat) (f : Agent → Agent) : (s.updAgent a f).mem = s.mem := rfl
@[simp] theorem updAgent_lines (s : State) (a : Nat) (f : Agent → Agent) : (s.updAgent a f).lines = s.lines := rfl
@[simp] theorem updAgent_bar (s : State) (a : Nat) (f : Agent → Agent) : (s.updAgent a f).bar = s.bar := rfl
@[simp] theorem updAgent_cores (s : State) (a : Nat) (f : Agent → Agent) : (s.updAgent a f).cores = s.cores := rfl
@[simp] theorem updAgent_walks (s : State) (a : Nat) (f : Agent → Agent) : (s.updAgent a f).walks = s.walks := rfl
@[simp] theorem updAgent_l2tlb (s : State) (a : Nat) (f : Agent → Agent) : (s.updAgent a f).l2tlb = s.l2tlb := rfl
@[simp] theorem updAgent_rlocks (s : State) (a : Nat) (f : Agent → Agent) : (s.updAgent a f).rlocks = s.rlocks := rfl
@[simp] theorem updAgent_slots (s : State) (a : Nat) (f : Agent → Agent) : (s.updAgent a f).slots = s.slots := rfl
@[simp] theorem updAgent_hostReqs (s : State) (a : Nat) (f : Agent → Agent) : (s.updAgent a f).hostReqs = s.hostReqs := rfl
@[simp] theorem updAgent_hostOut (s : State) (a : Nat) (f : Agent → Agent) : (s.updAgent a f).hostOut = s.hostOut := rfl
@[simp] theorem updAgent_habl (s : State) (a : Nat) (f : Agent → Agent) : (s.updAgent a f).habl = s.habl := rfl
@[simp] theorem updAgent_answers (s : State) (a : Nat) (f : Agent → Agent) : (s.updAgent a f).answers = s.answers := rfl
@[simp] theorem updAgent_fabReqs (s : State) (a : Nat) (f : Agent → Agent) : (s.updAgent a f).fabReqs = s.fabReqs := rfl
@[simp] theorem updAgent_fabOut (s : State) (a : Nat) (f : Agent → Agent) : (s.updAgent a f).fabOut = s.fabOut := rfl
@[simp] theorem updAgent_peerBuf (s : State) (a : Nat) (f : Agent → Agent) : (s.updAgent a f).peerBuf = s.peerBuf := rfl
@[simp] theorem updAgent_fabAns (s : State) (a : Nat) (f : Agent → Agent) : (s.updAgent a f).fabAns = s.fabAns := rfl
@[simp] theorem updAgent_reduce (s : State) (a : Nat) (f : Agent → Agent) : (s.updAgent a f).reduce = s.reduce := rfl
@[simp] theorem updAgent_redQ (s : State) (a : Nat) (f : Agent → Agent) : (s.updAgent a f).redQ = s.redQ := rfl
@[simp] theorem updAgent_accs (s : State) (a : Nat) (f : Agent → Agent) : (s.updAgent a f).accs = s.accs := rfl
@[simp] theorem updAgent_engs (s : State) (a : Nat) (f : Agent → Agent) : (s.updAgent a f).engs = s.engs := rfl
@[simp] theorem updAgent_aq (s : State) (a : Nat) (f : Agent → Agent) : (s.updAgent a f).aq = s.aq := rfl
@[simp] theorem updAgent_quads (s : State) (a : Nat) (f : Agent → Agent) : (s.updAgent a f).quads = s.quads := rfl
@[simp] theorem updAgent_leaves (s : State) (a : Nat) (f : Agent → Agent) : (s.updAgent a f).leaves = s.leaves := rfl
@[simp] theorem updAgent_leaveQ (s : State) (a : Nat) (f : Agent → Agent) : (s.updAgent a f).leaveQ = s.leaveQ := rfl
@[simp] theorem updAgent_handles (s : State) (a : Nat) (f : Agent → Agent) : (s.updAgent a f).handles = s.handles := rfl
@[simp] theorem updAgent_xops (s : State) (a : Nat) (f : Agent → Agent) : (s.updAgent a f).xops = s.xops := rfl
@[simp] theorem updAgent_sluices (s : State) (a : Nat) (f : Agent → Agent) : (s.updAgent a f).sluices = s.sluices := rfl
@[simp] theorem updAgent_gens (s : State) (a : Nat) (f : Agent → Agent) : (s.updAgent a f).gens = s.gens := rfl
@[simp] theorem updAgent_builders (s : State) (a : Nat) (f : Agent → Agent) : (s.updAgent a f).builders = s.builders := rfl
@[simp] theorem updAgent_tasks (s : State) (a : Nat) (f : Agent → Agent) : (s.updAgent a f).tasks = s.tasks := rfl
@[simp] theorem updAgent_banks (s : State) (a : Nat) (f : Agent → Agent) : (s.updAgent a f).banks = s.banks := rfl
@[simp] theorem updAgent_pushPtr (s : State) (a : Nat) (f : Agent → Agent) : (s.updAgent a f).pushPtr = s.pushPtr := rfl
@[simp] theorem updAgent_popCount (s : State) (a : Nat) (f : Agent → Agent) : (s.updAgent a f).popCount = s.popCount := rfl
@[simp] theorem updAgent_taskSerial (s : State) (a : Nat) (f : Agent → Agent) : (s.updAgent a f).taskSerial = s.taskSerial := rfl
@[simp] theorem updAgent_fragQ (s : State) (a : Nat) (f : Agent → Agent) : (s.updAgent a f).fragQ = s.fragQ := rfl
@[simp] theorem updAgent_reuse (s : State) (a : Nat) (f : Agent → Agent) : (s.updAgent a f).reuse = s.reuse := rfl
@[simp] theorem updAgent_reuseSerial (s : State) (a : Nat) (f : Agent → Agent) : (s.updAgent a f).reuseSerial = s.reuseSerial := rfl
@[simp] theorem updAgent_grids (s : State) (a : Nat) (f : Agent → Agent) : (s.updAgent a f).grids = s.grids := rfl
@[simp] theorem updAgent_serialNext (s : State) (a : Nat) (f : Agent → Agent) : (s.updAgent a f).serialNext = s.serialNext := rfl
@[simp] theorem updAgent_gridSeq (s : State) (a : Nat) (f : Agent → Agent) : (s.updAgent a f).gridSeq = s.gridSeq := rfl
@[simp] theorem updAgent_queues (s : State) (a : Nat) (f : Agent → Agent) : (s.updAgent a f).queues = s.queues := rfl
@[simp] theorem updAgent_qTurn (s : State) (a : Nat) (f : Agent → Agent) : (s.updAgent a f).qTurn = s.qTurn := rfl
@[simp] theorem updAgent_qClk (s : State) (a : Nat) (f : Agent → Agent) : (s.updAgent a f).qClk = s.qClk := rfl
@[simp] theorem updAgent_placedAt (s : State) (a : Nat) (f : Agent → Agent) : (s.updAgent a f).placedAt = s.placedAt := rfl
@[simp] theorem updAgent_bulkTurn (s : State) (a : Nat) (f : Agent → Agent) : (s.updAgent a f).bulkTurn = s.bulkTurn := rfl
@[simp] theorem updAgent_teams (s : State) (a : Nat) (f : Agent → Agent) : (s.updAgent a f).teams = s.teams := rfl
@[simp] theorem updAgent_faultQ (s : State) (a : Nat) (f : Agent → Agent) : (s.updAgent a f).faultQ = s.faultQ := rfl
@[simp] theorem updAgent_tokens (s : State) (a : Nat) (f : Agent → Agent) : (s.updAgent a f).tokens = s.tokens := rfl
@[simp] theorem updAgent_tokenNext (s : State) (a : Nat) (f : Agent → Agent) : (s.updAgent a f).tokenNext = s.tokenNext := rfl
@[simp] theorem updAgent_faultWait (s : State) (a : Nat) (f : Agent → Agent) : (s.updAgent a f).faultWait = s.faultWait := rfl
@[simp] theorem updAgent_fatals (s : State) (a : Nat) (f : Agent → Agent) : (s.updAgent a f).fatals = s.fatals := rfl
@[simp] theorem updAgent_preempts (s : State) (a : Nat) (f : Agent → Agent) : (s.updAgent a f).preempts = s.preempts := rfl
@[simp] theorem updAgent_cmds (s : State) (a : Nat) (f : Agent → Agent) : (s.updAgent a f).cmds = s.cmds := rfl
@[simp] theorem updAgent_tlbInv (s : State) (a : Nat) (f : Agent → Agent) : (s.updAgent a f).tlbInv = s.tlbInv := rfl
@[simp] theorem updAgent_flows (s : State) (a : Nat) (f : Agent → Agent) : (s.updAgent a f).flows = s.flows := rfl
@[simp] theorem updAgent_mediaOut (s : State) (a : Nat) (f : Agent → Agent) : (s.updAgent a f).mediaOut = s.mediaOut := rfl
@[simp] theorem updAgent_wallRuns (s : State) (a : Nat) (f : Agent → Agent) : (s.updAgent a f).wallRuns = s.wallRuns := rfl
@[simp] theorem updAgent_wallOut (s : State) (a : Nat) (f : Agent → Agent) : (s.updAgent a f).wallOut = s.wallOut := rfl
@[simp] theorem updAgent_wallRejoin (s : State) (a : Nat) (f : Agent → Agent) : (s.updAgent a f).wallRejoin = s.wallRejoin := rfl
@[simp] theorem updAgent_wallStat (s : State) (a : Nat) (f : Agent → Agent) : (s.updAgent a f).wallStat = s.wallStat := rfl
@[simp] theorem updAgent_wallBars (s : State) (a : Nat) (f : Agent → Agent) : (s.updAgent a f).wallBars = s.wallBars := rfl
@[simp] theorem updAgent_wallNext (s : State) (a : Nat) (f : Agent → Agent) : (s.updAgent a f).wallNext = s.wallNext := rfl
@[simp] theorem updAgent_wallClk (s : State) (a : Nat) (f : Agent → Agent) : (s.updAgent a f).wallClk = s.wallClk := rfl
@[simp] theorem updAgent_wallSent (s : State) (a : Nat) (f : Agent → Agent) : (s.updAgent a f).wallSent = s.wallSent := rfl
@[simp] theorem updAgent_power (s : State) (a : Nat) (f : Agent → Agent) : (s.updAgent a f).power = s.power := rfl
@[simp] theorem updAgent_mrs (s : State) (a : Nat) (f : Agent → Agent) : (s.updAgent a f).mrs = s.mrs := rfl
@[simp] theorem updAgent_fusedSvn (s : State) (a : Nat) (f : Agent → Agent) : (s.updAgent a f).fusedSvn = s.fusedSvn := rfl
@[simp] theorem updAgent_runSvn (s : State) (a : Nat) (f : Agent → Agent) : (s.updAgent a f).runSvn = s.runSvn := rfl
@[simp] theorem updAgent_quote (s : State) (a : Nat) (f : Agent → Agent) : (s.updAgent a f).quote = s.quote := rfl
@[simp] theorem updAgent_steer (s : State) (a : Nat) (f : Agent → Agent) : (s.updAgent a f).steer = s.steer := rfl
@[simp] theorem updAgent_openRows (s : State) (a : Nat) (f : Agent → Agent) : (s.updAgent a f).openRows = s.openRows := rfl
@[simp] theorem updAgent_refresh (s : State) (a : Nat) (f : Agent → Agent) : (s.updAgent a f).refresh = s.refresh := rfl
@[simp] theorem updAgent_ergDone (s : State) (a : Nat) (f : Agent → Agent) : (s.updAgent a f).ergDone = s.ergDone := rfl
@[simp] theorem updAgent_bad (s : State) (a : Nat) (f : Agent → Agent) : (s.updAgent a f).bad = s.bad := rfl

/-! ## `putAgent` -/

@[simp] theorem putAgent_agenda (s : State) (a : Nat) (ag : Agent) : (s.putAgent a ag).agenda = s.agenda := rfl
@[simp] theorem putAgent_inputs (s : State) (a : Nat) (ag : Agent) : (s.putAgent a ag).inputs = s.inputs := rfl
@[simp] theorem putAgent_cur (s : State) (a : Nat) (ag : Agent) : (s.putAgent a ag).cur = s.cur := rfl
@[simp] theorem putAgent_free (s : State) (a : Nat) (ag : Agent) : (s.putAgent a ag).free = s.free := rfl
@[simp] theorem putAgent_ids (s : State) (a : Nat) (ag : Agent) : (s.putAgent a ag).ids = s.ids := rfl
@[simp] theorem putAgent_clk (s : State) (a : Nat) (ag : Agent) : (s.putAgent a ag).clk = s.clk := rfl
@[simp] theorem putAgent_ptAcc (s : State) (a : Nat) (ag : Agent) : (s.putAgent a ag).ptAcc = s.ptAcc := rfl
@[simp] theorem putAgent_rate (s : State) (a : Nat) (ag : Agent) : (s.putAgent a ag).rate = s.rate := rfl
@[simp] theorem putAgent_pstat (s : State) (a : Nat) (ag : Agent) : (s.putAgent a ag).pstat = s.pstat := rfl
@[simp] theorem putAgent_mem (s : State) (a : Nat) (ag : Agent) : (s.putAgent a ag).mem = s.mem := rfl
@[simp] theorem putAgent_lines (s : State) (a : Nat) (ag : Agent) : (s.putAgent a ag).lines = s.lines := rfl
@[simp] theorem putAgent_bar (s : State) (a : Nat) (ag : Agent) : (s.putAgent a ag).bar = s.bar := rfl
@[simp] theorem putAgent_cores (s : State) (a : Nat) (ag : Agent) : (s.putAgent a ag).cores = s.cores := rfl
@[simp] theorem putAgent_walks (s : State) (a : Nat) (ag : Agent) : (s.putAgent a ag).walks = s.walks := rfl
@[simp] theorem putAgent_l2tlb (s : State) (a : Nat) (ag : Agent) : (s.putAgent a ag).l2tlb = s.l2tlb := rfl
@[simp] theorem putAgent_rlocks (s : State) (a : Nat) (ag : Agent) : (s.putAgent a ag).rlocks = s.rlocks := rfl
@[simp] theorem putAgent_slots (s : State) (a : Nat) (ag : Agent) : (s.putAgent a ag).slots = s.slots := rfl
@[simp] theorem putAgent_hostReqs (s : State) (a : Nat) (ag : Agent) : (s.putAgent a ag).hostReqs = s.hostReqs := rfl
@[simp] theorem putAgent_hostOut (s : State) (a : Nat) (ag : Agent) : (s.putAgent a ag).hostOut = s.hostOut := rfl
@[simp] theorem putAgent_habl (s : State) (a : Nat) (ag : Agent) : (s.putAgent a ag).habl = s.habl := rfl
@[simp] theorem putAgent_answers (s : State) (a : Nat) (ag : Agent) : (s.putAgent a ag).answers = s.answers := rfl
@[simp] theorem putAgent_fabReqs (s : State) (a : Nat) (ag : Agent) : (s.putAgent a ag).fabReqs = s.fabReqs := rfl
@[simp] theorem putAgent_fabOut (s : State) (a : Nat) (ag : Agent) : (s.putAgent a ag).fabOut = s.fabOut := rfl
@[simp] theorem putAgent_peerBuf (s : State) (a : Nat) (ag : Agent) : (s.putAgent a ag).peerBuf = s.peerBuf := rfl
@[simp] theorem putAgent_fabAns (s : State) (a : Nat) (ag : Agent) : (s.putAgent a ag).fabAns = s.fabAns := rfl
@[simp] theorem putAgent_reduce (s : State) (a : Nat) (ag : Agent) : (s.putAgent a ag).reduce = s.reduce := rfl
@[simp] theorem putAgent_redQ (s : State) (a : Nat) (ag : Agent) : (s.putAgent a ag).redQ = s.redQ := rfl
@[simp] theorem putAgent_accs (s : State) (a : Nat) (ag : Agent) : (s.putAgent a ag).accs = s.accs := rfl
@[simp] theorem putAgent_engs (s : State) (a : Nat) (ag : Agent) : (s.putAgent a ag).engs = s.engs := rfl
@[simp] theorem putAgent_aq (s : State) (a : Nat) (ag : Agent) : (s.putAgent a ag).aq = s.aq := rfl
@[simp] theorem putAgent_quads (s : State) (a : Nat) (ag : Agent) : (s.putAgent a ag).quads = s.quads := rfl
@[simp] theorem putAgent_leaves (s : State) (a : Nat) (ag : Agent) : (s.putAgent a ag).leaves = s.leaves := rfl
@[simp] theorem putAgent_leaveQ (s : State) (a : Nat) (ag : Agent) : (s.putAgent a ag).leaveQ = s.leaveQ := rfl
@[simp] theorem putAgent_handles (s : State) (a : Nat) (ag : Agent) : (s.putAgent a ag).handles = s.handles := rfl
@[simp] theorem putAgent_xops (s : State) (a : Nat) (ag : Agent) : (s.putAgent a ag).xops = s.xops := rfl
@[simp] theorem putAgent_sluices (s : State) (a : Nat) (ag : Agent) : (s.putAgent a ag).sluices = s.sluices := rfl
@[simp] theorem putAgent_gens (s : State) (a : Nat) (ag : Agent) : (s.putAgent a ag).gens = s.gens := rfl
@[simp] theorem putAgent_builders (s : State) (a : Nat) (ag : Agent) : (s.putAgent a ag).builders = s.builders := rfl
@[simp] theorem putAgent_tasks (s : State) (a : Nat) (ag : Agent) : (s.putAgent a ag).tasks = s.tasks := rfl
@[simp] theorem putAgent_banks (s : State) (a : Nat) (ag : Agent) : (s.putAgent a ag).banks = s.banks := rfl
@[simp] theorem putAgent_pushPtr (s : State) (a : Nat) (ag : Agent) : (s.putAgent a ag).pushPtr = s.pushPtr := rfl
@[simp] theorem putAgent_popCount (s : State) (a : Nat) (ag : Agent) : (s.putAgent a ag).popCount = s.popCount := rfl
@[simp] theorem putAgent_taskSerial (s : State) (a : Nat) (ag : Agent) : (s.putAgent a ag).taskSerial = s.taskSerial := rfl
@[simp] theorem putAgent_fragQ (s : State) (a : Nat) (ag : Agent) : (s.putAgent a ag).fragQ = s.fragQ := rfl
@[simp] theorem putAgent_reuse (s : State) (a : Nat) (ag : Agent) : (s.putAgent a ag).reuse = s.reuse := rfl
@[simp] theorem putAgent_reuseSerial (s : State) (a : Nat) (ag : Agent) : (s.putAgent a ag).reuseSerial = s.reuseSerial := rfl
@[simp] theorem putAgent_grids (s : State) (a : Nat) (ag : Agent) : (s.putAgent a ag).grids = s.grids := rfl
@[simp] theorem putAgent_serialNext (s : State) (a : Nat) (ag : Agent) : (s.putAgent a ag).serialNext = s.serialNext := rfl
@[simp] theorem putAgent_gridSeq (s : State) (a : Nat) (ag : Agent) : (s.putAgent a ag).gridSeq = s.gridSeq := rfl
@[simp] theorem putAgent_queues (s : State) (a : Nat) (ag : Agent) : (s.putAgent a ag).queues = s.queues := rfl
@[simp] theorem putAgent_qTurn (s : State) (a : Nat) (ag : Agent) : (s.putAgent a ag).qTurn = s.qTurn := rfl
@[simp] theorem putAgent_qClk (s : State) (a : Nat) (ag : Agent) : (s.putAgent a ag).qClk = s.qClk := rfl
@[simp] theorem putAgent_placedAt (s : State) (a : Nat) (ag : Agent) : (s.putAgent a ag).placedAt = s.placedAt := rfl
@[simp] theorem putAgent_bulkTurn (s : State) (a : Nat) (ag : Agent) : (s.putAgent a ag).bulkTurn = s.bulkTurn := rfl
@[simp] theorem putAgent_teams (s : State) (a : Nat) (ag : Agent) : (s.putAgent a ag).teams = s.teams := rfl
@[simp] theorem putAgent_faultQ (s : State) (a : Nat) (ag : Agent) : (s.putAgent a ag).faultQ = s.faultQ := rfl
@[simp] theorem putAgent_tokens (s : State) (a : Nat) (ag : Agent) : (s.putAgent a ag).tokens = s.tokens := rfl
@[simp] theorem putAgent_tokenNext (s : State) (a : Nat) (ag : Agent) : (s.putAgent a ag).tokenNext = s.tokenNext := rfl
@[simp] theorem putAgent_faultWait (s : State) (a : Nat) (ag : Agent) : (s.putAgent a ag).faultWait = s.faultWait := rfl
@[simp] theorem putAgent_fatals (s : State) (a : Nat) (ag : Agent) : (s.putAgent a ag).fatals = s.fatals := rfl
@[simp] theorem putAgent_preempts (s : State) (a : Nat) (ag : Agent) : (s.putAgent a ag).preempts = s.preempts := rfl
@[simp] theorem putAgent_cmds (s : State) (a : Nat) (ag : Agent) : (s.putAgent a ag).cmds = s.cmds := rfl
@[simp] theorem putAgent_tlbInv (s : State) (a : Nat) (ag : Agent) : (s.putAgent a ag).tlbInv = s.tlbInv := rfl
@[simp] theorem putAgent_flows (s : State) (a : Nat) (ag : Agent) : (s.putAgent a ag).flows = s.flows := rfl
@[simp] theorem putAgent_mediaOut (s : State) (a : Nat) (ag : Agent) : (s.putAgent a ag).mediaOut = s.mediaOut := rfl
@[simp] theorem putAgent_wallRuns (s : State) (a : Nat) (ag : Agent) : (s.putAgent a ag).wallRuns = s.wallRuns := rfl
@[simp] theorem putAgent_wallOut (s : State) (a : Nat) (ag : Agent) : (s.putAgent a ag).wallOut = s.wallOut := rfl
@[simp] theorem putAgent_wallRejoin (s : State) (a : Nat) (ag : Agent) : (s.putAgent a ag).wallRejoin = s.wallRejoin := rfl
@[simp] theorem putAgent_wallStat (s : State) (a : Nat) (ag : Agent) : (s.putAgent a ag).wallStat = s.wallStat := rfl
@[simp] theorem putAgent_wallBars (s : State) (a : Nat) (ag : Agent) : (s.putAgent a ag).wallBars = s.wallBars := rfl
@[simp] theorem putAgent_wallNext (s : State) (a : Nat) (ag : Agent) : (s.putAgent a ag).wallNext = s.wallNext := rfl
@[simp] theorem putAgent_wallClk (s : State) (a : Nat) (ag : Agent) : (s.putAgent a ag).wallClk = s.wallClk := rfl
@[simp] theorem putAgent_wallSent (s : State) (a : Nat) (ag : Agent) : (s.putAgent a ag).wallSent = s.wallSent := rfl
@[simp] theorem putAgent_power (s : State) (a : Nat) (ag : Agent) : (s.putAgent a ag).power = s.power := rfl
@[simp] theorem putAgent_mrs (s : State) (a : Nat) (ag : Agent) : (s.putAgent a ag).mrs = s.mrs := rfl
@[simp] theorem putAgent_fusedSvn (s : State) (a : Nat) (ag : Agent) : (s.putAgent a ag).fusedSvn = s.fusedSvn := rfl
@[simp] theorem putAgent_runSvn (s : State) (a : Nat) (ag : Agent) : (s.putAgent a ag).runSvn = s.runSvn := rfl
@[simp] theorem putAgent_quote (s : State) (a : Nat) (ag : Agent) : (s.putAgent a ag).quote = s.quote := rfl
@[simp] theorem putAgent_steer (s : State) (a : Nat) (ag : Agent) : (s.putAgent a ag).steer = s.steer := rfl
@[simp] theorem putAgent_openRows (s : State) (a : Nat) (ag : Agent) : (s.putAgent a ag).openRows = s.openRows := rfl
@[simp] theorem putAgent_refresh (s : State) (a : Nat) (ag : Agent) : (s.putAgent a ag).refresh = s.refresh := rfl
@[simp] theorem putAgent_ergDone (s : State) (a : Nat) (ag : Agent) : (s.putAgent a ag).ergDone = s.ergDone := rfl
@[simp] theorem putAgent_bad (s : State) (a : Nat) (ag : Agent) : (s.putAgent a ag).bad = s.bad := rfl

/-! ## `updFrag` -/

@[simp] theorem updFrag_agenda (s : State) (a fid : Nat) (f : Frag → Frag) : (s.updFrag a fid f).agenda = s.agenda := rfl
@[simp] theorem updFrag_inputs (s : State) (a fid : Nat) (f : Frag → Frag) : (s.updFrag a fid f).inputs = s.inputs := rfl
@[simp] theorem updFrag_cur (s : State) (a fid : Nat) (f : Frag → Frag) : (s.updFrag a fid f).cur = s.cur := rfl
@[simp] theorem updFrag_free (s : State) (a fid : Nat) (f : Frag → Frag) : (s.updFrag a fid f).free = s.free := rfl
@[simp] theorem updFrag_ids (s : State) (a fid : Nat) (f : Frag → Frag) : (s.updFrag a fid f).ids = s.ids := rfl
@[simp] theorem updFrag_clk (s : State) (a fid : Nat) (f : Frag → Frag) : (s.updFrag a fid f).clk = s.clk := rfl
@[simp] theorem updFrag_ptAcc (s : State) (a fid : Nat) (f : Frag → Frag) : (s.updFrag a fid f).ptAcc = s.ptAcc := rfl
@[simp] theorem updFrag_rate (s : State) (a fid : Nat) (f : Frag → Frag) : (s.updFrag a fid f).rate = s.rate := rfl
@[simp] theorem updFrag_pstat (s : State) (a fid : Nat) (f : Frag → Frag) : (s.updFrag a fid f).pstat = s.pstat := rfl
@[simp] theorem updFrag_mem (s : State) (a fid : Nat) (f : Frag → Frag) : (s.updFrag a fid f).mem = s.mem := rfl
@[simp] theorem updFrag_lines (s : State) (a fid : Nat) (f : Frag → Frag) : (s.updFrag a fid f).lines = s.lines := rfl
@[simp] theorem updFrag_bar (s : State) (a fid : Nat) (f : Frag → Frag) : (s.updFrag a fid f).bar = s.bar := rfl
@[simp] theorem updFrag_cores (s : State) (a fid : Nat) (f : Frag → Frag) : (s.updFrag a fid f).cores = s.cores := rfl
@[simp] theorem updFrag_walks (s : State) (a fid : Nat) (f : Frag → Frag) : (s.updFrag a fid f).walks = s.walks := rfl
@[simp] theorem updFrag_l2tlb (s : State) (a fid : Nat) (f : Frag → Frag) : (s.updFrag a fid f).l2tlb = s.l2tlb := rfl
@[simp] theorem updFrag_rlocks (s : State) (a fid : Nat) (f : Frag → Frag) : (s.updFrag a fid f).rlocks = s.rlocks := rfl
@[simp] theorem updFrag_slots (s : State) (a fid : Nat) (f : Frag → Frag) : (s.updFrag a fid f).slots = s.slots := rfl
@[simp] theorem updFrag_hostReqs (s : State) (a fid : Nat) (f : Frag → Frag) : (s.updFrag a fid f).hostReqs = s.hostReqs := rfl
@[simp] theorem updFrag_hostOut (s : State) (a fid : Nat) (f : Frag → Frag) : (s.updFrag a fid f).hostOut = s.hostOut := rfl
@[simp] theorem updFrag_habl (s : State) (a fid : Nat) (f : Frag → Frag) : (s.updFrag a fid f).habl = s.habl := rfl
@[simp] theorem updFrag_answers (s : State) (a fid : Nat) (f : Frag → Frag) : (s.updFrag a fid f).answers = s.answers := rfl
@[simp] theorem updFrag_fabReqs (s : State) (a fid : Nat) (f : Frag → Frag) : (s.updFrag a fid f).fabReqs = s.fabReqs := rfl
@[simp] theorem updFrag_fabOut (s : State) (a fid : Nat) (f : Frag → Frag) : (s.updFrag a fid f).fabOut = s.fabOut := rfl
@[simp] theorem updFrag_peerBuf (s : State) (a fid : Nat) (f : Frag → Frag) : (s.updFrag a fid f).peerBuf = s.peerBuf := rfl
@[simp] theorem updFrag_fabAns (s : State) (a fid : Nat) (f : Frag → Frag) : (s.updFrag a fid f).fabAns = s.fabAns := rfl
@[simp] theorem updFrag_reduce (s : State) (a fid : Nat) (f : Frag → Frag) : (s.updFrag a fid f).reduce = s.reduce := rfl
@[simp] theorem updFrag_redQ (s : State) (a fid : Nat) (f : Frag → Frag) : (s.updFrag a fid f).redQ = s.redQ := rfl
@[simp] theorem updFrag_accs (s : State) (a fid : Nat) (f : Frag → Frag) : (s.updFrag a fid f).accs = s.accs := rfl
@[simp] theorem updFrag_engs (s : State) (a fid : Nat) (f : Frag → Frag) : (s.updFrag a fid f).engs = s.engs := rfl
@[simp] theorem updFrag_aq (s : State) (a fid : Nat) (f : Frag → Frag) : (s.updFrag a fid f).aq = s.aq := rfl
@[simp] theorem updFrag_quads (s : State) (a fid : Nat) (f : Frag → Frag) : (s.updFrag a fid f).quads = s.quads := rfl
@[simp] theorem updFrag_leaves (s : State) (a fid : Nat) (f : Frag → Frag) : (s.updFrag a fid f).leaves = s.leaves := rfl
@[simp] theorem updFrag_leaveQ (s : State) (a fid : Nat) (f : Frag → Frag) : (s.updFrag a fid f).leaveQ = s.leaveQ := rfl
@[simp] theorem updFrag_handles (s : State) (a fid : Nat) (f : Frag → Frag) : (s.updFrag a fid f).handles = s.handles := rfl
@[simp] theorem updFrag_xops (s : State) (a fid : Nat) (f : Frag → Frag) : (s.updFrag a fid f).xops = s.xops := rfl
@[simp] theorem updFrag_sluices (s : State) (a fid : Nat) (f : Frag → Frag) : (s.updFrag a fid f).sluices = s.sluices := rfl
@[simp] theorem updFrag_gens (s : State) (a fid : Nat) (f : Frag → Frag) : (s.updFrag a fid f).gens = s.gens := rfl
@[simp] theorem updFrag_builders (s : State) (a fid : Nat) (f : Frag → Frag) : (s.updFrag a fid f).builders = s.builders := rfl
@[simp] theorem updFrag_tasks (s : State) (a fid : Nat) (f : Frag → Frag) : (s.updFrag a fid f).tasks = s.tasks := rfl
@[simp] theorem updFrag_banks (s : State) (a fid : Nat) (f : Frag → Frag) : (s.updFrag a fid f).banks = s.banks := rfl
@[simp] theorem updFrag_pushPtr (s : State) (a fid : Nat) (f : Frag → Frag) : (s.updFrag a fid f).pushPtr = s.pushPtr := rfl
@[simp] theorem updFrag_popCount (s : State) (a fid : Nat) (f : Frag → Frag) : (s.updFrag a fid f).popCount = s.popCount := rfl
@[simp] theorem updFrag_taskSerial (s : State) (a fid : Nat) (f : Frag → Frag) : (s.updFrag a fid f).taskSerial = s.taskSerial := rfl
@[simp] theorem updFrag_fragQ (s : State) (a fid : Nat) (f : Frag → Frag) : (s.updFrag a fid f).fragQ = s.fragQ := rfl
@[simp] theorem updFrag_reuse (s : State) (a fid : Nat) (f : Frag → Frag) : (s.updFrag a fid f).reuse = s.reuse := rfl
@[simp] theorem updFrag_reuseSerial (s : State) (a fid : Nat) (f : Frag → Frag) : (s.updFrag a fid f).reuseSerial = s.reuseSerial := rfl
@[simp] theorem updFrag_grids (s : State) (a fid : Nat) (f : Frag → Frag) : (s.updFrag a fid f).grids = s.grids := rfl
@[simp] theorem updFrag_serialNext (s : State) (a fid : Nat) (f : Frag → Frag) : (s.updFrag a fid f).serialNext = s.serialNext := rfl
@[simp] theorem updFrag_gridSeq (s : State) (a fid : Nat) (f : Frag → Frag) : (s.updFrag a fid f).gridSeq = s.gridSeq := rfl
@[simp] theorem updFrag_queues (s : State) (a fid : Nat) (f : Frag → Frag) : (s.updFrag a fid f).queues = s.queues := rfl
@[simp] theorem updFrag_qTurn (s : State) (a fid : Nat) (f : Frag → Frag) : (s.updFrag a fid f).qTurn = s.qTurn := rfl
@[simp] theorem updFrag_qClk (s : State) (a fid : Nat) (f : Frag → Frag) : (s.updFrag a fid f).qClk = s.qClk := rfl
@[simp] theorem updFrag_placedAt (s : State) (a fid : Nat) (f : Frag → Frag) : (s.updFrag a fid f).placedAt = s.placedAt := rfl
@[simp] theorem updFrag_bulkTurn (s : State) (a fid : Nat) (f : Frag → Frag) : (s.updFrag a fid f).bulkTurn = s.bulkTurn := rfl
@[simp] theorem updFrag_teams (s : State) (a fid : Nat) (f : Frag → Frag) : (s.updFrag a fid f).teams = s.teams := rfl
@[simp] theorem updFrag_faultQ (s : State) (a fid : Nat) (f : Frag → Frag) : (s.updFrag a fid f).faultQ = s.faultQ := rfl
@[simp] theorem updFrag_tokens (s : State) (a fid : Nat) (f : Frag → Frag) : (s.updFrag a fid f).tokens = s.tokens := rfl
@[simp] theorem updFrag_tokenNext (s : State) (a fid : Nat) (f : Frag → Frag) : (s.updFrag a fid f).tokenNext = s.tokenNext := rfl
@[simp] theorem updFrag_faultWait (s : State) (a fid : Nat) (f : Frag → Frag) : (s.updFrag a fid f).faultWait = s.faultWait := rfl
@[simp] theorem updFrag_fatals (s : State) (a fid : Nat) (f : Frag → Frag) : (s.updFrag a fid f).fatals = s.fatals := rfl
@[simp] theorem updFrag_preempts (s : State) (a fid : Nat) (f : Frag → Frag) : (s.updFrag a fid f).preempts = s.preempts := rfl
@[simp] theorem updFrag_cmds (s : State) (a fid : Nat) (f : Frag → Frag) : (s.updFrag a fid f).cmds = s.cmds := rfl
@[simp] theorem updFrag_tlbInv (s : State) (a fid : Nat) (f : Frag → Frag) : (s.updFrag a fid f).tlbInv = s.tlbInv := rfl
@[simp] theorem updFrag_flows (s : State) (a fid : Nat) (f : Frag → Frag) : (s.updFrag a fid f).flows = s.flows := rfl
@[simp] theorem updFrag_mediaOut (s : State) (a fid : Nat) (f : Frag → Frag) : (s.updFrag a fid f).mediaOut = s.mediaOut := rfl
@[simp] theorem updFrag_wallRuns (s : State) (a fid : Nat) (f : Frag → Frag) : (s.updFrag a fid f).wallRuns = s.wallRuns := rfl
@[simp] theorem updFrag_wallOut (s : State) (a fid : Nat) (f : Frag → Frag) : (s.updFrag a fid f).wallOut = s.wallOut := rfl
@[simp] theorem updFrag_wallRejoin (s : State) (a fid : Nat) (f : Frag → Frag) : (s.updFrag a fid f).wallRejoin = s.wallRejoin := rfl
@[simp] theorem updFrag_wallStat (s : State) (a fid : Nat) (f : Frag → Frag) : (s.updFrag a fid f).wallStat = s.wallStat := rfl
@[simp] theorem updFrag_wallBars (s : State) (a fid : Nat) (f : Frag → Frag) : (s.updFrag a fid f).wallBars = s.wallBars := rfl
@[simp] theorem updFrag_wallNext (s : State) (a fid : Nat) (f : Frag → Frag) : (s.updFrag a fid f).wallNext = s.wallNext := rfl
@[simp] theorem updFrag_wallClk (s : State) (a fid : Nat) (f : Frag → Frag) : (s.updFrag a fid f).wallClk = s.wallClk := rfl
@[simp] theorem updFrag_wallSent (s : State) (a fid : Nat) (f : Frag → Frag) : (s.updFrag a fid f).wallSent = s.wallSent := rfl
@[simp] theorem updFrag_power (s : State) (a fid : Nat) (f : Frag → Frag) : (s.updFrag a fid f).power = s.power := rfl
@[simp] theorem updFrag_mrs (s : State) (a fid : Nat) (f : Frag → Frag) : (s.updFrag a fid f).mrs = s.mrs := rfl
@[simp] theorem updFrag_fusedSvn (s : State) (a fid : Nat) (f : Frag → Frag) : (s.updFrag a fid f).fusedSvn = s.fusedSvn := rfl
@[simp] theorem updFrag_runSvn (s : State) (a fid : Nat) (f : Frag → Frag) : (s.updFrag a fid f).runSvn = s.runSvn := rfl
@[simp] theorem updFrag_quote (s : State) (a fid : Nat) (f : Frag → Frag) : (s.updFrag a fid f).quote = s.quote := rfl
@[simp] theorem updFrag_steer (s : State) (a fid : Nat) (f : Frag → Frag) : (s.updFrag a fid f).steer = s.steer := rfl
@[simp] theorem updFrag_openRows (s : State) (a fid : Nat) (f : Frag → Frag) : (s.updFrag a fid f).openRows = s.openRows := rfl
@[simp] theorem updFrag_refresh (s : State) (a fid : Nat) (f : Frag → Frag) : (s.updFrag a fid f).refresh = s.refresh := rfl
@[simp] theorem updFrag_ergDone (s : State) (a fid : Nat) (f : Frag → Frag) : (s.updFrag a fid f).ergDone = s.ergDone := rfl
@[simp] theorem updFrag_bad (s : State) (a fid : Nat) (f : Frag → Frag) : (s.updFrag a fid f).bad = s.bad := rfl

/-! ## `updTeam` -/

@[simp] theorem updTeam_agenda (s : State) (t : Nat) (f : Team → Team) : (s.updTeam t f).agenda = s.agenda := rfl
@[simp] theorem updTeam_inputs (s : State) (t : Nat) (f : Team → Team) : (s.updTeam t f).inputs = s.inputs := rfl
@[simp] theorem updTeam_cur (s : State) (t : Nat) (f : Team → Team) : (s.updTeam t f).cur = s.cur := rfl
@[simp] theorem updTeam_free (s : State) (t : Nat) (f : Team → Team) : (s.updTeam t f).free = s.free := rfl
@[simp] theorem updTeam_ids (s : State) (t : Nat) (f : Team → Team) : (s.updTeam t f).ids = s.ids := rfl
@[simp] theorem updTeam_clk (s : State) (t : Nat) (f : Team → Team) : (s.updTeam t f).clk = s.clk := rfl
@[simp] theorem updTeam_ptAcc (s : State) (t : Nat) (f : Team → Team) : (s.updTeam t f).ptAcc = s.ptAcc := rfl
@[simp] theorem updTeam_rate (s : State) (t : Nat) (f : Team → Team) : (s.updTeam t f).rate = s.rate := rfl
@[simp] theorem updTeam_pstat (s : State) (t : Nat) (f : Team → Team) : (s.updTeam t f).pstat = s.pstat := rfl
@[simp] theorem updTeam_mem (s : State) (t : Nat) (f : Team → Team) : (s.updTeam t f).mem = s.mem := rfl
@[simp] theorem updTeam_lines (s : State) (t : Nat) (f : Team → Team) : (s.updTeam t f).lines = s.lines := rfl
@[simp] theorem updTeam_bar (s : State) (t : Nat) (f : Team → Team) : (s.updTeam t f).bar = s.bar := rfl
@[simp] theorem updTeam_cores (s : State) (t : Nat) (f : Team → Team) : (s.updTeam t f).cores = s.cores := rfl
@[simp] theorem updTeam_walks (s : State) (t : Nat) (f : Team → Team) : (s.updTeam t f).walks = s.walks := rfl
@[simp] theorem updTeam_l2tlb (s : State) (t : Nat) (f : Team → Team) : (s.updTeam t f).l2tlb = s.l2tlb := rfl
@[simp] theorem updTeam_rlocks (s : State) (t : Nat) (f : Team → Team) : (s.updTeam t f).rlocks = s.rlocks := rfl
@[simp] theorem updTeam_slots (s : State) (t : Nat) (f : Team → Team) : (s.updTeam t f).slots = s.slots := rfl
@[simp] theorem updTeam_hostReqs (s : State) (t : Nat) (f : Team → Team) : (s.updTeam t f).hostReqs = s.hostReqs := rfl
@[simp] theorem updTeam_hostOut (s : State) (t : Nat) (f : Team → Team) : (s.updTeam t f).hostOut = s.hostOut := rfl
@[simp] theorem updTeam_habl (s : State) (t : Nat) (f : Team → Team) : (s.updTeam t f).habl = s.habl := rfl
@[simp] theorem updTeam_answers (s : State) (t : Nat) (f : Team → Team) : (s.updTeam t f).answers = s.answers := rfl
@[simp] theorem updTeam_fabReqs (s : State) (t : Nat) (f : Team → Team) : (s.updTeam t f).fabReqs = s.fabReqs := rfl
@[simp] theorem updTeam_fabOut (s : State) (t : Nat) (f : Team → Team) : (s.updTeam t f).fabOut = s.fabOut := rfl
@[simp] theorem updTeam_peerBuf (s : State) (t : Nat) (f : Team → Team) : (s.updTeam t f).peerBuf = s.peerBuf := rfl
@[simp] theorem updTeam_fabAns (s : State) (t : Nat) (f : Team → Team) : (s.updTeam t f).fabAns = s.fabAns := rfl
@[simp] theorem updTeam_reduce (s : State) (t : Nat) (f : Team → Team) : (s.updTeam t f).reduce = s.reduce := rfl
@[simp] theorem updTeam_redQ (s : State) (t : Nat) (f : Team → Team) : (s.updTeam t f).redQ = s.redQ := rfl
@[simp] theorem updTeam_accs (s : State) (t : Nat) (f : Team → Team) : (s.updTeam t f).accs = s.accs := rfl
@[simp] theorem updTeam_engs (s : State) (t : Nat) (f : Team → Team) : (s.updTeam t f).engs = s.engs := rfl
@[simp] theorem updTeam_aq (s : State) (t : Nat) (f : Team → Team) : (s.updTeam t f).aq = s.aq := rfl
@[simp] theorem updTeam_quads (s : State) (t : Nat) (f : Team → Team) : (s.updTeam t f).quads = s.quads := rfl
@[simp] theorem updTeam_leaves (s : State) (t : Nat) (f : Team → Team) : (s.updTeam t f).leaves = s.leaves := rfl
@[simp] theorem updTeam_leaveQ (s : State) (t : Nat) (f : Team → Team) : (s.updTeam t f).leaveQ = s.leaveQ := rfl
@[simp] theorem updTeam_handles (s : State) (t : Nat) (f : Team → Team) : (s.updTeam t f).handles = s.handles := rfl
@[simp] theorem updTeam_xops (s : State) (t : Nat) (f : Team → Team) : (s.updTeam t f).xops = s.xops := rfl
@[simp] theorem updTeam_sluices (s : State) (t : Nat) (f : Team → Team) : (s.updTeam t f).sluices = s.sluices := rfl
@[simp] theorem updTeam_gens (s : State) (t : Nat) (f : Team → Team) : (s.updTeam t f).gens = s.gens := rfl
@[simp] theorem updTeam_builders (s : State) (t : Nat) (f : Team → Team) : (s.updTeam t f).builders = s.builders := rfl
@[simp] theorem updTeam_tasks (s : State) (t : Nat) (f : Team → Team) : (s.updTeam t f).tasks = s.tasks := rfl
@[simp] theorem updTeam_banks (s : State) (t : Nat) (f : Team → Team) : (s.updTeam t f).banks = s.banks := rfl
@[simp] theorem updTeam_pushPtr (s : State) (t : Nat) (f : Team → Team) : (s.updTeam t f).pushPtr = s.pushPtr := rfl
@[simp] theorem updTeam_popCount (s : State) (t : Nat) (f : Team → Team) : (s.updTeam t f).popCount = s.popCount := rfl
@[simp] theorem updTeam_taskSerial (s : State) (t : Nat) (f : Team → Team) : (s.updTeam t f).taskSerial = s.taskSerial := rfl
@[simp] theorem updTeam_fragQ (s : State) (t : Nat) (f : Team → Team) : (s.updTeam t f).fragQ = s.fragQ := rfl
@[simp] theorem updTeam_reuse (s : State) (t : Nat) (f : Team → Team) : (s.updTeam t f).reuse = s.reuse := rfl
@[simp] theorem updTeam_reuseSerial (s : State) (t : Nat) (f : Team → Team) : (s.updTeam t f).reuseSerial = s.reuseSerial := rfl
@[simp] theorem updTeam_grids (s : State) (t : Nat) (f : Team → Team) : (s.updTeam t f).grids = s.grids := rfl
@[simp] theorem updTeam_serialNext (s : State) (t : Nat) (f : Team → Team) : (s.updTeam t f).serialNext = s.serialNext := rfl
@[simp] theorem updTeam_gridSeq (s : State) (t : Nat) (f : Team → Team) : (s.updTeam t f).gridSeq = s.gridSeq := rfl
@[simp] theorem updTeam_queues (s : State) (t : Nat) (f : Team → Team) : (s.updTeam t f).queues = s.queues := rfl
@[simp] theorem updTeam_qTurn (s : State) (t : Nat) (f : Team → Team) : (s.updTeam t f).qTurn = s.qTurn := rfl
@[simp] theorem updTeam_qClk (s : State) (t : Nat) (f : Team → Team) : (s.updTeam t f).qClk = s.qClk := rfl
@[simp] theorem updTeam_placedAt (s : State) (t : Nat) (f : Team → Team) : (s.updTeam t f).placedAt = s.placedAt := rfl
@[simp] theorem updTeam_bulkTurn (s : State) (t : Nat) (f : Team → Team) : (s.updTeam t f).bulkTurn = s.bulkTurn := rfl
@[simp] theorem updTeam_agents (s : State) (t : Nat) (f : Team → Team) : (s.updTeam t f).agents = s.agents := rfl
@[simp] theorem updTeam_faultQ (s : State) (t : Nat) (f : Team → Team) : (s.updTeam t f).faultQ = s.faultQ := rfl
@[simp] theorem updTeam_tokens (s : State) (t : Nat) (f : Team → Team) : (s.updTeam t f).tokens = s.tokens := rfl
@[simp] theorem updTeam_tokenNext (s : State) (t : Nat) (f : Team → Team) : (s.updTeam t f).tokenNext = s.tokenNext := rfl
@[simp] theorem updTeam_faultWait (s : State) (t : Nat) (f : Team → Team) : (s.updTeam t f).faultWait = s.faultWait := rfl
@[simp] theorem updTeam_fatals (s : State) (t : Nat) (f : Team → Team) : (s.updTeam t f).fatals = s.fatals := rfl
@[simp] theorem updTeam_preempts (s : State) (t : Nat) (f : Team → Team) : (s.updTeam t f).preempts = s.preempts := rfl
@[simp] theorem updTeam_cmds (s : State) (t : Nat) (f : Team → Team) : (s.updTeam t f).cmds = s.cmds := rfl
@[simp] theorem updTeam_tlbInv (s : State) (t : Nat) (f : Team → Team) : (s.updTeam t f).tlbInv = s.tlbInv := rfl
@[simp] theorem updTeam_flows (s : State) (t : Nat) (f : Team → Team) : (s.updTeam t f).flows = s.flows := rfl
@[simp] theorem updTeam_mediaOut (s : State) (t : Nat) (f : Team → Team) : (s.updTeam t f).mediaOut = s.mediaOut := rfl
@[simp] theorem updTeam_wallRuns (s : State) (t : Nat) (f : Team → Team) : (s.updTeam t f).wallRuns = s.wallRuns := rfl
@[simp] theorem updTeam_wallOut (s : State) (t : Nat) (f : Team → Team) : (s.updTeam t f).wallOut = s.wallOut := rfl
@[simp] theorem updTeam_wallRejoin (s : State) (t : Nat) (f : Team → Team) : (s.updTeam t f).wallRejoin = s.wallRejoin := rfl
@[simp] theorem updTeam_wallStat (s : State) (t : Nat) (f : Team → Team) : (s.updTeam t f).wallStat = s.wallStat := rfl
@[simp] theorem updTeam_wallBars (s : State) (t : Nat) (f : Team → Team) : (s.updTeam t f).wallBars = s.wallBars := rfl
@[simp] theorem updTeam_wallNext (s : State) (t : Nat) (f : Team → Team) : (s.updTeam t f).wallNext = s.wallNext := rfl
@[simp] theorem updTeam_wallClk (s : State) (t : Nat) (f : Team → Team) : (s.updTeam t f).wallClk = s.wallClk := rfl
@[simp] theorem updTeam_wallSent (s : State) (t : Nat) (f : Team → Team) : (s.updTeam t f).wallSent = s.wallSent := rfl
@[simp] theorem updTeam_power (s : State) (t : Nat) (f : Team → Team) : (s.updTeam t f).power = s.power := rfl
@[simp] theorem updTeam_mrs (s : State) (t : Nat) (f : Team → Team) : (s.updTeam t f).mrs = s.mrs := rfl
@[simp] theorem updTeam_fusedSvn (s : State) (t : Nat) (f : Team → Team) : (s.updTeam t f).fusedSvn = s.fusedSvn := rfl
@[simp] theorem updTeam_runSvn (s : State) (t : Nat) (f : Team → Team) : (s.updTeam t f).runSvn = s.runSvn := rfl
@[simp] theorem updTeam_quote (s : State) (t : Nat) (f : Team → Team) : (s.updTeam t f).quote = s.quote := rfl
@[simp] theorem updTeam_steer (s : State) (t : Nat) (f : Team → Team) : (s.updTeam t f).steer = s.steer := rfl
@[simp] theorem updTeam_openRows (s : State) (t : Nat) (f : Team → Team) : (s.updTeam t f).openRows = s.openRows := rfl
@[simp] theorem updTeam_refresh (s : State) (t : Nat) (f : Team → Team) : (s.updTeam t f).refresh = s.refresh := rfl
@[simp] theorem updTeam_ergDone (s : State) (t : Nat) (f : Team → Team) : (s.updTeam t f).ergDone = s.ergDone := rfl
@[simp] theorem updTeam_bad (s : State) (t : Nat) (f : Team → Team) : (s.updTeam t f).bad = s.bad := rfl

/-! ## `setCore` -/

@[simp] theorem setCore_agenda (s : State) (c : Nat) (x : Core) : (s.setCore c x).agenda = s.agenda := rfl
@[simp] theorem setCore_inputs (s : State) (c : Nat) (x : Core) : (s.setCore c x).inputs = s.inputs := rfl
@[simp] theorem setCore_cur (s : State) (c : Nat) (x : Core) : (s.setCore c x).cur = s.cur := rfl
@[simp] theorem setCore_free (s : State) (c : Nat) (x : Core) : (s.setCore c x).free = s.free := rfl
@[simp] theorem setCore_ids (s : State) (c : Nat) (x : Core) : (s.setCore c x).ids = s.ids := rfl
@[simp] theorem setCore_clk (s : State) (c : Nat) (x : Core) : (s.setCore c x).clk = s.clk := rfl
@[simp] theorem setCore_ptAcc (s : State) (c : Nat) (x : Core) : (s.setCore c x).ptAcc = s.ptAcc := rfl
@[simp] theorem setCore_rate (s : State) (c : Nat) (x : Core) : (s.setCore c x).rate = s.rate := rfl
@[simp] theorem setCore_pstat (s : State) (c : Nat) (x : Core) : (s.setCore c x).pstat = s.pstat := rfl
@[simp] theorem setCore_mem (s : State) (c : Nat) (x : Core) : (s.setCore c x).mem = s.mem := rfl
@[simp] theorem setCore_lines (s : State) (c : Nat) (x : Core) : (s.setCore c x).lines = s.lines := rfl
@[simp] theorem setCore_bar (s : State) (c : Nat) (x : Core) : (s.setCore c x).bar = s.bar := rfl
@[simp] theorem setCore_walks (s : State) (c : Nat) (x : Core) : (s.setCore c x).walks = s.walks := rfl
@[simp] theorem setCore_l2tlb (s : State) (c : Nat) (x : Core) : (s.setCore c x).l2tlb = s.l2tlb := rfl
@[simp] theorem setCore_rlocks (s : State) (c : Nat) (x : Core) : (s.setCore c x).rlocks = s.rlocks := rfl
@[simp] theorem setCore_slots (s : State) (c : Nat) (x : Core) : (s.setCore c x).slots = s.slots := rfl
@[simp] theorem setCore_hostReqs (s : State) (c : Nat) (x : Core) : (s.setCore c x).hostReqs = s.hostReqs := rfl
@[simp] theorem setCore_hostOut (s : State) (c : Nat) (x : Core) : (s.setCore c x).hostOut = s.hostOut := rfl
@[simp] theorem setCore_habl (s : State) (c : Nat) (x : Core) : (s.setCore c x).habl = s.habl := rfl
@[simp] theorem setCore_answers (s : State) (c : Nat) (x : Core) : (s.setCore c x).answers = s.answers := rfl
@[simp] theorem setCore_fabReqs (s : State) (c : Nat) (x : Core) : (s.setCore c x).fabReqs = s.fabReqs := rfl
@[simp] theorem setCore_fabOut (s : State) (c : Nat) (x : Core) : (s.setCore c x).fabOut = s.fabOut := rfl
@[simp] theorem setCore_peerBuf (s : State) (c : Nat) (x : Core) : (s.setCore c x).peerBuf = s.peerBuf := rfl
@[simp] theorem setCore_fabAns (s : State) (c : Nat) (x : Core) : (s.setCore c x).fabAns = s.fabAns := rfl
@[simp] theorem setCore_reduce (s : State) (c : Nat) (x : Core) : (s.setCore c x).reduce = s.reduce := rfl
@[simp] theorem setCore_redQ (s : State) (c : Nat) (x : Core) : (s.setCore c x).redQ = s.redQ := rfl
@[simp] theorem setCore_accs (s : State) (c : Nat) (x : Core) : (s.setCore c x).accs = s.accs := rfl
@[simp] theorem setCore_engs (s : State) (c : Nat) (x : Core) : (s.setCore c x).engs = s.engs := rfl
@[simp] theorem setCore_aq (s : State) (c : Nat) (x : Core) : (s.setCore c x).aq = s.aq := rfl
@[simp] theorem setCore_quads (s : State) (c : Nat) (x : Core) : (s.setCore c x).quads = s.quads := rfl
@[simp] theorem setCore_leaves (s : State) (c : Nat) (x : Core) : (s.setCore c x).leaves = s.leaves := rfl
@[simp] theorem setCore_leaveQ (s : State) (c : Nat) (x : Core) : (s.setCore c x).leaveQ = s.leaveQ := rfl
@[simp] theorem setCore_handles (s : State) (c : Nat) (x : Core) : (s.setCore c x).handles = s.handles := rfl
@[simp] theorem setCore_xops (s : State) (c : Nat) (x : Core) : (s.setCore c x).xops = s.xops := rfl
@[simp] theorem setCore_sluices (s : State) (c : Nat) (x : Core) : (s.setCore c x).sluices = s.sluices := rfl
@[simp] theorem setCore_gens (s : State) (c : Nat) (x : Core) : (s.setCore c x).gens = s.gens := rfl
@[simp] theorem setCore_builders (s : State) (c : Nat) (x : Core) : (s.setCore c x).builders = s.builders := rfl
@[simp] theorem setCore_tasks (s : State) (c : Nat) (x : Core) : (s.setCore c x).tasks = s.tasks := rfl
@[simp] theorem setCore_banks (s : State) (c : Nat) (x : Core) : (s.setCore c x).banks = s.banks := rfl
@[simp] theorem setCore_pushPtr (s : State) (c : Nat) (x : Core) : (s.setCore c x).pushPtr = s.pushPtr := rfl
@[simp] theorem setCore_popCount (s : State) (c : Nat) (x : Core) : (s.setCore c x).popCount = s.popCount := rfl
@[simp] theorem setCore_taskSerial (s : State) (c : Nat) (x : Core) : (s.setCore c x).taskSerial = s.taskSerial := rfl
@[simp] theorem setCore_fragQ (s : State) (c : Nat) (x : Core) : (s.setCore c x).fragQ = s.fragQ := rfl
@[simp] theorem setCore_reuse (s : State) (c : Nat) (x : Core) : (s.setCore c x).reuse = s.reuse := rfl
@[simp] theorem setCore_reuseSerial (s : State) (c : Nat) (x : Core) : (s.setCore c x).reuseSerial = s.reuseSerial := rfl
@[simp] theorem setCore_grids (s : State) (c : Nat) (x : Core) : (s.setCore c x).grids = s.grids := rfl
@[simp] theorem setCore_serialNext (s : State) (c : Nat) (x : Core) : (s.setCore c x).serialNext = s.serialNext := rfl
@[simp] theorem setCore_gridSeq (s : State) (c : Nat) (x : Core) : (s.setCore c x).gridSeq = s.gridSeq := rfl
@[simp] theorem setCore_queues (s : State) (c : Nat) (x : Core) : (s.setCore c x).queues = s.queues := rfl
@[simp] theorem setCore_qTurn (s : State) (c : Nat) (x : Core) : (s.setCore c x).qTurn = s.qTurn := rfl
@[simp] theorem setCore_qClk (s : State) (c : Nat) (x : Core) : (s.setCore c x).qClk = s.qClk := rfl
@[simp] theorem setCore_placedAt (s : State) (c : Nat) (x : Core) : (s.setCore c x).placedAt = s.placedAt := rfl
@[simp] theorem setCore_bulkTurn (s : State) (c : Nat) (x : Core) : (s.setCore c x).bulkTurn = s.bulkTurn := rfl
@[simp] theorem setCore_agents (s : State) (c : Nat) (x : Core) : (s.setCore c x).agents = s.agents := rfl
@[simp] theorem setCore_teams (s : State) (c : Nat) (x : Core) : (s.setCore c x).teams = s.teams := rfl
@[simp] theorem setCore_faultQ (s : State) (c : Nat) (x : Core) : (s.setCore c x).faultQ = s.faultQ := rfl
@[simp] theorem setCore_tokens (s : State) (c : Nat) (x : Core) : (s.setCore c x).tokens = s.tokens := rfl
@[simp] theorem setCore_tokenNext (s : State) (c : Nat) (x : Core) : (s.setCore c x).tokenNext = s.tokenNext := rfl
@[simp] theorem setCore_faultWait (s : State) (c : Nat) (x : Core) : (s.setCore c x).faultWait = s.faultWait := rfl
@[simp] theorem setCore_fatals (s : State) (c : Nat) (x : Core) : (s.setCore c x).fatals = s.fatals := rfl
@[simp] theorem setCore_preempts (s : State) (c : Nat) (x : Core) : (s.setCore c x).preempts = s.preempts := rfl
@[simp] theorem setCore_cmds (s : State) (c : Nat) (x : Core) : (s.setCore c x).cmds = s.cmds := rfl
@[simp] theorem setCore_tlbInv (s : State) (c : Nat) (x : Core) : (s.setCore c x).tlbInv = s.tlbInv := rfl
@[simp] theorem setCore_flows (s : State) (c : Nat) (x : Core) : (s.setCore c x).flows = s.flows := rfl
@[simp] theorem setCore_mediaOut (s : State) (c : Nat) (x : Core) : (s.setCore c x).mediaOut = s.mediaOut := rfl
@[simp] theorem setCore_wallRuns (s : State) (c : Nat) (x : Core) : (s.setCore c x).wallRuns = s.wallRuns := rfl
@[simp] theorem setCore_wallOut (s : State) (c : Nat) (x : Core) : (s.setCore c x).wallOut = s.wallOut := rfl
@[simp] theorem setCore_wallRejoin (s : State) (c : Nat) (x : Core) : (s.setCore c x).wallRejoin = s.wallRejoin := rfl
@[simp] theorem setCore_wallStat (s : State) (c : Nat) (x : Core) : (s.setCore c x).wallStat = s.wallStat := rfl
@[simp] theorem setCore_wallBars (s : State) (c : Nat) (x : Core) : (s.setCore c x).wallBars = s.wallBars := rfl
@[simp] theorem setCore_wallNext (s : State) (c : Nat) (x : Core) : (s.setCore c x).wallNext = s.wallNext := rfl
@[simp] theorem setCore_wallClk (s : State) (c : Nat) (x : Core) : (s.setCore c x).wallClk = s.wallClk := rfl
@[simp] theorem setCore_wallSent (s : State) (c : Nat) (x : Core) : (s.setCore c x).wallSent = s.wallSent := rfl
@[simp] theorem setCore_power (s : State) (c : Nat) (x : Core) : (s.setCore c x).power = s.power := rfl
@[simp] theorem setCore_mrs (s : State) (c : Nat) (x : Core) : (s.setCore c x).mrs = s.mrs := rfl
@[simp] theorem setCore_fusedSvn (s : State) (c : Nat) (x : Core) : (s.setCore c x).fusedSvn = s.fusedSvn := rfl
@[simp] theorem setCore_runSvn (s : State) (c : Nat) (x : Core) : (s.setCore c x).runSvn = s.runSvn := rfl
@[simp] theorem setCore_quote (s : State) (c : Nat) (x : Core) : (s.setCore c x).quote = s.quote := rfl
@[simp] theorem setCore_steer (s : State) (c : Nat) (x : Core) : (s.setCore c x).steer = s.steer := rfl
@[simp] theorem setCore_openRows (s : State) (c : Nat) (x : Core) : (s.setCore c x).openRows = s.openRows := rfl
@[simp] theorem setCore_refresh (s : State) (c : Nat) (x : Core) : (s.setCore c x).refresh = s.refresh := rfl
@[simp] theorem setCore_ergDone (s : State) (c : Nat) (x : Core) : (s.setCore c x).ergDone = s.ergDone := rfl
@[simp] theorem setCore_bad (s : State) (c : Nat) (x : Core) : (s.setCore c x).bad = s.bad := rfl

/-! ## `happen` -/

@[simp] theorem happen_inputs (s : State) (es : List Ev) : (s.happen es).inputs = s.inputs := rfl
@[simp] theorem happen_cur (s : State) (es : List Ev) : (s.happen es).cur = s.cur := rfl
@[simp] theorem happen_free (s : State) (es : List Ev) : (s.happen es).free = s.free := rfl
@[simp] theorem happen_ids (s : State) (es : List Ev) : (s.happen es).ids = s.ids := rfl
@[simp] theorem happen_clk (s : State) (es : List Ev) : (s.happen es).clk = s.clk := rfl
@[simp] theorem happen_ptAcc (s : State) (es : List Ev) : (s.happen es).ptAcc = s.ptAcc := rfl
@[simp] theorem happen_rate (s : State) (es : List Ev) : (s.happen es).rate = s.rate := rfl
@[simp] theorem happen_pstat (s : State) (es : List Ev) : (s.happen es).pstat = s.pstat := rfl
@[simp] theorem happen_mem (s : State) (es : List Ev) : (s.happen es).mem = s.mem := rfl
@[simp] theorem happen_lines (s : State) (es : List Ev) : (s.happen es).lines = s.lines := rfl
@[simp] theorem happen_bar (s : State) (es : List Ev) : (s.happen es).bar = s.bar := rfl
@[simp] theorem happen_cores (s : State) (es : List Ev) : (s.happen es).cores = s.cores := rfl
@[simp] theorem happen_walks (s : State) (es : List Ev) : (s.happen es).walks = s.walks := rfl
@[simp] theorem happen_l2tlb (s : State) (es : List Ev) : (s.happen es).l2tlb = s.l2tlb := rfl
@[simp] theorem happen_rlocks (s : State) (es : List Ev) : (s.happen es).rlocks = s.rlocks := rfl
@[simp] theorem happen_slots (s : State) (es : List Ev) : (s.happen es).slots = s.slots := rfl
@[simp] theorem happen_hostReqs (s : State) (es : List Ev) : (s.happen es).hostReqs = s.hostReqs := rfl
@[simp] theorem happen_hostOut (s : State) (es : List Ev) : (s.happen es).hostOut = s.hostOut := rfl
@[simp] theorem happen_habl (s : State) (es : List Ev) : (s.happen es).habl = s.habl := rfl
@[simp] theorem happen_answers (s : State) (es : List Ev) : (s.happen es).answers = s.answers := rfl
@[simp] theorem happen_fabReqs (s : State) (es : List Ev) : (s.happen es).fabReqs = s.fabReqs := rfl
@[simp] theorem happen_fabOut (s : State) (es : List Ev) : (s.happen es).fabOut = s.fabOut := rfl
@[simp] theorem happen_peerBuf (s : State) (es : List Ev) : (s.happen es).peerBuf = s.peerBuf := rfl
@[simp] theorem happen_fabAns (s : State) (es : List Ev) : (s.happen es).fabAns = s.fabAns := rfl
@[simp] theorem happen_reduce (s : State) (es : List Ev) : (s.happen es).reduce = s.reduce := rfl
@[simp] theorem happen_redQ (s : State) (es : List Ev) : (s.happen es).redQ = s.redQ := rfl
@[simp] theorem happen_accs (s : State) (es : List Ev) : (s.happen es).accs = s.accs := rfl
@[simp] theorem happen_engs (s : State) (es : List Ev) : (s.happen es).engs = s.engs := rfl
@[simp] theorem happen_aq (s : State) (es : List Ev) : (s.happen es).aq = s.aq := rfl
@[simp] theorem happen_quads (s : State) (es : List Ev) : (s.happen es).quads = s.quads := rfl
@[simp] theorem happen_leaves (s : State) (es : List Ev) : (s.happen es).leaves = s.leaves := rfl
@[simp] theorem happen_leaveQ (s : State) (es : List Ev) : (s.happen es).leaveQ = s.leaveQ := rfl
@[simp] theorem happen_handles (s : State) (es : List Ev) : (s.happen es).handles = s.handles := rfl
@[simp] theorem happen_xops (s : State) (es : List Ev) : (s.happen es).xops = s.xops := rfl
@[simp] theorem happen_sluices (s : State) (es : List Ev) : (s.happen es).sluices = s.sluices := rfl
@[simp] theorem happen_gens (s : State) (es : List Ev) : (s.happen es).gens = s.gens := rfl
@[simp] theorem happen_builders (s : State) (es : List Ev) : (s.happen es).builders = s.builders := rfl
@[simp] theorem happen_tasks (s : State) (es : List Ev) : (s.happen es).tasks = s.tasks := rfl
@[simp] theorem happen_banks (s : State) (es : List Ev) : (s.happen es).banks = s.banks := rfl
@[simp] theorem happen_pushPtr (s : State) (es : List Ev) : (s.happen es).pushPtr = s.pushPtr := rfl
@[simp] theorem happen_popCount (s : State) (es : List Ev) : (s.happen es).popCount = s.popCount := rfl
@[simp] theorem happen_taskSerial (s : State) (es : List Ev) : (s.happen es).taskSerial = s.taskSerial := rfl
@[simp] theorem happen_fragQ (s : State) (es : List Ev) : (s.happen es).fragQ = s.fragQ := rfl
@[simp] theorem happen_reuse (s : State) (es : List Ev) : (s.happen es).reuse = s.reuse := rfl
@[simp] theorem happen_reuseSerial (s : State) (es : List Ev) : (s.happen es).reuseSerial = s.reuseSerial := rfl
@[simp] theorem happen_grids (s : State) (es : List Ev) : (s.happen es).grids = s.grids := rfl
@[simp] theorem happen_serialNext (s : State) (es : List Ev) : (s.happen es).serialNext = s.serialNext := rfl
@[simp] theorem happen_gridSeq (s : State) (es : List Ev) : (s.happen es).gridSeq = s.gridSeq := rfl
@[simp] theorem happen_queues (s : State) (es : List Ev) : (s.happen es).queues = s.queues := rfl
@[simp] theorem happen_qTurn (s : State) (es : List Ev) : (s.happen es).qTurn = s.qTurn := rfl
@[simp] theorem happen_qClk (s : State) (es : List Ev) : (s.happen es).qClk = s.qClk := rfl
@[simp] theorem happen_placedAt (s : State) (es : List Ev) : (s.happen es).placedAt = s.placedAt := rfl
@[simp] theorem happen_bulkTurn (s : State) (es : List Ev) : (s.happen es).bulkTurn = s.bulkTurn := rfl
@[simp] theorem happen_agents (s : State) (es : List Ev) : (s.happen es).agents = s.agents := rfl
@[simp] theorem happen_teams (s : State) (es : List Ev) : (s.happen es).teams = s.teams := rfl
@[simp] theorem happen_faultQ (s : State) (es : List Ev) : (s.happen es).faultQ = s.faultQ := rfl
@[simp] theorem happen_tokens (s : State) (es : List Ev) : (s.happen es).tokens = s.tokens := rfl
@[simp] theorem happen_tokenNext (s : State) (es : List Ev) : (s.happen es).tokenNext = s.tokenNext := rfl
@[simp] theorem happen_faultWait (s : State) (es : List Ev) : (s.happen es).faultWait = s.faultWait := rfl
@[simp] theorem happen_fatals (s : State) (es : List Ev) : (s.happen es).fatals = s.fatals := rfl
@[simp] theorem happen_preempts (s : State) (es : List Ev) : (s.happen es).preempts = s.preempts := rfl
@[simp] theorem happen_cmds (s : State) (es : List Ev) : (s.happen es).cmds = s.cmds := rfl
@[simp] theorem happen_tlbInv (s : State) (es : List Ev) : (s.happen es).tlbInv = s.tlbInv := rfl
@[simp] theorem happen_flows (s : State) (es : List Ev) : (s.happen es).flows = s.flows := rfl
@[simp] theorem happen_mediaOut (s : State) (es : List Ev) : (s.happen es).mediaOut = s.mediaOut := rfl
@[simp] theorem happen_wallRuns (s : State) (es : List Ev) : (s.happen es).wallRuns = s.wallRuns := rfl
@[simp] theorem happen_wallOut (s : State) (es : List Ev) : (s.happen es).wallOut = s.wallOut := rfl
@[simp] theorem happen_wallRejoin (s : State) (es : List Ev) : (s.happen es).wallRejoin = s.wallRejoin := rfl
@[simp] theorem happen_wallStat (s : State) (es : List Ev) : (s.happen es).wallStat = s.wallStat := rfl
@[simp] theorem happen_wallBars (s : State) (es : List Ev) : (s.happen es).wallBars = s.wallBars := rfl
@[simp] theorem happen_wallNext (s : State) (es : List Ev) : (s.happen es).wallNext = s.wallNext := rfl
@[simp] theorem happen_wallClk (s : State) (es : List Ev) : (s.happen es).wallClk = s.wallClk := rfl
@[simp] theorem happen_wallSent (s : State) (es : List Ev) : (s.happen es).wallSent = s.wallSent := rfl
@[simp] theorem happen_power (s : State) (es : List Ev) : (s.happen es).power = s.power := rfl
@[simp] theorem happen_mrs (s : State) (es : List Ev) : (s.happen es).mrs = s.mrs := rfl
@[simp] theorem happen_fusedSvn (s : State) (es : List Ev) : (s.happen es).fusedSvn = s.fusedSvn := rfl
@[simp] theorem happen_runSvn (s : State) (es : List Ev) : (s.happen es).runSvn = s.runSvn := rfl
@[simp] theorem happen_quote (s : State) (es : List Ev) : (s.happen es).quote = s.quote := rfl
@[simp] theorem happen_steer (s : State) (es : List Ev) : (s.happen es).steer = s.steer := rfl
@[simp] theorem happen_openRows (s : State) (es : List Ev) : (s.happen es).openRows = s.openRows := rfl
@[simp] theorem happen_refresh (s : State) (es : List Ev) : (s.happen es).refresh = s.refresh := rfl
@[simp] theorem happen_ergDone (s : State) (es : List Ev) : (s.happen es).ergDone = s.ergDone := rfl
@[simp] theorem happen_bad (s : State) (es : List Ev) : (s.happen es).bad = s.bad := rfl

/-! ## `queueRec` -/

@[simp] theorem queueRec_agenda (s : State) (r : BitVec 512) : (s.queueRec r).agenda = s.agenda := rfl
@[simp] theorem queueRec_inputs (s : State) (r : BitVec 512) : (s.queueRec r).inputs = s.inputs := rfl
@[simp] theorem queueRec_cur (s : State) (r : BitVec 512) : (s.queueRec r).cur = s.cur := rfl
@[simp] theorem queueRec_free (s : State) (r : BitVec 512) : (s.queueRec r).free = s.free := rfl
@[simp] theorem queueRec_ids (s : State) (r : BitVec 512) : (s.queueRec r).ids = s.ids := rfl
@[simp] theorem queueRec_clk (s : State) (r : BitVec 512) : (s.queueRec r).clk = s.clk := rfl
@[simp] theorem queueRec_ptAcc (s : State) (r : BitVec 512) : (s.queueRec r).ptAcc = s.ptAcc := rfl
@[simp] theorem queueRec_rate (s : State) (r : BitVec 512) : (s.queueRec r).rate = s.rate := rfl
@[simp] theorem queueRec_pstat (s : State) (r : BitVec 512) : (s.queueRec r).pstat = s.pstat := rfl
@[simp] theorem queueRec_mem (s : State) (r : BitVec 512) : (s.queueRec r).mem = s.mem := rfl
@[simp] theorem queueRec_lines (s : State) (r : BitVec 512) : (s.queueRec r).lines = s.lines := rfl
@[simp] theorem queueRec_bar (s : State) (r : BitVec 512) : (s.queueRec r).bar = s.bar := rfl
@[simp] theorem queueRec_cores (s : State) (r : BitVec 512) : (s.queueRec r).cores = s.cores := rfl
@[simp] theorem queueRec_walks (s : State) (r : BitVec 512) : (s.queueRec r).walks = s.walks := rfl
@[simp] theorem queueRec_l2tlb (s : State) (r : BitVec 512) : (s.queueRec r).l2tlb = s.l2tlb := rfl
@[simp] theorem queueRec_rlocks (s : State) (r : BitVec 512) : (s.queueRec r).rlocks = s.rlocks := rfl
@[simp] theorem queueRec_slots (s : State) (r : BitVec 512) : (s.queueRec r).slots = s.slots := rfl
@[simp] theorem queueRec_hostReqs (s : State) (r : BitVec 512) : (s.queueRec r).hostReqs = s.hostReqs := rfl
@[simp] theorem queueRec_hostOut (s : State) (r : BitVec 512) : (s.queueRec r).hostOut = s.hostOut := rfl
@[simp] theorem queueRec_habl (s : State) (r : BitVec 512) : (s.queueRec r).habl = s.habl := rfl
@[simp] theorem queueRec_answers (s : State) (r : BitVec 512) : (s.queueRec r).answers = s.answers := rfl
@[simp] theorem queueRec_fabReqs (s : State) (r : BitVec 512) : (s.queueRec r).fabReqs = s.fabReqs := rfl
@[simp] theorem queueRec_fabOut (s : State) (r : BitVec 512) : (s.queueRec r).fabOut = s.fabOut := rfl
@[simp] theorem queueRec_peerBuf (s : State) (r : BitVec 512) : (s.queueRec r).peerBuf = s.peerBuf := rfl
@[simp] theorem queueRec_fabAns (s : State) (r : BitVec 512) : (s.queueRec r).fabAns = s.fabAns := rfl
@[simp] theorem queueRec_reduce (s : State) (r : BitVec 512) : (s.queueRec r).reduce = s.reduce := rfl
@[simp] theorem queueRec_redQ (s : State) (r : BitVec 512) : (s.queueRec r).redQ = s.redQ := rfl
@[simp] theorem queueRec_accs (s : State) (r : BitVec 512) : (s.queueRec r).accs = s.accs := rfl
@[simp] theorem queueRec_engs (s : State) (r : BitVec 512) : (s.queueRec r).engs = s.engs := rfl
@[simp] theorem queueRec_aq (s : State) (r : BitVec 512) : (s.queueRec r).aq = s.aq := rfl
@[simp] theorem queueRec_quads (s : State) (r : BitVec 512) : (s.queueRec r).quads = s.quads := rfl
@[simp] theorem queueRec_leaves (s : State) (r : BitVec 512) : (s.queueRec r).leaves = s.leaves := rfl
@[simp] theorem queueRec_leaveQ (s : State) (r : BitVec 512) : (s.queueRec r).leaveQ = s.leaveQ := rfl
@[simp] theorem queueRec_handles (s : State) (r : BitVec 512) : (s.queueRec r).handles = s.handles := rfl
@[simp] theorem queueRec_xops (s : State) (r : BitVec 512) : (s.queueRec r).xops = s.xops := rfl
@[simp] theorem queueRec_sluices (s : State) (r : BitVec 512) : (s.queueRec r).sluices = s.sluices := rfl
@[simp] theorem queueRec_gens (s : State) (r : BitVec 512) : (s.queueRec r).gens = s.gens := rfl
@[simp] theorem queueRec_builders (s : State) (r : BitVec 512) : (s.queueRec r).builders = s.builders := rfl
@[simp] theorem queueRec_tasks (s : State) (r : BitVec 512) : (s.queueRec r).tasks = s.tasks := rfl
@[simp] theorem queueRec_banks (s : State) (r : BitVec 512) : (s.queueRec r).banks = s.banks := rfl
@[simp] theorem queueRec_pushPtr (s : State) (r : BitVec 512) : (s.queueRec r).pushPtr = s.pushPtr := rfl
@[simp] theorem queueRec_popCount (s : State) (r : BitVec 512) : (s.queueRec r).popCount = s.popCount := rfl
@[simp] theorem queueRec_taskSerial (s : State) (r : BitVec 512) : (s.queueRec r).taskSerial = s.taskSerial := rfl
@[simp] theorem queueRec_fragQ (s : State) (r : BitVec 512) : (s.queueRec r).fragQ = s.fragQ := rfl
@[simp] theorem queueRec_reuse (s : State) (r : BitVec 512) : (s.queueRec r).reuse = s.reuse := rfl
@[simp] theorem queueRec_reuseSerial (s : State) (r : BitVec 512) : (s.queueRec r).reuseSerial = s.reuseSerial := rfl
@[simp] theorem queueRec_grids (s : State) (r : BitVec 512) : (s.queueRec r).grids = s.grids := rfl
@[simp] theorem queueRec_serialNext (s : State) (r : BitVec 512) : (s.queueRec r).serialNext = s.serialNext := rfl
@[simp] theorem queueRec_gridSeq (s : State) (r : BitVec 512) : (s.queueRec r).gridSeq = s.gridSeq := rfl
@[simp] theorem queueRec_queues (s : State) (r : BitVec 512) : (s.queueRec r).queues = s.queues := rfl
@[simp] theorem queueRec_qTurn (s : State) (r : BitVec 512) : (s.queueRec r).qTurn = s.qTurn := rfl
@[simp] theorem queueRec_qClk (s : State) (r : BitVec 512) : (s.queueRec r).qClk = s.qClk := rfl
@[simp] theorem queueRec_placedAt (s : State) (r : BitVec 512) : (s.queueRec r).placedAt = s.placedAt := rfl
@[simp] theorem queueRec_bulkTurn (s : State) (r : BitVec 512) : (s.queueRec r).bulkTurn = s.bulkTurn := rfl
@[simp] theorem queueRec_agents (s : State) (r : BitVec 512) : (s.queueRec r).agents = s.agents := rfl
@[simp] theorem queueRec_teams (s : State) (r : BitVec 512) : (s.queueRec r).teams = s.teams := rfl
@[simp] theorem queueRec_tokens (s : State) (r : BitVec 512) : (s.queueRec r).tokens = s.tokens := rfl
@[simp] theorem queueRec_tokenNext (s : State) (r : BitVec 512) : (s.queueRec r).tokenNext = s.tokenNext := rfl
@[simp] theorem queueRec_faultWait (s : State) (r : BitVec 512) : (s.queueRec r).faultWait = s.faultWait := rfl
@[simp] theorem queueRec_fatals (s : State) (r : BitVec 512) : (s.queueRec r).fatals = s.fatals := rfl
@[simp] theorem queueRec_preempts (s : State) (r : BitVec 512) : (s.queueRec r).preempts = s.preempts := rfl
@[simp] theorem queueRec_cmds (s : State) (r : BitVec 512) : (s.queueRec r).cmds = s.cmds := rfl
@[simp] theorem queueRec_tlbInv (s : State) (r : BitVec 512) : (s.queueRec r).tlbInv = s.tlbInv := rfl
@[simp] theorem queueRec_flows (s : State) (r : BitVec 512) : (s.queueRec r).flows = s.flows := rfl
@[simp] theorem queueRec_mediaOut (s : State) (r : BitVec 512) : (s.queueRec r).mediaOut = s.mediaOut := rfl
@[simp] theorem queueRec_wallRuns (s : State) (r : BitVec 512) : (s.queueRec r).wallRuns = s.wallRuns := rfl
@[simp] theorem queueRec_wallOut (s : State) (r : BitVec 512) : (s.queueRec r).wallOut = s.wallOut := rfl
@[simp] theorem queueRec_wallRejoin (s : State) (r : BitVec 512) : (s.queueRec r).wallRejoin = s.wallRejoin := rfl
@[simp] theorem queueRec_wallStat (s : State) (r : BitVec 512) : (s.queueRec r).wallStat = s.wallStat := rfl
@[simp] theorem queueRec_wallBars (s : State) (r : BitVec 512) : (s.queueRec r).wallBars = s.wallBars := rfl
@[simp] theorem queueRec_wallNext (s : State) (r : BitVec 512) : (s.queueRec r).wallNext = s.wallNext := rfl
@[simp] theorem queueRec_wallClk (s : State) (r : BitVec 512) : (s.queueRec r).wallClk = s.wallClk := rfl
@[simp] theorem queueRec_wallSent (s : State) (r : BitVec 512) : (s.queueRec r).wallSent = s.wallSent := rfl
@[simp] theorem queueRec_power (s : State) (r : BitVec 512) : (s.queueRec r).power = s.power := rfl
@[simp] theorem queueRec_mrs (s : State) (r : BitVec 512) : (s.queueRec r).mrs = s.mrs := rfl
@[simp] theorem queueRec_fusedSvn (s : State) (r : BitVec 512) : (s.queueRec r).fusedSvn = s.fusedSvn := rfl
@[simp] theorem queueRec_runSvn (s : State) (r : BitVec 512) : (s.queueRec r).runSvn = s.runSvn := rfl
@[simp] theorem queueRec_quote (s : State) (r : BitVec 512) : (s.queueRec r).quote = s.quote := rfl
@[simp] theorem queueRec_steer (s : State) (r : BitVec 512) : (s.queueRec r).steer = s.steer := rfl
@[simp] theorem queueRec_openRows (s : State) (r : BitVec 512) : (s.queueRec r).openRows = s.openRows := rfl
@[simp] theorem queueRec_refresh (s : State) (r : BitVec 512) : (s.queueRec r).refresh = s.refresh := rfl
@[simp] theorem queueRec_ergDone (s : State) (r : BitVec 512) : (s.queueRec r).ergDone = s.ergDone := rfl
@[simp] theorem queueRec_bad (s : State) (r : BitVec 512) : (s.queueRec r).bad = s.bad := rfl

/-! ## `freshId` -/

@[simp] theorem freshId_agenda (s : State) : (s.freshId).agenda = s.agenda := rfl
@[simp] theorem freshId_inputs (s : State) : (s.freshId).inputs = s.inputs := rfl
@[simp] theorem freshId_cur (s : State) : (s.freshId).cur = s.cur := rfl
@[simp] theorem freshId_free (s : State) : (s.freshId).free = s.free := rfl
@[simp] theorem freshId_clk (s : State) : (s.freshId).clk = s.clk := rfl
@[simp] theorem freshId_ptAcc (s : State) : (s.freshId).ptAcc = s.ptAcc := rfl
@[simp] theorem freshId_rate (s : State) : (s.freshId).rate = s.rate := rfl
@[simp] theorem freshId_pstat (s : State) : (s.freshId).pstat = s.pstat := rfl
@[simp] theorem freshId_mem (s : State) : (s.freshId).mem = s.mem := rfl
@[simp] theorem freshId_lines (s : State) : (s.freshId).lines = s.lines := rfl
@[simp] theorem freshId_bar (s : State) : (s.freshId).bar = s.bar := rfl
@[simp] theorem freshId_cores (s : State) : (s.freshId).cores = s.cores := rfl
@[simp] theorem freshId_walks (s : State) : (s.freshId).walks = s.walks := rfl
@[simp] theorem freshId_l2tlb (s : State) : (s.freshId).l2tlb = s.l2tlb := rfl
@[simp] theorem freshId_rlocks (s : State) : (s.freshId).rlocks = s.rlocks := rfl
@[simp] theorem freshId_slots (s : State) : (s.freshId).slots = s.slots := rfl
@[simp] theorem freshId_hostReqs (s : State) : (s.freshId).hostReqs = s.hostReqs := rfl
@[simp] theorem freshId_hostOut (s : State) : (s.freshId).hostOut = s.hostOut := rfl
@[simp] theorem freshId_habl (s : State) : (s.freshId).habl = s.habl := rfl
@[simp] theorem freshId_answers (s : State) : (s.freshId).answers = s.answers := rfl
@[simp] theorem freshId_fabReqs (s : State) : (s.freshId).fabReqs = s.fabReqs := rfl
@[simp] theorem freshId_fabOut (s : State) : (s.freshId).fabOut = s.fabOut := rfl
@[simp] theorem freshId_peerBuf (s : State) : (s.freshId).peerBuf = s.peerBuf := rfl
@[simp] theorem freshId_fabAns (s : State) : (s.freshId).fabAns = s.fabAns := rfl
@[simp] theorem freshId_reduce (s : State) : (s.freshId).reduce = s.reduce := rfl
@[simp] theorem freshId_redQ (s : State) : (s.freshId).redQ = s.redQ := rfl
@[simp] theorem freshId_accs (s : State) : (s.freshId).accs = s.accs := rfl
@[simp] theorem freshId_engs (s : State) : (s.freshId).engs = s.engs := rfl
@[simp] theorem freshId_aq (s : State) : (s.freshId).aq = s.aq := rfl
@[simp] theorem freshId_quads (s : State) : (s.freshId).quads = s.quads := rfl
@[simp] theorem freshId_leaves (s : State) : (s.freshId).leaves = s.leaves := rfl
@[simp] theorem freshId_leaveQ (s : State) : (s.freshId).leaveQ = s.leaveQ := rfl
@[simp] theorem freshId_handles (s : State) : (s.freshId).handles = s.handles := rfl
@[simp] theorem freshId_xops (s : State) : (s.freshId).xops = s.xops := rfl
@[simp] theorem freshId_sluices (s : State) : (s.freshId).sluices = s.sluices := rfl
@[simp] theorem freshId_gens (s : State) : (s.freshId).gens = s.gens := rfl
@[simp] theorem freshId_builders (s : State) : (s.freshId).builders = s.builders := rfl
@[simp] theorem freshId_tasks (s : State) : (s.freshId).tasks = s.tasks := rfl
@[simp] theorem freshId_banks (s : State) : (s.freshId).banks = s.banks := rfl
@[simp] theorem freshId_pushPtr (s : State) : (s.freshId).pushPtr = s.pushPtr := rfl
@[simp] theorem freshId_popCount (s : State) : (s.freshId).popCount = s.popCount := rfl
@[simp] theorem freshId_taskSerial (s : State) : (s.freshId).taskSerial = s.taskSerial := rfl
@[simp] theorem freshId_fragQ (s : State) : (s.freshId).fragQ = s.fragQ := rfl
@[simp] theorem freshId_reuse (s : State) : (s.freshId).reuse = s.reuse := rfl
@[simp] theorem freshId_reuseSerial (s : State) : (s.freshId).reuseSerial = s.reuseSerial := rfl
@[simp] theorem freshId_grids (s : State) : (s.freshId).grids = s.grids := rfl
@[simp] theorem freshId_serialNext (s : State) : (s.freshId).serialNext = s.serialNext := rfl
@[simp] theorem freshId_gridSeq (s : State) : (s.freshId).gridSeq = s.gridSeq := rfl
@[simp] theorem freshId_queues (s : State) : (s.freshId).queues = s.queues := rfl
@[simp] theorem freshId_qTurn (s : State) : (s.freshId).qTurn = s.qTurn := rfl
@[simp] theorem freshId_qClk (s : State) : (s.freshId).qClk = s.qClk := rfl
@[simp] theorem freshId_placedAt (s : State) : (s.freshId).placedAt = s.placedAt := rfl
@[simp] theorem freshId_bulkTurn (s : State) : (s.freshId).bulkTurn = s.bulkTurn := rfl
@[simp] theorem freshId_agents (s : State) : (s.freshId).agents = s.agents := rfl
@[simp] theorem freshId_teams (s : State) : (s.freshId).teams = s.teams := rfl
@[simp] theorem freshId_faultQ (s : State) : (s.freshId).faultQ = s.faultQ := rfl
@[simp] theorem freshId_tokens (s : State) : (s.freshId).tokens = s.tokens := rfl
@[simp] theorem freshId_tokenNext (s : State) : (s.freshId).tokenNext = s.tokenNext := rfl
@[simp] theorem freshId_faultWait (s : State) : (s.freshId).faultWait = s.faultWait := rfl
@[simp] theorem freshId_fatals (s : State) : (s.freshId).fatals = s.fatals := rfl
@[simp] theorem freshId_preempts (s : State) : (s.freshId).preempts = s.preempts := rfl
@[simp] theorem freshId_cmds (s : State) : (s.freshId).cmds = s.cmds := rfl
@[simp] theorem freshId_tlbInv (s : State) : (s.freshId).tlbInv = s.tlbInv := rfl
@[simp] theorem freshId_flows (s : State) : (s.freshId).flows = s.flows := rfl
@[simp] theorem freshId_mediaOut (s : State) : (s.freshId).mediaOut = s.mediaOut := rfl
@[simp] theorem freshId_wallRuns (s : State) : (s.freshId).wallRuns = s.wallRuns := rfl
@[simp] theorem freshId_wallOut (s : State) : (s.freshId).wallOut = s.wallOut := rfl
@[simp] theorem freshId_wallRejoin (s : State) : (s.freshId).wallRejoin = s.wallRejoin := rfl
@[simp] theorem freshId_wallStat (s : State) : (s.freshId).wallStat = s.wallStat := rfl
@[simp] theorem freshId_wallBars (s : State) : (s.freshId).wallBars = s.wallBars := rfl
@[simp] theorem freshId_wallNext (s : State) : (s.freshId).wallNext = s.wallNext := rfl
@[simp] theorem freshId_wallClk (s : State) : (s.freshId).wallClk = s.wallClk := rfl
@[simp] theorem freshId_wallSent (s : State) : (s.freshId).wallSent = s.wallSent := rfl
@[simp] theorem freshId_power (s : State) : (s.freshId).power = s.power := rfl
@[simp] theorem freshId_mrs (s : State) : (s.freshId).mrs = s.mrs := rfl
@[simp] theorem freshId_fusedSvn (s : State) : (s.freshId).fusedSvn = s.fusedSvn := rfl
@[simp] theorem freshId_runSvn (s : State) : (s.freshId).runSvn = s.runSvn := rfl
@[simp] theorem freshId_quote (s : State) : (s.freshId).quote = s.quote := rfl
@[simp] theorem freshId_steer (s : State) : (s.freshId).steer = s.steer := rfl
@[simp] theorem freshId_openRows (s : State) : (s.freshId).openRows = s.openRows := rfl
@[simp] theorem freshId_refresh (s : State) : (s.freshId).refresh = s.refresh := rfl
@[simp] theorem freshId_ergDone (s : State) : (s.freshId).ergDone = s.ergDone := rfl
@[simp] theorem freshId_bad (s : State) : (s.freshId).bad = s.bad := rfl

/-! ## The fields changed -/

@[simp] theorem writeN_mem (s : State) (n pa x : Nat) : (s.writeN n pa x).mem = wrN s.mem n pa x := rfl
@[simp] theorem updAgent_agents (s : State) (a : Nat) (f : Agent → Agent) : (s.updAgent a f).agents = KMap.upd s.agents a f := rfl
@[simp] theorem putAgent_agents (s : State) (a : Nat) (ag : Agent) : (s.putAgent a ag).agents = KMap.put s.agents a ag := rfl
@[simp] theorem updTeam_teams (s : State) (t : Nat) (f : Team → Team) : (s.updTeam t f).teams = KMap.upd s.teams t f := rfl
@[simp] theorem happen_agenda (s : State) (es : List Ev) : (s.happen es).agenda = es ++ s.agenda := rfl
@[simp] theorem queueRec_faultQ (s : State) (r : BitVec 512) : (s.queueRec r).faultQ = s.faultQ ++ [r] := rfl
@[simp] theorem freshId_ids (s : State) : s.freshId.ids = s.ids + 1 := rfl

end Sys2Proof.Machine.State

namespace Sys2Proof.Machine.Agent

/-! ## `setS` -/

@[simp] theorem setS_kind (ag : Agent) (n : Nat) (x : Dword) : (ag.setS n x).kind = ag.kind := rfl
@[simp] theorem setS_core (ag : Agent) (n : Nat) (x : Dword) : (ag.setS n x).core = ag.core := rfl
@[simp] theorem setS_part (ag : Agent) (n : Nat) (x : Dword) : (ag.setS n x).part = ag.part := rfl
@[simp] theorem setS_slot (ag : Agent) (n : Nat) (x : Dword) : (ag.setS n x).slot = ag.slot := rfl
@[simp] theorem setS_ctx (ag : Agent) (n : Nat) (x : Dword) : (ag.setS n x).ctx = ag.ctx := rfl
@[simp] theorem setS_tenant (ag : Agent) (n : Nat) (x : Dword) : (ag.setS n x).tenant = ag.tenant := rfl
@[simp] theorem setS_team (ag : Agent) (n : Nat) (x : Dword) : (ag.setS n x).team = ag.team := rfl
@[simp] theorem setS_gidx (ag : Agent) (n : Nat) (x : Dword) : (ag.setS n x).gidx = ag.gidx := rfl
@[simp] theorem setS_width (ag : Agent) (n : Nat) (x : Dword) : (ag.setS n x).width = ag.width := rfl
@[simp] theorem setS_nv (ag : Agent) (n : Nat) (x : Dword) : (ag.setS n x).nv = ag.nv := rfl
@[simp] theorem setS_vregs (ag : Agent) (n : Nat) (x : Dword) : (ag.setS n x).vregs = ag.vregs := rfl
@[simp] theorem setS_gchk (ag : Agent) (n : Nat) (x : Dword) : (ag.setS n x).gchk = ag.gchk := rfl
@[simp] theorem setS_srx (ag : Agent) (n : Nat) (x : Dword) : (ag.setS n x).srx = ag.srx := rfl
@[simp] theorem setS_lm (ag : Agent) (n : Nat) (x : Dword) : (ag.setS n x).lm = ag.lm := rfl
@[simp] theorem setS_qb (ag : Agent) (n : Nat) (x : Dword) : (ag.setS n x).qb = ag.qb := rfl
@[simp] theorem setS_grid (ag : Agent) (n : Nat) (x : Dword) : (ag.setS n x).grid = ag.grid := rfl
@[simp] theorem setS_lrec (ag : Agent) (n : Nat) (x : Dword) : (ag.setS n x).lrec = ag.lrec := rfl
@[simp] theorem setS_dln (ag : Agent) (n : Nat) (x : Dword) : (ag.setS n x).dln = ag.dln := rfl
@[simp] theorem setS_lcls (ag : Agent) (n : Nat) (x : Dword) : (ag.setS n x).lcls = ag.lcls := rfl
@[simp] theorem setS_frags (ag : Agent) (n : Nat) (x : Dword) : (ag.setS n x).frags = ag.frags := rfl
@[simp] theorem setS_split (ag : Agent) (n : Nat) (x : Dword) : (ag.setS n x).split = ag.split := rfl
@[simp] theorem setS_splitSeq (ag : Agent) (n : Nat) (x : Dword) : (ag.setS n x).splitSeq = ag.splitSeq := rfl
@[simp] theorem setS_pend (ag : Agent) (n : Nat) (x : Dword) : (ag.setS n x).pend = ag.pend := rfl
@[simp] theorem setS_ops (ag : Agent) (n : Nat) (x : Dword) : (ag.setS n x).ops = ag.ops := rfl
@[simp] theorem setS_handler (ag : Agent) (n : Nat) (x : Dword) : (ag.setS n x).handler = ag.handler := rfl
@[simp] theorem setS_stop (ag : Agent) (n : Nat) (x : Dword) : (ag.setS n x).stop = ag.stop := rfl
@[simp] theorem setS_tbar (ag : Agent) (n : Nat) (x : Dword) : (ag.setS n x).tbar = ag.tbar := rfl
@[simp] theorem setS_sbar (ag : Agent) (n : Nat) (x : Dword) : (ag.setS n x).sbar = ag.sbar := rfl
@[simp] theorem setS_task (ag : Agent) (n : Nat) (x : Dword) : (ag.setS n x).task = ag.task := rfl
@[simp] theorem setS_pure (ag : Agent) (n : Nat) (x : Dword) : (ag.setS n x).pure = ag.pure := rfl
@[simp] theorem setS_impure (ag : Agent) (n : Nat) (x : Dword) : (ag.setS n x).impure = ag.impure := rfl
@[simp] theorem setS_banks (ag : Agent) (n : Nat) (x : Dword) : (ag.setS n x).banks = ag.banks := rfl
@[simp] theorem setS_spill (ag : Agent) (n : Nat) (x : Dword) : (ag.setS n x).spill = ag.spill := rfl
@[simp] theorem setS_rays (ag : Agent) (n : Nat) (x : Dword) : (ag.setS n x).rays = ag.rays := rfl
@[simp] theorem setS_pins (ag : Agent) (n : Nat) (x : Dword) : (ag.setS n x).pins = ag.pins := rfl
@[simp] theorem setS_ended (ag : Agent) (n : Nat) (x : Dword) : (ag.setS n x).ended = ag.ended := rfl
@[simp] theorem setS_latched (ag : Agent) (n : Nat) (x : Dword) : (ag.setS n x).latched = ag.latched := rfl
@[simp] theorem setS_store (ag : Agent) (n : Nat) (x : Dword) : (ag.setS n x).store = ag.store := rfl
@[simp] theorem setS_img (ag : Agent) (n : Nat) (x : Dword) : (ag.setS n x).img = ag.img := rfl
@[simp] theorem setS_imgLen (ag : Agent) (n : Nat) (x : Dword) : (ag.setS n x).imgLen = ag.imgLen := rfl
@[simp] theorem setS_imgTodo (ag : Agent) (n : Nat) (x : Dword) : (ag.setS n x).imgTodo = ag.imgTodo := rfl
@[simp] theorem setS_started (ag : Agent) (n : Nat) (x : Dword) : (ag.setS n x).started = ag.started := rfl
@[simp] theorem setS_pureIn (ag : Agent) (n : Nat) (x : Dword) : (ag.setS n x).pureIn = ag.pureIn := rfl

/-! ## `setV` -/

@[simp] theorem setV_kind (ag : Agent) (n l : Nat) (x : Word) : (ag.setV n l x).kind = ag.kind := rfl
@[simp] theorem setV_core (ag : Agent) (n l : Nat) (x : Word) : (ag.setV n l x).core = ag.core := rfl
@[simp] theorem setV_part (ag : Agent) (n l : Nat) (x : Word) : (ag.setV n l x).part = ag.part := rfl
@[simp] theorem setV_slot (ag : Agent) (n l : Nat) (x : Word) : (ag.setV n l x).slot = ag.slot := rfl
@[simp] theorem setV_ctx (ag : Agent) (n l : Nat) (x : Word) : (ag.setV n l x).ctx = ag.ctx := rfl
@[simp] theorem setV_tenant (ag : Agent) (n l : Nat) (x : Word) : (ag.setV n l x).tenant = ag.tenant := rfl
@[simp] theorem setV_team (ag : Agent) (n l : Nat) (x : Word) : (ag.setV n l x).team = ag.team := rfl
@[simp] theorem setV_gidx (ag : Agent) (n l : Nat) (x : Word) : (ag.setV n l x).gidx = ag.gidx := rfl
@[simp] theorem setV_width (ag : Agent) (n l : Nat) (x : Word) : (ag.setV n l x).width = ag.width := rfl
@[simp] theorem setV_nv (ag : Agent) (n l : Nat) (x : Word) : (ag.setV n l x).nv = ag.nv := rfl
@[simp] theorem setV_sregs (ag : Agent) (n l : Nat) (x : Word) : (ag.setV n l x).sregs = ag.sregs := rfl
@[simp] theorem setV_gchk (ag : Agent) (n l : Nat) (x : Word) : (ag.setV n l x).gchk = ag.gchk := rfl
@[simp] theorem setV_srx (ag : Agent) (n l : Nat) (x : Word) : (ag.setV n l x).srx = ag.srx := rfl
@[simp] theorem setV_lm (ag : Agent) (n l : Nat) (x : Word) : (ag.setV n l x).lm = ag.lm := rfl
@[simp] theorem setV_qb (ag : Agent) (n l : Nat) (x : Word) : (ag.setV n l x).qb = ag.qb := rfl
@[simp] theorem setV_grid (ag : Agent) (n l : Nat) (x : Word) : (ag.setV n l x).grid = ag.grid := rfl
@[simp] theorem setV_lrec (ag : Agent) (n l : Nat) (x : Word) : (ag.setV n l x).lrec = ag.lrec := rfl
@[simp] theorem setV_dln (ag : Agent) (n l : Nat) (x : Word) : (ag.setV n l x).dln = ag.dln := rfl
@[simp] theorem setV_lcls (ag : Agent) (n l : Nat) (x : Word) : (ag.setV n l x).lcls = ag.lcls := rfl
@[simp] theorem setV_frags (ag : Agent) (n l : Nat) (x : Word) : (ag.setV n l x).frags = ag.frags := rfl
@[simp] theorem setV_split (ag : Agent) (n l : Nat) (x : Word) : (ag.setV n l x).split = ag.split := rfl
@[simp] theorem setV_splitSeq (ag : Agent) (n l : Nat) (x : Word) : (ag.setV n l x).splitSeq = ag.splitSeq := rfl
@[simp] theorem setV_pend (ag : Agent) (n l : Nat) (x : Word) : (ag.setV n l x).pend = ag.pend := rfl
@[simp] theorem setV_ops (ag : Agent) (n l : Nat) (x : Word) : (ag.setV n l x).ops = ag.ops := rfl
@[simp] theorem setV_handler (ag : Agent) (n l : Nat) (x : Word) : (ag.setV n l x).handler = ag.handler := rfl
@[simp] theorem setV_stop (ag : Agent) (n l : Nat) (x : Word) : (ag.setV n l x).stop = ag.stop := rfl
@[simp] theorem setV_tbar (ag : Agent) (n l : Nat) (x : Word) : (ag.setV n l x).tbar = ag.tbar := rfl
@[simp] theorem setV_sbar (ag : Agent) (n l : Nat) (x : Word) : (ag.setV n l x).sbar = ag.sbar := rfl
@[simp] theorem setV_task (ag : Agent) (n l : Nat) (x : Word) : (ag.setV n l x).task = ag.task := rfl
@[simp] theorem setV_pure (ag : Agent) (n l : Nat) (x : Word) : (ag.setV n l x).pure = ag.pure := rfl
@[simp] theorem setV_impure (ag : Agent) (n l : Nat) (x : Word) : (ag.setV n l x).impure = ag.impure := rfl
@[simp] theorem setV_banks (ag : Agent) (n l : Nat) (x : Word) : (ag.setV n l x).banks = ag.banks := rfl
@[simp] theorem setV_spill (ag : Agent) (n l : Nat) (x : Word) : (ag.setV n l x).spill = ag.spill := rfl
@[simp] theorem setV_rays (ag : Agent) (n l : Nat) (x : Word) : (ag.setV n l x).rays = ag.rays := rfl
@[simp] theorem setV_pins (ag : Agent) (n l : Nat) (x : Word) : (ag.setV n l x).pins = ag.pins := rfl
@[simp] theorem setV_ended (ag : Agent) (n l : Nat) (x : Word) : (ag.setV n l x).ended = ag.ended := rfl
@[simp] theorem setV_latched (ag : Agent) (n l : Nat) (x : Word) : (ag.setV n l x).latched = ag.latched := rfl
@[simp] theorem setV_store (ag : Agent) (n l : Nat) (x : Word) : (ag.setV n l x).store = ag.store := rfl
@[simp] theorem setV_img (ag : Agent) (n l : Nat) (x : Word) : (ag.setV n l x).img = ag.img := rfl
@[simp] theorem setV_imgLen (ag : Agent) (n l : Nat) (x : Word) : (ag.setV n l x).imgLen = ag.imgLen := rfl
@[simp] theorem setV_imgTodo (ag : Agent) (n l : Nat) (x : Word) : (ag.setV n l x).imgTodo = ag.imgTodo := rfl
@[simp] theorem setV_started (ag : Agent) (n l : Nat) (x : Word) : (ag.setV n l x).started = ag.started := rfl
@[simp] theorem setV_pureIn (ag : Agent) (n l : Nat) (x : Word) : (ag.setV n l x).pureIn = ag.pureIn := rfl

/-! ## `updOp` -/

@[simp] theorem updOp_kind (ag : Agent) (id : Nat) (f : Op → Op) : (ag.updOp id f).kind = ag.kind := rfl
@[simp] theorem updOp_core (ag : Agent) (id : Nat) (f : Op → Op) : (ag.updOp id f).core = ag.core := rfl
@[simp] theorem updOp_part (ag : Agent) (id : Nat) (f : Op → Op) : (ag.updOp id f).part = ag.part := rfl
@[simp] theorem updOp_slot (ag : Agent) (id : Nat) (f : Op → Op) : (ag.updOp id f).slot = ag.slot := rfl
@[simp] theorem updOp_ctx (ag : Agent) (id : Nat) (f : Op → Op) : (ag.updOp id f).ctx = ag.ctx := rfl
@[simp] theorem updOp_tenant (ag : Agent) (id : Nat) (f : Op → Op) : (ag.updOp id f).tenant = ag.tenant := rfl
@[simp] theorem updOp_team (ag : Agent) (id : Nat) (f : Op → Op) : (ag.updOp id f).team = ag.team := rfl
@[simp] theorem updOp_gidx (ag : Agent) (id : Nat) (f : Op → Op) : (ag.updOp id f).gidx = ag.gidx := rfl
@[simp] theorem updOp_width (ag : Agent) (id : Nat) (f : Op → Op) : (ag.updOp id f).width = ag.width := rfl
@[simp] theorem updOp_nv (ag : Agent) (id : Nat) (f : Op → Op) : (ag.updOp id f).nv = ag.nv := rfl
@[simp] theorem updOp_sregs (ag : Agent) (id : Nat) (f : Op → Op) : (ag.updOp id f).sregs = ag.sregs := rfl
@[simp] theorem updOp_vregs (ag : Agent) (id : Nat) (f : Op → Op) : (ag.updOp id f).vregs = ag.vregs := rfl
@[simp] theorem updOp_gchk (ag : Agent) (id : Nat) (f : Op → Op) : (ag.updOp id f).gchk = ag.gchk := rfl
@[simp] theorem updOp_srx (ag : Agent) (id : Nat) (f : Op → Op) : (ag.updOp id f).srx = ag.srx := rfl
@[simp] theorem updOp_lm (ag : Agent) (id : Nat) (f : Op → Op) : (ag.updOp id f).lm = ag.lm := rfl
@[simp] theorem updOp_qb (ag : Agent) (id : Nat) (f : Op → Op) : (ag.updOp id f).qb = ag.qb := rfl
@[simp] theorem updOp_grid (ag : Agent) (id : Nat) (f : Op → Op) : (ag.updOp id f).grid = ag.grid := rfl
@[simp] theorem updOp_lrec (ag : Agent) (id : Nat) (f : Op → Op) : (ag.updOp id f).lrec = ag.lrec := rfl
@[simp] theorem updOp_dln (ag : Agent) (id : Nat) (f : Op → Op) : (ag.updOp id f).dln = ag.dln := rfl
@[simp] theorem updOp_lcls (ag : Agent) (id : Nat) (f : Op → Op) : (ag.updOp id f).lcls = ag.lcls := rfl
@[simp] theorem updOp_frags (ag : Agent) (id : Nat) (f : Op → Op) : (ag.updOp id f).frags = ag.frags := rfl
@[simp] theorem updOp_split (ag : Agent) (id : Nat) (f : Op → Op) : (ag.updOp id f).split = ag.split := rfl
@[simp] theorem updOp_splitSeq (ag : Agent) (id : Nat) (f : Op → Op) : (ag.updOp id f).splitSeq = ag.splitSeq := rfl
@[simp] theorem updOp_pend (ag : Agent) (id : Nat) (f : Op → Op) : (ag.updOp id f).pend = ag.pend := rfl
@[simp] theorem updOp_handler (ag : Agent) (id : Nat) (f : Op → Op) : (ag.updOp id f).handler = ag.handler := rfl
@[simp] theorem updOp_stop (ag : Agent) (id : Nat) (f : Op → Op) : (ag.updOp id f).stop = ag.stop := rfl
@[simp] theorem updOp_tbar (ag : Agent) (id : Nat) (f : Op → Op) : (ag.updOp id f).tbar = ag.tbar := rfl
@[simp] theorem updOp_sbar (ag : Agent) (id : Nat) (f : Op → Op) : (ag.updOp id f).sbar = ag.sbar := rfl
@[simp] theorem updOp_task (ag : Agent) (id : Nat) (f : Op → Op) : (ag.updOp id f).task = ag.task := rfl
@[simp] theorem updOp_pure (ag : Agent) (id : Nat) (f : Op → Op) : (ag.updOp id f).pure = ag.pure := rfl
@[simp] theorem updOp_impure (ag : Agent) (id : Nat) (f : Op → Op) : (ag.updOp id f).impure = ag.impure := rfl
@[simp] theorem updOp_banks (ag : Agent) (id : Nat) (f : Op → Op) : (ag.updOp id f).banks = ag.banks := rfl
@[simp] theorem updOp_spill (ag : Agent) (id : Nat) (f : Op → Op) : (ag.updOp id f).spill = ag.spill := rfl
@[simp] theorem updOp_rays (ag : Agent) (id : Nat) (f : Op → Op) : (ag.updOp id f).rays = ag.rays := rfl
@[simp] theorem updOp_pins (ag : Agent) (id : Nat) (f : Op → Op) : (ag.updOp id f).pins = ag.pins := rfl
@[simp] theorem updOp_ended (ag : Agent) (id : Nat) (f : Op → Op) : (ag.updOp id f).ended = ag.ended := rfl
@[simp] theorem updOp_latched (ag : Agent) (id : Nat) (f : Op → Op) : (ag.updOp id f).latched = ag.latched := rfl
@[simp] theorem updOp_store (ag : Agent) (id : Nat) (f : Op → Op) : (ag.updOp id f).store = ag.store := rfl
@[simp] theorem updOp_img (ag : Agent) (id : Nat) (f : Op → Op) : (ag.updOp id f).img = ag.img := rfl
@[simp] theorem updOp_imgLen (ag : Agent) (id : Nat) (f : Op → Op) : (ag.updOp id f).imgLen = ag.imgLen := rfl
@[simp] theorem updOp_imgTodo (ag : Agent) (id : Nat) (f : Op → Op) : (ag.updOp id f).imgTodo = ag.imgTodo := rfl
@[simp] theorem updOp_started (ag : Agent) (id : Nat) (f : Op → Op) : (ag.updOp id f).started = ag.started := rfl
@[simp] theorem updOp_pureIn (ag : Agent) (id : Nat) (f : Op → Op) : (ag.updOp id f).pureIn = ag.pureIn := rfl

/-! ## `updFrag` -/

@[simp] theorem updFrag_kind (ag : Agent) (fid : Nat) (f : Frag → Frag) : (ag.updFrag fid f).kind = ag.kind := rfl
@[simp] theorem updFrag_core (ag : Agent) (fid : Nat) (f : Frag → Frag) : (ag.updFrag fid f).core = ag.core := rfl
@[simp] theorem updFrag_part (ag : Agent) (fid : Nat) (f : Frag → Frag) : (ag.updFrag fid f).part = ag.part := rfl
@[simp] theorem updFrag_slot (ag : Agent) (fid : Nat) (f : Frag → Frag) : (ag.updFrag fid f).slot = ag.slot := rfl
@[simp] theorem updFrag_ctx (ag : Agent) (fid : Nat) (f : Frag → Frag) : (ag.updFrag fid f).ctx = ag.ctx := rfl
@[simp] theorem updFrag_tenant (ag : Agent) (fid : Nat) (f : Frag → Frag) : (ag.updFrag fid f).tenant = ag.tenant := rfl
@[simp] theorem updFrag_team (ag : Agent) (fid : Nat) (f : Frag → Frag) : (ag.updFrag fid f).team = ag.team := rfl
@[simp] theorem updFrag_gidx (ag : Agent) (fid : Nat) (f : Frag → Frag) : (ag.updFrag fid f).gidx = ag.gidx := rfl
@[simp] theorem updFrag_width (ag : Agent) (fid : Nat) (f : Frag → Frag) : (ag.updFrag fid f).width = ag.width := rfl
@[simp] theorem updFrag_nv (ag : Agent) (fid : Nat) (f : Frag → Frag) : (ag.updFrag fid f).nv = ag.nv := rfl
@[simp] theorem updFrag_sregs (ag : Agent) (fid : Nat) (f : Frag → Frag) : (ag.updFrag fid f).sregs = ag.sregs := rfl
@[simp] theorem updFrag_vregs (ag : Agent) (fid : Nat) (f : Frag → Frag) : (ag.updFrag fid f).vregs = ag.vregs := rfl
@[simp] theorem updFrag_gchk (ag : Agent) (fid : Nat) (f : Frag → Frag) : (ag.updFrag fid f).gchk = ag.gchk := rfl
@[simp] theorem updFrag_srx (ag : Agent) (fid : Nat) (f : Frag → Frag) : (ag.updFrag fid f).srx = ag.srx := rfl
@[simp] theorem updFrag_lm (ag : Agent) (fid : Nat) (f : Frag → Frag) : (ag.updFrag fid f).lm = ag.lm := rfl
@[simp] theorem updFrag_qb (ag : Agent) (fid : Nat) (f : Frag → Frag) : (ag.updFrag fid f).qb = ag.qb := rfl
@[simp] theorem updFrag_grid (ag : Agent) (fid : Nat) (f : Frag → Frag) : (ag.updFrag fid f).grid = ag.grid := rfl
@[simp] theorem updFrag_lrec (ag : Agent) (fid : Nat) (f : Frag → Frag) : (ag.updFrag fid f).lrec = ag.lrec := rfl
@[simp] theorem updFrag_dln (ag : Agent) (fid : Nat) (f : Frag → Frag) : (ag.updFrag fid f).dln = ag.dln := rfl
@[simp] theorem updFrag_lcls (ag : Agent) (fid : Nat) (f : Frag → Frag) : (ag.updFrag fid f).lcls = ag.lcls := rfl
@[simp] theorem updFrag_split (ag : Agent) (fid : Nat) (f : Frag → Frag) : (ag.updFrag fid f).split = ag.split := rfl
@[simp] theorem updFrag_splitSeq (ag : Agent) (fid : Nat) (f : Frag → Frag) : (ag.updFrag fid f).splitSeq = ag.splitSeq := rfl
@[simp] theorem updFrag_pend (ag : Agent) (fid : Nat) (f : Frag → Frag) : (ag.updFrag fid f).pend = ag.pend := rfl
@[simp] theorem updFrag_ops (ag : Agent) (fid : Nat) (f : Frag → Frag) : (ag.updFrag fid f).ops = ag.ops := rfl
@[simp] theorem updFrag_handler (ag : Agent) (fid : Nat) (f : Frag → Frag) : (ag.updFrag fid f).handler = ag.handler := rfl
@[simp] theorem updFrag_stop (ag : Agent) (fid : Nat) (f : Frag → Frag) : (ag.updFrag fid f).stop = ag.stop := rfl
@[simp] theorem updFrag_tbar (ag : Agent) (fid : Nat) (f : Frag → Frag) : (ag.updFrag fid f).tbar = ag.tbar := rfl
@[simp] theorem updFrag_sbar (ag : Agent) (fid : Nat) (f : Frag → Frag) : (ag.updFrag fid f).sbar = ag.sbar := rfl
@[simp] theorem updFrag_task (ag : Agent) (fid : Nat) (f : Frag → Frag) : (ag.updFrag fid f).task = ag.task := rfl
@[simp] theorem updFrag_pure (ag : Agent) (fid : Nat) (f : Frag → Frag) : (ag.updFrag fid f).pure = ag.pure := rfl
@[simp] theorem updFrag_impure (ag : Agent) (fid : Nat) (f : Frag → Frag) : (ag.updFrag fid f).impure = ag.impure := rfl
@[simp] theorem updFrag_banks (ag : Agent) (fid : Nat) (f : Frag → Frag) : (ag.updFrag fid f).banks = ag.banks := rfl
@[simp] theorem updFrag_spill (ag : Agent) (fid : Nat) (f : Frag → Frag) : (ag.updFrag fid f).spill = ag.spill := rfl
@[simp] theorem updFrag_rays (ag : Agent) (fid : Nat) (f : Frag → Frag) : (ag.updFrag fid f).rays = ag.rays := rfl
@[simp] theorem updFrag_pins (ag : Agent) (fid : Nat) (f : Frag → Frag) : (ag.updFrag fid f).pins = ag.pins := rfl
@[simp] theorem updFrag_ended (ag : Agent) (fid : Nat) (f : Frag → Frag) : (ag.updFrag fid f).ended = ag.ended := rfl
@[simp] theorem updFrag_latched (ag : Agent) (fid : Nat) (f : Frag → Frag) : (ag.updFrag fid f).latched = ag.latched := rfl
@[simp] theorem updFrag_store (ag : Agent) (fid : Nat) (f : Frag → Frag) : (ag.updFrag fid f).store = ag.store := rfl
@[simp] theorem updFrag_img (ag : Agent) (fid : Nat) (f : Frag → Frag) : (ag.updFrag fid f).img = ag.img := rfl
@[simp] theorem updFrag_imgLen (ag : Agent) (fid : Nat) (f : Frag → Frag) : (ag.updFrag fid f).imgLen = ag.imgLen := rfl
@[simp] theorem updFrag_imgTodo (ag : Agent) (fid : Nat) (f : Frag → Frag) : (ag.updFrag fid f).imgTodo = ag.imgTodo := rfl
@[simp] theorem updFrag_started (ag : Agent) (fid : Nat) (f : Frag → Frag) : (ag.updFrag fid f).started = ag.started := rfl
@[simp] theorem updFrag_pureIn (ag : Agent) (fid : Nat) (f : Frag → Frag) : (ag.updFrag fid f).pureIn = ag.pureIn := rfl

/-! ## `putFrag` -/

@[simp] theorem putFrag_kind (ag : Agent) (fid : Nat) (f : Frag) : (ag.putFrag fid f).kind = ag.kind := rfl
@[simp] theorem putFrag_core (ag : Agent) (fid : Nat) (f : Frag) : (ag.putFrag fid f).core = ag.core := rfl
@[simp] theorem putFrag_part (ag : Agent) (fid : Nat) (f : Frag) : (ag.putFrag fid f).part = ag.part := rfl
@[simp] theorem putFrag_slot (ag : Agent) (fid : Nat) (f : Frag) : (ag.putFrag fid f).slot = ag.slot := rfl
@[simp] theorem putFrag_ctx (ag : Agent) (fid : Nat) (f : Frag) : (ag.putFrag fid f).ctx = ag.ctx := rfl
@[simp] theorem putFrag_tenant (ag : Agent) (fid : Nat) (f : Frag) : (ag.putFrag fid f).tenant = ag.tenant := rfl
@[simp] theorem putFrag_team (ag : Agent) (fid : Nat) (f : Frag) : (ag.putFrag fid f).team = ag.team := rfl
@[simp] theorem putFrag_gidx (ag : Agent) (fid : Nat) (f : Frag) : (ag.putFrag fid f).gidx = ag.gidx := rfl
@[simp] theorem putFrag_width (ag : Agent) (fid : Nat) (f : Frag) : (ag.putFrag fid f).width = ag.width := rfl
@[simp] theorem putFrag_nv (ag : Agent) (fid : Nat) (f : Frag) : (ag.putFrag fid f).nv = ag.nv := rfl
@[simp] theorem putFrag_sregs (ag : Agent) (fid : Nat) (f : Frag) : (ag.putFrag fid f).sregs = ag.sregs := rfl
@[simp] theorem putFrag_vregs (ag : Agent) (fid : Nat) (f : Frag) : (ag.putFrag fid f).vregs = ag.vregs := rfl
@[simp] theorem putFrag_gchk (ag : Agent) (fid : Nat) (f : Frag) : (ag.putFrag fid f).gchk = ag.gchk := rfl
@[simp] theorem putFrag_srx (ag : Agent) (fid : Nat) (f : Frag) : (ag.putFrag fid f).srx = ag.srx := rfl
@[simp] theorem putFrag_lm (ag : Agent) (fid : Nat) (f : Frag) : (ag.putFrag fid f).lm = ag.lm := rfl
@[simp] theorem putFrag_qb (ag : Agent) (fid : Nat) (f : Frag) : (ag.putFrag fid f).qb = ag.qb := rfl
@[simp] theorem putFrag_grid (ag : Agent) (fid : Nat) (f : Frag) : (ag.putFrag fid f).grid = ag.grid := rfl
@[simp] theorem putFrag_lrec (ag : Agent) (fid : Nat) (f : Frag) : (ag.putFrag fid f).lrec = ag.lrec := rfl
@[simp] theorem putFrag_dln (ag : Agent) (fid : Nat) (f : Frag) : (ag.putFrag fid f).dln = ag.dln := rfl
@[simp] theorem putFrag_lcls (ag : Agent) (fid : Nat) (f : Frag) : (ag.putFrag fid f).lcls = ag.lcls := rfl
@[simp] theorem putFrag_split (ag : Agent) (fid : Nat) (f : Frag) : (ag.putFrag fid f).split = ag.split := rfl
@[simp] theorem putFrag_splitSeq (ag : Agent) (fid : Nat) (f : Frag) : (ag.putFrag fid f).splitSeq = ag.splitSeq := rfl
@[simp] theorem putFrag_pend (ag : Agent) (fid : Nat) (f : Frag) : (ag.putFrag fid f).pend = ag.pend := rfl
@[simp] theorem putFrag_ops (ag : Agent) (fid : Nat) (f : Frag) : (ag.putFrag fid f).ops = ag.ops := rfl
@[simp] theorem putFrag_handler (ag : Agent) (fid : Nat) (f : Frag) : (ag.putFrag fid f).handler = ag.handler := rfl
@[simp] theorem putFrag_stop (ag : Agent) (fid : Nat) (f : Frag) : (ag.putFrag fid f).stop = ag.stop := rfl
@[simp] theorem putFrag_tbar (ag : Agent) (fid : Nat) (f : Frag) : (ag.putFrag fid f).tbar = ag.tbar := rfl
@[simp] theorem putFrag_sbar (ag : Agent) (fid : Nat) (f : Frag) : (ag.putFrag fid f).sbar = ag.sbar := rfl
@[simp] theorem putFrag_task (ag : Agent) (fid : Nat) (f : Frag) : (ag.putFrag fid f).task = ag.task := rfl
@[simp] theorem putFrag_pure (ag : Agent) (fid : Nat) (f : Frag) : (ag.putFrag fid f).pure = ag.pure := rfl
@[simp] theorem putFrag_impure (ag : Agent) (fid : Nat) (f : Frag) : (ag.putFrag fid f).impure = ag.impure := rfl
@[simp] theorem putFrag_banks (ag : Agent) (fid : Nat) (f : Frag) : (ag.putFrag fid f).banks = ag.banks := rfl
@[simp] theorem putFrag_spill (ag : Agent) (fid : Nat) (f : Frag) : (ag.putFrag fid f).spill = ag.spill := rfl
@[simp] theorem putFrag_rays (ag : Agent) (fid : Nat) (f : Frag) : (ag.putFrag fid f).rays = ag.rays := rfl
@[simp] theorem putFrag_pins (ag : Agent) (fid : Nat) (f : Frag) : (ag.putFrag fid f).pins = ag.pins := rfl
@[simp] theorem putFrag_ended (ag : Agent) (fid : Nat) (f : Frag) : (ag.putFrag fid f).ended = ag.ended := rfl
@[simp] theorem putFrag_latched (ag : Agent) (fid : Nat) (f : Frag) : (ag.putFrag fid f).latched = ag.latched := rfl
@[simp] theorem putFrag_store (ag : Agent) (fid : Nat) (f : Frag) : (ag.putFrag fid f).store = ag.store := rfl
@[simp] theorem putFrag_img (ag : Agent) (fid : Nat) (f : Frag) : (ag.putFrag fid f).img = ag.img := rfl
@[simp] theorem putFrag_imgLen (ag : Agent) (fid : Nat) (f : Frag) : (ag.putFrag fid f).imgLen = ag.imgLen := rfl
@[simp] theorem putFrag_imgTodo (ag : Agent) (fid : Nat) (f : Frag) : (ag.putFrag fid f).imgTodo = ag.imgTodo := rfl
@[simp] theorem putFrag_started (ag : Agent) (fid : Nat) (f : Frag) : (ag.putFrag fid f).started = ag.started := rfl
@[simp] theorem putFrag_pureIn (ag : Agent) (fid : Nat) (f : Frag) : (ag.putFrag fid f).pureIn = ag.pureIn := rfl

end Sys2Proof.Machine.Agent
end

