-- ==== Sys2Proof/Laws/Issue.lean ====
section
/-!
SUPPORT. Issue: what the shared operations `issueWith` and `issueLocal` do for an issuer that no hazard can meet.
-/
namespace Sys2Proof.Machine
open Sys2Proof.Safety

@[simp] theorem Regs.lanes_nil (r : Reg) : Regs.lanes [] r = 0 := rfl

theorem freeReads_settled {ag : Agent} (h : settled ag) (reads : Regs) (n : Nat) : freeReads ag reads n = (ag, n) := by
  have key : ∀ (l : List Op), (∀ o ∈ l, o.dsts = [] ∧ o.win = []) → ∀ acc : Agent × Nat,
      l.foldl (init := acc) (fun acc o =>
        o.dsts.foldl (init := acc) fun acc d =>
          (lanesOf (Regs.lanes reads d.1 &&& d.2)).foldl (init := acc) fun acc l =>
            if Config.freeBit acc.2 then (acc.1, acc.2 + 1)
            else (acc.1.setReg d.1 [(l, Config.freeDword acc.2)], acc.2 + 1)) = acc := by
    intro l
    induction l with
    | nil => intro _ acc; rfl
    | cons o l ih =>
      intro ho acc
      rw [List.foldl_cons, (ho o (List.mem_cons_self ..)).1]
      exact ih (fun q hq => ho q (List.mem_cons_of_mem _ hq)) acc
  exact key ag.ops h.2 (ag, n)

theorem passView_settled {ag : Agent} (h : settled ag) (p : Bool × Bool) (i : Nat) : passView ag p i = ag := by
  unfold passView
  rw [h.1]
  split <;> rfl

theorem hazard_settled {ag : Agent} (h : settled ag) (fid : Nat) (pr p : Bool × Bool) (i : Nat) (reads writes : Regs) (rdy : Nat)
    (fixed : Bool) : hazard ag fid pr p i reads writes rdy fixed = none := by
  have h1 : ∀ o ∈ ag.ops.filter (fun o => o.fid = fid), o.dsts = [] ∧ o.win = [] := fun o ho => h.2 o (List.mem_filter.mp ho).1
  have e1 : (ag.ops.filter fun o => decide (o.fid = fid)).any
      (fun o => o.dsts.any fun d => decide ((Regs.lanes reads d.1 &&& d.2) ≠ 0)) = false :=
    List.any_eq_false.mpr fun o ho => by simp [(h1 o ho).1]
  have e2 : (ag.ops.filter fun o => decide (o.fid = fid)).any
      (fun o => o.dsts.any fun d => decide ((Regs.lanes writes d.1 &&& d.2) ≠ 0)) = false :=
    List.any_eq_false.mpr fun o ho => by simp [(h1 o ho).1]
  have e3 : (ag.ops.filter fun o => decide (o.fid = fid)).any
      (fun o => o.win.any fun d => decide ((Regs.lanes writes d.1 &&& d.2) ≠ 0)) = false :=
    List.any_eq_false.mpr fun o ho => by simp [(h1 o ho).2]
  unfold hazard
  simp only [h.1, e1, e2, e3]
  simp

theorem markWrites_settled {ag : Agent} (h : settled ag) (writes : Regs) : markWrites ag writes = ag := by
  unfold markWrites
  split
  · rfl
  · have key : ag.ops.map (fun o => { o with
        clash := o.clash ++ o.dsts.filterMap (fun d =>
          if Regs.lanes writes d.1 &&& d.2 = 0 then none else some (d.1, Regs.lanes writes d.1 &&& d.2))
        winClash := o.winClash ++ o.win.filterMap (fun d =>
          if Regs.lanes writes d.1 &&& d.2 = 0 then none else some (d.1, Regs.lanes writes d.1 &&& d.2)) }) = ag.ops := by
      conv => rhs; rw [← List.map_id ag.ops]
      apply List.map_congr_left
      intro o ho
      obtain ⟨h1, h2⟩ := h.2 o ho
      cases o
      simp only at h1 h2
      simp [h1, h2]
    simp only [key]

/-- The passes an instruction is issued in. -/
def passesOf (pm : Pm) (c : Iss) (all : BitVec 1) : Bool × Bool :=
  if pm = .one then (true, false) else passes c.ag.width (c.active all) all

/-- A legal instruction of a ready issuer runs its body on the state with the pipe's slots taken, its registers read as they
stand. -/
theorem issueWith_ready {s : State} {c : Iss} (h : ready s c) {lg : Legal} (hl : lg.fate c = none) (foot : Iss → Foot) (pm : Pm)
    (lat : Nat) (fixed : Bool) (body : State → Iss → (Bool × Bool) → Out) :
    issueWith s lg foot pm lat fixed body
      = body { s with slots := pipe s c (extraPass (passesOf pm c lg.all)) } c (passesOf pm c lg.all) := by
  obtain ⟨hi, hs, hp⟩ := h
  unfold issueWith
  simp only [hi, hl, hazard_settled hs, passView_settled hs, freeReads_settled hs]
  have h4 : decide (4 ≤ c.fr.phase) = false := by simp; omega
  simp only [h4, Bool.or_false, ite_self]
  rfl

/-- The same for an issuer that is held at the instruction: it takes no further slot. -/
theorem issueWith_held {s : State} {c : Iss} (h : held s c) {lg : Legal} (hl : lg.fate c = none) (foot : Iss → Foot) (pm : Pm)
    (lat : Nat) (fixed : Bool) (body : State → Iss → (Bool × Bool) → Out) :
    issueWith s lg foot pm lat fixed body = body s c (passesOf pm c lg.all) := by
  obtain ⟨hi, hs, hp⟩ := h
  unfold issueWith
  simp only [hi, hl, hazard_settled hs, passView_settled hs, freeReads_settled hs]
  simp [hp, passesOf]

/-- An instruction whose word is not legal takes the fault of R58 and has no other effect. -/
theorem issueWith_illegal {s : State} {c : Iss} (hi : s.issuer = some c) {lg : Legal} {f : Flt} (hl : lg.fate c = some f)
    (foot : Iss → Foot) (pm : Pm) (lat : Nat) (fixed : Bool) (body : State → Iss → (Bool × Bool) → Out) :
    issueWith s lg foot pm lat fixed body = .next (s.raise c.a c.fid f) := by
  unfold issueWith
  simp only [hi, hl]

theorem issuer_agent {s : State} {c : Iss} (h : s.issuer = some c) : s.agent? c.a = some c.ag ∧ KMap.find? c.ag.frags c.fid = some c.fr := by
  unfold State.issuer at h
  split at h
  · cases h
  · rename_i ag hag
    split at h
    · cases h
    · rename_i fr hfr
      injection h with h
      subst h
      exact ⟨hag, hfr⟩

theorem agent?_updAgent_self (s : State) (a : Nat) (f : Agent → Agent) : (s.updAgent a f).agent? a = (s.agent? a).map f :=
  KMap.find?_upd_self ..

theorem agent?_updAgent_ne (s : State) {a b : Nat} (f : Agent → Agent) (h : b ≠ a) : (s.updAgent a f).agent? b = s.agent? b :=
  KMap.find?_upd_ne _ f h

/-- What the issue of an instruction that acts on its own group leaves. -/
theorem issueLocal_ready {s : State} {c : Iss} (h : ready s c) {lg : Legal} (hl : lg.fate c = none) (foot : Iss → Foot) (pm : Pm)
    (stl lat : Nat) (body : State → Iss → Except Flt Fx) {fx : Fx}
    (hb : body { s with slots := pipe s c (extraPass (passesOf pm c lg.all)) } c = .ok fx) :
    ∃ t, issueLocal s lg foot pm stl lat body = .next t
      ∧ t.agent? c.a = some (c.ag.commit c.fid c.fr (passesOf pm c lg.all) s.clk stl lat fx)
      ∧ (∀ b, b ≠ c.a → t.agent? b = s.agent? b) ∧ (∀ pa, rdB t.mem pa = rdB s.mem pa)
      ∧ t.slots = pipe s c (extraPass (passesOf pm c lg.all)) ∧ { t with agents := s.agents, slots := s.slots } = s := by
  unfold issueLocal
  rw [issueWith_ready h hl]
  simp only [hb]
  refine ⟨_, rfl, ?_, fun b hb => ?_, fun _ => rfl, rfl, rfl⟩
  · rw [agent?_updAgent_self]
    have : State.agent? { s with slots := pipe s c (extraPass (passesOf pm c lg.all)) } c.a = s.agent? c.a := rfl
    rw [this, (issuer_agent h.1).1]
    rfl
  · rw [agent?_updAgent_ne _ _ hb]
    rfl

/-- Commit of one scalar write by a one-pass instruction. -/
theorem commit_scalar {ag : Agent} (h : settled ag) (fid : Nat) (fr : Frag) (i stl lat d : Nat) (x : Dword) :
    ag.commit fid fr (true, false) i stl lat { writes := [(.s d, [(0, x)])] }
      = { ag with
          pend := [{ fid := fid, dst := .s d, vals := [(0, x)], ready := i + lat }]
          frags := KMap.put ag.frags fid (fr.adv (i + 1 + stl)) } := by
  unfold Agent.commit
  rw [markWrites_settled h]
  simp [extraPass, h.1]

/-- An instruction that acts on its own group acts on its own group. -/
theorem acts_local {i : Instr} {s : State} {c : Iss} {lg : Legal} {foot : Iss → Foot} {pm : Pm} {stl lat : Nat}
    {body : State → Iss → Except Flt Fx} {fx : Fx} (he : exec i s = issueLocal s lg foot pm stl lat body) (h : ready s c)
    (hl : lg.fate c = none) (hb : body { s with slots := pipe s c (extraPass (passesOf pm c lg.all)) } c = .ok fx) :
    acts i s c (extraPass (passesOf pm c lg.all)) (c.ag.commit c.fid c.fr (passesOf pm c lg.all) s.clk stl lat fx) := by
  unfold acts
  rw [he]
  exact issueLocal_ready h hl foot pm stl lat body hb

/-- The fate of a word of no fault (R58). -/
theorem fate_none {l : Legal} {c : Iss} (h3 : (c.ag.isLeat = true → l.leat = true) ∧ (c.ag.isLeat = false → l.grp = true)
      ∧ (l.hnd = true → c.inHandler = true) ∧ (l.noHnd = true → c.inHandler = false))
    (h4 : l.rsv = false) (h5 : l.bad = false) (h6 : allOk c l.all) (h7 : ∀ r ∈ l.vregs, r < c.ag.nv)
    (h8 : c.ag.isLeat = true → ∀ r ∈ l.sregs, r < 32) : l.fate c = none := by
  obtain ⟨a1, a2, a3, a4⟩ := h3
  unfold Legal.fate
  have e1 : ((c.ag.isLeat && !l.leat) || (!c.ag.isLeat && !l.grp) || (l.hnd && !c.inHandler) || (l.noHnd && c.inHandler)) = false := by
    cases hl : c.ag.isLeat <;> cases hh : c.inHandler <;> simp_all
  have e6 : ¬(l.all = 1 ∧ (c.ag.isLeat || !c.inHandler) = true) := by
    rintro ⟨b1, b2⟩
    rcases h6 with h6 | ⟨k, hh⟩
    · rw [h6] at b1
      exact absurd b1 (by decide)
    · simp [Agent.isLeat, Iss.inHandler, k, hh] at b2
  have e7 : (l.vregs.any (fun r => decide (c.ag.nv ≤ r)) || (c.ag.isLeat && l.sregs.any fun r => decide (32 ≤ r))) = false := by
    rw [Bool.or_eq_false_iff]
    refine ⟨List.any_eq_false.mpr fun r hr => by simpa using h7 r hr, ?_⟩
    cases hl : c.ag.isLeat
    · rfl
    · exact List.any_eq_false.mpr fun r hr => by simpa using h8 hl r hr
  simp only [e1, h4, h5, e6, e7, if_false]
  simp

theorem isLeat_iff (ag : Agent) : ag.isLeat = true ↔ ag.kind ≠ .group := by simp [Agent.isLeat]

/-- The fate of an F-S3 word whose unused fields are zero (R58, R83). -/
theorem fate_legalS3 {c : Iss} {f : FS3} {r : S3Row} (ha : allOk c f.all) (ht : tyScalar f.ty = true)
    (hs : scalarsOk c [f.sd, f.sa, f.sb, f.sc]) (him : f.im = 1 → r.im = true) (hcc : r.usesCC = false → f.cc = 0)
    (hmax : f.cc.toNat ≤ r.ccMax) (hb : f.im = 1 ∨ r.usesB = false → f.sb = 0) (hc : r.usesC = false → f.sc = 0)
    (hx : f.im = 0 → f.aux = 0) : (legalS3 f r).fate c = none := by
  refine fate_none ?_ ?_ ?_ ha ?_ ?_
  · simp [legalS3]
  · have e1 : (decide (f.im = 1) && !r.im) = false := by
      cases h : r.im
      · simp only [Bool.not_false, Bool.and_true, decide_eq_false_iff_not]
        exact fun h1 => by simp [him h1] at h
      · simp
    have e2 : (!r.usesCC && decide (f.cc ≠ 0)) = false := by
      cases h : r.usesCC
      · simp [hcc h]
      · simp
    have e3 : ((decide (f.im = 1) || !r.usesB) && decide (f.sb ≠ 0)) = false := by
      by_cases h : f.im = 1 ∨ r.usesB = false
      · simp [hb h]
      · rw [not_or] at h
        rw [decide_eq_false h.1, (by simpa using h.2 : r.usesB = true)]
        rfl
    have e4 : (!r.usesC && decide (f.sc ≠ 0)) = false := by
      cases h : r.usesC
      · simp [hc h]
      · simp
    have e5 : (decide (f.im = 0) && decide (f.aux ≠ 0)) = false := by
      by_cases h : f.im = 0
      · simp [hx h]
      · rw [decide_eq_false h]
        rfl
    simp only [legalS3, e1, e2, e3, e4, e5, Bool.or_self]
  · simp [legalS3, ht]
    omega
  · simp [legalS3]
  · intro hl q hq
    have h := hs ((isLeat_iff _).mp hl)
    simp only [legalS3, List.mem_cons, List.not_mem_nil, or_false] at hq
    simp only [List.forall_mem_cons] at h
    obtain ⟨h1, h2, h3, h4, -⟩ := h
    rcases hq with rfl | rfl | rfl | rfl <;> assumption

/-- What the common frame of R82 does for a legal word of a ready issuer. -/
theorem acts_scalarS3 {i : Instr} {s : State} {c : Iss} {f : FS3} {row : S3Row} {lat : Nat}
    {op : (w : Nat) → (sgn : Bool) → (a b c : BitVec w) → BitVec w} (he : exec i s = scalarS3 f row lat op s) (h : ready s c)
    (hl : (legalS3 f row).fate c = none) :
    acts i s c 0 (wroteS s c f.sd (extResult f.ty (op (tyWidth f.ty) (tySgn f.ty) ((c.ag.sr f.sa.toNat).setWidth _)
      ((opB f c.ag).setWidth _) ((c.ag.sr f.sc.toNat).setWidth _))) lat f.stl) := by
  have hx := acts_local (pm := .one) (fx := _) he h hl rfl
  simp only [passesOf, if_true, extraPass, commit_scalar h.2.1] at hx
  exact hx

end Sys2Proof.Machine
end

