-- ==== Sys2Proof/Laws/Events.lean ====
section
/-!
SUPPORT. Events run as exec of their rows; and what an event that changes one agent, or one of its fragments, answers; the
sluice's requests on the host link.
-/
namespace Sys2Proof.Machine
open Sys2Proof.Safety

/-- An event runs as exec of its row. -/
theorem runEv_row (e : Ev) : ∃ i : Instr, ∀ s, runEv e s = exec i s := by
  cases e with
  | clauseStart a fid => exact ⟨.clauseStart a fid, fun _ => rfl⟩
  | clauseLineArrival a fid line => exact ⟨.clauseLineArrival a fid line, fun _ => rfl⟩
  | issuerAged a fid => exact ⟨.issuerAged a fid, fun _ => rfl⟩
  | holdEnd a fid => exact ⟨.holdEnd a fid, fun _ => rfl⟩
  | tlbWalkDone walk => exact ⟨.tlbWalkDone walk, fun _ => rfl⟩
  | loadReturn op lanes ext => exact ⟨.loadReturn op lanes ext, fun _ => rfl⟩
  | storeAccept op lanes => exact ⟨.storeAccept op lanes, fun _ => rfl⟩
  | atomicReturn op lanes ext => exact ⟨.atomicReturn op lanes ext, fun _ => rfl⟩
  | sweepSegmentAccess op => exact ⟨.sweepSegmentAccess op, fun _ => rfl⟩
  | hostAtomicCompletion op lane status val => exact ⟨.hostAtomicCompletion op lane status val, fun _ => rfl⟩
  | peerStoreReject op lane code => exact ⟨.peerStoreReject op lane code, fun _ => rfl⟩
  | peerLoadReject op lanes code => exact ⟨.peerLoadReject op lanes code, fun _ => rfl⟩
  | barrierComplete team kind => exact ⟨.barrierComplete team kind, fun _ => rfl⟩
  | sleepWake a fid => exact ⟨.sleepWake a fid, fun _ => rfl⟩
  | fragmentQueueRelease core part => exact ⟨.fragmentQueueRelease core part, fun _ => rfl⟩
  | groupRelease a => exact ⟨.groupRelease a, fun _ => rfl⟩
  | doorbell q tail => exact ⟨.doorbell q tail, fun _ => rfl⟩
  | queueEntryRead q => exact ⟨.queueEntryRead q, fun _ => rfl⟩
  | admission q => exact ⟨.admission q, fun _ => rfl⟩
  | gridEligible g => exact ⟨.gridEligible g, fun _ => rfl⟩
  | teamPlacement g => exact ⟨.teamPlacement g, fun _ => rfl⟩
  | firmDeadlineShed g => exact ⟨.firmDeadlineShed g, fun _ => rfl⟩
  | hardWaitPreempt g => exact ⟨.hardWaitPreempt g, fun _ => rfl⟩
  | groupStart team => exact ⟨.groupStart team, fun _ => rfl⟩
  | leatImageLine a line => exact ⟨.leatImageLine a line, fun _ => rfl⟩
  | gridCompletionRecord g => exact ⟨.gridCompletionRecord g, fun _ => rfl⟩
  | arrayOpBegin op => exact ⟨.arrayOpBegin op, fun _ => rfl⟩
  | matrixOpEnd op => exact ⟨.matrixOpEnd op, fun _ => rfl⟩
  | mmaqRendezvous core tag => exact ⟨.mmaqRendezvous core tag, fun _ => rfl⟩
  | mmavLineArrival op => exact ⟨.mmavLineArrival op, fun _ => rfl⟩
  | cbldLoadDone op => exact ⟨.cbldLoadDone op, fun _ => rfl⟩
  | aallocGrant core => exact ⟨.aallocGrant core, fun _ => rfl⟩
  | bankZeroDone core bank => exact ⟨.bankZeroDone core bank, fun _ => rfl⟩
  | bankSpill core bank => exact ⟨.bankSpill core bank, fun _ => rfl⟩
  | leaveRequest die holder => exact ⟨.leaveRequest die holder, fun _ => rfl⟩
  | leaveGrant die holder => exact ⟨.leaveGrant die holder, fun _ => rfl⟩
  | leaveExpiry die holder => exact ⟨.leaveExpiry die holder, fun _ => rfl⟩
  | leaveRevoke die holder => exact ⟨.leaveRevoke die holder, fun _ => rfl⟩
  | hdescWrite a h v => exact ⟨.hdescWrite a h v, fun _ => rfl⟩
  | engineOpStart x => exact ⟨.engineOpStart x, fun _ => rfl⟩
  | sluicePieceRequest core => exact ⟨.sluicePieceRequest core, fun _ => rfl⟩
  | sectorArrival x piece => exact ⟨.sectorArrival x piece, fun _ => rfl⟩
  | drainSectorAccept x piece => exact ⟨.drainSectorAccept x piece, fun _ => rfl⟩
  | sluicePark x => exact ⟨.sluicePark x, fun _ => rfl⟩
  | engineOpComplete x => exact ⟨.engineOpComplete x, fun _ => rfl⟩
  | rayEnd a lane order => exact ⟨.rayEnd a lane order, fun _ => rfl⟩
  | rayPark a lane => exact ⟨.rayPark a lane, fun _ => rfl⟩
  | rayStackSpill a lane => exact ⟨.rayStackSpill a lane, fun _ => rfl⟩
  | traversalReturn op => exact ⟨.traversalReturn op, fun _ => rfl⟩
  | buildCommandStart die => exact ⟨.buildCommandStart die, fun _ => rfl⟩
  | buildCommandEnd die => exact ⟨.buildCommandEnd die, fun _ => rfl⟩
  | builderPark die => exact ⟨.builderPark die, fun _ => rfl⟩
  | generationReclaim die gen => exact ⟨.generationReclaim die gen, fun _ => rfl⟩
  | taskPop die b1 b2 => exact ⟨.taskPop die b1 b2, fun _ => rfl⟩
  | taskCoreChoice t core => exact ⟨.taskCoreChoice t core, fun _ => rfl⟩
  | taskDispatch t => exact ⟨.taskDispatch t, fun _ => rfl⟩
  | reuseKeyReady t => exact ⟨.reuseKeyReady t, fun _ => rfl⟩
  | reuseLookup t => exact ⟨.reuseLookup t, fun _ => rfl⟩
  | reuseHitCopyPiece t => exact ⟨.reuseHitCopyPiece t, fun _ => rfl⟩
  | taskOutputDrain t => exact ⟨.taskOutputDrain t, fun _ => rfl⟩
  | taskCompletionRecord t => exact ⟨.taskCompletionRecord t, fun _ => rfl⟩
  | packetReceive flow path seq pos stamp marker elems => exact ⟨.packetReceive flow path seq pos stamp marker elems, fun _ => rfl⟩
  | frameSendStart flow => exact ⟨.frameSendStart flow, fun _ => rfl⟩
  | frameLastPacket flow => exact ⟨.frameLastPacket flow, fun _ => rfl⟩
  | frameSubstitution flow => exact ⟨.frameSubstitution flow, fun _ => rfl⟩
  | flowEnable flow => exact ⟨.flowEnable flow, fun _ => rfl⟩
  | flowDisable flow => exact ⟨.flowDisable flow, fun _ => rfl⟩
  | ptTick => exact ⟨.ptTick, fun _ => rfl⟩
  | wallStatusSend frame status => exact ⟨.wallStatusSend frame status, fun _ => rfl⟩
  | wallStatusReceive card frame status => exact ⟨.wallStatusReceive card frame status, fun _ => rfl⟩
  | wallFrameDeadline frame => exact ⟨.wallFrameDeadline frame, fun _ => rfl⟩
  | wallRejoin v => exact ⟨.wallRejoin v, fun _ => rfl⟩
  | fabcfgWrite v => exact ⟨.fabcfgWrite v, fun _ => rfl⟩
  | portUpChange port up => exact ⟨.portUpChange port up, fun _ => rfl⟩
  | fabricInboundRequest card kind addr width arg bytes => exact ⟨.fabricInboundRequest card kind addr width arg bytes, fun _ => rfl⟩
  | fabricResponseTimeout req => exact ⟨.fabricResponseTimeout req, fun _ => rfl⟩
  | reducePacketMerge a b => exact ⟨.reducePacketMerge a b, fun _ => rfl⟩
  | reducePacketArrive key mask vals => exact ⟨.reducePacketArrive key mask vals, fun _ => rfl⟩
  | collectivePieceAck x piece => exact ⟨.collectivePieceAck x piece, fun _ => rfl⟩
  | inboundMemWrite off bytes => exact ⟨.inboundMemWrite off bytes, fun _ => rfl⟩
  | inboundMemRead off n => exact ⟨.inboundMemRead off n, fun _ => rfl⟩
  | inboundAtomicop off kind width x y => exact ⟨.inboundAtomicop off kind width x y, fun _ => rfl⟩
  | hostReadCompletion req status bytes => exact ⟨.hostReadCompletion req status bytes, fun _ => rfl⟩
  | hostRequestTimeout req => exact ⟨.hostRequestTimeout req, fun _ => rfl⟩
  | hablClear => exact ⟨.hablClear, fun _ => rfl⟩
  | faultRecordWrite => exact ⟨.faultRecordWrite, fun _ => rfl⟩
  | faultRetry token => exact ⟨.faultRetry token, fun _ => rfl⟩
  | faultKill token => exact ⟨.faultKill token, fun _ => rfl⟩
  | tlbInvalidatePage ctx vpn => exact ⟨.tlbInvalidatePage ctx vpn, fun _ => rfl⟩
  | tlbInvalidateContext ctx => exact ⟨.tlbInvalidateContext ctx, fun _ => rfl⟩
  | tlbInvalidateAll => exact ⟨.tlbInvalidateAll, fun _ => rfl⟩
  | tlbInvalidationDone => exact ⟨.tlbInvalidationDone, fun _ => rfl⟩
  | contextPreempt ctx => exact ⟨.contextPreempt ctx, fun _ => rfl⟩
  | contextKill ctx => exact ⟨.contextKill ctx, fun _ => rfl⟩
  | contextDeadClear ctx => exact ⟨.contextDeadClear ctx, fun _ => rfl⟩
  | contextSave ctx => exact ⟨.contextSave ctx, fun _ => rfl⟩
  | teamRestore team => exact ⟨.teamRestore team, fun _ => rfl⟩
  | yieldBudgetExpiry ctx => exact ⟨.yieldBudgetExpiry ctx, fun _ => rfl⟩
  | fatalDiscard ctx => exact ⟨.fatalDiscard ctx, fun _ => rfl⟩
  | ergwSizeWrite die v => exact ⟨.ergwSizeWrite die v, fun _ => rfl⟩
  | ergwChangeDone die => exact ⟨.ergwChangeDone die, fun _ => rfl⟩
  | gddrRefresh ch => exact ⟨.gddrRefresh ch, fun _ => rfl⟩
  | patrolScrub pa => exact ⟨.patrolScrub pa, fun _ => rfl⟩
  | reuseFlush => exact ⟨.reuseFlush, fun _ => rfl⟩
  | reuseKeyWrite tenant key => exact ⟨.reuseKeyWrite tenant key, fun _ => rfl⟩
  | lvcapWrite v runner => exact ⟨.lvcapWrite v runner, fun _ => rfl⟩
  | runnerPowerStep => exact ⟨.runnerPowerStep, fun _ => rfl⟩
  | sensorUpdate watts temps => exact ⟨.sensorUpdate watts temps, fun _ => rfl⟩
  | boardPowerCut watts temp ms => exact ⟨.boardPowerCut watts temp ms, fun _ => rfl⟩
  | reset => exact ⟨.reset, fun _ => rfl⟩
  | linkTrained => exact ⟨.linkTrained, fun _ => rfl⟩
  | monitorVerify image => exact ⟨.monitorVerify image, fun _ => rfl⟩
  | runnerVerify image => exact ⟨.runnerVerify image, fun _ => rfl⟩
  | memoryTrained ok => exact ⟨.memoryTrained ok, fun _ => rfl⟩
  | deviceReady gm => exact ⟨.deviceReady gm, fun _ => rfl⟩
  | attestationRequest nonce => exact ⟨.attestationRequest nonce, fun _ => rfl⟩
  | svnRaiseRequest kind svn => exact ⟨.svnRaiseRequest kind svn, fun _ => rfl⟩
  | registerWrite off n v => exact ⟨.registerWrite off n v, fun _ => rfl⟩
  | ptpRateAdjust r lock offs => exact ⟨.ptpRateAdjust r lock offs, fun _ => rfl⟩
  | contextSaveDone ctx => exact ⟨.contextSaveDone ctx, fun _ => rfl⟩

theorem moves_of {e : Instr} {s : State} {a fid : Nat} {ag : Agent} {g : Frag → Frag} (ha : s.agent? a = some ag)
    (h : exec e s = .next (s.updFrag a fid g)) : moves e s a fid ag g := by
  refine ⟨_, h, ?_, ?_, ?_⟩
  · simp [State.updFrag, agent?_updAgent_self, ha, Agent.updFrag]
  · intro b hb; exact agent?_updAgent_ne _ _ hb
  · rfl

theorem leaves_of {e : Instr} {s s' : State} {a : Nat} {ag : Agent} {g : Agent → Agent} (hs : s'.agents = s.agents)
    (ha : s.agent? a = some ag) (h : exec e s = .next (s'.updAgent a g)) : leaves e s s' a (g ag) := by
  have e1 : ∀ b, s'.agent? b = s.agent? b := fun b => by simp [State.agent?, hs]
  refine ⟨_, h, ?_, ?_, ?_⟩
  · rw [agent?_updAgent_self, e1, ha]; rfl
  · intro b hb; rw [agent?_updAgent_ne _ _ hb, e1]
  · simp [State.updAgent, ← hs]

/-! ## Requests of the sluice on the host link -/

/-- What the requests for a list of lines leave: no other field, no earlier key, one key for each line in order. -/
theorem hostReqs_foldl (id : Nat) (x : Xop) (p : Nat) (due : Nat) (ls : List Nat) (t : State) (hd : t.clk + 100 + (if x.core / 64 = 0 then 0 else 32) = due) :
    let u := ls.foldl (init := t) fun t l =>
      { t with hostReqs := KMap.put t.hostReqs t.ids { agent := 0, op := id, lanes := 0, pa := l, due := due, piece := some p }, ids := t.ids + 1 }
    { u with hostReqs := t.hostReqs, ids := t.ids } = t ∧ (∀ k, k < t.ids → KMap.find? u.hostReqs k = KMap.find? t.hostReqs k)
     ∧ ∀ i l, ls[i]? = some l → KMap.find? u.hostReqs (t.ids + i) = some { agent := 0, op := id, lanes := 0, pa := l, due := due, piece := some p } := by
  induction ls generalizing t with
  | nil => simp
  | cons a ls ih =>
    obtain ⟨h1, h2, h3⟩ := ih { t with hostReqs := KMap.put t.hostReqs t.ids { agent := 0, op := id, lanes := 0, pa := a, due := due, piece := some p }, ids := t.ids + 1 } hd
    refine ⟨?_, ?_, ?_⟩
    · simp only [List.foldl_cons]
      have := congrArg (fun z : State => ({ z with hostReqs := t.hostReqs, ids := t.ids } : State)) h1
      exact this
    · intro k hk
      simp only [List.foldl_cons]
      rw [h2 k (by simp; omega)]
      exact KMap.find?_put_ne _ _ (by omega)
    · intro i l hi
      simp only [List.foldl_cons]
      cases i with
      | zero =>
        rw [Nat.add_zero, h2 _ (by simp)]
        simp at hi; subst hi; simp
      | succ i =>
        have := h3 i l (by simpa using hi)
        simpa [Nat.add_comm, Nat.add_left_comm] using this

/-- The requests on the host link of a piece: each of its lines has one. -/
theorem xHostReqs_spec (s : State) (id : Nat) (x : Xop) (p : Nat) :
    { s.xHostReqs id x p with hostReqs := s.hostReqs, ids := s.ids } = s
      ∧ (∀ k, k < s.ids → KMap.find? (s.xHostReqs id x p).hostReqs k = KMap.find? s.hostReqs k)
      ∧ ∀ i l, (s.xHostLines x p)[i]? = some l → KMap.find? (s.xHostReqs id x p).hostReqs (s.ids + i)
          = some { agent := 0, op := id, lanes := 0, pa := l, due := s.clk + 100 + (if x.core / 64 = 0 then 0 else 32), piece := some p } :=
  hostReqs_foldl id x p _ (s.xHostLines x p) s rfl

end Sys2Proof.Machine
end

