-- ==== Sys2Proof/Laws/Memory.lean ====
section
/-!
SUPPORT. Memory: every operation on it keeps the canonical form, and a read after a write gives what was written there and what
stood there elsewhere.
-/
namespace Sys2Proof.Machine
open KMap

theorem wf_reset : Memory.wf State.reset.mem = true := rfl

theorem wf_wrN {m : KMap Byte} (h : Memory.wf m = true) (n a x : Nat) : Memory.wf (wrN m n a x) = true := by
  induction n generalizing m a x with
  | zero => exact h
  | succ n ih => exact ih (wf_set h _ _) _ _

theorem wf_wrBytes {m : KMap Byte} (h : Memory.wf m = true) (a : Nat) (bs : List Byte) : Memory.wf (wrBytes m a bs) = true := by
  induction bs generalizing m a with
  | nil => exact h
  | cons b bs ih => exact ih (wf_set h _ _) _

theorem wf_writeN {s : State} (h : Memory.wf s.mem = true) (n pa x : Nat) : Memory.wf (s.writeN n pa x).mem = true :=
  wf_wrN h n pa x

/-- Bytes written one by one from a list keep the canonical form. -/
theorem wf_setAll {β : Type} {m : KMap Byte} (h : Memory.wf m = true) (l : List β) (a : β → Nat) (v : β → Byte) :
    Memory.wf (l.foldl (fun m b => KMap.set memDefault m (a b) (v b)) m) = true := by
  induction l generalizing m with
  | nil => exact h
  | cons b l ih => exact ih (wf_set h _ _)

theorem sorted_of_wf {m : KMap Byte} (h : Memory.wf m = true) : KMap.sorted m = true := (wf_iff.mp h).1

/-- A byte outside the bytes written reads as before. -/
theorem rdB_wrN_out (m : KMap Byte) (n a x i : Nat) (hi : i < a ∨ a + n ≤ i) :
    rdB (wrN m n a x) i = rdB m i := by
  induction n generalizing m a x with
  | zero => rfl
  | succ n ih =>
    have h1 := ih (m := KMap.set memDefault m a (BitVec.ofNat 8 x)) (a + 1) (x / 256) (by omega)
    simp only [wrN]
    rw [h1]
    exact get_set_ne m (by omega) _

/-- Byte j of the bytes written. -/
theorem rdB_wrN_in (m : KMap Byte) (n a x j : Nat) (hj : j < n) :
    rdB (wrN m n a x) (a + j) = BitVec.ofNat 8 (x / 256 ^ j) := by
  induction n generalizing m a x j with
  | zero => omega
  | succ n ih =>
    simp only [wrN]
    cases j with
    | zero =>
      rw [rdB_wrN_out _ n (a + 1) (x / 256) (a + 0) (by omega)]
      simp only [rdB, Nat.add_zero, Nat.pow_zero, Nat.div_one]
      exact get_set_self m a _
    | succ j =>
      have h1 := ih (m := KMap.set memDefault m a (BitVec.ofNat 8 x)) (a + 1) (x / 256) j (by omega)
      rw [show a + (j + 1) = a + 1 + j by omega, h1, Nat.div_div_eq_div_mul, Nat.pow_succ, Nat.mul_comm]

/-- A read of n bytes gives the number that was written there. -/
theorem rdN_wrN (m : KMap Byte) (n a x : Nat) : rdN (wrN m n a x) n a = x % 256 ^ n := by
  have key : ∀ (k b : Nat) (m' : KMap Byte) (y : Nat), (∀ j, j < k → rdB m' (b + j) = BitVec.ofNat 8 (y / 256 ^ j)) →
      rdN m' k b = y % 256 ^ k := by
    intro k
    induction k with
    | zero => intro b m' y _; simp [rdN, Nat.mod_one]
    | succ k ih =>
      intro b m' y hy
      have h0 := hy 0 (by omega)
      have h1 := ih (b + 1) m' (y / 256) fun j hj => by
        have := hy (j + 1) (by omega)
        rw [show b + 1 + j = b + (j + 1) by omega, this, Nat.div_div_eq_div_mul, Nat.pow_succ, Nat.mul_comm]
      simp only [rdN]
      rw [h1]
      simp only [Nat.add_zero, Nat.pow_zero, Nat.div_one] at h0
      have h2 : y % 256 ^ (k + 1) = y % 256 + 256 * (y / 256 % 256 ^ k) := by
        rw [show 256 ^ (k + 1) = 256 * 256 ^ k from Nat.pow_succ', Nat.mod_mul]
      rw [h0, BitVec.toNat_ofNat, h2]
  exact key n a _ x fun j hj => rdB_wrN_in m n a x j hj

end Sys2Proof.Machine
end

