-- ==== Sys2Proof/Tests/Slice0.lean ====
section
/-!
SUPPORT. Tests of one step or one word each, their expected results from the spec's tables and worked examples; and for each
obligation with hypotheses, concrete states and operands that meet them.
-/
namespace Sys2Proof.Tests
open Sys2Proof Sys2Proof.Machine Sys2Proof.Safety

/-! ## Well-formed terms -/

/-- A row that another SUB names is refused (R55). -/
theorem test_row_refused :
    (Instr.bufrelCons { stl := 0, all := 0, sd := 0, sa := 0, sb := 0, res := 0, sub := 1, imm := 0 }).rowOk = false
      ∧ (Instr.bufrelPub { stl := 0, all := 0, sd := 0, sa := 0, sb := 0, res := 0, sub := 1, imm := 0 }).rowOk = true := by decide

/-- A nonzero reserved field is refused: [33:32] of F-SI (R38), a field of NOP (R52). -/
theorem test_reserved_refused :
    (Instr.saddFSi { stl := 0, all := 0, sd := 1, sa := 2, ty := 0, rsv := 1, imm := 5 }).rsvOk = false
      ∧ (Instr.nop { stl := 0, all := 0, cond := 0, sc := 0, sl := 0, rsv := 0, off := 1 }).rsvOk = false
      ∧ (Instr.saddFSi { stl := 0, all := 0, sd := 1, sa := 2, ty := 0, rsv := 0, imm := 5 }).wellFormed = true := by decide

/-- A register access of another width is refused (R456). -/
theorem test_width_refused :
    (Instr.registerWrite 0 2 0).argsOk = false ∧ (Instr.registerWrite 0 8 0).wellFormed = true := by decide

/-! ## Decoding: one word of every row, its fields laid out by hand from the tables of R33 to R55 -/

/-- F-S3 (R37, R52). -/
theorem test_decode_scalar :
    let f : FS3 := { stl := 1, all := 0, sd := 2, sa := 3, sb := 4, sc := 5, ty := 9, im := 1, cc := 3, aux := 0xBEEF }
    ([(0x00, Instr.smov f), (0x03, Instr.sadd f), (0x04, Instr.ssub f), (0x05, Instr.smul f), (0x06, Instr.smulh f),
    (0x07, Instr.sdiv f), (0x08, Instr.srem f), (0x09, Instr.sand f), (0x0A, Instr.sor f), (0x0B, Instr.sxor f),
    (0x0C, Instr.snot f), (0x0D, Instr.sshl f), (0x0E, Instr.sshr f), (0x0F, Instr.ssar f), (0x10, Instr.smin f),
    (0x11, Instr.smax f), (0x12, Instr.scmp f), (0x13, Instr.ssel f), (0x14, Instr.spopc f), (0x15, Instr.sclz f),
    (0x16, Instr.sctz f), (0x17, Instr.sbfe f), (0x18, Instr.sbfi f), (0x19, Instr.slea f), (0x30, Instr.mset f),
    (0x31, Instr.mget f), (0x32, Instr.mand f), (0x33, Instr.mandn f), (0x34, Instr.mor f), (0x35, Instr.mfirst f),
    (0x36, Instr.mcnt f), (0x38, Instr.split f), (0x39, Instr.joinI f)] : List (Nat × Instr)).all
      (fun p => decodeIn .alu (BitVec.ofNat 64 (p.1 * 2 ^ 56 + 0x2040C2059BBEEF)) = some p.2) = true := by decide

/-- F-SI (R38, R52). -/
theorem test_decode_scalar_immediate :
    let f : FSI := { stl := 7, all := 1, sd := 127, sa := 64, ty := 10, rsv := 2, imm := 0x89AB_CDEF }
    ([(0x01, Instr.smovi f), (0x02, Instr.smovh f), (0x1A, Instr.saddFSi f), (0x1B, Instr.sandFSi f), (0x1C, Instr.sorFSi f),
    (0x1D, Instr.sxorFSi f)] : List (Nat × Instr)).all
      (fun p => decodeIn .alu (BitVec.ofNat 64 (p.1 * 2 ^ 56 + 0xFFF02A89ABCDEF)) = some p.2) = true := by decide

/-- F-BR (R47, R52). -/
theorem test_decode_control :
    let f : FBR := { stl := 2, all := 0, cond := 8, sc := 1, sl := 126, rsv := 1, off := 0xFFFF_FFF0 }
    ([(0x20, Instr.bra f), (0x21, Instr.brc f), (0x22, Instr.call f), (0x23, Instr.ret f), (0x24, Instr.jmp f),
    (0x25, Instr.loop f), (0x26, Instr.nop f), (0x27, Instr.endGroup f), (0x37, Instr.brzm f)] : List (Nat × Instr)).all
      (fun p => decodeIn .alu (BitVec.ofNat 64 (p.1 * 2 ^ 56 + 0x4803F9FFFFFFF0)) = some p.2) = true := by decide

/-- F-V3 (R39, R52). -/
theorem test_decode_vector :
    let f : FV3 := { stl := 5, all := 1, vd := 8, va := 1023, vb := 512, vc := 1, ty := 2, mod := 10, sel := 9 }
    ([(0x40, Instr.vadd f), (0x41, Instr.vsub f), (0x42, Instr.vmul f), (0x43, Instr.vmulh f), (0x44, Instr.vmad f),
    (0x45, Instr.vfma f), (0x46, Instr.vmin f), (0x47, Instr.vmax f), (0x48, Instr.vabs f), (0x49, Instr.vand f),
    (0x4A, Instr.vor f), (0x4B, Instr.vxor f), (0x4C, Instr.vnot f), (0x4D, Instr.vshl f), (0x4E, Instr.vshr f),
    (0x4F, Instr.vsar f), (0x50, Instr.vcmp f), (0x51, Instr.vsel f), (0x52, Instr.vmov f), (0x53, Instr.vbcast f),
    (0x54, Instr.vlane f), (0x55, Instr.vcvt f), (0x56, Instr.vrcp f), (0x57, Instr.vrsq f), (0x58, Instr.vsqrt f),
    (0x59, Instr.vexp2 f), (0x5A, Instr.vlog2 f), (0x5B, Instr.vsin f), (0x5C, Instr.vcos f), (0x5D, Instr.vfract f),
    (0x5E, Instr.vround f), (0x5F, Instr.vpopc f), (0x60, Instr.vclz f), (0x61, Instr.vbfe f), (0x62, Instr.vbfi f),
    (0x63, Instr.vunpk f), (0x64, Instr.vpack f), (0x65, Instr.vdot f), (0x66, Instr.vlut f), (0xC0, Instr.vshuf f),
    (0xC1, Instr.vshfu f), (0xC2, Instr.vshfd f), (0xC3, Instr.vxsw f), (0xC4, Instr.vbal f), (0xC5, Instr.vredu f),
    (0xC6, Instr.vscan f), (0xC7, Instr.vmatch f), (0xC8, Instr.vrdln f), (0xC9, Instr.vwrln f)] : List (Nat × Instr)).all
      (fun p => decodeIn .alu (BitVec.ofNat 64 (p.1 * 2 ^ 56 + 0xB023FF800012A9)) = some p.2) = true := by decide

/-- F-VI (R40, R52). -/
theorem test_decode_vector_immediate :
    let f : FVI := { stl := 2, all := 0, vd := 3, va := 513, ty := 8, mod := 11, imm := 0x41_0001 }
    ([(0x80, Instr.vaddFVi f), (0x81, Instr.vsubFVi f), (0x82, Instr.vmulFVi f), (0x83, Instr.vminFVi f), (0x84, Instr.vmaxFVi f),
    (0x85, Instr.vandFVi f), (0x86, Instr.vorFVi f), (0x87, Instr.vxorFVi f), (0x88, Instr.vshlFVi f), (0x89, Instr.vshrFVi f),
    (0x8A, Instr.vsarFVi f), (0x8B, Instr.vcmpFVi f), (0x8C, Instr.vmovFVi f)] : List (Nat × Instr)).all
      (fun p => decodeIn .alu (BitVec.ofNat 64 (p.1 * 2 ^ 56 + 0x400E018B410001)) = some p.2) = true := by decide

/-- F-MEM (R41, R53). -/
theorem test_decode_memory :
    let f : FMEM := { stl := 4, all := 1, data := 4, sbase := 10, voff := 1023, width := 5, sch := 2, imm := 0x7_0001 }
    ([(0x00, Instr.ldg f), (0x01, Instr.ldgAcq f), (0x02, Instr.stg f), (0x03, Instr.stgRel f), (0x04, Instr.ldgs f),
    (0x05, Instr.ldgsAcq f), (0x06, Instr.stgs f), (0x07, Instr.stgsRel f), (0x08, Instr.atomg f), (0x09, Instr.atomh f),
    (0x0A, Instr.atomhF f), (0x0C, Instr.ldc f), (0x0D, Instr.pref f), (0x0E, Instr.waitc f), (0x0F, Instr.fence f),
    (0x10, Instr.lds f), (0x11, Instr.sts f), (0x12, Instr.ldss f), (0x13, Instr.stss f), (0x14, Instr.atoms f),
    (0x15, Instr.ldb f), (0x16, Instr.stb f), (0x18, Instr.sample f), (0x19, Instr.txld f)] : List (Nat × Instr)).all
      (fun p => decodeIn .mem (BitVec.ofNat 64 (p.1 * 2 ^ 56 + 0x901057FF570001)) = some p.2) = true := by decide

/-- F-MTX (R46, R54). -/
theorem test_decode_matrix :
    let f : FMTX := { stl := 6, all := 1, abank := 2, a := 5, b := 64, fb := 20, kst := 255, ah := 1, clr := 0, mopt := 0x155 }
    ([(0x00, Instr.aalloc f), (0x01, Instr.afree f), (0x02, Instr.azero f), (0x03, Instr.mma f), (0x04, Instr.mmaq f),
    (0x05, Instr.mmav f), (0x06, Instr.mmac f), (0x07, Instr.cbld f), (0x08, Instr.ald f), (0x09, Instr.ast f),
    (0x0A, Instr.aadd f), (0x0B, Instr.astat f)] : List (Nat × Instr)).all
      (fun p => decodeIn .mtx (BitVec.ofNat 64 (p.1 * 2 ^ 56 + 0xD0805100A7FD55)) = some p.2) = true := by decide

/-- F-SWP (R45, R52): OPC[1:0] is the type or the conversion. -/
theorem test_decode_sweep :
    let f (t : BitVec 2) : FSWP :=
      { ty := t, stl := 3, all := 0, cnt := 4095, sd := 8, sa := 9, sb := 10, stepd := 255, stepa := 4, stepb := 128, sr := 1 }
    ([(0xA0, Instr.swadd (f 0)), (0xA1, Instr.swadd (f 1)), (0xA2, Instr.swadd (f 2)), (0xA3, Instr.swadd (f 3)), (0xA4, Instr.swmul (f 0)), (0xA5, Instr.swmul (f 1)), (0xA6, Instr.swmul (f 2)), (0xA7, Instr.swmul (f 3)), (0xA8, Instr.swfma (f 0)), (0xA9, Instr.swfma (f 1)),
      (0xAA, Instr.swfma (f 2)), (0xAB, Instr.swfma (f 3)), (0xAC, Instr.swmax (f 0)), (0xAD, Instr.swmax (f 1)), (0xAE, Instr.swmax (f 2)), (0xAF, Instr.swmax (f 3)), (0xB0, Instr.swcvt (f 0)), (0xB1, Instr.swcvt (f 1)), (0xB2, Instr.swcvt (f 2)), (0xB3, Instr.swcvt (f 3))] : List (Nat × Instr)).all
      (fun p => decodeIn .alu (BitVec.ofNat 64 (p.1 * 2 ^ 56 + 0x6FFF4255FE0901)) = some p.2) = true := by decide

/-- F-SYS (R48, R55), SUB in bits 22 to 19. -/
theorem test_decode_system :
    let f (u : BitVec 4) : FSYS := { stl := 1, all := 1, sd := 8, sa := 9, sb := 5, res := 0x83, sub := u, imm := 0x4_0014 }
    ([
      (0x00, 0, Instr.tbar (f 0)), (0x01, 0, Instr.sbar (f 0)), (0x02, 0, Instr.launch (f 0)), (0x03, 0, Instr.sleeppt (f 0)),
      (0x03, 1, Instr.sleepptRel (f 1)), (0x04, 0, Instr.srd (f 0)), (0x05, 0, Instr.swr (f 0)), (0x08, 0, Instr.bufwait (f 0)),
      (0x09, 0, Instr.bufrelCons (f 0)), (0x09, 1, Instr.bufrelPub (f 1)), (0x0A, 0, Instr.bufstat (f 0)),
      (0x10, 0, Instr.rtrace (f 0)), (0x11, 0, Instr.rresume (f 0)), (0x11, 1, Instr.rresumeEnd (f 1)),
      (0x12, 0, Instr.rstate (f 0)), (0x13, 0, Instr.rcommit (f 0)), (0x14, 0, Instr.genpin (f 0)),
      (0x15, 0, Instr.genrel (f 0)), (0x16, 0, Instr.bldcmd (f 0)), (0x17, 0, Instr.bldqCur (f 0)),
      (0x17, 1, Instr.bldqPins (f 1)), (0x17, 2, Instr.bldqQueue (f 2)), (0x18, 0, Instr.tspawn (f 0)),
      (0x19, 0, Instr.tend (f 0)), (0x1C, 2, Instr.qpop (f 2)), (0x1D, 3, Instr.qpush (f 3)), (0x1E, 3, Instr.qstat (f 3)),
      (0x1F, 0, Instr.qframeOpen (f 0)), (0x1F, 1, Instr.qframeDone (f 1)), (0x1F, 2, Instr.qframeNext (f 2))] : List (Nat × Nat × Instr)).all
      (fun p => decodeIn .sys (BitVec.ofNat 64 (p.1 * 2 ^ 56 + p.2.1 * 2 ^ 19 + 0x310242C1840014)) = some p.2.2) = true := by decide

/-- F-SYS (R48, R55), SUB in bits 22 to 19. -/
theorem test_decode_system_high :
    let f (u : BitVec 4) : FSYS := { stl := 1, all := 1, sd := 8, sa := 9, sb := 5, res := 0x83, sub := u, imm := 0x4_0014 }
    ([
      (0x20, 0, Instr.yield (f 0)), (0x21, 0, Instr.trapI (f 0)), (0x22, 0, Instr.tretRetry (f 0)),
      (0x22, 1, Instr.tretSkip (f 1)), (0x22, 2, Instr.tretJmp (f 2)), (0x23, 0, Instr.xlmr (f 0)), (0x24, 1, Instr.xlmw (f 1)),
      (0x25, 0, Instr.fltrdRec (f 0)), (0x25, 1, Instr.fltrdSpl (f 1)), (0x25, 2, Instr.fltrdRng (f 2)),
      (0x26, 0, Instr.halt (f 0)), (0x26, 1, Instr.haltFatal (f 1)), (0x27, 0, Instr.brk (f 0)), (0x28, 0, Instr.wbar (f 0)),
      (0x30, 0, Instr.xcopyIn (f 0)), (0x30, 1, Instr.xcopyInc (f 1)), (0x30, 2, Instr.xcopyOut (f 2)),
      (0x30, 3, Instr.xcopyOutc (f 3)), (0x31, 0, Instr.xhalo (f 0)), (0x32, 0, Instr.xim2c (f 0)),
      (0x33, 0, Instr.xresume (f 0)), (0x34, 0, Instr.xwaitH (f 0)), (0x34, 1, Instr.xwaitOps (f 1)),
      (0x34, 2, Instr.xwaitSvc (f 2)), (0x35, 0, Instr.xfill (f 0)), (0x36, 0, Instr.xcollSend (f 0)),
      (0x36, 1, Instr.xcollRed (f 1)), (0x36, 2, Instr.xcollGet (f 2))] : List (Nat × Nat × Instr)).all
      (fun p => decodeIn .sys (BitVec.ofNat 64 (p.1 * 2 ^ 56 + p.2.1 * 2 ^ 19 + 0x310242C1840014)) = some p.2.2) = true := by decide

/-- R58 step 2, R59, R24: an opcode that no class assigns; one of another class. -/
theorem test_decode_unassigned :
    ([0x29, 0x3A, 0x67, 0x7A, 0x8D, 0xB4, 0xCA, 0xFF].all fun o => decodeWord .alu (BitVec.ofNat 64 (o * 2 ^ 56)) = .unassigned) = true
      ∧ decodeWord .mtx 0x0C00_0000_0000_0000#64 = .otherClass ∧ decodeWord .mem 0x1700_0000_0000_0000#64 = .otherClass
      ∧ decodeWord .sys 0x0600_0000_0000_0000#64 = .otherClass := by decide

/-- The header of the spec's worked clause: ALU, two words, every wait 15 (R33). -/
theorem test_decode_header : Header.dec 0x07FF_FC00_0000_0000#64
    = { cls := .alu, count := 1, wg := 15, ws := 15, we := 15, wm := 15, hw := 0, h := 0, hst := 0, hph := 0, rsv := 0 } := by decide

/-- The words that the spec writes out in its worked examples. -/
theorem test_decode_worked :
    decodeIn .alu 0x0320_4040_8090_0000#64 = some (.sadd { stl := 1, all := 0, sd := 2, sa := 1, sb := 1, sc := 0, ty := 9, im := 0, cc := 0, aux := 0 })
      ∧ decodeIn .alu 0x45A0_280B_0140_C202#64
        = some (.vfma { stl := 5, all := 0, vd := 10, va := 11, vb := 5, vc := 12, ty := 2, mod := 0, sel := 2 })
      ∧ decodeIn .alu 0x3800_0100_00A0_0005#64
        = some (.split { stl := 0, all := 0, sd := 0, sa := 4, sb := 0, sc := 0, ty := 10, im := 0, cc := 0, aux := 5 })
      ∧ decodeIn .mem 0x0E00_0060_0000_0002#64
        = some (.waitc { stl := 0, all := 0, data := 0, sbase := 12, voff := 0, width := 0, sch := 0, imm := 2 })
      ∧ decodeIn .mem 0x0320_4040_8090_0000#64
        = some (.stgRel { stl := 1, all := 0, data := 16, sbase := 8, voff := 64, width := 2, sch := 2, imm := 0 }) := by decide

/-! ## One step on a small group -/

/-- A fragment of 8 active lanes at the last of three ALU words. -/
def fr0 : Frag :=
  { h := 0x1000, hdr := 0x0BFF_FC00_0000_0000#64, k := 3, em := 0xFF, own := 0xFFFF_FFFF, code := [0, 0, 0], next := 0 }

def ag0 : Agent := { kind := .group, core := 0, ctx := 0, team := 1, nv := 16, frags := [(0, fr0)] }

/-- The device with one agent, its instruction about to execute, in a team of 4 KiB of scratchpad; clk 100. -/
def one (ag : Agent) : State :=
  { State.reset with
    clk := 100
    cur := (1, 0)
    agents := [(1, ag)]
    teams := [(1, { grid := 0, ctx := 0, idx := 0, core := 0, groups := [1], size := 4096 })] }

def issOf (ag : Agent) : Iss := { a := 1, fid := 0, ag := ag, fr := fr0 }

/-- The agent after the instruction. -/
def after (i : Instr) (s : State) : Option Agent := match exec i s with
  | .next t => t.agent? 1
  | _ => none

def frAfter (i : Instr) (s : State) : Option Frag := (after i s).bind fun ag => KMap.find? ag.frags 0

/-- What the instruction sends to its destination, and the clk from which it is readable. -/
def sends (i : Instr) (s : State) : Option (List (Nat × Dword) × Nat) :=
  ((after i s).bind fun ag => ag.pend.head?).map fun p => (p.vals, p.ready)

/-- The code and detail of the fault that a group without a handler takes fatally. -/
def fatalCode (i : Instr) (s : State) : Option (Nat × Nat) := match exec i s with
  | .next t => (KMap.find? t.fatals 0).map fun r => (r.1.toNat % 256, r.1.toNat / 2 ^ 16 % 2 ^ 16)
  | _ => none

def s3 (ty : BitVec 4) : FS3 := { stl := 0, all := 0, sd := 9, sa := 1, sb := 2, sc := 0, ty := ty, im := 0, cc := 0, aux := 0 }

/-- Whether the scalar instruction, on a in s1 and b in s2 (s3 holds c), sends r. -/
def gives (i : Instr) (a b c r : Dword) (lat : Nat) : Bool :=
  sends i (one { ag0 with sregs := [(1, a), (2, b), (3, c)] }) = some ([(0, r)], 100 + lat)

/-- The table "Edge values" of R82 to R88. -/
theorem test_divide_edges :
    gives (.sdiv (s3 0)) (-7) 2 0 0xFFFF_FFFF_FFFF_FFFD 20 = true ∧ gives (.srem (s3 0)) (-7) 2 0 0xFFFF_FFFF_FFFF_FFFF 20 = true
      ∧ gives (.sdiv (s3 0)) 0x8000_0000 (-1) 0 0xFFFF_FFFF_8000_0000 20 = true ∧ gives (.srem (s3 0)) 0x8000_0000 (-1) 0 0 20 = true
      ∧ gives (.sdiv (s3 1)) 7 0 0 0xFFFF_FFFF 20 = true ∧ gives (.srem (s3 1)) 7 0 0 7 20 = true := by decide

theorem test_shift_and_high_edges :
    gives (.ssar (s3 0)) 0x8000_0010 40 0 0xFFFF_FFFF_FFFF_FFFF 2 = true ∧ gives (.sshl (s3 10)) 1 64 0 0 2 = true
      ∧ gives (.smulh (s3 9)) (-1) 1 0 0xFFFF_FFFF_FFFF_FFFF 4 = true ∧ gives (.smulh (s3 10)) 0xFFFF_FFFF_FFFF_FFFF 1 0 0 4 = true := by decide

theorem test_bit_field_edges :
    gives (.sbfe (s3 0)) 0x0F00 (8 + 256 * 4) 0 0xFFFF_FFFF_FFFF_FFFF 2 = true ∧ gives (.sbfe (s3 1)) 0x0F00 (8 + 256 * 4) 0 0xF 2 = true
      ∧ gives (.sbfi { s3 1 with sc := 3 }) 5 (4 + 256 * 3) 0xFFFF_FFFF 0xFFFF_FFDF 2 = true
      ∧ gives (.sclz { s3 1 with sb := 0 }) 0 0 0 32 2 = true := by decide

theorem test_compare_edges :
    gives (.scmp { s3 10 with cc := 2 }) 0xFFFF_FFFF_FFFF_FFFF 0 0 0 2 = true
      ∧ gives (.scmp { s3 9 with cc := 2 }) 0xFFFF_FFFF_FFFF_FFFF 0 0 1 2 = true := by decide

/-- R38, R90: SADD with the immediate -500,000; SMOVH keeps the low half. -/
theorem test_scalar_immediate :
    gives (.saddFSi { stl := 0, all := 0, sd := 9, sa := 1, ty := 9, rsv := 0, imm := 0xFFF8_5EE0 }) 1760000037516683333 0 0 1760000037516183333 2 = true
      ∧ gives (.smovh { stl := 0, all := 0, sd := 1, sa := 0, ty := 10, rsv := 0, imm := 0x89AB_CDEF }) 5 0 0 0x89AB_CDEF_0000_0005 2 = true := by decide

/-- R91, R92: LOOP of a clause of three words counts s1 down and goes back 4 units of 8 bytes; at 1 it falls through to H + 32. -/
theorem test_loop :
    let i : Instr := .loop { stl := 0, all := 0, cond := 0, sc := 1, sl := 0, rsv := 0, off := 0xFFFF_FFFC }
    let s (n : Dword) : State := one { ag0 with sregs := [(1, n)] }
    sends i (s 2) = some ([(0, 1)], 102) ∧ (frAfter i (s 2)).map (·.h) = some (0x1000 - 32)
      ∧ sends i (s 1) = some ([(0, 0)], 102) ∧ (frAfter i (s 1)).map (·.h) = some (0x1000 + 32) := by decide

/-- R143: of the sides 8 and 24 of 32 lanes, the smaller is detached as fragment 1 at the target, with the worked word's AUX. -/
theorem test_split :
    let i : Instr := .split { stl := 0, all := 0, sd := 0, sa := 4, sb := 0, sc := 0, ty := 10, im := 0, cc := 0, aux := 5 }
    let s := one { ag0 with sregs := [(4, 0xFF)], frags := [(0, { fr0 with em := 0xFFFF_FFFF })] }
    (frAfter i s).map (·.em) = some 0xFFFF_FF00
      ∧ ((after i s).bind fun ag => KMap.find? ag.frags 1).map (fun f => (f.em, f.h)) = some (0xFF, 0x1000 + 40) := by decide

/-- R139: MCNT and MFIRST look at the low 32 bits only. -/
theorem test_mask_counts : gives (.mcnt { s3 10 with sb := 0 }) 0xFF_0000_00F0 0 0 4 2 = true
    ∧ gives (.mfirst { s3 10 with sb := 0 }) 0xFF_0000_0000 0 0 64 2 = true := by decide

def v3 (ty mod : BitVec 4) : FV3 := { stl := 0, all := 0, vd := 4, va := 1, vb := 2, vc := 0, ty := ty, mod := mod, sel := 0 }

/-- What lane 0 receives of a and b, in lane 0 of v1 and v2, c in v3; lane 0 alone is active. -/
def lane (i : Instr) (a b c : Word) : Option Dword :=
  (sends i (one { ag0 with
    vregs := [(64, a), (128, b), (192, c)]
    frags := [(0, { fr0 with em := 1 })] })).bind fun p => (p.1.head?).map (·.2)

/-- R102, R173: packed elements wrap apart from each other, and with SAT they are clamped. -/
theorem test_vector_packed_add :
    lane (.vadd (v3 5 0)) 0x7FFF_0001 0x0001_FFFF 0 = some 0x8000_0000 ∧ lane (.vadd (v3 5 2)) 0x7FFF_0001 0x0001_FFFF 0 = some 0x7FFF_0000 := by
  decide

/-- R174: 1.0 + 2.0 and 1.5 × 2.0 in F32; R177: GE of -0 and +0 is all ones. -/
theorem test_vector_float :
    lane (.vadd (v3 2 0)) 0x3F80_0000 0x4000_0000 0 = some 0x4040_0000 ∧ lane (.vmul (v3 2 0)) 0x3FC0_0000 0x4000_0000 0 = some 0x4040_0000
      ∧ lane (.vcmp (v3 2 10)) 0x8000_0000 0 0 = some 0xFFFF_FFFF := by decide

/-- R173: VMULH of the most negative 32-bit values; R175: VSHL by 32 leaves nothing. -/
theorem test_vector_integer :
    lane (.vmulh (v3 0 0)) 0x8000_0000 0x8000_0000 0 = some 0x4000_0000 ∧ lane (.vshl (v3 1 0)) 1 32 0 = some 0 := by decide

/-- R197: VBAL collects the lanes whose element is not zero. -/
theorem test_ballot :
    (sends (.vbal { stl := 0, all := 0, vd := 9, va := 1, vb := 0, vc := 0, ty := 1, mod := 0, sel := 0 })
      (one { ag0 with vregs := [(65, 1), (67, 7), (73, 1)] })).map (·.1) = some [(0, 0b1010)] := by decide

/-- R58: XCOPY in a group, VADD with VA = 0x085 as a scalar, a bad type, ALL outside a handler, and v300 of 256. -/
theorem test_fates :
    fatalCode (.xcopyIn { stl := 0, all := 0, sd := 0, sa := 0, sb := 5, res := 0, sub := 0, imm := 0 }) (one ag0) = some (3, 1)
      ∧ fatalCode (.vadd { v3 2 0 with va := 0x085, sel := 1 }) (one ag0) = some (3, 2)
      ∧ fatalCode (.sadd (s3 2)) (one ag0) = some (3, 3) ∧ fatalCode (.sadd { s3 9 with all := 1 }) (one ag0) = some (3, 4)
      ∧ fatalCode (.vadd { v3 0 0 with va := 300 }) (one { ag0 with nv := 256 }) = some (4, 0) := by decide

/-- R30, R31: SMOV reads s1 one clk too early: the old value, or with CHK STALL_SHORT detail 0. -/
theorem test_early_read :
    let ag : Agent := { ag0 with sregs := [(1, 5)], pend := [{ fid := 0, dst := .s 1, vals := [(0, 7)], ready := 101 }] }
    let i : Instr := .smov { s3 10 with sb := 0 }
    ((after i (one ag)).map fun g => g.pend.map (·.vals)) = some [[(0, 7)], [(0, 5)]]
      ∧ fatalCode i (one { ag with frags := [(0, { fr0 with chk := true })] }) = some (12, 0) := by decide

/-- R419: TRAP with a handler enters it 12 clk later with em empty. -/
theorem test_trap :
    let s := (one ag0).barPut (blkCtx + 2) 0 48 0x7000
    (frAfter (.trapI { stl := 0, all := 0, sd := 0, sa := 0, sb := 0, res := 0, sub := 0, imm := 5 }) s).map (fun f => (f.h, f.em, f.next))
      = some (0x7000, 0, 112) := by decide

/-- The first step on a word that the host's load leaves runs it: SADD I64 s2 := s1 + s1 of zeros. -/
theorem test_step_runs_word :
    (match step (State.reset.withFetchWord 64 0x0320_4040_8090_0000) with
      | .next t => (t.agent? 1).map fun ag => ag.pend.map fun p => (p.dst, p.vals)
      | _ => none) = some [(.s 2, [(0, 0)])] := by decide

/-- R204, R219: a word read back from memory where the bytes of a write lie, lowest first. -/
theorem test_memory_order : (wrBytes [] 0x100 (bytesOf 4 0x1234_5678)) = [(0x100, 0x78#8), (0x101, 0x56#8), (0x102, 0x34#8), (0x103, 0x12#8)]
    ∧ wrBytes [(0x100, 0x78#8)] 0x100 [0] = [] := by decide

set_option Elab.async false
set_option synthInstance.maxSize 2000

/-! ## What meets the hypotheses of the claims -/

def onFrag (ag : Agent) (fr : Frag) : Agent := { ag with frags := [(0, fr)] }
def issAt (ag : Agent) (fr : Frag) : Iss := { a := 1, fid := 0, ag := onFrag ag fr, fr := fr }
def at' (ag : Agent) (fr : Frag) : State := one (onFrag ag fr)

/-- A group in its trap handler, and a leat. -/
def hand : Handler := { fid := 0, emSave := 0xF0, shadow := List.replicate 8 7, record := 0x0F, code := 15, frag := fr0 }
def agH : Agent := { ag0 with handler := some hand }
def agL : Agent := { ag0 with kind := .leat false, nv := 0 }

theorem witness_FaultsAreDelivered :
    let s := one ag0
    let h := (one ag0).barPut (blkCtx + 2) 0 48 0x7000
    fragOf s 1 0 ag0 fr0 ∧ fragOf h 1 0 ag0 fr0 ∧ h.ctxHandler 0 ≠ 0 ∧ s.ctxHandler 0 = 0 ∧ fragOf (one agH) 1 0 agH fr0 ∧ fragOf (one agL) 1 0 agL fr0
      ∧ KMap.find? s.fatals 0 = none ∧ ag0.handler = none ∧ agL.kind ≠ .group ∧ hand.code < 256 := by decide +kernel

/-- Each detail of R58 at a word where no earlier one applies. -/
theorem witness_IllegalWordsRaise :
    (one ag0).issuer = some (issOf ag0) ∧ (one agL).issuer = some (issOf agL) ∧ (one agH).issuer = some (issOf agH)
      ∧ { s3 0 with cc := 1 }.cc ≠ 0 ∧ (s3 2).ty ∉ [(0 : BitVec 4), 1, 9, 10] ∧ { s3 0 with all := 1 }.all = 1 ∧ agL.kind ≠ .group
      ∧ 32 ≤ { s3 0 with sd := 32 }.sd.toNat ∧ { v3 0 0 with vc := 1 }.vc ≠ 0 ∧ 9 ≤ (v3 9 0).ty.toNat ∧ (v3 8 0).ty.toNat ≤ 8
      ∧ ag0.nv ≤ { v3 0 0 with vd := 16 }.vd.toNat ∧ 128 ≤ { v3 0 0 with va := 128, sel := 1 }.va.toNat := by decide +kernel

/-- A write on its way that is readable one clk late, and an operation that is to write s1. -/
theorem witness_HazardsAndTheScoreboard :
    let p : Pend := { fid := 0, dst := .s 1, vals := [(0, 7)], ready := 101 }
    let o : Op := { id := 9, fid := 0, ctr := some .g, issue := 90, due := 300, kind := .load .glob 1 true 0 none false, dsts := [(.s 1, 1)] }
    let ag := { ag0 with pend := [p] }
    let chk := { fr0 with chk := true }
    (one ag).issuer = some (issOf ag) ∧ ag.pend = [p] ∧ 100 < p.ready ∧ (at' { ag0 with ops := [o] } chk).issuer = some (issAt { ag0 with ops := [o] } chk)
      ∧ (at' { ag0 with pend := [{ p with dst := .s 9, ready := 103 }] } chk).issuer = some (issAt { ag0 with pend := [{ p with dst := .s 9, ready := 103 }] } chk)
      ∧ o.win = [] ∧ chk.chk = true ∧ fr0.chk = false ∧ { s3 9 with sb := 1 }.sb = { s3 9 with sb := 1 }.sa ∧ (s3 9).sd ≠ (s3 9).sa := by decide +kernel

/-- An issuer's word, a word of no instruction, and one clk with nothing to do. -/
theorem witness_StepRunsTheDecodedInstruction :
    let s := State.reset.withFetchWord 64 0x0320_4040_8090_0000
    let t := State.reset.withFetchWord 64 0xFF00_0000_0000_0000
    s.power = true ∧ s.agenda = [] ∧ s.inputDue = none ∧ s.due = none ∧ s.issuing = some (1, 0)
      ∧ s.wordAt 1 0 = some (.alu, 0x0320_4040_8090_0000) ∧ (decodeIn .alu 0x0320_4040_8090_0000).isSome = true
      ∧ t.issuing = some (1, 0) ∧ t.wordAt 1 0 = some (.alu, 0xFF00_0000_0000_0000) ∧ decodeIn .alu 0xFF00_0000_0000_0000 = none
      ∧ State.reset.power = true ∧ State.reset.due = none ∧ State.reset.issuing = none := by decide +kernel

theorem witness_EncodeDecodeAgree :
    (Instr.sadd (s3 0)).rowOk = true ∧ encode (.sadd (s3 0)) ≠ none ∧ (decodeIn .sys 0x1C01_0240_0188_0014).isSome = true := by decide +kernel

theorem witness_MemoryStaysCanonical : memOk State.reset ∧ ∃ t, step State.reset = .next t := by
  exact ⟨by decide +kernel, _, rfl⟩

/-- Register and immediate forms, s127, a leat's s31, ALL in a handler. -/
theorem witness_ScalarArithmetic : ∀ t ∈ scalarTypes,
    let r : FS3 := { s3 t.1 with sd := 127, sa := 127, sb := 127 }
    let i : FS3 := { s3 t.1 with sb := 0, im := 1, aux := 0xFFFF }
    let l : FS3 := { s3 t.1 with sd := 31, sa := 31, sb := 31 }
    ready (one ag0) (issOf ag0) ∧ allOk (issOf ag0) r.all ∧ scalarsOk (issOf ag0) [r.sd, r.sa, r.sb] ∧ (r.im = 0 → r.aux = 0) ∧ (i.im = 1 → i.sb = 0)
      ∧ r.cc = 0 ∧ r.sc = 0 ∧ ready (one agL) (issOf agL) ∧ scalarsOk (issOf agL) [l.sd, l.sa, l.sb] ∧ ready (one agH) (issOf agH)
      ∧ allOk (issOf agH) 1 := by decide +kernel

/-- The same, with SLEA's count at 7. -/
theorem witness_ScalarLogicAndShifts : ∀ t ∈ scalarTypes,
    let f : FS3 := { s3 t.1 with cc := 7 }
    ready (one ag0) (issOf ag0) ∧ allOk (issOf ag0) f.all ∧ scalarsOk (issOf ag0) [f.sd, f.sa, f.sb] ∧ f.sc = 0 ∧ (f.im = 1 → f.sb = 0)
      ∧ (f.im = 0 → f.aux = 0) ∧ (s3 t.1).cc = 0 := by decide +kernel

theorem witness_ScalarUnaryAndCompare : ∀ t ∈ scalarTypes, ∀ cc ∈ [(0 : BitVec 3), 1, 2, 3, 4, 5, 6],
    let f : FS3 := { s3 t.1 with cc := cc }
    let u : FS3 := { s3 t.1 with sb := 0 }
    ready (one ag0) (issOf ag0) ∧ allOk (issOf ag0) f.all ∧ scalarsOk (issOf ag0) [f.sd, f.sa, f.sb, f.sc] ∧ (f.im = 1 → f.sb = 0)
      ∧ (f.im = 0 → f.aux = 0) ∧ f.sc = 0 ∧ u.sb = 0 ∧ u.sc = 0 ∧ u.im = 0 ∧ u.aux = 0 ∧ u.cc = 0 ∧ scalarsOk (issOf ag0) [u.sd, u.sa] := by decide +kernel

theorem witness_ScalarImmediate : ∀ t ∈ scalarTypes,
    let f : FSI := { stl := 0, all := 0, sd := 127, sa := 0, ty := t.1, rsv := 0, imm := 0xFFFF_FFFF }
    ready (one ag0) (issOf ag0) ∧ allOk (issOf ag0) f.all ∧ scalarsOk (issOf ag0) [f.sd, f.sa] ∧ f.rsv = 0 ∧ f.sa = 0 ∧ (f.ty, t.2.1, t.2.2) ∈ scalarTypes := by decide +kernel

def fbr (cond : BitVec 4) (sc : BitVec 7) (off : BitVec 32) : FBR := { stl := 0, all := 0, cond := cond, sc := sc, sl := 0, rsv := 0, off := off }

/-- Targets 0 and 2^48 - 8 and one step outside; LOOP at 1 and at 2; every condition. -/
theorem witness_RelativeBranches : ∀ cond ∈ [(0 : BitVec 4), 1, 2, 3, 4, 5, 6, 7, 8],
    let f := fbr cond 0 (-0x200)
    let top := { fr0 with h := 2 ^ 48 - 16 }
    ready (one ag0) (issOf ag0) ∧ lastWord (issOf ag0) ∧ allOk (issOf ag0) f.all ∧ scalarsOk (issOf ag0) [f.sc, f.sl] ∧ f.rsv = 0 ∧ f.sl = 0
      ∧ (fr0.h : Int) + 8 * f.off.toInt = 0 ∧ (fr0.h : Int) + 8 * (fbr 0 0 (-0x201)).off.toInt < 0
      ∧ ready (at' ag0 top) (issAt ag0 top) ∧ lastWord (issAt ag0 top) ∧ (top.h : Int) + 8 * (fbr 0 0 1).off.toInt = 2 ^ 48 - 8
      ∧ 2 ^ 48 - 8 < (top.h : Int) + 8 * (fbr 0 0 2).off.toInt ∧ ({ ag0 with sregs := [(1, 1)] }.sr 1) - 1 = 0 ∧ ({ ag0 with sregs := [(1, 2)] }.sr 1) - 1 ≠ 0 := by decide +kernel

/-- RET, JMP at the last header, misaligned, and past the space; BRZM with em empty and not. -/
theorem witness_RegisterBranchesAndMasks :
    let ag (x : Dword) := { ag0 with sregs := [(1, x)] }
    let f := fbr 0 1 0
    ready (one (ag 5)) (issOf (ag 5)) ∧ allOk (issOf (ag 5)) f.all ∧ scalarsOk (issOf (ag 5)) [f.sc] ∧ f.rsv = 0 ∧ f.cond = 0 ∧ f.sl = 0 ∧ f.off = 0
      ∧ ((ag (2 ^ 48 - 8)).sr 1).toNat % 8 = 0 ∧ ((ag (2 ^ 48 - 8)).sr 1).toNat < 2 ^ 48 ∧ ((ag 5).sr 1).toNat % 8 ≠ 0 ∧ 2 ^ 48 ≤ ((ag (2 ^ 48)).sr 1).toNat
      ∧ lastWord (issOf (ag 5)) ∧ (ag 5).kind = .group ∧ (ag 5).width ≤ 64 ∧ (∀ l, l < 32 → ¬(fr0.em.getLsbD l = true ∧ ((ag 0xFF00).sr 1).getLsbD l = true))
      ∧ fr0.em.getLsbD 0 = true ∧ ((ag 5).sr 1).getLsbD 0 = true := by decide +kernel

theorem witness_MaskInstructions :
    let r := s3 10
    let i : FS3 := { s3 10 with sb := 0, im := 1, aux := 0xFFFF }
    ready (one ag0) (issOf ag0) ∧ ag0.kind = .group ∧ allOk (issOf ag0) r.all ∧ ag0.width ≤ 64 ∧ r.cc = 0 ∧ r.sc = 0 ∧ (r.im = 0 → r.aux = 0)
      ∧ (i.im = 1 → i.sb = 0) ∧ { r with sa := 0 }.sa = 0 ∧ { r with sd := 0 }.sd = 0 ∧ { r with sb := 0 }.sb = 0 := by decide +kernel

/-- SPLIT with eight entries taken, one-sided and two-sided; JOIN first, second, without an entry, at a second address. -/
theorem witness_SplitAndJoin :
    let f : FS3 := { s3 10 with sd := 0, sa := 4, sb := 0, aux := 5 }
    let e : SplitEnt := { pmask := 1, cmask := 2, pid := 0, cid := 1, seq := 0 }
    let full : Agent := { ag0 with split := (List.range 8).map fun k => (k, e) }
    let two : Agent := { ag0 with sregs := [(4, 1)] }
    let inn (e : SplitEnt) : Agent := { ag0 with split := [(0, e)], frags := [(0, fr0), (1, fr0)] }
    ready (one ag0) (issOf ag0) ∧ lastWord (issOf ag0) ∧ allOk (issOf ag0) f.all ∧ ag0.task = none ∧ ready (one full) (issOf full)
      ∧ (∀ e, e < 8 → (KMap.find? full.split e).isSome) ∧ KMap.find? ag0.split 0 = none ∧ (fr0.em &&& ag0.sr 4) = 0
      ∧ ready (one two) (issOf two) ∧ (fr0.em &&& two.sr 4 &&& wmask two.width) ≠ 0 ∧ (fr0.em &&& ~~~(two.sr 4) &&& wmask two.width) ≠ 0
      ∧ two.fidUsed 1 = false ∧ (∀ j, j < 1 → two.fidUsed j = true)
      ∧ ag0.entriesOf 0 = [] ∧ ready (one (inn e)) (issOf (inn e)) ∧ (inn e).entriesOf 0 = [(0, e)] ∧ e.jpc = 0 ∧ e.pid = 0 ∧ e.cid ≠ 15 ∧ e.ca = false
      ∧ (inn { e with jpc := 8 }).entriesOf 0 = [(0, { e with jpc := 8 })] ∧ 8 ≠ fr0.pc
      ∧ (inn { e with ca := true }).entriesOf 0 = [(0, { e with ca := true })] ∧ (KMap.find? (inn e).frags 1).isSome = true := by decide +kernel

def vi (ty mod : BitVec 4) : FVI := { stl := 0, all := 0, vd := 15, va := 0, ty := ty, mod := mod, imm := 0 }

/-- Every type, the last register of the allocation, a scalar source, SAT and each rounding mode; 32 and 64 lanes. -/
theorem witness_VectorArithmetic : ∀ ty : Fin 9, ∀ w ∈ [32, 64],
    let t := BitVec.ofNat 4 ty.val
    let m : BitVec 4 := if tyFloat t then 12 else 2
    let f : FV3 := { v3 t m with vd := 15, va := 15, vb := 127, vc := 3, sel := 2 }
    let g : FV3 := { v3 t 0 with vd := 15 }
    let ag : Agent := { ag0 with width := w }
    let c := issOf ag
    ready (one ag) c ∧ f.vd.toNat < ag.nv ∧ f.ty.toNat ≤ 8 ∧ arithMod f.ty f.mod ∧ vectorOk c f true true true ∧ vectorOk c g true true false
      ∧ g.mod = 0 ∧ vectorImmOk c (vi t m) := by decide +kernel

theorem witness_VectorChoiceAndLogic : ∀ ty : Fin 9,
    let t := BitVec.ofNat 4 ty.val
    let f := v3 t 0
    let c := issOf ag0
    let b : FV3 := { v3 0 0 with va := 127, vb := 0, sel := 1 }
    ready (one ag0) c ∧ f.vd.toNat < ag0.nv ∧ f.ty.toNat ≤ 8 ∧ vectorOk c f true true false ∧ f.mod = 0
      ∧ (v3 t (if tyFloat t then 12 else 10)).mod.toNat / 2 < (if tyFloat t then 7 else 6)
      ∧ vectorOk c { f with vb := 0 } true false false ∧ vectorOk c { f with vc := 3 } true true true ∧ vectorImmOk c (vi t 0)
      ∧ b.vd.toNat % 2 = 0 ∧ b.vd.toNat + 1 < ag0.nv ∧ vectorOk c b true false false ∧ (v3 1 0).ty.toNat ≤ 1
      ∧ vectorOk c { f with va := 0, vb := 0 } false false false := by decide +kernel

theorem witness_VectorFunctionsBitsPacking :
    let c := issOf ag0
    let one1 (ty mod : BitVec 4) : FV3 := { v3 ty mod with vb := 0 }
    let three (ty mod : BitVec 4) : FV3 := { v3 ty mod with vc := 3 }
    let lut : FV3 := { v3 8 0 with vb := 126, sel := 2 }
    ready (one ag0) c ∧ (one1 2 12).vd.toNat < ag0.nv ∧ tyFloat (one1 2 12).ty = true ∧ (one1 2 12).mod.toNat % 4 = 0
      ∧ vectorOk c (one1 2 12) true false false ∧ vectorOk c (one1 4 0) true false false ∧ tyFloat 4 = true
      ∧ vectorOk c (one1 8 0) true false false ∧ tyFloat 8 = false ∧ vectorOk c (v3 1 0) true true false ∧ vectorOk c (three 0 0) true true true
      ∧ vectorOk c (one1 5 1) true false false ∧ vectorOk c (v3 8 2) true true false ∧ vectorOk c (three 5 2) true true true
      ∧ lut.sel.getLsbD 1 = true ∧ lut.vb.toNat % 2 = 0 ∧ lut.sel.getLsbD 3 = false ∧ vectorOk c lut true true false
      ∧ tyFloat 3 = true ∧ vectorOk c (three 3 12) true true true
      ∧ (∀ k : Fin 23, let f : FV3 := { v3 0 0 with vb := BitVec.ofNat 10 k.val, vc := if (cvRow k.val).c then 3 else 0 }
          f.sel.getLsbD 1 = false ∧ vectorOk c { f with vb := 0 } true false (cvRow f.vb.toNat).c)
      ∧ (v3 0 1).mod.toNat % 2 = 1 ∧ ag0.pure = false := by decide +kernel

/-- Counts of 127 as a register or a field; the lane outside the width; the reductions of every kind. -/
theorem witness_CrossLaneInstructions :
    let c := issOf ag0
    let f : FV3 := v3 1 0
    let n : FV3 := { v3 1 0 with vb := 127 }
    let r : FV3 := { v3 0 0 with vd := 127, vb := 127 }
    ready (one ag0) c ∧ f.ty.toNat ≤ 1 ∧ f.mod = 0 ∧ ag0.width ≤ 64 ∧ f.vd.toNat < ag0.nv ∧ vectorOk c f true true false ∧ ag0.kind = .group
      ∧ allOk c n.all ∧ sourceOk c true (n.sel.getLsbD 0) n.va ∧ n.vb.toNat < 128 ∧ sourceOk c true (n.sel.getLsbD 2) { n with vc := 3 }.vc
      ∧ sourceOk c false (n.sel.getLsbD 2) n.vc ∧ sourceOk c true ({ n with sel := 1 }.sel.getLsbD 0) n.va ∧ r.vd.toNat < 128
      ∧ vectorOk c { f with vb := 0 } true false false
      ∧ (∀ op : Fin 6, ∀ ty : Fin 9, tyFloat (BitVec.ofNat 4 ty.val) = true → op.val < 3 →
          let g : FV3 := { v3 (BitVec.ofNat 4 ty.val) 0 with vb := BitVec.ofNat 10 op.val }
          vectorOk c { g with vb := 0 } true false false ∧ g.vb.toNat < 6 ∧ g.sel.getLsbD 1 = false)
      ∧ (v3 2 13).mod.toNat % 2 = 1 ∧ (v3 0 3).mod.toNat / 2 % 2 = 1 := by decide +kernel

/-- One page of 64 KiB at 0x10000 in context 0 on this card, one at 0x20000 in the host aperture, both in core 0's TLB. -/
def tlbs : Core := { tlb := [{ ctx := 0, va := 0x10000, lg := 16, pa := 0x20000, w := true, x := true },
                             { ctx := 0, va := 0x20000, lg := 16, pa := 2 ^ 51 + 0x20000, w := true, x := true }] }

def mapped (s : State) : State := { s with cores := [(0, tlbs)] }

/-- s1 at the first page, s2 at the second, s3 a scratchpad offset; v1 holds nothing. -/
def agM : Agent := { ag0 with sregs := [(1, 0x10000), (2, 0x20000), (3, 0xFF0)], frags := [(0, { fr0 with em := 1 })] }
def isM (ag : Agent) : Iss := { a := 1, fid := 0, ag := ag, fr := { fr0 with em := 1 } }
def opAt (k : OpKind) (ret : Bool) : Op := { id := 0, fid := 0, ctr := some .g, issue := 90, due := 300, kind := k, returned := ret }
def fmem (w : BitVec 3) (sch : BitVec 3) (base : BitVec 7) : FMEM :=
  { stl := 0, all := 0, data := 4, sbase := base, voff := 0x3FF, width := w, sch := sch, imm := 0 }

/-- Every width, the last offset of the scratchpad that holds it, the highest SCH of each form; a leat's scalar load of s30 and s31. -/
theorem witness_LoadsIssue : ∀ w : Fin 5,
    let s := mapped (one agM)
    let c := isM agM
    let f := fmem (BitVec.ofNat 3 w.val) 3 1
    let g : FMEM := { f with data := 126 }
    let l : FMEM := { f with data := 30 }
    let ag : Agent := { agL with sregs := agM.sregs, frags := agM.frags }
    ready s c ∧ memFields c f false 3 ∧ memFields c g true 3 ∧ memFields c { f with sch := 4 } false 4 ∧ memFields c { f with sch := 0 } false 0 ∧ room c .g ∧ room c .s
      ∧ checked s c 0 (request c f .glob false f.imm.toInt false false none) [(0, 0x10000, 0x20000)]
      ∧ checked s c 0 (request c f .glob true f.imm.toInt false false none) [(0, 0x10000, 0x20000)]
      ∧ checked s c 0 (request c { f with sbase := 3 } .scr false f.imm.toInt false false none) [(0, 0xFF0, 0xFF0)]
      ∧ checked s c 0 (request c (fmem 2 0 2) .glob false 0 false false none) [(0, 0x20000, 2 ^ 51 + 0x20000)]
      ∧ ready (mapped (one ag)) (isM ag) ∧ memFields (isM ag) l true 3 ∧ room (isM ag) .g
      ∧ checked (mapped (one ag)) (isM ag) 0 (request (isM ag) l .glob true f.imm.toInt false false none) [(0, 0x10000, 0x20000)] := by decide +kernel

theorem witness_StoresIssue : ∀ w : Fin 5,
    let s := mapped (one agM)
    let c := isM agM
    let f := fmem (BitVec.ofNat 3 w.val) 3 1
    let acc : Acc := { lane := 0, va := 0x10000, pa := 0x20000, n := 2 ^ w.val }
    ready s c ∧ memFields c f false 3 ∧ memFields c f true 3 ∧ memFields c { f with sch := 0 } true 0 ∧ memFields c { f with sch := 4 } true 4 ∧ room c .g ∧ room c .s
      ∧ s.paKind 0x20000 ≠ .peer ∧ checked s c 0 (request c f .glob false f.imm.toInt true false none) [(0, 0x10000, 0x20000)]
      ∧ checked s c 0 (request c { f with sbase := 3 } .scr false f.imm.toInt true false none) [(0, 0xFF0, 0xFF0)]
      ∧ (∀ o ∈ c.ag.ops, o.kind.isAccess = true → o.returned = true) ∧ (∀ r ∈ s.fabReqs, r.2.agent ≠ c.a) ∧ s.heldPeer c.ag.core c.ag.ctx = none
      ∧ (State.scopeAll (slotted s c 0) (State.identOf (slotted s c 0) c.ag) 4 (some 0) [acc]).2 = [] := by decide +kernel

/-- CAS and FetchAdd of both widths, all four orders, an access of the agent's that has returned. -/
theorem witness_AtomicsIssue : ∀ w ∈ [(2 : BitVec 3), 3], ∀ o : Fin 4, ∀ aop ∈ [(0 : BitVec 4), 9],
    let s := mapped (one agM)
    let c := isM agM
    let ag : Agent := { agM with ops := [opAt (.load .glob 4 false 0 none false) true] }
    let f (base : BitVec 7) (sch : BitVec 3) (off : BitVec 13) : FMEM :=
      { fmem w sch base with imm := (off.setWidth 19) ||| (aop.setWidth 19 <<< 15) ||| (BitVec.ofNat 19 o.val <<< 13) }
    ready s c ∧ ready (mapped (one ag)) (isM ag) ∧ (∀ o ∈ ag.ops, o.kind.isAccess = true → o.returned = true)
      ∧ atomFields c (f 3 1 0) 1 ∧ room c .s ∧ checked s c 0 (request c (f 3 1 0) .scr false (fld (f 3 1 0).imm 0 13).toInt true true (some false)) [(0, 0xFF0, 0xFF0)]
      ∧ atomFields c (f 1 4 0) 4 ∧ room c .e ∧ checked s c 0 (request c (f 1 4 0) .glob false (fld (f 1 4 0).imm 0 13).toInt true true (some false)) [(0, 0x10000, 0x20000)]
      ∧ (State.scopeAll (slotted s c 0) (State.identOf (slotted s c 0) c.ag) 4 (some 1) [{ lane := 0, va := 0x10000, pa := 0x20000, n := 4 }]).2 = []
      ∧ atomFields c (f 2 3 0) 3 ∧ aopOf (f 2 3 0) ≤ 9
      ∧ checked s c 0 (request c (f 2 3 0) .glob false (fld (f 2 3 0).imm 0 13).toInt true true (some true)) [(0, 0x20000, 2 ^ 51 + 0x20000)]
      ∧ checked s c 0 (request c (f 2 3 0) .glob false 0 true true (some true)) [(0, 0x20000, 2 ^ 51 + 0x20000)]
      ∧ s.paKind (2 ^ 51 + 0x20000) = .host ∧ s.habl.contains ((2 ^ 51 + 0x20000) % 2 ^ 51 / 4096) = false ∧ (f 2 3 0).imm.toNat % 64 = 0 := by decide +kernel

/-- WAITC at its threshold and above it; FENCE with nothing open, with a load open; sweeps of 1 and of 8 segments. -/
theorem witness_WaitsAndSweeps :
    let c := isM agM
    let busy : Agent := { agM with ops := [opAt (.store .glob false 0 none) false] }
    let w : FMEM := { fmem 0 0 4 with data := 0, voff := 0 }
    let fe (k : BitVec 19) (sch : BitVec 3) : FMEM := { fmem 0 sch 0 with data := 0, imm := k }
    let sw : FSWP := { ty := 1, stl := 0, all := 0, cnt := 8, sd := 5, sa := 6, sb := 7, stepd := 4, stepa := 4, stepb := 4, sr := 0 }
    let ag : Agent := { agM with sregs := [(5, 0), (6, 0x400), (7, 0xC00)] }
    ready (one agM) c ∧ allOk c w.all ∧ ({ fmem 0 2 1 with data := 0 }).sch.toNat ≤ 2 ∧ agM.ctrVal .g ≤ min (agM.sr 4).toNat 63
      ∧ ready (one busy) (isM busy) ∧ min (busy.sr 4).toNat 63 < busy.ctrVal .g ∧ (∀ o ∈ busy.ops, o.rej = none)
      ∧ (busy.ops.filter fun o => o.kind.isAccess && !o.returned) ≠ [] ∧ (agM.ops.filter fun o => o.kind.isAccess && !o.returned) = []
      ∧ 0 < (fe 3 4).imm.toNat ∧ (fe 3 4).imm.toNat < 4 ∧ (fe 3 4).sch.toNat ≤ 4 ∧ (one agM).heldPeer 0 0 = none
      ∧ ready (one ag) (isM ag) ∧ room (isM ag) .s ∧ sw.cnt ≠ 0 ∧ (one ag).rlocks = [] ∧ ((one ag).teamOf ag).size = 4096
      ∧ (∀ k : Fin 8, 0xC00 + 32 * (k.val : Int) * 4 + 128 ≤ 4096) ∧ ag.pure = false := by decide +kernel

def fsys (sub : BitVec 4) (sd sa sb : BitVec 7) (res : BitVec 8) (imm : BitVec 19) : FSYS :=
  { stl := 0, all := 0, sd := sd, sa := sa, sb := sb, res := res, sub := sub, imm := imm }

def agP (ag : Agent) : Agent := { ag with pure := true }

theorem witness_ControlRegisterReads :
    let c := issOf ag0
    (∀ i ∈ [0x000, 0x023, 0x04F, 0x061, 0x06F, 0x082, 0xFFF], sysFields c (fsys 0 9 0 0 0 (BitVec.ofNat 19 i)) 0 true false false false 0xFFF)
      ∧ ready (one ag0) c ∧ ready (one (agP ag0)) (issOf (agP ag0)) ∧ ready (one agH) (issOf agH) ∧ ag0.pure = false ∧ agH.handler = some hand := by decide +kernel

/-- HDESC 0 and 255 of a leat: held and FREE, and not held. -/
theorem witness_ControlRegisterWrites :
    let tm : Team := { grid := 0, ctx := 0, idx := 0, core := 0, size := 0x10000 }
    let free : Handle := { roff := 0, dsec := 1, layout := 0, nrel := 1, team := 1 }
    let cfg : Dword := BitVec.ofNat 64 (0x40 + 1 * 2 ^ 32 + 2 ^ 63)
    let ag : Agent := { agL with sregs := [(1, cfg)] }
    let s : State := { one ag with handles := [(255, free)], teams := [(1, tm)] }
    (∀ i ∈ [0x000, 0x004, 0x023, 0x040, 0x04F, 0x051, 0x061, 0x062, 0x068, 0x06F, 0x080, 0x082, 0xFFF],
        sysFields (issOf ag0) (fsys 0 0 1 0 0 (BitVec.ofNat 19 i)) 0 false true false false 0xFFF)
      ∧ ready (one ag0) (issOf ag0) ∧ ready (one (agP ag0)) (issOf (agP ag0)) ∧ ready (one agH) (issOf agH) ∧ ready s (issOf ag)
      ∧ (∀ i ∈ [0, 4, 0x81, 0x100, 0x1FF, 0x200], sysFields (issOf ag) (fsys 0 0 1 0 0 (BitVec.ofNat 19 i)) 0 false true false false 0xFFF)
      ∧ KMap.find? s.handles 255 = some free ∧ free.team = ag.team ∧ free.st = 0 ∧ s.xops = [] ∧ ag.sr 2 = 0
      ∧ KMap.find? s.handles 0 = none ∧ KMap.find? s.teams 1 = some tm ∧ KMap.wf 0 tm.scr = true ∧ 0x40 + 64 + 512 ≤ min tm.size (2 ^ 20)
      ∧ ag.sr 1 = BitVec.ofNat 64 (0x40 + 1 * 2 ^ 32 + 0 * 2 ^ 41 + 0 * 2 ^ 45 + 2 ^ 63) := by decide +kernel

/-- T equal to pt and one above; a barrier with and without a live entry. -/
theorem witness_TimeAndBarriers :
    let ag (t : Dword) : Agent := { ag0 with sregs := [(1, t)] }
    let e : SplitEnt := { pmask := 1, cmask := 2, pid := 0, cid := 1, seq := 0 }
    let sp : Agent := { ag0 with split := [(0, e)] }
    ready (one (ag 0)) (issOf (ag 0)) ∧ sysFields (issOf (ag 0)) (fsys 0 0 1 0 0 0) 0 false true false false 0
      ∧ sysFields (issOf (ag 0)) (fsys 1 0 1 0 0 0) 1 false true false false 0 ∧ ((ag 0).sr 1).toNat ≤ (one (ag 0)).pt ∧ (one (ag 1)).pt < ((ag 1).sr 1).toNat
      ∧ ready (one (agP ag0)) (issOf (agP ag0)) ∧ sysFields (issOf ag0) (fsys 0 0 0 0 0 0) 0 false false false false 0
      ∧ ready (one sp) (issOf sp) ∧ sp.split ≠ [] ∧ ag0.split = [] ∧ fr0.hop = 0 := by decide +kernel

theorem witness_TrapsAndBreakpoints :
    let h := (one ag0).barPut (blkCtx + 2) 0 48 0x7000
    let d := (one ag0).barPut blkCtx 2 1 1
    (∀ sub ∈ [(0 : BitVec 4), 1], sysFields (issOf ag0) (fsys sub 0 0 0 0 0xFFFF) sub false false false false 0xFFFF)
      ∧ ready h (issOf ag0) ∧ h.ctxHandler 0 ≠ 0 ∧ ready (one ag0) (issOf ag0) ∧ (one ag0).ctxHandler 0 = 0 ∧ KMap.find? (one ag0).fatals 0 = none
      ∧ ready (one agL) (issOf agL) ∧ ready (one agH) (issOf agH) ∧ (one ag0).ctxDbg 0 = false ∧ ready d (issOf ag0) ∧ d.ctxDbg 0 = true := by decide +kernel

/-- RETRY and SKIP in the middle, at a header, at the last word, after YIELD; JMP to 2^48 - 8, past it and misaligned. -/
theorem witness_ReturnFromTrap :
    let hd (fr : Frag) : Agent := { ag0 with handler := some { hand with frag := fr } }
    let j (t : Dword) : Agent := { agH with sregs := [(1, t)] }
    (∀ k ∈ [(0 : BitVec 4), 1, 2], sysFields (issOf agH) (fsys k 0 (if k = 2 then 1 else 0) 0 0 0) k false (k = 2) false false 0) ∧ ready (one agH) (issOf agH)
      ∧ hand.shadow.length = 8 ∧ hand.frag.wait = .none ∧ 0 < hand.frag.k ∧ hand.frag.k = hand.frag.code.length ∧ hand.frag.live = []
      ∧ ready (one (hd { fr0 with k := 0 })) (issOf (hd { fr0 with k := 0 })) ∧ ready (one (hd { fr0 with k := 1 })) (issOf (hd { fr0 with k := 1 }))
      ∧ ({ fr0 with k := 1 }).k < fr0.code.length ∧ ready (one (hd { fr0 with live := [1] })) (issOf (hd { fr0 with live := [1] }))
      ∧ ready (one (j 8)) (issOf (j 8)) ∧ ((j (2 ^ 48 - 8)).sr 1).toNat ≤ 2 ^ 48 - 8 ∧ 2 ^ 48 - 8 < ((j (2 ^ 48)).sr 1).toNat ∧ ((j 4).sr 1).toNat % 8 ≠ 0 := by
  decide +kernel

/-- A lane of v15 and of the pair v14, lane 63 of 32, an odd pair, v16 of 16; every FLTRD index at its ends. -/
theorem witness_HandlerAccess :
    let x (r l : Dword) : Agent := { agH with sregs := [(1, r), (2, l)] }
    (∀ p ∈ [(0 : BitVec 4), 1], sysFields (issOf agH) (fsys p 9 1 2 0 0) p true true true false 0)
      ∧ (∀ k ∈ [(0 : BitVec 4), 1, 2], sysFields (issOf agH) (fsys k 9 0 0 0 0x1FF) k true false false false 0x1FF)
      ∧ ready (one (x 15 31)) (issOf (x 15 31)) ∧ ((x 15 31).sr 1).toNat % 1024 < agH.nv ∧ ((x 14 63).sr 1).toNat % 2 = 0 ∧ ((x 14 63).sr 1).toNat + 1 < agH.nv
      ∧ agH.width ≤ ((x 14 63).sr 2).toNat % 64 ∧ ((x 15 0).sr 1).toNat % 2 = 1 ∧ agH.nv ≤ ((x 16 0).sr 1).toNat % 1024
      ∧ KMap.find? agH.split 7 = none ∧ KMap.find? (one agH).rlocks 63 = none ∧ (0x1FF : BitVec 19).toNat = 7 + 8 * 63 := by decide +kernel

/-- A valid record of zeros and one with a reserved bit, a pending pre-emption; an end with and without operations, of a fragment. -/
theorem witness_YieldsAndEnds :
    let y := onFrag ag0 { fr0 with live := List.replicate 64 0 }
    let cy := issAt ag0 { fr0 with live := List.replicate 64 0 }
    let bad : List Byte := List.replicate 63 0 ++ [0x80]
    let p : State := { one y with preempts := [(0, { pt := 0 })] }
    let busy : Agent := { ag0 with ops := [{ opAt (.store .glob false 0 none) false with dsts := [] }] }
    let e : SplitEnt := { pmask := 1, cmask := 2, pid := 0, cid := 1, seq := 0 }
    let two : Agent := { ag0 with frags := [(0, { fr0 with wait := .join 0 }), (1, fr0)], split := [(0, e)] }
    let s2 : State := { one two with cur := (1, 1) }
    ready (one y) cy ∧ lastWord cy ∧ sysFields cy (fsys 0 0 0 0 0 0) 0 false false false false 0 ∧ numOf cy.fr.live = 0 ∧ numOf bad / 2 ^ 449 % 2 ^ 63 ≠ 0
      ∧ KMap.find? (one y).preempts 0 = none ∧ ready p cy ∧ KMap.find? p.preempts 0 ≠ none ∧ ready (one ag0) (issOf ag0) ∧ ready (one busy) (issOf busy) ∧ busy.ops ≠ []
      ∧ (∀ o ∈ busy.ops, o.rej = none) ∧ ag0.frags = [(0, fr0)] ∧ (ag0.frags.map (·.1)).Nodup ∧ ready (one agH) (issOf agH)
      ∧ ready s2 { a := 1, fid := 1, ag := two, fr := fr0 } ∧ two.split = [(0, e)] ∧ e.cid = 1 ∧ e.pid < 1 := by decide +kernel

/-- The first GiB of context 0 is mapped to itself and the second to the erg window of 2 MiB, by a root table at 0x100000 and two leaves
below it, and core 0 has the translation of the first. -/
def paged (s : State) : State :=
  State.barWr { s with
    mem := [(0x20002, 3#8), (0x20008, 5#8), (0x20018, 7#8), (0x100000, 1#8), (0x100001, 0x10#8), (0x100002, 0x10#8), (0x101000, 0xF#8),
            (0x101008, 1#8), (0x101009, 0x20#8), (0x10100A, 0x10#8), (0x102000, 0xF#8), (0x102005, 1#8)]
    cores := [(0, { tlb := [{ ctx := 0, va := 0, lg := 30, pa := 0, w := true, x := true }] })] } (blkCtx + 1) 0x100#64 |>.barPut 0x2_0000 0 8 1

def h0 (st : Nat) : Handle := { roff := 0, dsec := 1, layout := 0, nrel := 2, team := 1, st := st, arrived := 512, expect := 512, rels := 2 }
def withH (s : State) (h : Handle) : State := { s with handles := [(1, h)] }
def fbuf (off : BitVec 11) (lay : BitVec 3) : FMEM := { fmem 2 lay 0 with imm := (1 <<< 11) ||| off.setWidth 19 }

/-- Handle 1: absent, another team's, of another layout, FREE for LDB; offset 512 - 4, one past it, misaligned; each layout in bounds. -/
theorem witness_BufferAccesses :
    let c := isM agM
    let s (st : Nat) : State := withH (one agM) (h0 st)
    let off (f : FMEM) : Int := (fld f.imm 0 11).toInt
    ready (s 2) c ∧ ready (s 0) c ∧ ready (one agM) c ∧ allOk c (fbuf 0 0).all ∧ (fbuf 0 0).data.toNat + widthRegs 2 ≤ agM.nv ∧ room c .s ∧ agM.pure = false
      ∧ (fbuf 508 3).imm.toNat / 2 ^ 11 = 1 ∧ KMap.find? (one agM).handles 1 = none ∧ KMap.find? (withH (one agM) { h0 2 with team := 9 }).handles 1 = some { h0 2 with team := 9 }
      ∧ KMap.find? (s 2).handles 1 = some (h0 2) ∧ (h0 2).team = agM.team ∧ (h0 2).layout ≠ (fbuf 0 3).sch.toNat ∧ (h0 2).layout = (fbuf 0 0).sch.toNat ∧ (h0 0).st ≠ 2
      ∧ lanesOf (c.active 0) = [0] ∧ off (fbuf 508 0) + 4 ≤ 512 * (h0 2).dsec ∧ 512 * ((h0 2).dsec : Int) < off (fbuf 509 0) + 4 ∧ off (fbuf (-1) 0) < 0
      ∧ off (fbuf 2 0) % 4 ≠ 0 ∧ off (fbuf 508 0) % 4 = 0 ∧ (0 + 64 + 508) % 4 = 0 ∧ 0 + 64 + 508 + 4 ≤ ((s 2).teamOf agM).size ∧ (s 2).rlocks = [] := by decide +kernel

/-- BUFWAIT in the state asked for, past its deadline and before it; BUFREL at RELS 2 and at 1, with 1 and 512 bytes, with 0 and 513, with a store open. -/
theorem witness_HandleInstructions :
    let c := isM agM
    let s (st : Nat) : State := withH (one agM) (h0 st)
    let busy : Agent := { agM with ops := [opAt (.store .glob false 0 none) false] }
    let n (x : Dword) : Agent := { agM with sregs := [(1, x)] }
    (∀ st ∈ [0, 1, 2, 3], ready (s st) c ∧ KMap.find? (s st).handles 1 = some (h0 st)) ∧ (h0 2).team = agM.team ∧ ready (one agM) c
      ∧ KMap.find? (one agM).handles 1 = none ∧ sysFields c (fsys 0 9 4 0 1 7) 0 true true false true 7 ∧ (6 : BitVec 19).toNat % 4 = (h0 2).st
      ∧ (h0 2).phase = 0 ∧ (agM.sr 4).toNat ≤ (one agM).pt ∧ (one agM).pt < (agM.sr 1).toNat
      ∧ sysFields c (fsys 0 0 0 0 1 0) 0 false false false true 0 ∧ sysFields c (fsys 1 0 1 0 1 0) 1 false true false true 0 ∧ 1 < (h0 2).rels
      ∧ ready (withH (one agM) { h0 2 with rels := 1 }) c ∧ (withH (one agM) { h0 2 with rels := 1 }).matrixReads 1 { h0 2 with rels := 1 } = false
      ∧ ready (withH (one (n 512)) (h0 0)) (isM (n 512))
      ∧ ((n 512).sr 1).toNat ≤ 512 * (h0 0).dsec ∧ ¬((n 513).sr 1).toNat ≤ 512 * (h0 0).dsec ∧ ¬(1 ≤ ((n 0).sr 1).toNat)
      ∧ ready (withH (one busy) (h0 2)) (isM busy) ∧ (busy.ops.filter fun o => o.kind.isAccess && !o.returned) ≠ []
      ∧ ((KMap.find? (s 0).teams 1).map fun tm => KMap.wf 0 tm.scr) = some true
      ∧ sysFields c (fsys 0 9 0 0 1 0) 0 true false false true 0 ∧ (s 2).xops = [] := by decide +kernel

/-- A queue that is off, one whose class is above the record's, one that is full and one with room; the record's last place and beyond. -/
theorem witness_LaunchFromTheDevice :
    let ag (a : Dword) : Agent := { agM with sregs := [(1, a)] }
    let q (w1 w3 : Dword) : State := (State.barWr (State.barWr (paged (one (ag 0x40000))) 1 w1) 3 w3)
    let c := isM (ag 0x40000)
    let f := fsys 0 9 1 0 0 0
    sysFields c f 0 true true false false 0x3F ∧ room c .g ∧ ready (one (ag (2 ^ 48 - 64))) (isM (ag (2 ^ 48 - 64))) ∧ 2 ^ 48 < ((ag (2 ^ 48 - 64)).sr 1).toNat + 128
      ∧ ((ag (2 ^ 48 - 128)).sr 1).toNat + 128 ≤ 2 ^ 48 ∧ ((ag 32).sr 1).toNat % 64 ≠ 0 ∧ ready (one (agP (ag 64))) (isM (agP (ag 64)))
      ∧ ready (q 0 0) c ∧ recordAt (slotted (q 0 0) c 0) c 0x40000 128 0 ∧ (q 0 0).heldPeer 0 0 = none ∧ ((q 0 0).barRd 1).getLsbD 12 = false
      ∧ ready (q 0x5400 0) c ∧ ((q 0x5400 0).barRd 1).getLsbD 12 = true ∧ ((q 0x5400 0).barRd 1).getLsbD 14 = true ∧ 0 / 2 ^ 56 % 4 < ((q 0x5400 0).barRd 1).toNat / 2 ^ 10 % 4
      ∧ ready (q 0x5000 16) c ∧ (((q 0x5000 16).barRd 3).toNat % 2 ^ 32 + 2 ^ 32 - 0) % 2 ^ 32 = 2 ^ (((q 0x5000 16).barRd 1).toNat % 16 + 4)
      ∧ ready (q 0x5000 15) c ∧ (State.ctxWrite (slotted (q 0x5000 15) c 0) 0 (128 * 15) (bytesOf 128 0)).toOption.isSome = true := by decide +kernel

/-- A descriptor of zeros in the descriptor cache, an invalid one, and none. -/
theorem witness_ImagesIssue :
    let c := isM agM
    let s : State := mapped (one agM)
    let with' (d : BitVec 768) : State := { s with cores := [(0, { tlbs with dsc := [(0, 0x10000, d)] })] }
    let f : FMEM := { fmem 3 0 1 with voff := 0 }
    ready s c ∧ c.active f.all ≠ 0 ∧ f.voff.toNat + 4 ≤ agM.nv ∧ f.data.toNat + widthRegs f.width ≤ agM.nv ∧ f.voff ≠ 0x3FF ∧ room c .g
      ∧ (∃ l, descCheck (slotted s c 0) c (c.active 0) false 0x10000 = .ok l) ∧ ((s.core 0).dsc.find? fun x => x.1 = 0 && x.2.1 = 0x10000) = none
      ∧ ready (with' 0) c ∧ (((with' 0).core 0).dsc.find? fun x => x.1 = 0 && x.2.1 = 0x10000) = some (0, 0x10000, 0) ∧ imBad 0 none = false ∧ imBad (1 <<< 56) none = true := by
  refine ⟨by decide +kernel, by decide +kernel, by decide +kernel, by decide +kernel, by decide +kernel, by decide +kernel, ⟨_, rfl⟩, ?_⟩
  decide +kernel

def fmtx (abank : BitVec 6) (a b : BitVec 10) (fb : BitVec 7) (mopt : BitVec 9) : FMTX :=
  { stl := 0, all := 0, abank := abank, a := a, b := b, fb := fb, kst := 0, ah := 0, clr := 0, mopt := mopt }

/-- AALLOC of the last bank and with no bank left, AFREE, AZERO of a bank of context 0 and of context 5, ASTAT into s127; a range that ends at 2^48,
one past it, a misaligned one, a locked one. -/
theorem witness_BanksAndTransfers :
    let w := ((encode (.aalloc (fmtx 63 0 0 0 1))).map (·.2)).getD 0
    let fr := { fr0 with code := [0, 0, w] }
    let held (p : Nat) : Agent := { ag0 with banks := [(5, p)], sregs := [(1, 0x40000), (2, BitVec.ofNat 64 (2 ^ 48 - 10240)), (3, 2 ^ 48), (4, 64)] }
    let none' : State := { at' ag0 fr with accs := (List.range 64).map fun k => (k, { st := .held, holder := 9 }) }
    let s : State := { one (held 9) with accs := [(9, { st := .held, holder := 1, own := (1, 5) })] }
    let t : State := { s with accs := [(9, { st := .held, holder := 1, own := (1, 5), tag := 5 })] }
    let h := t.barPut (blkCtx + 2) 0 48 0x7000
    let m := paged s
    let c := issOf (held 9)
    let lk := mtxLock (held 9) 0x40000 1 1 10240
    ready (at' ag0 fr) (issAt ag0 fr) ∧ decodeIn .mtx (fr.code.getD (fr.k - 1) 0) = some (.aalloc (fmtx 63 0 0 0 1)) ∧ 1 ≤ ((at' ag0 fr).freeBanks 0).length ∧ room (issAt ag0 fr) .m
      ∧ ready none' (issAt ag0 fr) ∧ (none'.freeBanks 0).length < 1 ∧ ready s c ∧ KMap.find? (held 9).banks 5 = some 9 ∧ KMap.find? (held 9).banks 6 = none
      ∧ (s.bank 0 9).tag = 0 ∧ ready h c ∧ (h.bank 0 9).tag ≠ 0 ∧ h.ctxHandler 0 ≠ 0 ∧ (fmtx 0 0 0 0 127).mopt.toNat < 128 ∧ ready m c
      ∧ ((held 9).sr 2).toNat + 10240 ≤ 2 ^ 48 ∧ ((held 9).sr 2).toNat % 128 = 0 ∧ 2 ^ 48 < ((held 9).sr 3).toNat + 10240 ∧ ((held 9).sr 4).toNat % 128 ≠ 0
      ∧ m.lockConf 0 lk = none ∧ State.lockConf { m with rlocks := [(0, { op := 7, bits := lk })] } 0 lk = some lk
      ∧ (∀ x ∈ pageParts 0x40000 10240, m.l1tlb 0 0 x.1 ≠ none) ∧ (m.pagesOf (held 9) 0x40000 10240 true).toOption.isSome = true ∧ m.protFault (held 9) 0x40000 10240 = none := by
  decide +kernel

/-- Each format at its last position of 32 lanes, with scales, and control words with a bit too many or past the bank. -/
theorem witness_LoadFromAccumulators :
    let ag : Agent := { ag0 with banks := [(5, 9)], sregs := [(1, 0x0500), (2, 0x80), (3, 0x4000), (4, 0x0600), (5, 127), (6, 0x007E)] }
    let s : State := { one ag with accs := [(9, { st := .held, holder := 1, own := (1, 5) })] }
    let f := fmtx 5 15 0 1 0
    ready s (issOf ag) ∧ allOk (issOf ag) f.all ∧ f.a.toNat < ag.nv ∧ ag.ops = [] ∧ KMap.find? ag.banks f.abank.toNat = some 9 ∧ (s.bank 0 9).tag = 0
      ∧ (fmtx 5 15 0 1 255).mopt.toNat < 256 ∧ ((ag.sr 1).toNat < 2 ^ 14 ∧ (ag.sr 1).toNat / 2 ^ 8 % 8 ≤ 5 ∧ 0 + 32 * 4 ≤ 2048) ∧ (ag.sr 2).toNat / 2 ^ 7 % 2 = 1
      ∧ ¬(ag.sr 3).toNat < 2 ^ 14 ∧ ¬(ag.sr 4).toNat / 2 ^ 8 % 8 ≤ 5 ∧ ¬16 * ((ag.sr 5).toNat % 128) + 32 * 1 ≤ 2048 ∧ 16 * ((ag.sr 6).toNat % 128) + 32 ≤ 2048 := by
  decide +kernel

/-- MMA, MMAQ, MMAV, MMAC with a legal record at hand and one that is illegal; CBLD of the last registers and one past them. -/
theorem witness_MultipliesIssue :
    let ag : Agent := { ag0 with nv := 128, width := 64, banks := [(1, 5)], sregs := [(8, 0x20000)] }
    let blk : BitVec 256 := BitVec.ofNat 256 (6 + 1024 * 2 ^ 32 + (6 + 2048 * 2 ^ 32) * 2 ^ 64)
    let cb : BitVec 256 := BitVec.ofNat 256 (6 + 1024 * 2 ^ 32 + (8 + 2048 * 2 ^ 32) * 2 ^ 64)
    let s (b : BitVec 256) : State := { mapped (one ag) with
      cores := [(0, { tlb := [{ ctx := 0, va := 0, lg := 30, pa := 0, w := true, x := true }], rcd := [(0, 0x20000, b)] })]
      engs := [(0, { own := [(0, 1), (1, 1)] })]
      accs := [(5, { st := .held, holder := 1, own := (1, 1) })] }
    let c := issOf ag
    let f := fmtx 1 0 64 8 0
    ready (s blk) c ∧ ready (s cb) c ∧ room c .m ∧ ag.multiplies = false
      ∧ ((s blk).blkFetch c 0x20000).1 = none ∧ ((s blk).blkFetch c 0x20000).2.2 = some blk
      ∧ { ((s blk).blkFetch c 0x20000).2.1 with cores := (s blk).cores, free := (s blk).free } = s blk
      ∧ (State.mulChecks (slotted (s blk) c 0) c 3 f (some blk)).toOption.isSome = true ∧ (State.mulChecks (slotted (s blk) c 0) c 4 f (some blk)).toOption.isSome = true
      ∧ (State.mulChecks (slotted (s blk) c 0) c 5 f (some blk)).toOption.isSome = true
      ∧ (State.mulChecks (slotted (s cb) c 0) c 6 f (some cb)).toOption.isSome = true
      ∧ (State.mulChecks (slotted (s blk) c 0) c 6 f (some blk)).toOption.isNone = true ∧ State.tagFault (slotted (s blk) c 0) c 5 = none
      ∧ ¬ag0.nv < (fmtx 0 12 0 0 0).a.toNat + (512 + 4 * 32 - 1) / (4 * 32) ∧ ag0.nv < (fmtx 0 13 0 0 0).a.toNat + (512 + 4 * 32 - 1) / (4 * 32) := by
  decide +kernel

/-- A group at phase 3 of an instruction that reads a scene handle at 0x20000 (`paged`: CURGEN 7, builder 0). -/
def fr3 : Frag := { fr0 with phase := 3, em := 1 }
def agR : Agent := { ag0 with nv := 128, sregs := [(1, 0x20000), (2, 7), (3, 0x20020), (4, BitVec.ofNat 64 (2 ^ 48 - 32))], frags := [(0, fr3)] }
def isR (ag : Agent) : Iss := { a := 1, fid := 0, ag := ag, fr := fr3 }
def handle7 : Nat := 0x30000 + 5 * 2 ^ 64 + 7 * 2 ^ 192
def handle0 : Nat := 0x30000 + 5 * 2 ^ 64
def gen7 : Gen := { ctx := 0, scene := 0x20000, die := 0, num := 7, pkind := 0, st := 1, prims := [], nprim := 0, degen := 0, arena := 0x40000, pages := [0], grec := 0x40000 }
def scened (s : State) : State := { paged s with gens := [(4, gen7)] }
def noCur (s : State) : State := { s with mem := KMap.del s.mem 0x20018 }
def cursed (s : State) : State := { s with mem := KMap.del s.mem 0x20008 }
def ray0 (st : RayState) : Ray :=
  { st := st, op := 9, slot := 0, ray := [0, 0, 0, 0, 0x3F80_0000, 0, 0, 0x3F80_0000], mask := 1, flags := 0, gen := 4, num := 7, tmax := 0x3F80_0000, todo := [],
    cand := if st = .suspended then some { prim := 5, inst := 0, depth := 1, od := [] } else none }

/-- RTRACE with CURGEN 0 and 7, a live ray in the lane, an invalid handle; RRESUME of a lane with and without a suspended ray; RCOMMIT. -/
theorem witness_RaysIssue :
    let f := fsys 5 0 1 0 0x5A (2 + 4 * 128)
    let s := scened (one agR)
    let c := isR agR
    let live : Agent := { agR with rays := [(0, ray0 .suspended)] }
    let r0 : Agent := { live with frags := [(0, { fr0 with em := 3 })] }
    ready s c ∧ s.reap = s ∧ agR.width ≤ 64 ∧ sysFields c f 5 false true false true 0x3FFF ∧ 2 * 8 + 8 ≤ agR.nv ∧ 4 * 8 + 8 ≤ agR.nv ∧ room c .e
      ∧ ready (scened (one (agP agR))) (isR (agP agR)) ∧ 2 ^ 48 < (agR.sr 4).toNat + 64 ∧ (agR.sr 3).toNat % 64 ≠ 0
      ∧ recordAt (slotted s c 0) c 0x20000 64 handle7 ∧ cursedHandle (BitVec.ofNat 512 handle7) = false ∧ handle7 / 2 ^ 192 % 2 ^ 32 = 7
      ∧ recordAt (slotted (noCur s) c 0) c 0x20000 64 handle0 ∧ cursedHandle (BitVec.ofNat 512 handle0) = false ∧ handle0 / 2 ^ 192 % 2 ^ 32 = 0
      ∧ ready (cursed s) c ∧ cursedHandle (BitVec.ofNat 512 (0x30000 + 7 * 2 ^ 192)) = true ∧ recordAt (slotted (cursed s) c 0) c 0x20000 64 (0x30000 + 7 * 2 ^ 192)
      ∧ ready (scened (one live)) (isR live) ∧ (scened (one live)).reap = scened (one live) ∧ maskOf ((lanesOf ((isR live).active 0)).filter fun l => (KMap.find? live.rays l).isSome) ≠ 0
      ∧ (∀ l ∈ lanesOf (c.active 0), KMap.find? agR.rays l = none) ∧ State.genOf s 0 0x20000 7 = some (4, gen7) ∧ (lanesOf (c.active 0)).length ≤ s.raySlots 0
      ∧ ready (scened (one r0)) { a := 1, fid := 0, ag := r0, fr := { fr0 with em := 3 } } ∧ sysFields (isR r0) (fsys 1 0 0 0 0 (2 + 2 ^ 17 + 50 * 128)) 1 false false false false 0x3FFFF
      ∧ sysFields (isR r0) (fsys 0 0 0 0 0 (2 ^ 17 * 0 + 2)) 0 false false false false 0x2007F ∧ KMap.find? r0.rays 0 = some (ray0 .suspended) ∧ KMap.find? r0.rays 1 = none
      ∧ FV.cmp (wval (ray0 .suspended).tmax) (wval ((ray0 .suspended).ray.getD 3 0)) ≠ -1
      ∧ sysFields c (fsys 0 0 0 0 0 7) 0 false false false false 0x3F ∧ 7 * 16 + 16 ≤ agR.nv ∧ sysFields c (fsys 0 9 0 0 0 63) 0 true false false false 0x1FF ∧ 63 * 2 + 2 ≤ agR.nv
      ∧ (ray0 .suspended).cand.isSome = true ∧ (ray0 .suspended).within 0x3F00_0000 = true := by decide +kernel

/-- GENPIN with CURGEN 7 and 0, with 16 pins; GENREL with the pin and without; BLDQ; BLDCMD into a queue with room and with 64. -/
theorem witness_ScenesAndBuilders :
    let s := scened (one agR)
    let c := isR agR
    let pins : Agent := { agR with pins := List.replicate 16 (0x20000, 4) }
    let pin : Agent := { agR with pins := [(0x20000, 4)] }
    let cmd : BuildCmd := { bits := 0, addr := 0, ctx := 0 }
    let full : State := { s with builders := [(0, { queue := List.replicate 64 cmd, run := none })] }
    let b : Agent := { agR with sregs := [(1, 0x1FFC0)] }
    let sb : State := { scened (one b) with mem := KMap.put (scened (one b)).mem 0x1FFCA 2#8 }
    ready s c ∧ agR.pure = false ∧ (agR.sr 1).toNat % 64 = 0 ∧ recordAt (slotted s c 0) c 0x20000 64 handle7 ∧ sysFields c (fsys 0 9 1 0 0 0) 0 true true false false 0
      ∧ cursedHandle (BitVec.ofNat 512 handle7) = false ∧ ready (one pins) (isR pins) ∧ 16 ≤ pins.pins.length ∧ State.genOf s 0 0x20000 7 = some (4, gen7) ∧ KMap.find? s.gens 4 = some gen7
      ∧ recordAt (slotted (noCur s) c 0) c 0x20000 64 handle0 ∧ State.genOf (noCur s) 0 0x20000 0 = none ∧ s.reap = s
      ∧ sysFields c (fsys 1 9 1 2 0 0) 1 true true true false 0 ∧ State.genOf s 0 0x20000 7 = some (4, gen7) ∧ sysFields c (fsys 2 9 1 0 0 0) 2 true true false false 0 ∧ (s.builder 0).queue = []
      ∧ sysFields c (fsys 0 0 1 2 0 0) 0 false true true false 0 ∧ agR.pins = [] ∧ ready (scened (one pin)) (isR pin) ∧ pin.pins = [(0x20000, 4)] ∧ (4, gen7) ∈ s.gens ∧ gen7.num = 7
      ∧ ready (one (agP agR)) (isR (agP agR)) ∧ 2 ^ 48 < (agR.sr 4).toNat + 64 ∧ (agR.sr 3).toNat % 64 ≠ 0
      ∧ ready sb (isR b) ∧ recordAt (slotted sb (isR b) 0) (isR b) 0x1FFC0 64 (0x20000 * 2 ^ 64)
      ∧ recordAt (slotted sb (isR b) 0) (isR b) 0x20000 8 0x30000 ∧ (State.bldDie (slotted sb (isR b) 0) 0 0x20000).toOption = some (slotted sb (isR b) 0, 0)
      ∧ (sb.builder 0).queue.length < 64 ∧ 64 ≤ (full.builder 0).queue.length ∧ sb.heldPeer 0 0 = none := by decide +kernel

/-- TSPAWN in the EDF lane and in bank 31 with the pointer there, with every bank full; the last address and one past it; TEND in and outside a task. -/
theorem witness_TasksSpawnAndEnd :
    let ag (a : Dword) : Agent := { agR with sregs := [(1, a)] }
    let s (a : Dword) : State := paged (one (ag a))
    let r : TaskRec := { bits := 0, addr := 0, ctx := 0, serial := 0 }
    let full : State := { s 0x50000 with banks := (List.range 33).map fun k => (k, List.replicate 256 r) }
    let cls1 : State := { s 0x50000 with mem := KMap.put (s 0x50000).mem 0x50006 1#8, pushPtr := [(0, 31)] }
    let c := isR (ag 0x50000)
    let task : Agent := { ag0 with task := some 5 }
    let e : SplitEnt := { pmask := 1, cmask := 2, pid := 0, cid := 1, seq := 0 }
    sysFields c (fsys 0 9 1 0 0 2) 0 true true false false 3 ∧ (fsys 0 9 1 0 0 2).imm ≠ 3 ∧ ready (s (2 ^ 48 - 128)) (isR (ag (2 ^ 48 - 128)))
      ∧ 2 ^ 48 < ((ag (2 ^ 48 - 128)).sr 1).toNat + 256 ∧ ((ag 32).sr 1).toNat % 64 ≠ 0 ∧ ready (one (agP (ag 64))) (isR (agP (ag 64)))
      ∧ ready (s 0x50000) c ∧ recordAt (slotted (s 0x50000) c 0) c 0x50000 256 0 ∧ 0 / 2 ^ 48 % 4 = 0 ∧ ((s 0x50000).taskBank 0 32).length < 256 ∧ (s 0x50000).heldPeer 0 0 = none
      ∧ ready cls1 c ∧ recordAt (slotted cls1 c 0) c 0x50000 256 (2 ^ 48) ∧ 2 ^ 48 / 2 ^ 48 % 4 ≠ 0 ∧ (cls1.taskBank 0 31).length < 256 ∧ KMap.get 0 cls1.pushPtr 0 = 31
      ∧ ready full c ∧ 256 ≤ (full.taskBank 0 32).length ∧ (∀ i, i < 32 → 256 ≤ (full.taskBank 0 i).length)
      ∧ sysFields (issOf ag0) (fsys 0 0 0 0 0 0) 0 false false false false 0 ∧ ready (one ag0) (issOf ag0) ∧ ag0.task = none
      ∧ ready (one { task with split := [(0, e)] }) (issOf { task with split := [(0, e)] }) ∧ ready (one task) (issOf task) ∧ task.task ≠ none ∧ task.frags = [(0, fr0)]
      ∧ ready (one { task with ops := [{ opAt (.store .glob false 0 none) false with dsts := [] }] })
          (issOf { task with ops := [{ opAt (.store .glob false 0 none) false with dsts := [] }] }) := by decide +kernel

/-- Flows 3 (receive) and 35 (send), video of 8 × 1 elements with 2 buffers, enabled for context 0; QB0 names the first, QB1 the second. -/
def flowed (s : State) : State :=
  let d : Dword := BitVec.ofNat 64 (1 + 1 * 2 ^ 9 + 1 * 2 ^ 11 + 7 * 2 ^ 32)
  ((((s.barWr (blkMedia + 24) d).barWr (blkMedia + 25) (BitVec.ofNat 64 (1 * 2 ^ 48))).barWr (blkMedia + 8 * 35) d).barWr (blkMedia + 8 * 35 + 1) (BitVec.ofNat 64 (1 * 2 ^ 48)))
def agQ : Agent := { ag0 with qb := [(0, 0x8000_0000_0000_0003), (1, 0x8000_0000_0000_0023)], frags := [(0, { fr0 with em := 3 })] }
def isQ (ag : Agent) : Iss := { a := 1, fid := 0, ag := ag, fr := { fr0 with em := 3 } }
def rx (n total : Nat) : RxFrame := { stamp := 1, total := total, els := (List.range n).map fun k => (k, 1), hw := 0, media := 0 }
def withFlow (s : State) (f : Nat) (x : Flow) : State := { s with flows := [(f, x)] }

theorem witness_StreamsAndFrames :
    let s := flowed (one agQ)
    let c := isQ agQ
    let f := fsys 0 9 10 0 0 0x3FF
    let pop := fsys 0 9 10 0 0 4
    let push := fsys 0 9 10 0 1 4
    let got (n t : Nat) : State := withFlow s 3 { frames := [rx n t] }
    let ob (st pt : Nat) : State := withFlow s 35 { objs := [(0, { st := st, pt := pt })], cur := some 0 }
    ready s c ∧ agQ.width ≤ 64 ∧ sysFields c pop 0 true true false true 0x3FF ∧ sysFields c push 0 true true false true 0x3FF ∧ room c .e ∧ (4 + 2 ≤ agQ.nv) ∧ f.imm.toNat = 0x3FF
      ∧ (s.flowOn 3 = true ∧ s.flowCtx 3 = 0 ∧ s.flowKind 3 = 0 ∧ (KMap.get 0 agQ.qb 0).toNat % 64 = 3 ∧ (KMap.get 0 agQ.qb 0).getLsbD 63 = true)
      ∧ (s.flowOn 35 = true ∧ s.flowCtx 35 = 0 ∧ s.flowKind 35 = 0 ∧ (KMap.get 0 agQ.qb 1).toNat % 64 = 35) ∧ KMap.get 0 agQ.qb 15 = 0
      ∧ ready (flowed (one (agP agQ))) (isQ (agP agQ)) ∧ ready (got 2 8) c ∧ (got 2 8).popReady 3 2 = true ∧ (got 1 1).popReady 3 2 = true ∧ (got 1 8).popReady 3 2 = false
      ∧ ready (ob 0 9) c ∧ ((ob 0 9).flow 35).cur = some 0 ∧ (KMap.find? ((ob 0 9).flow 35).objs 0).isSome = true ∧ (s.flow 35).cur = none
      ∧ sysFields c (fsys 0 9 10 0 1 0) 0 true true false true 0 ∧ (∃ y ∈ ((ob 0 9).flow 35).objs, y.2.st = 0) ∧ ((ob 2 9).flow 35).objs = [(0, { st := 2, pt := 9 })]
      ∧ sysFields c (fsys 1 9 0 0 1 0) 1 true false false true 0 ∧ s.pushing 35 1 = false
      ∧ State.pushing { one { agQ with ops := [{ opAt (.qpush 35 1 0 0 [] 9 10 0) false with dsts := [] }] } with ids := 2 } 35 2 = true
      ∧ s.pt + s.guard 35 < ({ st := 0, pt := 500001 } : SendObj).pt ∧ ({ st := 0, pt := 500000 } : SendObj).pt ≤ s.pt + s.guard 35
      ∧ sysFields c (fsys 2 9 10 0 0 0) 2 true true false true 0 ∧ (∀ k ∈ [(0 : BitVec 4), 1, 2, 3], sysFields c (fsys k 9 0 0 0 0) k true false false true 0)
      ∧ ((got 1 8).flow 3).frames = [rx 1 8] := by decide +kernel

/-- A wall of cards 0 and 5 at a frame each ns, this one card 0, with flow 35 in it; frame 4 with its object RENDERED and OPEN. -/
def walled (s : State) : State :=
  (((((flowed s).barWr blkWall 1).barWr (blkWall + 1) 0x21).barWr (blkWall + 2) 8).barWr (blkWall + 4) 1).barWr (blkWall + 5) 1

theorem witness_Wall :
    let ag : Agent := { agQ with sregs := [(1, 4)] }
    let c := isQ ag
    let f := fsys 0 9 1 10 1 0
    let ob (st : Nat) : State := withFlow (walled (one ag)) 35 { objs := [(0, { st := st, pt := 4 })] }
    let busy : Agent := { ag with ops := [opAt (.store .glob false 0 none) false] }
    let out : State := { walled (one ag) with wallOut := true }
    let lives (runs : KMap Nat) : State := { (walled (one ag)).barWr (blkWall + 6) 0x21 with wallRuns := runs }
    ready (ob 1) c ∧ sysFields c f 0 true true true true 0 ∧ (KMap.get 0 ag.qb 1).getLsbD 63 = true ∧ (ob 1).flowOn 35 = true ∧ (ob 1).flowCtx 35 = 0 ∧ (ob 1).wallFlow 35 = true
      ∧ (∃ y ∈ ((ob 1).flow 35).objs, y.2.pt = (ob 1).wallPt 4) ∧ (ob 1).wallEn = true ∧ (ob 1).wallMember (ob 1).card = true
      ∧ (KMap.get 0 ag.qb 2).getLsbD 63 = false ∧ ready (walled (one ag)) c ∧ ((walled (one ag)).flow 35).objs = []
      ∧ (State.releaseWait (slotted (ob 1) c 0) 1 busy 4).isSome = true ∧ State.releaseWait (slotted (ob 1) c 0) 1 ag 4 = none ∧ (ob 1).heldPeer 0 0 = none
      ∧ ({ ob 1 with ptAcc := 4 * 10 ^ 13 }).wbarReady 35 4 = true ∧ ready (ob 0) c ∧ (ob 0).wbarReady 35 4 = false
      ∧ ({ lives [] with wallStat := [] }).wallMember 5 = true ∧ 5 ≠ (lives []).card ∧ KMap.find? ((lives []).wallOf 4) 5 = none
      ∧ (KMap.find? (({ lives [] with wallStat := [(4, [(5, 1)])] }).wallOf 4) 5).isSome = true ∧ (lives []).wallLive.getLsbD 5 = true ∧ (lives []).wallNext ≤ 4
      ∧ KMap.get 0 (lives [(5, 1)]).wallRuns 5 < 2 ∧ 2 ≤ KMap.get 0 (lives [(5, 2)]).wallRuns 5 ∧ ((lives []).barPut (blkHost + 0x203) 32 1 0).barFld (blkHost + 0x203) 32 1 = 0
      ∧ (walled (one ag)).wallLive.getLsbD 5 = false ∧ (lives []).wallDue 0 = true ∧ out.wallOut = true
      ∧ State.wallMine { withFlow (walled (one ag)) 35 { objs := [(0, { st := 1, pt := 4 })] } with wallBars := [4] } 4 = some 1 := by decide +kernel

/-- A leat's operations with a legal shape of 1,024 bytes and a gather, an opened and a continued handle; halo of its own team; waits. -/
theorem witness_EngineOperations :
    let sr (pl : Dword) : KMap Dword := [(1, 0x60000), (2, pl), (3, BitVec.ofNat 64 (1024 * 2 ^ 32)), (4, BitVec.ofNat 64 (2 ^ 48 - 32)), (5, 0x60020)]
    let ag (pl : Dword) : Agent := { agL with sregs := sr pl, frags := [(0, { fr0 with phase := 3 })] }
    let c (pl : Dword) : Iss := { a := 1, fid := 0, ag := ag pl, fr := { fr0 with phase := 3 } }
    let h (st : Nat) : Handle := { roff := 0, dsec := 4, layout := 0, nrel := 1, team := 1, st := st, expect := 2048 }
    let shape : KMap Byte := [(0x60002, 4#8), (0x60008, 0xFF#8), (0x60009, 3#8)]
    let s (pl : Dword) (st : Nat) (m : KMap Byte) : State := { withH (paged (one (ag pl))) (h st) with mem := m.foldl (fun a p => KMap.put a p.1 p.2) (paged (one (ag pl))).mem }
    let rec' : Nat := 0x40000 + 1023 * 2 ^ 64
    let wh : Dword := BitVec.ofNat 64 (2048 * 2 ^ 32)
    let lg : Agent := { agL with sregs := sr wh }
    let park : Xop := { core := 0, by' := 0, agent := 1, kind := .fill, ctx := 0, team := 1, h := 1, st := .parked }
    let p (o : Xop) : State := { withH (one lg) (h 1) with xops := [(7, o)] }
    ready (s wh 0 shape) (c wh) ∧ sysFields (c wh) (fsys 0 0 1 2 1 0) 0 false true true true 0 ∧ recordAt (slotted (s wh 0 shape) (c wh) 0) (c wh) 0x60000 64 rec'
      ∧ placeEarly (h 0) .xin wh = false ∧ (shapeChk (s wh 0 shape) (BitVec.ofNat 512 rec')).toOption = some (1024, some 0) ∧ placeBad (h 0) .xin 0 1024 2048 = false
      ∧ placeEarly (h 1) .xinc 1024 = false ∧ placeBad (h 1) .xinc 1024 1024 2048 = false ∧ placeBad (h 1) .xinc 1536 1024 2048 = true
      ∧ placeEarly (h 2) .xout 0 = false ∧ placeBad (h 2) .xout 0 1024 2048 = false ∧ placeEarly (h 3) .xoutc 0 = false
      ∧ (gatherChk (s wh 0 []) (BitVec.ofNat 512 (0x40000 + 511 * 2 ^ 112))).toOption = some (512, some 0) ∧ placeBad (h 0) .im2c 0 512 2048 = false
      ∧ (collChk (s wh 0 []) (BitVec.ofNat 512 rec')).toOption = some (1024, some 0) ∧ collLate 0 ((s wh 0 []).barWr blkFab (BitVec.ofNat 64 (2 ^ 39))) (BitVec.ofNat 512 rec') (h 2) 0 1024 = false
      ∧ (shapeChk (s wh 0 []) (BitVec.ofNat 512 (rec' + 2 ^ 56))).toOption = none ∧ KMap.find? (s wh 0 []).handles 1 = some (h 0) ∧ KMap.find? (s wh 0 []).handles 2 = none
      ∧ 2 ^ 48 < (lg.sr 4).toNat + 64 ∧ (lg.sr 5).toNat % 64 ≠ 0 ∧ ({ h 0 with layout := 1 }).layout ≠ 0
      ∧ ready (withH (one lg) (h 0)) (issOf lg) ∧ sysFields (issOf lg) (fsys 0 0 1 2 1 256) 0 false true true true 0x1FF ∧ placeEarly (h 0) .fill wh = false
      ∧ placeBad (h 0) .fill 0 (min (0 + 512 * 4) 2048 - 0) 2048 = false ∧ sysFields (issOf lg) (fsys 1 6 3 2 1 0) 1 true true true true 0 ∧ (lg.sr 3).toNat / 2 ^ 49 % 8 = 0
      ∧ placeBad (h 0) .halo 0 1024 2048 = false ∧ 0 + 1024 ≤ ((withH (one lg) (h 0)).teamOf lg).size
      ∧ ready (p park) (issOf lg) ∧ fr0.hop = 0 ∧ sysFields (issOf lg) (fsys 0 0 0 0 1 0) 0 false false false true 0 ∧ sysFields (issOf lg) (fsys 0 0 0 0 1 5) 0 false false false true 7
      ∧ ((p park).xops.filter fun q => decide (256 * q.2.core + q.2.h = 1) && decide (q.2.st = .parked)) = [(7, park)] ∧ (h 1).st = 1
      ∧ sysFields (issOf lg) (fsys 1 9 0 0 0 0) 1 true false false false 0 ∧ sysFields (issOf lg) (fsys 2 9 0 0 1 0) 2 true false false true 0
      ∧ park.sv = false ∧ ({ park with sv := true }).sv = true ∧ ({ park with st := .running }).st ≠ .parked := by decide +kernel

/-- A fragment at its header, in a clause of one word without counter conditions. -/
def frH : Frag := { fr0 with hdr := 0x03FF_FC00_0000_0000, k := 0, code := [0] }
/-- The store of a leat: a clause of one word at 0, an illegal header at 0xFFF0, the first word of another at 0xFFF8. -/
def bytesAt (a n x : Nat) : KMap Byte := (List.range n).filterMap fun i => let b : Byte := BitVec.ofNat 8 (x / 256 ^ i); if b = 0 then none else some (a + i, b)
def leatAt (h hdr : Nat) : Agent := { agL with store := bytesAt h 8 hdr, frags := [(0, { fr0 with h := h, k := 0, code := [] })] }

/-- A leat's fetch of a legal, an illegal and an outlying clause; a group's and a leat's start; a line on its way; the 512th clk. -/
theorem witness_ClausesStart :
    let g : Agent := { ag0 with frags := [(0, frH)] }
    let l : Agent := { agL with frags := [(0, frH)] }
    let w : Agent := { ag0 with frags := [(0, { frH with wait := .fetch [0x100_0000_0000] })] }
    let s (ag : Agent) : State := one ag
    let late : State := { (s w).barPut 0x2_0000 0 8 1 with clk := 10000 }
    fragOf (s (leatAt 0xFFF0 0x03FF_FC00_0000_0000)) 1 0 (leatAt 0xFFF0 0x03FF_FC00_0000_0000) { fr0 with h := 0xFFF0, k := 0, code := [] }
      ∧ (s (leatAt 0xFFF0 0x03FF_FC00_0000_0000)).mayIssue (leatAt 0xFFF0 0x03FF_FC00_0000_0000) 0 = true ∧ fr0.next ≤ 100 ∧ 65536 < 0xFFF9 + 8
      ∧ 0xFFF0 + 8 * ((Header.dec (BitVec.ofNat 64 (rdN (leatAt 0xFFF0 0x03FF_FC00_0000_0000).store 8 0xFFF0))).count.toNat + 2) ≤ 65536
      ∧ clauseBad true { hdr := 0x03FF_FC00_0000_0000, code := [0], live := [] } = false ∧ clauseBad true { hdr := 0xFFFF_FFFF_FFFF_FFFF, code := [0], live := [] } = true
      ∧ fragOf (s g) 1 0 g frH ∧ (s g).mayIssue g 0 = true ∧ (Header.dec frH.hdr).wg = 15 ∧ (Header.dec frH.hdr).ws = 15 ∧ (Header.dec frH.hdr).we = 15
      ∧ (Header.dec frH.hdr).wm = 15 ∧ (Header.dec frH.hdr).hw = 0 ∧ ((s g).choose 0).map (fun x => (x.a, x.fid)) = some (1, 0) ∧ fragOf (s l) 1 0 l frH
      ∧ (s l).mayIssue l 0 = true ∧ l.kind ≠ .group ∧ fragOf late 1 0 w { frH with wait := .fetch [0x100_0000_0000] } ∧ late.onCard 0x100_0000_0000 = true ∧ late.bad = []
      ∧ frH.iss + lineLat late 0 0x100_0000_0000 0 ≤ late.clk ∧ 100 + 512 ≤ late.clk := by decide +kernel

/-- Each wait at the moment it ends, and a fragment queue of two tasks of which the second has the better key. -/
theorem witness_WaitsEnd :
    let w (x : Wait) : Agent := { agM with frags := [(0, { fr0 with em := 1, wait := x })] }
    let s (x : Wait) : State := withH (one (w x)) (h0 2)
    let t (d : Nat) : Task := { die := 0, ctx := 0, addr := 0, bits := BitVec.ofNat 2048 (d * 2 ^ 64 + 2 ^ 48), serial := d }
    let ag (k : Nat) : Agent := { agM with task := some k }
    let q : State := { one agM with agents := [(1, ag 4), (2, ag 5)], tasks := [(4, t 9), (5, t 8)], fragQ := [(0, [(1, 0), (2, 0)])] }
    (∀ x ∈ [Wait.sleep 0, .walk 3, .clk 100, .ctr .g 0, .ops [0] true, .handle 1 2 0 5, .handle 1 0 0 0, .yield, .ended, .xops, .xsvc 1],
        fragOf (s x) 1 0 (w x) { fr0 with em := 1, wait := x })
      ∧ (s .none).pt = 0 ∧ (s .none).clk = 100 ∧ (s .none).walks = [] ∧ (w .none).ctrVal .g = 0 ∧ (w .none).ops = [] ∧ (s .none).fabReqs = [] ∧ (s .none).handleIn (w .none) 1 2 0 = true
      ∧ (0 : Dword).toNat ≤ 0 ∧ (s .none).preempts = [] ∧ (s .none).xRunning 1 = false ∧ (s .none).xUnserved 1 = false ∧ (s .none).wbarReady 35 4 = true
      ∧ q.taskFrags 0 < 16 ∧ KMap.find? q.fragQ 0 = some [(1, 0), (2, 0)] ∧ fragOf q 2 0 (ag 5) { fr0 with em := 1 }
      ∧ taskBefore false ((t 8).bits, 8) ((t 9).bits, 9) = true ∧ taskBefore false ((t 9).bits, 9) ((t 8).bits, 8) = false := by decide +kernel

def accG (pa : Nat) : Acc := { lane := 0, va := 0x10000, pa := pa, n := 4, x := 0x1234 }
def opOne (k : OpKind) (acc : List Acc) (due : Nat) : Op := { id := 7, fid := 0, ctr := some .g, issue := 90, due := due, kind := k, acc := acc, todo := if acc = [] then 0 else 1 }
def holds (o : Op) : Agent := { ag0 with ops := [o] }

/-- Operation 7 of agent 1 is due. -/
abbrev due7 (o : Op) : Prop :=
  (one (holds o)).opOwner 7 = some (1, holds o, o) ∧ (one (holds o)).agent? 1 = some (holds o) ∧ o.returned = false ∧ o.due ≤ 100

/-- A load, a store and an atomic of the scratchpad, of memory and of the host that are due; the first and last access of a sweep of 2. -/
theorem witness_AccessesArePerformed :
    let k : List OpKind := [.load .glob 4 false 0 none false, .load .scr 4 false 0 none false, .store .glob false 0 none, .store .scr false 0 none,
      .atomic .glob 9 0 2 4, .atomic .scr 0 3 0 4]
    let sw (rep stage : Nat) : OpKind := .sweep 2 1 false 2 rep stage 0 0x400 0xC00 4 4 4 [] [] []
    (∀ x ∈ k, due7 (opOne x [accG 0x20000] 100) ∧ (holds (opOne x [accG 0x20000] 100)).blocked (opOne x [accG 0x20000] 100) 1 = false)
      ∧ (opOne (k.getD 0 (sw 0 0)) [accG 0x20000] 100).todo = laneBit 0 ∧ (one ag0).onCard 0x20000 = true ∧ (one ag0).bad = [] ∧ (one ag0).reuse = []
      ∧ (one ag0).paKind (2 ^ 51 + 8) = .host ∧ due7 (opOne (sw 0 0) [] 100) ∧ due7 (opOne (sw 1 (sweepAccs 2 - 1)) [] 100) ∧ due7 (opOne (sw 0 (sweepAccs 2 - 1)) [] 100) := by decide +kernel

/-- A plain load of a host line that completes with each status and that times out; a host FetchAdd; a peer store and a peer load turned away; a walk. -/
theorem witness_RequestsBeyondTheCard :
    let o : Op := opOne (.load .glob 4 false 0 none false) [accG (2 ^ 51 + 0x40)] 100
    let r : HostReq := { agent := 1, op := 7, lanes := 1, pa := 2 ^ 51 + 0x40, due := 100 }
    let s : State := { one (holds o) with hostReqs := [(3, r)] }
    let late : State := { s with clk := 1250 * 10000 }
    let a : Op := opOne (.hostAtomic 0 4 none) [accG (2 ^ 51 + 0x40)] 100
    let h : State := { one (holds a) with hostReqs := [(3, r)] }
    let f : FabReq := { agent := 1, op := 7, lanes := 1, kind := 1, pa := 0x10_0000_0000_00, due := 100 }
    let p : State := { one ag0 with fabReqs := [(3, f)], clk := 1250100 }
    let po : Op := opOne (.load .glob 4 false 0 none false) [accG (2 ^ 50 + 2 ^ 44)] 100
    let pr : State := (one (holds po)).barWr blkFab (BitVec.ofNat 64 (2 ^ 39 + 2 ^ 18))
    let w : State := { paged (one { ag0 with frags := [(0, { fr0 with wait := .walk 3 })] }) with walks := [(3, { core := 0, ctx := 0, va := 0x50000, due := 100 })] }
    KMap.find? s.hostReqs 3 = some r ∧ s.agent? 1 = some (holds o) ∧ (holds o).findOp 7 = some o ∧ r.due ≤ s.clk ∧ (holds o).blocked o r.lanes = false ∧ s.bad = []
      ∧ KMap.find? s.fatals 0 = none ∧ s.barFld (blkHost + 1) 0 4 = 0 ∧ r.due + 1250 * late.barFld (blkHost + 4) 0 64 ≤ late.clk + 100
      ∧ h.hostReqs = [(3, r)] ∧ h.opOwner 7 = some (1, holds a, a) ∧ a.acc = [accG (2 ^ 51 + 0x40)] ∧ a.todo = laneBit 0 ∧ a.clash = [] ∧ a.flt = none ∧ r.lanes.getLsbD 0 = true
      ∧ KMap.find? p.fabReqs 3 = some f ∧ f.due + 1250000 ≤ p.clk ∧ (∀ l ∈ (KMap.find? p.peerBuf 0).getD [], l.pa ≠ lineOf f.pa)
      ∧ pr.opOwner 7 = some (1, holds po, po) ∧ po.rej = none ∧ pr.agent? 1 = some (holds po) ∧ pr.paKind (2 ^ 50 + 2 ^ 44) = .peer
      ∧ KMap.find? w.walks 3 = some { core := 0, ctx := 0, va := 0x50000, due := 100 } ∧ (w.walk 0 0x50000).toOption.isSome = true := by decide +kernel

def lr1 (cls flags : Nat) : BitVec 1024 := BitVec.ofNat 1024 (cls * 2 ^ 56 + flags)
def grid0 (st : GridState) : Grid := { ctx := 0, queue := 0, lr := BitVec.ofNat 1024 (2 ^ 192), addr := 0, cls := 1, nbef := 0, dline := 0, seq := 0, st := st }
def gridded (g : Grid) : State := { (paged State.reset).barWr blkCtx 1 with clk := 100, ptAcc := 10 ^ 13, grids := [(3, g)] }

/-- A ring of 16 of queue 0 in context 0 with room, at the end of the space, and without a translation; a grid at each turn of its life. -/
theorem witness_QueuesAndGrids :
    let q (base : Dword) : State := ((((paged State.reset).barWr blkCtx 1).barWr 0 base).barWr 1 0x1000).barWr 3 1
    let s := q 0x50000
    let rd : State := { s with queues := [(0, { reading := true, due := 0 })] }
    let g := grid0 .rec1
    s.qDev 0 = false ∧ s.qEn 0 = true ∧ s.qSize 0 < (17 + 2 ^ 32 - s.qHead 0) % 2 ^ 32 ∧ ¬(s.qSize 0 < (16 + 2 ^ 32 - s.qHead 0) % 2 ^ 32)
      ∧ s.qNext = some 0 ∧ s.qEntry 0 (s.qHead 0) + 128 ≤ 2 ^ 48 ∧ (s.ctxParts 0 0x50000 128 false).toOption.isSome = true
      ∧ ((q 0x5000_0000).ctxParts 0 0x5000_0000 128 false).toOption = none ∧ (q 0x5000_0000).qNext = some 0
      ∧ (q 0xFFFF_FFFF_FF80).qNext = some 0 ∧ 2 ^ 48 < ((q 0xFFFF_FFFF_FF80).barPut 2 0 32 1 |>.qEntry 0 1) + 128
      ∧ (rd.qState 0).reading = true ∧ rd.ctxLive 0 = true ∧ (rd.ctxRead 0 (rd.qEntry 0 (rd.qHead 0)) 128).toOption = some (rd, 0) ∧ (rd.readDesc 0 0).toOption.isSome = true
      ∧ lrGraph (grid0 .opened).lr = false ∧ lrGraph 0 = false ∧ KMap.find? (gridded (grid0 .waiting)).grids 3 = some (grid0 .waiting) ∧ (grid0 .waiting).due ≤ 100 ∧ (grid0 .waiting).nbef ≤ (gridded g).pt
      ∧ (gridded (grid0 .opened)).teamWaits (grid0 .opened) = true ∧ (grid0 .opened).dline < (gridded g).pt ∧ lrTeams (grid0 .opened).lr ≤ { grid0 .opened with run := 1 }.run
      ∧ (gridded g).teams = [] ∧ (gridded g).ctxHeld 0 = none ∧ g.due ≤ 100 ∧ lrComp g.lr = 0
      ∧ ((gridded g).ctxPhys 0 (0x60000 + 8) true).toOption = some (0x60008) ∧ (gridded g).onCard 0x60008 = true ∧ (gridded g).reuse = [] := by decide +kernel

/-- A grid that waits with room, one that would be late, a HARD one whose only core another context holds; a team about to start, at its
barrier, with an image line on its way, and with its groups ended. -/
theorem witness_TeamsComeAndGo :
    let g : Grid := { grid0 .opened with dline := never' }
    let hard : Grid := { g with cls := 0, lr := BitVec.ofNat 1024 (2 ^ 192 + 2 ^ 320), desc := BitVec.ofNat 512 (4096 * 2 ^ 96) }
    let full : State := { (gridded hard).barWr (blkCtx + 8) 1 with clk := 4000, agents := [(1, { ag0 with ctx := 1 })], teams := [(1, { grid := 0, ctx := 1, idx := 0, core := 0, groups := [1], size := 2 ^ 20 })] }
    let tm (st : Bool) (gs : List Nat) : Team := { grid := 0, ctx := 0, idx := 0, core := 0, groups := gs, ngroups := gs.length, started := st }
    let w : Agent := { ag0 with tbar := 1, frags := [(0, { fr0 with wait := .barrier 0 1 })] }
    let t (st : Bool) (gs : List Nat) (as : KMap Agent) : State := { State.reset with clk := 400, agents := as, teams := [(1, tm st gs)] }
    let im : Agent := { agL with img := 0x4000_0000, imgLen := 200, imgTodo := [1] }
    let l : State := { paged (one im) with clk := 400 }
    let e : Agent := { ag0 with ended := true }
    (gridded g).offer.map (fun o => (o.1.kind, o.2.length)) = some (.grid 3, 1) ∧ KMap.find? (gridded g).grids 3 = some g ∧ (gridded g).projectedLate g = false ∧ kdStrip g.desc = false
      ∧ (gridded { g with dline := 0 }).projectedLate { g with dline := 0 } = true
      ∧ KMap.find? full.grids 3 = some hard ∧ full.hardWaits hard = true ∧ full.hasRoom 3 = false ∧ full.victim hard = some 1
      ∧ (t false [1] [(1, ag0)]).team? 1 = some (tm false [1]) ∧ (tm false [1]).due ≤ 400 ∧ (tm true [1]).leats = []
      ∧ (t true [1] [(1, w)]).agent? 1 = some w ∧ (tm true [1]).tdone + 1 ≤ w.tbar ∧ (tm true [1]).ngroups ≤ (tm true [1]).groups.length ∧ w.ops = []
      ∧ fragOf l 1 0 im fr0 ∧ fr0.wait = .none ∧ 1 ∈ im.imgTodo ∧ (l.ctxParts 0 (0x4000_0000 + 128) 72 false).toOption = some [(0x4000_0080, 0x100_0000_0080, 72)]
      ∧ max ((l.teamOf im).resident + 1) fr0.next + l.partsLat 0 0 [(0x4000_0080, 0x100_0000_0080, 72)] ≤ l.clk ∧ l.onCard 0x100_0000_0080 = true
      ∧ (t true [1, 2] [(1, e), (2, ag0)]).agent? 1 = some e ∧ ((t true [1, 2] [(1, e), (2, ag0)]).agent? 2).isSome = true ∧ e.ended = true ∧ e.ops = [] ∧ e.pend = []
      ∧ (t true [1] [(1, e)]).team? 1 = some (tm true [1]) := by decide +kernel

def mtx0 : Mtx := { core := 0, part := 0, phys := 9, blk := BitVec.ofNat 256 (6 + 1024 * 2 ^ 32 + (6 + 2048 * 2 ^ 32) * 2 ^ 64) }
def mop (opc : Nat) (m : Mtx) (due : Nat) : Op := { id := 7, fid := 0, ctr := some .m, issue := 80, due := due, kind := .matrix opc (fmtx 5 0 40 8 0) m }
def engine (o : Op) : State := { one (holds o) with leaves := [(0, { held := true, idle := 100 })], accs := [(9, { st := .held, holder := 1, own := (1, 5) })] }

/-- AZERO, MMA and ASTAT that begin 16 clk after issue, end, MMAV with its lines, CBLD; the four MMAQs of tag 3; a grant; banks. -/
theorem witness_MatrixEngineEvents :
    let begin' (opc : Nat) : State := engine (mop opc { mtx0 with far := true } 100)
    let ends (opc : Nat) : State := engine (mop opc { mtx0 with begun := some 90 } 100)
    let q : FMTX := fmtx 1 0 64 8 3
    let wq := ((encode (.mmaq q)).map (·.2)).getD 0
    let agq (p : Nat) : Agent := { ag0 with part := p, nv := 128, width := 64, banks := [(1, p)], sregs := [(8, 0x20000)], frags := [(0, { fr0 with code := [0, 0, wq], wait := .room 1 3, phase := 4 })] }
    let quad : State := { one ag0 with
      agents := [(1, agq 0), (2, agq 1), (3, agq 2), (4, agq 3)], quads := [(3, [(1, 0)]), (19, [(2, 0)]), (35, [(3, 0)]), (51, [(4, 0)])]
      cores := [(0, { tlb := [{ ctx := 0, va := 0, lg := 30, pa := 0, w := true, x := true }], rcd := [(0, 0x20000, mtx0.blk)] })] }
    let wa := ((encode (.aalloc (fmtx 5 0 0 0 1))).map (·.2)).getD 0
    let fa : Frag := { fr0 with code := [0, 0, wa], wait := .aalloc 1 }
    let gr : State := { one (onFrag ag0 fa) with aq := [(0, [(1, 0)])] }
    let bk (b : Bank) : State := { one ag0 with accs := [(9, b)] }
    (∀ opc ∈ [2, 3, 11], (begin' opc).opOwner 7 = some (1, holds (mop opc { mtx0 with far := true } 100), mop opc { mtx0 with far := true } 100)
        ∧ ((begin' opc).engOps 0 0).head? = some (1, mop opc { mtx0 with far := true } 100) ∧ (begin' opc).opBusy 7 = false ∧ ((begin' opc).leave 0).held = true
        ∧ ((begin' opc).leave 0).start = none ∧ max (80 + 4) ((begin' opc).eng 0 0).last + 16 ≤ (begin' opc).clk)
      ∧ (∀ opc ∈ [2, 3, 5, 7], (ends opc).opOwner 7 = some (1, holds (mop opc { mtx0 with begun := some 90 } 100), mop opc { mtx0 with begun := some 90 } 100)
        ∧ (mop opc { mtx0 with begun := some 90 } 100).due ≤ (ends opc).clk ∧ (mop opc { mtx0 with begun := some 90 } 100).winClash = [])
      ∧ mtx0.lines = false ∧ (ends 7).slotRead 0 0 0 7 = false ∧ (ends 7).opBusy 7 = false
      ∧ (∀ p, p < 4 → (quad.quadHead 0 p 3).map (fun x => (x.1.a, x.2.1, x.2.2.toOption.map fun pl => (pl.locks, pl.hlock, pl.blk))) = some (p + 1, q, some ([], none, mtx0.blk)))
      ∧ KMap.find? gr.aq 0 = some [(1, 0)] ∧ fragOf gr 1 0 (onFrag ag0 fa) fa ∧ decodeIn .mtx (fa.code.getD (fa.k - 1) 0) = some (.aalloc (fmtx 5 0 0 0 1))
      ∧ 1 ≤ (gr.freeBanks 0).length ∧ (onFrag ag0 fa).ctrVal .m < 63
      ∧ ((bk { st := .zeroing, at' := 100 }).bank 0 9).st = .zeroing ∧ (bk { st := .zeroing, at' := 100 }).bankBusy 0 9 = false
      ∧ ((bk { st := .held, holder := 1, tag := 5, own := (1, 2) }).bank 0 9).tag ≠ ag0.ctx ∧ (bk { st := .held, holder := 1, tag := 5, own := (1, 2) }).agent? 1 = some ag0
      ∧ ((bk { st := .parked }).bank 0 9).st = .parked := by decide +kernel

/-- An engine with work that holds leave and one that does not, the head of the queue, an idle holder, a holder past 65,536 clk. -/
theorem witness_LeaveOfTheGovernor :
    let s (l : Leave) (q : List Nat) (clk : Nat) : State := { engine (mop 2 { mtx0 with ask := true } 100) with leaves := [(0, l)], leaveQ := [(0, q)], clk := clk }
    let idle : State := { State.reset with clk := 4096, leaves := [(0, { held := true })] }
    holderDie 0 = 0 ∧ ((s { held := true } [] 100).leaveNeed 0).isSome = true ∧ ((s {} [5] 100).leaveNeed 0).isSome = true
      ∧ (KMap.find? (s { queued := true } [0, 5] 100).leaveQ 0).getD [] = [0, 5] ∧ (s { queued := true } [0, 5] 100).unitsHeld 0 + holderUnits 0 ≤ (s {} [] 100).lvcap 0
      ∧ idle.holderBusy 0 = false ∧ idle.holderIdle 0 + 4096 ≤ idle.clk ∧ (idle.leave 0).held = true ∧ (idle.leave 0).start = none
      ∧ (s { held := true } [5] 65536).holderRuns 0 = false ∧ ((s { held := true } [5] 65536).leave 0).since + 65536 ≤ 65536 := by decide +kernel

/-- A fill that starts, requests, lands a piece within and at the end of its sector; a copy whose source is not mapped; a drain; parking; its end. -/
theorem witness_SluiceEvents :
    let x (st : XState) (todo : List Nat) (out : List (Nat × Nat)) : Xop :=
      { core := 0, by' := 0, agent := 1, kind := .fill, ctx := 0, team := 1, h := 1, n := 512, expect := 512, src := 0x11, st := st, todo := todo, out := out }
    let s (h : Handle) (o : Xop) : State := { withH (paged (one agL)) h with xops := [(7, o)] }
    let f (st : Nat) : Handle := { roff := 0, dsec := 1, layout := 0, nrel := 2, team := 1, st := st, expect := 512 }
    let wait := x .waiting [] []
    let xin : Xop := { x .running [0] [] with kind := .xin, desc := BitVec.ofNat 512 (0x8000_0000 + 511 * 2 ^ 64) }
    let out : Xop := { x .running [] [(0, 100)] with kind := .xout, desc := BitVec.ofNat 512 (0x60000 + 511 * 2 ^ 64) }
    let bad : Xop := { x .running [0] [] with fault := some { code := 1 } }
    let full : State := { s (f 3) out with teams := [(1, { grid := 0, ctx := 0, idx := 0, core := 0, groups := [1], size := 4096, scr := [(0, 1)] })] }
    KMap.find? (s (f 0) wait).xops 7 = some wait ∧ (s (f 0) wait).xMayStart wait = true ∧ ((s (f 0) wait).lockAll 7 ((s (f 0) wait).xEntries wait)).isSome = true
      ∧ (s (f 1) (x .running [0] [])).xHead 0 = some (7, x .running [0] []) ∧ (s (f 1) (x .running [0] [])).xBusy 7 (x .running [0] []) = false
      ∧ KMap.find? (s (f 1) (x .running [0] [])).sluices 0 ≠ some 100 ∧ ((s (f 1) (x .running [0] [])).xProbe (x .running [0] []) 0).toOption.isSome = true
      ∧ (s (f 1) xin).xHead 0 = some (7, xin) ∧ ((s (f 1) xin).xProbe xin 0).toOption = none
      ∧ (0, 100) ∈ (x .running [1] [(0, 100)]).out ∧ (x .running [1] [(0, 100)]).lastOf 0 = false ∧ (x .running [] [(7, 100)]).lastOf 7 = true
      ∧ ((s (f 1) wait).team? 1).map (fun tm => (KMap.wf 0 tm.scr, natFld (rdN tm.scr 32 0) 0 1)) = some (true, 0)
      ∧ out.lastOf 0 = true ∧ natFld (full.hdrN (f 3) 0 32) (out.sector 0) 1 = 1 ∧ bad.out = [] ∧ bad.fault.isSome = true ∧ (x .running [] []).todo = []
      ∧ agL.kind ≠ .group ∧ KMap.find? (withH (one agL) (f 0)).handles 1 = some (f 0) ∧ (withH (one agL) (f 0)).opsOn 1 = false := by decide +kernel

/-- Window 0 of context 0 for card 5, off and on; packets that merge; a piece kept and a second copy; an acknowledgement; FABCFG; port 5. -/
theorem witness_FabricEvents :
    let off := (paged State.reset).barWr blkFab (BitVec.ofNat 64 (2 ^ 39))
    let on := ((off.barWr (blkFab + 0x20) 3).barWr (blkFab + 0x22) 0x1000).barWr (blkFab + 0x23) 0x20
    let k : RedKey := RedKey.ofNat (0x60000 * 2 ^ 16 + 2 ^ 60 + 0xFF * 2 ^ 106)
    let pk (bits : Nat) : RedPkt := { card := 1, key := k, bits := bits, vals := [0], again := false, due := 0 }
    let x : Xop := { core := 0, by' := 0, agent := 1, kind := .send, ctx := 0, team := 1, h := 1, n := 512, st := .running, out := [(0, 100)], desc := BitVec.ofNat 512 (2 ^ 320) }
    let s : State := { on with xops := [(7, x)], clk := 100, redQ := [(1, pk 1), (2, pk 2)], reduce := [(9, { key := k, die := 0, bits := 32 })] }
    on.barFld blkFab 39 1 = 1 ∧ (off.window 5 0x60000 true).toOption = none ∧ (on.window 5 0x60000 true).toOption = some 0x60000 ∧ (on.window 5 0x60000 false).toOption = some 0x60000
      ∧ on.onCard 0x60000 = true ∧ on.reuse = [] ∧ (redMerge (pk 1) (pk 2)).isSome = true ∧ (on.window (lowest (ofN 32) 0) k.off true).toOption = some 0x60000
      ∧ List.find? (fun (p : Nat × RedEnt) => p.2.key = k) s.reduce = some (9, { key := k, die := 0, bits := 32 }) ∧ 32 &&& 32 ≠ 0 ∧ on.reduce = [] ∧ k.ordered = false ∧ 32 ≠ k.pmask
      ∧ KMap.find? s.xops 7 = some x ∧ (s.xcCards x.desc).contains s.card = false ∧ State.reset.barFld blkFab 39 1 = 0 ∧ State.reset.barFld (blkFab + 1) (8 * 5) 1 ≠ 1
      ∧ (State.reset.barPut (blkHost + 0x205) 32 1 0).barFld (blkHost + 0x200 + 5) 32 1 = 0 := by decide +kernel

/-- A ray whose leaves are visited, whose read is not mapped, whose stack is full with and without a spill area; a trace that returns; a command in each stage. -/
theorem witness_RaysAndBuilds :
    let r (reads : List Nat) (pushes : Nat) : Ray := { ray0 .running with reads := reads, pushes := pushes, due := 100 }
    let ag (reads : List Nat) (pushes : Nat) : Agent := { ag0 with rays := [(0, r reads pushes)] }
    let s (reads : List Nat) (pushes spill : Nat) : State := { paged (one (ag reads pushes)) with gens := [(4, { gen7 with spill := spill })] }
    let o : Op := opOne (.trace 8 [(0, [1, 2, 3, 4, 5, 6, 7, 8])]) [] 100
    let cmd (b : Nat) : BuildCmd := { bits := BitVec.ofNat 512 b, addr := 0, ctx := 0 }
    let b (q : List BuildCmd) (run : Option Build) : State := { paged (one ag0) with builders := [(0, { queue := q, run := run })], leaves := [(512, { held := true, idle := 100 })] }
    let tri : Nat := 1 + 0x20000 * 2 ^ 64 + 0x60000 * 2 ^ 128 + 1 * 2 ^ 192
    let fail : Build := { cmd := cmd 0, stage := 2, code := 4, reason := 1, due := 100 }
    let failC : Build := { fail with cmd := cmd (0x70000 * 2 ^ 256) }
    KMap.find? (ag [0x60000] 0).rays 0 = some (r [0x60000] 0) ∧ (s [0x60000] 0 0).rayBlocked (ag [0x60000] 0) (r [0x60000] 0) = none
      ∧ ((s [0x8000_0000] 0 0).rayBlocked (ag [0x8000_0000] 0) (r [0x8000_0000] 0)).isSome = true ∧ KMap.find? (s [] 1 0).gens 4 = some { gen7 with spill := 0 } ∧ (r [] 1).pushes ≠ 0
      ∧ ((s [] 1 0x80000).ctxPhys 0 (0x80000 + 512 * (2048 * 0 + 0) + 8 * 0) true).toOption = some 0x80000 ∧ (s [] 1 0x80000).onCard 0x80000 = true
      ∧ (one (holds o)).opOwner 7 = some (1, holds o, o) ∧ o.todo = 0 ∧ o.clash = []
      ∧ (b [cmd 0] none).builderLeave 0 = true ∧ (∀ p ∈ (b [cmd 0] none).gens, ¬(p.2.die = 0 ∧ p.2.idle = true)) ∧ (b [cmd 0] none).ninth 0 (cmd 0) = false ∧ cmdBad (cmd 0).bits = true
      ∧ cmdBad (cmd tri).bits = false ∧ ((b [] (some fail)).builder 0).run = some fail ∧ badComp (bcComp fail.cmd.bits) 32 = false ∧ bcComp fail.cmd.bits = 0
      ∧ bcComp failC.cmd.bits = 0x70000 ∧ badComp (bcComp failC.cmd.bits) 32 = false ∧ ((b [] (some failC)).ctxWrite 0 0x70008 (bytesOf 24 0)).toOption.isSome = true
      ∧ ({ fail with fault := some { code := 1 } } : Build).fault.isSome = true ∧ ({ gen7 with st := 2, pins := 0 } : Gen).bind = [] := by decide +kernel

/-- A record in the EDF lane; a task at each turn of its life; a reuse entry that holds its key and none. -/
theorem witness_TasksFromPopToRecord :
    let r : TaskRec := { bits := 0, addr := 0, ctx := 0, serial := 0 }
    let k (st : TaskState) : Task := { die := 0, ctx := 0, addr := 0, bits := 0, serial := 0, st := st, agent := 1, team := 1, desc := BitVec.ofNat 512 (2 ^ 83) }
    let s (x : Task) : State := { (paged (one ag0)).barWr blkCtx 1 with tasks := [(5, x)] }
    let e : ReuseEnt := { key := 0, tenant := 0, serial := 0, outs := [], pages := [], leaves := [] }
    ({ State.reset with banks := [(32, [r])] }).mayPop 0 = true ∧ bankHead true (({ State.reset with banks := [(32, [r])] } : State).taskBank 0 32) = some (r, [])
      ∧ ((s (k .hold)).offer.map fun o => (o.1.kind, o.2.length)) = some (.task 5, 1) ∧ KMap.find? (s (k .ready)).tasks 5 = some (k .ready) ∧ (s (k .ready)).preempting 0 = false
      ∧ (s (k .ready)).ctxLive 0 = true ∧ (s (k .ready)).agent? 1 = some ag0 ∧ ((s (k .ready)).team? 1).isSome = true
      ∧ (s (k .staging)).taskFull (k .staging) = true ∧ kdPure (k .staging).desc = true ∧ ((s (k .staging)).barPut (0x1000 / 8) 0 1 1).looks (k .staging) = true
      ∧ (k .keying).due ≤ 100 ∧ (∀ x ∈ (s (k .lookup)).reuse, ¬(x.2.tenant = (s (k .lookup)).ctxTenant 0 ∧ x.2.key = 0))
      ∧ List.find? (fun (q : Nat × ReuseEnt) => q.2.tenant = (s (k .lookup)).ctxTenant 0 && q.2.key = (k .lookup).key) [(2, e)] = some (2, e)
      ∧ KMap.find? (s (k .copying)).reuse 0 = none ∧ (copyPieces (k .copying) e).length ≤ (k .copying).piece ∧ (s (k .draining)).xops = [] ∧ (s (k .recording)).mayRecord (k .recording) = false
      ∧ trComp (k .recording).bits = 0 := by decide +kernel

/-- A packet whose stamp is held, newer, older; with both buffers used; seen on the other path; an object in each state; a descriptor with one buffer. -/
theorem witness_PortEvents :
    let fr : RxFrame := rx 1 8
    let x : Flow := { frames := [fr], lastStamp := some 1 }
    let full : Flow := { x with frames := [fr, { fr with stamp := 2 }], lastStamp := some 2 }
    let s (y : Flow) : State := withFlow { (flowed State.reset).barPut blkHost 0 8 5 with clk := 200 } 3 y
    let d (y : Flow) : State := (s y).barPut (blkMedia + 24) 19 1 1
    let o (st pt : Nat) (due : Option Nat) : Flow := { objs := [(0, { st := st, pt := pt, opened := 10, due := due })] }
    let t (y : Flow) : State := withFlow { flowed State.reset with clk := 200, ptAcc := 10 ^ 15 } 35 y
    let early : State := withFlow { flowed State.reset with clk := 200 } 35 (o 0 600000 none)
    (s x).flowOn 3 = true ∧ ((s x).fdesc 3 19 1 = 0) ∧ (∃ f ∈ x.frames, f.stamp = 1) ∧ (∀ f ∈ x.frames, f.stamp ≠ 3) ∧ newer 3 1 = true ∧ newer 0 1 = false
      ∧ x.frames.length < (s x).flowBufs 3 ∧ (s full).flowBufs 3 ≤ full.frames.length ∧ full.dropStamp ≠ some 3 ∧ newer 3 2 = true
      ∧ ((d { x with seen := [7] }).fdesc 3 19 1 = 1) ∧ ((d { x with seen := [7] }).flow 3).seen.contains 7 = true ∧ ((d x).flow 3).seen.contains 7 = false
      ∧ List.find? (fun (q : Nat × SendObj) => q.2.st = 0) ((t (o 0 4 none)).flow 35).objs = some (0, { st := 0, pt := 4, opened := 10 })
      ∧ 4 ≤ (t (o 0 4 none)).pt + (t (o 0 4 none)).guard 35 ∧ 10 < (t (o 0 4 none)).clk ∧ early.pt + early.guard 35 < 600000
      ∧ (t { o 1 4 none with subs := [6] }).flowOn 35 = true ∧ (([6] : List Nat).find? fun p => decide (p + (t (o 1 4 none)).troff 35 ≤ (t (o 1 4 none)).pt)) = some 6
      ∧ (t (o 1 4 none)).sendDue 35 = some (0, { st := 1, pt := 4, opened := 10 }) ∧ (t (o 1 4 (some 150))).lastDue 35 = some (0, { st := 1, pt := 4, opened := 10, due := some 150 })
      ∧ State.reset.flowOn 35 = false ∧ State.reset.flowValid 35 = false
      ∧ ((flowed State.reset).barPut (blkMedia + 8 * 35) 0 1 0).flowOn 35 = false ∧ ((flowed State.reset).barPut (blkMedia + 8 * 35) 0 1 0).flowValid 35 = true := by decide +kernel

/-- A ring with room, a full one and one that is off; a group stopped by a fault and by BRK, a parked leat, a saved team; parked engines, a queue and records. -/
theorem witness_FaultQueueAndResumption :
    let q (sz en : Nat) (head tail : Nat) : State := (((State.barWr { State.reset with faultQ := [5] } blkFault (BitVec.ofNat 64 (0x60000 + sz * 2 ^ 52 + en * 2 ^ 56))).barWr (blkFault + 1)
      (BitVec.ofNat 64 (head + tail * 2 ^ 32))).barPut (blkHost + 0x201) 32 1 0)
    let st : Stop := { fid := 0, token := 9, debug := false, held := true }
    let ag : Agent := { ag0 with stop := some st }
    let brk : Agent := onFrag ag { fr0 with hdr := 0xCBFF_FC00_0000_0000, code := [0, 0, ((encode (.brk (fsys 0 0 0 0 0 5))).map (·.2)).getD 0] }
    let leat : Agent := onFrag agL { fr0 with wait := .stopped 9 }
    let s (a : Agent) (r : TokRef) : State := { one a with tokens := [(9, r)] }
    let xop : Xop := { core := 0, by' := 0, agent := 1, kind := .fill, ctx := 0, team := 1, h := 1, st := .parked }
    let cmd : Build := { cmd := { bits := 0, addr := 0, ctx := 0 }, parked := true }
    let tk : Task := { die := 0, ctx := 0, addr := 0, bits := 0, serial := 0, st := .recording, parked := true }
    let e (r : TokRef) : State := { one agL with tokens := [(9, r)], xops := [(7, xop)], builders := [(0, { run := some cmd })], queues := [(4, { parked := true })], grids := [(3, grid0 .parked)], tasks := [(5, tk)] }
    (q 0 1 0 63).faultQ = [5] ∧ (q 0 1 0 63).barFld blkFault 56 1 = 1 ∧ ((q 0 1 0 63).fqTail + 2 ^ 32 - (q 0 1 0 63).fqHead) % 2 ^ 32 ≠ 2 ^ ((q 0 1 0 63).barFld blkFault 52 4 + 6)
      ∧ (q 0 1 0 63).onCard ((q 0 1 0 63).barFld blkFault 0 52 + 64 * 63) = true ∧ (q 0 1 0 63).reuse = [] ∧ (q 0 1 0 63).barFld (blkHost + 0x201) 32 1 = 0
      ∧ (q 0 1 2 66).barFld blkFault 56 1 = 1 ∧ ((q 0 1 2 66).fqTail + 2 ^ 32 - (q 0 1 2 66).fqHead) % 2 ^ 32 = 2 ^ ((q 0 1 2 66).barFld blkFault 52 4 + 6)
      ∧ (q 0 0 0 0).barFld blkFault 56 1 = 0 ∧ (q 0 0 0 0).faultWait = false ∧ KMap.find? State.reset.tokens 9 = none
      ∧ KMap.find? (s ag (.agent 1 0)).tokens 9 = some (.agent 1 0) ∧ fragOf (s ag (.agent 1 0)) 1 0 ag fr0 ∧ fr0.atBrk = false ∧ ag.stop = some st
      ∧ (brk.frags.any fun (f : Nat × Frag) => f.2.atBrk) = true ∧ fragOf (s leat (.agent 1 0)) 1 0 leat { fr0 with wait := .stopped 9 } ∧ leat.stop = none
      ∧ ((s ag (.agent 1 0)).teamOf ag).saved = false ∧ KMap.find? (s ag (.agent 1 0)).fatals ag.ctx = none
      ∧ ((({ s ag (.agent 1 0) with teams := [(1, { grid := 0, ctx := 0, idx := 0, core := 0, groups := [1], saved := true })] } : State)).teamOf ag).saved = true
      ∧ KMap.find? (e (.sluice 7)).xops 7 = some xop ∧ xop.by' ≠ 2 ∧ ((e (.builder 0)).builder 0).run = some cmd ∧ ((e (.queue 4)).qState 4).parked = true
      ∧ KMap.find? (e (.gridRec 3)).grids 3 = some (grid0 .parked) ∧ KMap.find? (e (.taskRec 5)).tasks 5 = some tk := by decide +kernel

/-- No invalidation and one that is due; a context that is killed, being discarded, with and without a grid left; over its budget; ready to be saved; saved. -/
theorem witness_ContextsAndTranslations :
    let i : TlbInv := { scope := 2, ctx := 0, va := 0, due := 100, ops := [], pieces := [] }
    let s : State := one ag0
    let dead (b : Bool) (gs : KMap Grid) : State := { s with fatals := [(0, (7, b))], grids := gs }
    let pre (count : Nat) (sv : Option Nat) (l : Bool) : State := { one { ag0 with latched := l } with preempts := [(0, { pt := 4, count := count, saving := sv })] }
    let tm : Team := { grid := 3, ctx := 0, idx := 0, core := 0, groups := [1], size := 4096, saved := true, scr := [(5, 1)] }
    let sv : State := { gridded { grid0 .opened with run := 1, desc := BitVec.ofNat 512 (4096 * 2 ^ 96), lr := BitVec.ofNat 1024 (2 ^ 192 + 1 * 2 ^ 384) } with agents := [(1, ag0)], teams := [(1, tm)] }
    s.tlbInv = none ∧ (({ s with tlbInv := some i } : State).tlbInv).isSome = true ∧ i.due ≤ 100 ∧ i.ops = [] ∧ i.pieces = []
      ∧ KMap.find? s.fatals 0 = none ∧ s.preempting 0 = false ∧ (KMap.find? (dead false []).fatals 0).isSome = true ∧ (pre 0 none false).preempting 0 = true
      ∧ KMap.find? (dead false []).fatals 0 = some (7, false) ∧ (s.agents.all fun (q : Nat × Agent) => q.2.ctx ≠ 0 || q.2.ops.isEmpty) = true
      ∧ KMap.find? (dead true []).fatals 0 = some (7, true) ∧ (∃ q ∈ (dead true [(3, grid0 .rec1)]).grids, q.2.ctx = 0) ∧ (dead true []).grids = [] ∧ (dead true []).tasks = []
      ∧ s.overBudget 0 = false ∧ (pre 25000 none false).overBudget 0 = true ∧ KMap.find? (pre 25000 none false).fatals 0 = none
      ∧ s.maySave 0 = false ∧ (pre 0 none true).maySave 0 = true ∧ (pre 0 none true).residents 0 ≠ [] ∧ KMap.find? (pre 0 none true).preempts 0 = some { pt := 4 }
      ∧ KMap.find? (pre 0 (some 90) true).preempts 0 = some { pt := 4, saving := some 90 } ∧ (pre 0 (some 900) true).clk < 900
      ∧ (sv.offer.map fun o => (o.1.kind, o.2.length)) = some (.saved 1, 1) ∧ sv.team? 1 = some tm ∧ tm.strip = [] ∧ tm.killed = false ∧ tm.saved = true
      ∧ (1 ∈ tm.groups ∧ 1 ∉ tm.leats) := by decide +kernel

/-- Stage 5: the last context descriptor, EN of the wall at 0 and 1; a byte of GDDR 7 and of the window; the host's own line and one of a context. -/
theorem witness_HostRequests :
    let s : State := (one ag0).barPut (blkHost + 0) 0 8 5 |>.barPut 0xA_0020 0 8 5
    let w : State := s.barPut blkWall 0 1 1
    let i : TlbInv := { scope := 2, ctx := 0, va := 0, due := 100, ops := [], pieces := [] }
    let ln : State := { s with lines := [(0x60000 / 64, BitVec.ofNat 64 0)], grids := [(0, grid0 .opened)] }
    s.stage = 5 ∧ State.reset.stage ≠ 5 ∧ s.wallEn = false ∧ w.wallEn = true ∧ w.stage = 5 ∧ s.tlbInv = none ∧ (({ s with tlbInv := some i } : State).tlbInv).isSome = true
      ∧ s.barMem 0x1F_FFFF_FFFC = some 0x1F_FFFF_FFFC ∧ (s.barMem (0x1F_FFFF_FFFC + 3)).isSome = true ∧ s.reuse = []
      ∧ (s.barPut 0x2_0000 0 8 1).barMem 0x20_0000_0000 = some 0x100_0000_0000 ∧ runnerOnly 0xA_0021 = false ∧ runnerOnly 0x8_01FF = true ∧ runnerOnly 0xB_FFFF = false
      ∧ (s.scopeOne (hostIdent s.card) 3 (some 1) 0x60000).1 = true ∧ (ln.scopeOne (hostIdent ln.card) 3 (some 1) 0x60000).1 = false := by decide +kernel

/-- SIZE 192 with BUSY 0; a change and a refresh that are due; a line with each kind of error; W below, within and above 6,000 to 6,600 and HOT; each stage.
(`accepts` is true only of an image whose signature the opaque `Config.mlDsaVerify` takes: no such image can be shown.) -/
theorem witness_BoardEvents :
    let s : State := { State.reset with clk := 400 }
    let at5 (w hot lv : Nat) : State := ((((s.barPut 0xA_0020 0 8 5).barPut 0xA_0023 0 16 w).barPut 0xA_0022 1 1 hot).barPut 0xA_0021 0 9 lv).barPut 0xA_0021 16 9 lv
    let stg (n : Nat) : State := s.barPut 0xA_0020 0 8 n
    let r : Refresh := { start := 90 }
    let m : State := { s with runSvn := [(1, 5)], fusedSvn := [(1, 3)] }
    s.barFld 0x2_0000 8 1 = 0 ∧ fldN (192 : Dword) 0 8 ≤ 192 ∧ (s.barPut 0x2_0000 8 1 1).barFld 0x2_0000 8 1 = 1 ∧ KMap.find? ({ s with ergDone := [(0, 300)] } : State).ergDone 0 = some 300
      ∧ KMap.find? ({ s with refresh := [(0, r)] } : State).refresh 0 = some r ∧ r.start + 304 * (r.count + 1) ≤ s.clk ∧ s.bad = [] ∧ KMap.find? ({ s with bad := [(2, true), (3, false)] } : State).bad 2 = some true
      ∧ (∀ w ∈ [5999, 6000, 6600, 6601], (at5 w 0 144).stage = 5 ∧ (at5 w 0 144).steer ≤ (at5 w 0 144).clk ∧ (at5 w 0 144).barFld 0xA_0023 0 16 = w ∧ (at5 w 0 144).lvcap 0 < 160)
      ∧ (at5 6000 1 144).barFld 0xA_0022 1 1 = 1 ∧ (at5 6000 0 328).lvcap 1 = 328
      ∧ s.stage = 0 ∧ (∀ n ∈ [1, 2, 3, 4, 5], (stg n).stage = n) ∧ (stg 1).accepts 1 [] = false ∧ (stg 2).accepts 2 [] = false
      ∧ (KMap.find? m.runSvn 1).isSome = true ∧ m.mrs.length = 4 ∧ (∀ x ∈ m.mrs, x.length = 64) ∧ (List.replicate 64 0#8).length = 64
      ∧ KMap.find? m.runSvn 1 = some 5 ∧ (KMap.find? m.fusedSvn 1).getD 0 < 5 ∧ KMap.find? s.runSvn 1 = none := by decide +kernel

end Sys2Proof.Tests
end

section
/-!
PROOFS. O56: a clk that passes can write memory, because the rays that it releases give back the pins that the generation records
in memory count.
-/
namespace Sys2Proof.Machine

/-- A ray that has ended with a result; it pinned generation 7 of the model's table. -/
def endedRay : Ray :=
  { st := .done, op := 1, slot := 0, ray := [], mask := 0, flags := 0, gen := 7, num := 1, tmax := 0, todo := [] }

/-- A CURRENT generation with one pin, its record at 0x1000. -/
def pinnedGen : Gen :=
  { ctx := 0, scene := 0x2000, die := 0, num := 1, pkind := 0, st := 1, prims := [], nprim := 0, degen := 0, arena := 0x1000,
    pages := [0], grec := 0x1000, grecPa := 0x1000, pins := 1 }

/-- A group that holds only the ended ray, whose operation has been counted off, so that the ray is not live any more (R347); the
generation's record in memory reads GEN 1, STATE 1 and PINS 1 (R338). -/
def endedRayState : State :=
  { State.reset with
    mem := wrN [] 12 0x1000 (1 + 2 ^ 32 + 2 ^ 64)
    agents := [(1, { kind := .group, core := 0, ctx := 0, team := 1, rays := [(0, endedRay)] })]
    gens := [(7, pinnedGen)] }

/-- Over a clk the ray gives its pin back, and PINS of the generation record in memory goes from 1 to 0 (R338, R340). -/
theorem ptTick_releases_pin : ∃ t, exec .ptTick endedRayState = .next t ∧ endedRayState.readN 4 0x1008 = 1 ∧ t.readN 4 0x1008 = 0 :=
  ⟨_, rfl, by decide +kernel, by decide +kernel⟩

/-- Refutes O56: its clause on PT_TICK says that a clk leaves memory as it is, but a ray that stops being live gives its pin back
as the clk passes, and the device then writes PINS of the generation record, which stands in memory. -/
theorem not_portEvents : ¬ Obligations.PortEvents := by
  unfold Obligations.PortEvents
  intro h
  obtain ⟨-, -, ⟨t, ht, -, hmem, -⟩, -⟩ := h endedRayState
  obtain ⟨u, hu, hbefore, hafter⟩ := ptTick_releases_pin
  have htu : u = t := by injection hu.symm.trans ht
  have hsame : u.readN 4 0x1008 = endedRayState.readN 4 0x1008 := by simp only [State.readN, htu, hmem]
  omega

end Sys2Proof.Machine
end

section
/-!
PROOFS. O59: what the register blocks, memory and the scope examination leave, then each register that the statement names, then
each request of the host.
-/
namespace Sys2Proof.Machine
open Sys2Proof.Safety

/-! ## The register blocks and memory -/

namespace State

@[simp] theorem barRd_barWr_self (s : State) (i : Nat) (v : Dword) : (s.barWr i v).barRd i = v := by
  unfold barWr barRd
  split
  · next hv => simp [hv]
  · simp

theorem barRd_barWr_ne (s : State) {i j : Nat} (h : j ≠ i) (v : Dword) : (s.barWr i v).barRd j = s.barRd j := by
  unfold barWr barRd
  split
  · rw [KMap.find?_del_ne _ h]
  · rw [KMap.find?_put_ne _ _ h]

end State

theorem wrBytes_bytesOf (m : KMap Byte) (a n x : Nat) : wrBytes m a (bytesOf n x) = wrN m n a x := by
  induction n generalizing m a x with
  | zero => rfl
  | succ n ih => exact ih _ _ _

theorem rdN_lt (m : KMap Byte) (n a : Nat) : rdN m n a < 256 ^ n := by
  induction n generalizing a with
  | zero => simp [rdN]
  | succ n ih =>
    have h1 := ih (a + 1)
    have h2 := (rdB m a).isLt
    simp only [rdN, Nat.pow_succ]
    omega

theorem devWrite_of_no_reuse {s : State} (h : s.reuse = []) (pa : Nat) (bs : List Byte) :
    ∃ ts, s.devWrite pa bs = { s with mem := wrBytes s.mem pa bs, tasks := ts } := by
  unfold State.devWrite
  split
  · exact ⟨s.tasks, rfl⟩
  · exact ⟨_, by simp [State.dropReuse, h]; rfl⟩

theorem scopeOne_changes_lines {s s' : State} {me : Dword} {scope pa : Nat} {kind : Option Nat} {pass : Bool}
    (h : s.scopeOne me scope kind pa = (pass, s')) : { s' with lines := s.lines } = s := by
  unfold State.scopeOne at h
  split at h
  · cases h; rfl
  · extract_lets r scp at h
    split at h
    · cases h; rfl
    · cases kind <;> cases h <;> rfl

theorem ergSize_lt (s : State) (d : Nat) : s.ergSize d < 0x2000_0000 := by
  have : s.barFld (blkMem + d) 0 8 < 2 ^ 8 := Nat.mod_lt _ (by decide)
  unfold State.ergSize
  omega

theorem barMem_regs (s : State) {off : Nat} (h : 0x3F_0000_0000 ≤ off) : s.barMem off = none := by
  have h0 := ergSize_lt s 0
  have h1 := ergSize_lt s 1
  unfold State.barMem
  rw [if_neg (by omega), if_neg (by omega), if_neg (by omega)]

/-- Where the register blocks begin, in dwords, as numerals for `omega`. -/
theorem blk_bounds : blkMem = 0x2_0000 ∧ blkMedia = 0x4_0000 ∧ blkFault = 0x6_0000 ∧ blkCtx = 0x8_0000 ∧ blkHost = 0xA_0000
    ∧ blkFab = 0xC_0000 ∧ blkWall = 0xE_0000 := by decide

/-- The masks of a context descriptor's dwords are the same in every context. -/
theorem regMasks_ctx {c k : Nat} (hc : c < 64) (hk : k < 8) : regMasks (blkCtx + 8 * c + k) = regMasks (blkCtx + k) := by
  obtain ⟨-, hMedia, hFault, hCtx, -⟩ := blk_bounds
  have h : (blkCtx + 8 * c + k - blkCtx) % 8 = (blkCtx + k - blkCtx) % 8 := by omega
  unfold regMasks
  rw [if_neg (by omega), if_neg (by omega), if_neg (by omega), if_neg (by omega), if_neg (by omega), if_neg (by omega), if_pos (by omega),
    if_neg (by omega), if_neg (by omega), if_neg (by omega), if_neg (by omega), if_neg (by omega), if_neg (by omega), if_pos (by omega), h]

/-! ## What a write of a register does -/

/-- The event leaves `x` in dword `i` of the register blocks and changes nothing else. -/
def setsDword (e : Instr) (s : State) (i : Nat) (x : Dword) : Prop :=
  brings e s fun t => t.barRd i = x ∧ (∀ j, j ≠ i → t.barRd j = s.barRd j) ∧ { t with bar := s.bar } = s

/-- The event puts `es` before the agenda and leaves memory. -/
def tellsEvents (e : Instr) (s : State) (es : List Ev) : Prop :=
  brings e s fun t => t.agenda = es ++ s.agenda ∧ t.mem = s.mem

theorem setsDword_of_barWr {e : Instr} {s : State} {i : Nat} {x : Dword} (h : exec e s = .next (s.barWr i x)) :
    setsDword e s i x :=
  ⟨_, h, State.barRd_barWr_self .., fun _ hj => State.barRd_barWr_ne _ hj _, rfl⟩

theorem setsDword_of_unchanged {e : Instr} {s : State} (i : Nat) (h : exec e s = .next s) : setsDword e s i (s.barRd i) :=
  ⟨_, h, rfl, fun _ _ => rfl, rfl⟩

theorem tellsEvents_of_happen {e : Instr} {s s' : State} {es : List Ev} (h : exec e s = .next (s'.happen es))
    (ha : s'.agenda = s.agenda) (hm : s'.mem = s.mem) : tellsEvents e s es :=
  ⟨_, h, congrArg (es ++ ·) ha, hm⟩

theorem registerWrite_dword {s : State} (h5 : s.stage = 5) {off : Nat} (ho : off % 8 = 0) (v : Dword) :
    exec (.registerWrite off 8 v) s = .next (s.regWrite (off / 8) (~~~0#64) v) := by
  show execRegisterWrite off 8 v s = _
  simp [execRegisterWrite, ho, h5]

/-- The mask of all 64 bits, as `simp` writes it. -/
@[simp] theorem and_ones64 (x : Dword) : x &&& 0xFFFF_FFFF_FFFF_FFFF#64 = x := BitVec.and_allOnes

/-- A dword that is written in all its bits reads as the value written. -/
theorem merge_full (old v : Dword) : (old &&& ~~~(~~~0#64)) ||| (v &&& ~~~0#64) = v := by simp

/-- Written in all its bits, a dword takes the value in its bits RW, and its bits W1C that are written 1 clear. -/
theorem regPlain_full {i : Nat} {rw w1c : Dword} (h : regMasks i = (rw, w1c)) (s : State) (v : Dword) :
    s.regPlain i (~~~0#64) v = s.barWr i (((s.barRd i &&& ~~~rw) ||| (v &&& rw)) &&& ~~~(v &&& w1c)) := by
  simp only [State.regPlain, h, regAfter, BitVec.not_zero, BitVec.and_allOnes]

theorem regPlain_rw {i : Nat} {rw : Dword} (h : regMasks i = (rw, 0)) (s : State) (v : Dword) :
    s.regPlain i (~~~0#64) v = s.barWr i ((s.barRd i &&& ~~~rw) ||| (v &&& rw)) := by
  rw [regPlain_full h]
  simp

theorem regPlain_w1c {i : Nat} {w1c : Dword} (h : regMasks i = (0, w1c)) (s : State) (v : Dword) :
    s.regPlain i (~~~0#64) v = s.barWr i (s.barRd i &&& ~~~(v &&& w1c)) := by
  rw [regPlain_full h]
  simp

theorem regPlain_allRw {i : Nat} (h : regMasks i = (0xFFFF_FFFF_FFFF_FFFF#64, 0)) (s : State) (v : Dword) :
    s.regPlain i (~~~0#64) v = s.barWr i v := by
  rw [regPlain_rw h]
  simp

/-- A dword of a context descriptor other than its first is written plainly. -/
theorem regWrite_ctx {c k : Nat} (hc : c < 64) (hk : k < 8) (hk0 : k ≠ 0) (s : State) (m v : Dword) :
    s.regWrite (blkCtx + 8 * c + k) m v = s.regPlain (blkCtx + 8 * c + k) m v := by
  obtain ⟨hMem, hMedia, hFault, hCtx, hHost, -⟩ := blk_bounds
  have hrow : ¬(blkCtx + 8 * c + k - blkCtx) % 8 = 0 := by omega
  unfold State.regWrite
  extract_lets x s1
  rw [if_neg (by omega), if_neg (by omega), if_neg (by omega), if_neg (by omega), if_pos (by omega), if_neg fun h => hrow h.2.1]

/-! ### Registers that keep a value -/

theorem setsDword_ctx {s : State} (h5 : s.stage = 5) {c k : Nat} (hc : c < 64) (hk : k < 8) (hk0 : k ≠ 0) {v x : Dword}
    (h : s.regPlain (blkCtx + 8 * c + k) (~~~0#64) v = s.barWr (blkCtx + 8 * c + k) x) :
    setsDword (.registerWrite (0x40_0000 + 64 * c + 8 * k) 8 v) s ((0x40_0000 + 64 * c + 8 * k) / 8) x := by
  have hi : (0x40_0000 + 64 * c + 8 * k) / 8 = blkCtx + 8 * c + k := by
    obtain ⟨-, -, -, hCtx, -⟩ := blk_bounds
    omega
  rw [hi]
  apply setsDword_of_barWr
  rw [registerWrite_dword h5 (by omega), hi, regWrite_ctx hc hk hk0, h]

theorem ctxWrite_allRw {s : State} (h5 : s.stage = 5) (v : Dword) {c k : Nat} (hc : c < 64) (hk : k = 5 ∨ k = 6) :
    setsDword (.registerWrite (0x40_0000 + 64 * c + 8 * k) 8 v) s ((0x40_0000 + 64 * c + 8 * k) / 8) v := by
  have hm : regMasks (blkCtx + 8 * c + k) = (0xFFFF_FFFF_FFFF_FFFF#64, 0) := by
    rw [regMasks_ctx hc (by omega)]
    obtain rfl | rfl := hk <;> rfl
  exact setsDword_ctx h5 hc (by omega) (by omega) (regPlain_allRw hm s v)

theorem ctxWrite_rw {s : State} (h5 : s.stage = 5) (v : Dword) {c k : Nat} {rw : Dword} (hc : c < 64) (hk : k < 8) (hk0 : k ≠ 0)
    (hm : regMasks (blkCtx + k) = (rw, 0)) :
    setsDword (.registerWrite (0x40_0000 + 64 * c + 8 * k) 8 v) s ((0x40_0000 + 64 * c + 8 * k) / 8)
      ((s.barRd ((0x40_0000 + 64 * c + 8 * k) / 8) &&& ~~~rw) ||| (v &&& rw)) := by
  have hi : (0x40_0000 + 64 * c + 8 * k) / 8 = blkCtx + 8 * c + k := by
    obtain ⟨-, -, -, hCtx, -⟩ := blk_bounds
    omega
  have h := regPlain_rw ((regMasks_ctx hc hk).trans hm) s v
  rw [← hi] at h
  exact setsDword_ctx h5 hc hk hk0 (hi ▸ h)

/-- A write of a dword that `regWrite` turns into a write of the register. -/
theorem setsDword_write {s : State} (h5 : s.stage = 5) {off : Nat} {v x : Dword} (ho : off % 8 = 0)
    (h : s.regWrite (off / 8) (~~~0#64) v = s.barWr (off / 8) x) : setsDword (.registerWrite off 8 v) s (off / 8) x :=
  setsDword_of_barWr (by rw [registerWrite_dword h5 ho, h])

theorem setsDword_ignored {s : State} (h5 : s.stage = 5) {off : Nat} {v : Dword} (ho : off % 8 = 0)
    (h : s.regWrite (off / 8) (~~~0#64) v = s) : setsDword (.registerWrite off 8 v) s (off / 8) (s.barRd (off / 8)) :=
  setsDword_of_unchanged _ (by rw [registerWrite_dword h5 ho, h])

theorem faultWrite_fq {s : State} (h5 : s.stage = 5) (v : Dword) :
    setsDword (.registerWrite 0x30_0000 8 v) s (0x30_0000 / 8)
      (((s.barRd (0x30_0000 / 8) &&& ~~~0x1FF_FFFF_FFFF_FFFF#64) ||| (v &&& 0x1FF_FFFF_FFFF_FFFF#64)) &&& ~~~(v &&& 0x200_0000_0000_0000#64)) :=
  setsDword_write h5 (by decide) (regPlain_full rfl s v)

theorem faultWrite_fqHead {s : State} (h5 : s.stage = 5) (v : Dword) :
    setsDword (.registerWrite 0x30_0008 8 v) s (0x30_0008 / 8) ((s.barRd (0x30_0008 / 8) &&& ~~~0xFFFF_FFFF#64) ||| (v &&& 0xFFFF_FFFF#64)) :=
  setsDword_write h5 (by decide) (regPlain_rw rfl s v)

theorem hostWrite_herr {s : State} (h5 : s.stage = 5) (v : Dword) :
    setsDword (.registerWrite 0x50_0008 8 v) s (0x50_0008 / 8) (s.barRd (0x50_0008 / 8) &&& ~~~(v &&& 0xF#64)) :=
  setsDword_write h5 (by decide) (regPlain_w1c rfl s v)

theorem hostWrite_readOnly {s : State} (h5 : s.stage = 5) (v : Dword) :
    setsDword (.registerWrite 0x50_0100 8 v) s (0x50_0100 / 8) (s.barRd (0x50_0100 / 8)) :=
  setsDword_write h5 (by decide) ((regPlain_w1c rfl s v).trans (by simp))

/-- HCTO takes 1 to 50,000 and ignores any other value (R458). -/
theorem hostWrite_hcto {s : State} (h5 : s.stage = 5) (v : Dword) :
    setsDword (.registerWrite 0x50_0020 8 v) s (0x50_0020 / 8) (if 1 ≤ v.toNat ∧ v.toNat ≤ 50000 then v else s.barRd (0x50_0020 / 8)) := by
  have h : s.regWrite (0x50_0020 / 8) (~~~0#64) v = if 1 ≤ v.toNat ∧ v.toNat ≤ 50000 then s.barWr (0x50_0020 / 8) v else s := by
    have h1 : ∀ m, s.regWrite (0x50_0020 / 8) m v = s.hostWrite (0x50_0020 / 8) m ((s.barRd (0x50_0020 / 8) &&& ~~~m) ||| (v &&& m)) := fun _ => rfl
    rw [h1, merge_full]
    rfl
  split
  · exact setsDword_write h5 (by decide) (h.trans (if_pos ‹_›))
  · exact setsDword_ignored h5 (by decide) (h.trans (if_neg ‹_›))

/-- The wall's registers other than WALLCFG hold still while EN = 1 (R474). -/
theorem wallWrite_enabled {s : State} (h5 : s.stage = 5) (he : s.wallEn = true) (v : Dword) {off : Nat}
    (ho : off ∈ [0x70_0008, 0x70_0010, 0x70_0018, 0x70_0020, 0x70_0028]) :
    setsDword (.registerWrite off 8 v) s (off / 8) (s.barRd (off / 8)) := by
  have hwall : ∀ j m x, j ≠ 0 → s.wallWrite (blkWall + j) m x = s := by
    intro j m x hj
    simp [State.wallWrite, hj, he]
  simp only [List.mem_cons, List.not_mem_nil, or_false] at ho
  obtain rfl | rfl | rfl | rfl | rfl := ho
  · exact setsDword_ignored h5 (by decide) (hwall 1 _ _ (by decide))
  · exact setsDword_ignored h5 (by decide) (hwall 2 _ _ (by decide))
  · exact setsDword_ignored h5 (by decide) (hwall 3 _ _ (by decide))
  · exact setsDword_ignored h5 (by decide) (hwall 4 _ _ (by decide))
  · exact setsDword_ignored h5 (by decide) (hwall 5 _ _ (by decide))

theorem wallWrite_plain {s : State} (he : s.wallEn = false) {j : Nat} (hj : j ≠ 0) {m x : Dword} (h : ¬(j = 5 ∧ x = 0)) :
    s.wallWrite (blkWall + j) m x = s.regPlain (blkWall + j) m x := by
  simp only [State.wallWrite, Nat.add_sub_cancel_left, hj, he, h, if_false, Bool.false_eq_true]

theorem regWrite_wall (s : State) {j : Nat} (m v : Dword) :
    s.regWrite (blkWall + j) m v = s.wallWrite (blkWall + j) m ((s.barRd (blkWall + j) &&& ~~~m) ||| (v &&& m)) := by
  obtain ⟨hMem, hMedia, hFault, hCtx, hHost, hFab, hWall⟩ := blk_bounds
  unfold State.regWrite
  extract_lets x s1 s2
  rw [if_neg (by omega), if_neg (by omega), if_neg (by omega), if_neg (by omega), if_neg (by omega), if_neg (by omega), if_neg (by omega)]

theorem wallWrite_disabled {s : State} (h5 : s.stage = 5) (he : s.wallEn = false) (v : Dword) {off : Nat}
    (ho : off ∈ [0x70_0008, 0x70_0018, 0x70_0020]) : setsDword (.registerWrite off 8 v) s (off / 8) v := by
  have hplain : ∀ j, j ≠ 0 → j ≠ 5 → regMasks (blkWall + j) = (0xFFFF_FFFF_FFFF_FFFF#64, 0) →
      s.regWrite (blkWall + j) (~~~0#64) v = s.barWr (blkWall + j) v := by
    intro j h0 h5 hm
    rw [regWrite_wall, merge_full, wallWrite_plain he h0 (by omega), regPlain_allRw hm]
  simp only [List.mem_cons, List.not_mem_nil, or_false] at ho
  obtain rfl | rfl | rfl := ho
  · exact setsDword_write h5 (by decide) (hplain 1 (by decide) (by decide) rfl)
  · exact setsDword_write h5 (by decide) (hplain 3 (by decide) (by decide) rfl)
  · exact setsDword_write h5 (by decide) (hplain 4 (by decide) (by decide) rfl)

/-- A denominator of 0 is not taken. -/
theorem wallWrite_den {s : State} (h5 : s.stage = 5) (he : s.wallEn = false) (v : Dword) :
    setsDword (.registerWrite 0x70_0028 8 v) s (0x70_0028 / 8) (if v = 0 then s.barRd (0x70_0028 / 8) else v) := by
  have hw : s.regWrite (0x70_0028 / 8) (~~~0#64) v = s.wallWrite (blkWall + 5) (~~~0#64) v :=
    (regWrite_wall s (j := 5) _ v).trans (by rw [merge_full])
  split
  · next hv =>
    refine setsDword_ignored h5 (by decide) (hw.trans ?_)
    simp [State.wallWrite, he, hv]
  · next hv =>
    refine setsDword_write h5 (by decide) (hw.trans ?_)
    exact (wallWrite_plain he (by decide) fun h => hv h.2).trans (regPlain_allRw rfl s v)

theorem registerWrite_upperHalf {s : State} (h5 : s.stage = 5) {off : Nat} (ho : off % 8 = 4) (v : Dword) :
    exec (.registerWrite off 4 v) s = .next (s.regWrite (off / 8) 0xFFFF_FFFF_0000_0000#64 (v <<< 32)) := by
  have h4 : off % 4 = 0 := by omega
  show execRegisterWrite off 4 v s = _
  simp [execRegisterWrite, h5, ho, h4]

theorem shiftLeft32_and_upper (v : Dword) : v <<< 32 &&& 0xFFFF_FFFF_0000_0000#64 = v <<< 32 := by
  have h : (0xFFFF_FFFF_0000_0000#64 : Dword) = BitVec.allOnes 64 <<< 32 := by decide
  rw [h, ← BitVec.shiftLeft_and_distrib, BitVec.and_allOnes]

/-- A write of 4 bytes to the upper half leaves the lower half (R5). -/
theorem ctxWrite_upperHalf {s : State} (h5 : s.stage = 5) (v : Dword) {c : Nat} (hc : c < 64) :
    brings (.registerWrite (0x40_0000 + 64 * c + 44) 4 v) s fun t =>
      t.barRd (0x8_0000 + 8 * c + 5) = (s.barRd (0x8_0000 + 8 * c + 5) &&& 0xFFFF_FFFF#64) ||| (v <<< 32) := by
  have hi : (0x40_0000 + 64 * c + 44) / 8 = blkCtx + 8 * c + 5 := by
    obtain ⟨-, -, -, hCtx, -⟩ := blk_bounds
    omega
  have hm : regMasks (blkCtx + 8 * c + 5) = (0xFFFF_FFFF_FFFF_FFFF#64, 0) := (regMasks_ctx hc (by decide)).trans rfl
  refine ⟨s.barWr (blkCtx + 8 * c + 5) _, ?_, State.barRd_barWr_self ..⟩
  rw [registerWrite_upperHalf h5 (by omega), hi, regWrite_ctx hc (by decide) (by decide), State.regPlain, hm]
  simp [regAfter, shiftLeft32_and_upper]
  rfl

/-! ### Registers whose write is a command -/

theorem tellsEvents_write {s s' : State} (h5 : s.stage = 5) {off : Nat} {v : Dword} {es : List Ev} (ho : off % 8 = 0)
    (h : s.regWrite (off / 8) (~~~0#64) v = s'.happen es) (ha : s'.agenda = s.agenda) (hm : s'.mem = s.mem) :
    tellsEvents (.registerWrite off 8 v) s es :=
  tellsEvents_of_happen (by rw [registerWrite_dword h5 ho, h]) ha hm

/-- A write of TAIL of a launch queue is a doorbell (R152). -/
theorem tailWrite_doorbell {s : State} (h5 : s.stage = 5) (v : Dword) {q : Nat} (hq : q < 64) :
    tellsEvents (.registerWrite (32 * q + 24) 8 v) s [.doorbell q (fldN v 0 32)] := by
  obtain ⟨hMem, -⟩ := blk_bounds
  have hi : (32 * q + 24) / 8 = 4 * q + 3 := by omega
  have hdiv : (4 * q + 3) / 4 = q := by omega
  refine tellsEvents_write (s' := s) h5 (by omega) ?_ rfl rfl
  unfold State.regWrite
  extract_lets x
  rw [hi, if_pos (by omega), State.schedWrite, if_pos (by omega), hdiv]
  simp [x, merge_full]

/-- A write of EN to the first dword of a flow's descriptor enables the flow. -/
theorem flowWrite_enable {s : State} (h5 : s.stage = 5) {v : Dword} (hv : v.getLsbD 0 = true) {f : Nat} (hf : f < 64) :
    tellsEvents (.registerWrite (0x20_0000 + 64 * f) 8 v) s [.flowEnable f] := by
  obtain ⟨hMem, hMedia, hFault, -⟩ := blk_bounds
  have hf' : ((0x20_0000 + 64 * f) / 8 - blkMedia) / 8 = f := by omega
  refine tellsEvents_write (s' := s.regPlain ((0x20_0000 + 64 * f) / 8) (~~~0#64) v) h5 (by omega) ?_ rfl rfl
  unfold State.regWrite
  extract_lets x s1 g
  rw [if_neg (by omega), if_neg (by omega), if_pos (by omega), if_pos ⟨by omega, by omega, by decide⟩]
  simp [x, s1, g, hv, hf']

/-- A write of a command dword of the fault block. -/
theorem regWrite_faultCmd (s : State) {d : Nat} (hd : 2 ≤ d ∧ d ≤ 4) (v : Dword) :
    s.regWrite (blkFault + d) (~~~0#64) v = s.faultCmd d v := by
  obtain ⟨hMem, hMedia, hFault, hCtx, -⟩ := blk_bounds
  unfold State.regWrite
  extract_lets x
  rw [if_neg (by omega), if_neg (by omega), if_neg (by omega), if_pos (by omega), if_pos (by omega), Nat.add_sub_cancel_left]
  exact congrArg _ (merge_full _ _)

theorem faultWrite_retry {s : State} (h5 : s.stage = 5) {v : Dword} (h : fldN v 32 2 = 0) :
    tellsEvents (.registerWrite 0x30_0010 8 v) s [.faultRetry (fldN v 0 32)] :=
  tellsEvents_write (s' := s) h5 (by decide)
    ((regWrite_faultCmd s (d := 2) (by decide) v).trans (by simp only [State.faultCmd, h])) rfl rfl

theorem faultWrite_kill {s : State} (h5 : s.stage = 5) {v : Dword} (h : fldN v 32 2 = 1) :
    tellsEvents (.registerWrite 0x30_0010 8 v) s [.faultKill (fldN v 0 32)] :=
  tellsEvents_write (s' := s) h5 (by decide)
    ((regWrite_faultCmd s (d := 2) (by decide) v).trans (by simp only [State.faultCmd, h])) rfl rfl

/-- TIBUSY turns an invalidation away (R408). -/
theorem faultWrite_tiBusy {s : State} (h5 : s.stage = 5) (v : Dword) (hb : s.tlbInv.isSome = true) :
    exec (.registerWrite 0x30_0018 8 v) s = .next s := by
  rw [registerWrite_dword h5 (by decide)]
  exact congrArg _ ((regWrite_faultCmd s (d := 3) (by decide) v).trans (by simp only [State.faultCmd, hb, if_true]))

/-- An invalidation that no other one is in progress with: its fields are kept, and it is what happens next. -/
theorem faultWrite_invalidate {s : State} (h5 : s.stage = 5) {v : Dword} {e : Ev}
    (h : s.faultCmd 3 v = (s.barPut (blkFault + 3) 0 44 (fldN v 0 44)).happen [e]) :
    tellsEvents (.registerWrite 0x30_0018 8 v) s [e] :=
  tellsEvents_write (s' := s.barPut (blkFault + 3) 0 44 (fldN v 0 44)) h5 (by decide)
    ((regWrite_faultCmd s (d := 3) (by decide) v).trans h) rfl rfl

theorem faultWrite_tlbPage {s : State} (h5 : s.stage = 5) {v : Dword} (hb : s.tlbInv = none) (h : fldN v 42 2 = 0) :
    tellsEvents (.registerWrite 0x30_0018 8 v) s [.tlbInvalidatePage (fldN v 36 6) (fldN v 0 36)] :=
  faultWrite_invalidate h5 (by simp [State.faultCmd, hb, h])

theorem faultWrite_tlbContext {s : State} (h5 : s.stage = 5) {v : Dword} (hb : s.tlbInv = none) (h : fldN v 42 2 = 1) :
    tellsEvents (.registerWrite 0x30_0018 8 v) s [.tlbInvalidateContext (fldN v 36 6)] :=
  faultWrite_invalidate h5 (by simp [State.faultCmd, hb, h])

theorem faultWrite_tlbAll {s : State} (h5 : s.stage = 5) {v : Dword} (hb : s.tlbInv = none) (h : fldN v 42 2 = 2) :
    tellsEvents (.registerWrite 0x30_0018 8 v) s [.tlbInvalidateAll] :=
  faultWrite_invalidate h5 (by simp [State.faultCmd, hb, h])

/-- The state once a command on context `c` is taken up: the dword holds the context and is busy (R408). -/
def State.takeCtxCmd (s : State) (c : Nat) : State :=
  { ((s.barPut (blkFault + 4) 0 6 c).barPut (blkFault + 4) 63 1 1) with cmds := s.cmds ++ [c] }

theorem faultWrite_preempt {s : State} (h5 : s.stage = 5) {v : Dword} (h : fldN v 6 2 = 1) :
    tellsEvents (.registerWrite 0x30_0020 8 v) s [.contextPreempt (fldN v 0 6)] :=
  tellsEvents_write (s' := s.takeCtxCmd (fldN v 0 6)) h5 (by decide)
    ((regWrite_faultCmd s (d := 4) (by decide) v).trans (by simp only [State.faultCmd, h]; rfl)) rfl rfl

theorem faultWrite_killContext {s : State} (h5 : s.stage = 5) {v : Dword} (h : fldN v 6 2 = 2) :
    tellsEvents (.registerWrite 0x30_0020 8 v) s [.contextKill (fldN v 0 6)] :=
  tellsEvents_write (s' := s.takeCtxCmd (fldN v 0 6)) h5 (by decide)
    ((regWrite_faultCmd s (d := 4) (by decide) v).trans (by simp only [State.faultCmd, h]; rfl)) rfl rfl

theorem memWrite_ergwSize {s : State} (h5 : s.stage = 5) (v : Dword) :
    tellsEvents (.registerWrite 0x10_0000 8 v) s [.ergwSizeWrite 0 v] := by
  refine tellsEvents_write (s' := s) h5 (by decide) ?_ rfl rfl
  exact congrArg (fun x => s.happen [.ergwSizeWrite 0 x]) (merge_full _ _)

theorem hostWrite_hablClear {s : State} (h5 : s.stage = 5) {v : Dword} (hv : v.getLsbD 0 = true) :
    tellsEvents (.registerWrite 0x50_0018 8 v) s [.hablClear] := by
  refine tellsEvents_write (s' := s) h5 (by decide) ?_ rfl rfl
  exact if_pos ⟨by decide, hv⟩

theorem fabWrite_fabcfg {s : State} (h5 : s.stage = 5) (v : Dword) :
    tellsEvents (.registerWrite 0x60_0000 8 v) s [.fabcfgWrite v] := by
  refine tellsEvents_write (s' := s) h5 (by decide) ?_ rfl rfl
  exact congrArg (fun x => s.happen [.fabcfgWrite x]) (merge_full _ _)

/-! ## Requests of the host -/

theorem registerWrite_ignored {s : State} {off n : Nat} (v : Dword)
    (h : (n ≠ 4 ∧ n ≠ 8) ∨ off % n ≠ 0 ∨ (s.stage ≠ 5 ∧ ¬(0x50_0000 ≤ off ∧ off < 0x60_0000))) :
    exec (.registerWrite off n v) s = .next s := by
  obtain ⟨-, -, -, -, hHost, hFab, -⟩ := blk_bounds
  show execRegisterWrite off n v s = _
  have hblock : (!decide (blkHost ≤ off / 8 ∧ off / 8 < blkFab)) = true ↔ ¬(0x50_0000 ≤ off ∧ off < 0x60_0000) := by
    simp only [Bool.not_eq_true', decide_eq_false_iff_not]
    omega
  simp only [execRegisterWrite, hblock, if_pos h]

theorem inboundMemWrite_early {s : State} {off : Nat} {bytes : List Byte} {pa : Nat} (hpa : s.barMem off = some pa)
    (hend : (s.barMem (off + bytes.length - 1)).isSome = true) (h5 : s.stage ≠ 5) : exec (.inboundMemWrite off bytes) s = .next s := by
  obtain ⟨pe, hpe⟩ := Option.isSome_iff_exists.mp hend
  show execInboundMemWrite off bytes s = _
  simp [execInboundMemWrite, hpa, hpe, h5]

theorem inboundMemWrite_memory {s : State} {off : Nat} {bytes : List Byte} {pa : Nat} (hpa : s.barMem off = some pa)
    (hend : (s.barMem (off + bytes.length - 1)).isSome = true) (hne : bytes ≠ []) (h5 : s.stage = 5) (hr : s.reuse = []) :
    brings (.inboundMemWrite off bytes) s fun t => t.mem = wrBytes s.mem pa bytes ∧ t.agents = s.agents ∧ t.teams = s.teams ∧ t.bar = s.bar := by
  obtain ⟨pe, hpe⟩ := Option.isSome_iff_exists.mp hend
  obtain ⟨ts, hw⟩ := devWrite_of_no_reuse hr pa bytes
  refine ⟨s.devWrite pa bytes, ?_, ?_⟩
  · show execInboundMemWrite off bytes s = _
    simp [execInboundMemWrite, hpa, hpe, h5, hne]
  · simp [hw]

theorem isReg_of_bounds {off : Nat} (h0 : 0x3F_0000_0000 ≤ off) (h1 : off < 0x3F_0080_0000) : isReg off = true :=
  decide_eq_true ⟨h0, h1⟩

theorem inboundMemWrite_register {s : State} {off : Nat} {bytes : List Byte} (h0 : 0x3F_0000_0000 ≤ off) (h1 : off < 0x3F_0080_0000)
    (hn : bytes.length = 4 ∨ bytes.length = 8) (ha : off % bytes.length = 0) (hro : runnerOnly ((off - 0x3F_0000_0000) / 8) = false)
    (hcap : (off - 0x3F_0000_0000) / 8 ≠ 0xA_0021) :
    exec (.inboundMemWrite off bytes) s = .next (s.happen [.registerWrite (off - 0x3F_0000_0000) bytes.length (BitVec.ofNat 64 (numOf bytes))]) := by
  have hcond : isReg off = true ∧ (bytes.length = 8 ∨ bytes.length = 4) ∧ off % bytes.length = 0 ∧ (!runnerOnly ((off - barRegs) / 8)) = true :=
    ⟨isReg_of_bounds h0 h1, hn.symm, ha, by rw [barRegs, hro]; rfl⟩
  show execInboundMemWrite off bytes s = _
  simp only [execInboundMemWrite, barMem_regs s h0]
  rw [if_pos hcond]
  exact if_neg hcap

theorem inboundMemWrite_ignored {s : State} {off : Nat} {bytes : List Byte} (h0 : 0x3F_0000_0000 ≤ off)
    (h : runnerOnly ((off - 0x3F_0000_0000) / 8) = true ∨ (bytes.length ≠ 4 ∧ bytes.length ≠ 8) ∨ off % bytes.length ≠ 0) :
    exec (.inboundMemWrite off bytes) s = .next s := by
  have hcond : ¬(isReg off = true ∧ (bytes.length = 8 ∨ bytes.length = 4) ∧ off % bytes.length = 0 ∧ (!runnerOnly ((off - barRegs) / 8)) = true) := by
    rintro ⟨-, hn, ha, hro⟩
    obtain h | h | h := h
    · rw [barRegs, h] at hro; cases hro
    · omega
    · exact h ha
  show execInboundMemWrite off bytes s = _
  simp only [execInboundMemWrite, barMem_regs s h0]
  exact if_neg hcond

theorem inboundMemRead_memory {s : State} {off n pa : Nat} (hpa : s.barMem off = some pa) (hend : (s.barMem (off + n - 1)).isSome = true)
    (h5 : s.stage = 5) : exec (.inboundMemRead off n) s = .next { s with answers := s.answers ++ [(off, rdBytes s.mem n pa)] } := by
  obtain ⟨pe, hpe⟩ := Option.isSome_iff_exists.mp hend
  show execInboundMemRead off n s = _
  simp [execInboundMemRead, hpa, hpe, h5]

theorem inboundMemRead_register {s : State} {off : Nat} (h0 : 0x3F_0000_0000 ≤ off) (h1 : off < 0x3F_0080_0000) (ha : off % 8 = 0) :
    exec (.inboundMemRead off 8) s
      = .next { s with answers := s.answers ++ [(off, bytesOf 8 (s.regRead ((off - 0x3F_0000_0000) / 8)).toNat)] } := by
  show execInboundMemRead off 8 s = _
  simp [execInboundMemRead, barMem_regs s h0, isReg_of_bounds h0 h1, ha, barRegs]

theorem inboundMemRead_otherSize {s : State} {off n : Nat} (h0 : 0x3F_0000_0000 ≤ off) (h1 : off < 0x3F_0080_0000)
    (hn : n ≠ 4 ∧ n ≠ 8) : exec (.inboundMemRead off n) s = .next { s with answers := s.answers ++ [(off, List.replicate n 0xFF)] } := by
  show execInboundMemRead off n s = _
  simp [execInboundMemRead, barMem_regs s h0, isReg_of_bounds h0 h1, hn]

/-- What FetchAdd (0), Swap (8) and CAS (9) of `n` bytes leave in place of `old` (R274). -/
def hostAtomNew (kind n old x y : Nat) : Nat :=
  if kind = 0 then (old + x % 2 ^ (8 * n)) % 2 ^ (8 * n)
  else if kind = 8 then x % 2 ^ (8 * n)
  else if old = x % 2 ^ (8 * n) then y % 2 ^ (8 * n) else old

theorem hostAtomNew_lt {kind n old : Nat} (x y : Nat) (h : old < 2 ^ (8 * n)) : hostAtomNew kind n old x y < 2 ^ (8 * n) := by
  have hpos : 0 < 2 ^ (8 * n) := Nat.two_pow_pos _
  unfold hostAtomNew
  split
  · exact Nat.mod_lt _ hpos
  · split
    · exact Nat.mod_lt _ hpos
    · split
      · exact Nat.mod_lt _ hpos
      · exact h

/-- An atomic of the host either writes its new value or, a CAS that does not match, writes nothing and the old value is the new one. -/
theorem atomVal_host {kind : Nat} (hk : kind ∈ [0, 8, 9]) (n old x y : Nat) :
    atomVal kind n old (x % 2 ^ (8 * n)) (y % 2 ^ (8 * n)) = some (hostAtomNew kind n old x y)
      ∨ (atomVal kind n old (x % 2 ^ (8 * n)) (y % 2 ^ (8 * n)) = none ∧ hostAtomNew kind n old x y = old) := by
  simp only [List.mem_cons, List.not_mem_nil, or_false] at hk
  obtain rfl | rfl | rfl := hk
  · exact .inl rfl
  · exact .inl rfl
  · by_cases hx : old = x % 2 ^ (8 * n)
    · exact .inl (by simp [atomVal, hostAtomNew, ← hx])
    · exact .inr (by simp [atomVal, hostAtomNew, hx])

theorem readN_lt (s : State) (n pa : Nat) : s.readN n pa < 2 ^ (8 * n) := by
  rw [Nat.pow_mul]
  exact rdN_lt _ _ _

/-- The state once an atomic of the host that passed the scope examination has been performed on `s`. -/
def State.hostAtom (s : State) (kind width : Nat) (x y : Dword) (pa : Nat) : State :=
  match atomVal kind width (s.readN width pa) (x.toNat % 2 ^ (8 * width)) (y.toNat % 2 ^ (8 * width)) with
  | some v => s.devWrite pa (bytesOf width v)
  | none => s

/-- An atomic of the host leaves its new value in its bytes, and no other byte, agent, line record or answer changes. -/
theorem hostAtom_spec {s : State} (hr : s.reuse = []) {kind width : Nat} (hk : kind ∈ [0, 8, 9]) (x y : Dword) (pa : Nat) :
    let t := s.hostAtom kind width x y pa
    t.readN width pa = hostAtomNew kind width (s.readN width pa) x.toNat y.toNat
      ∧ (∀ b, ¬(pa ≤ b ∧ b < pa + width) → rdB t.mem b = rdB s.mem b)
      ∧ t.agents = s.agents ∧ t.lines = s.lines ∧ t.answers = s.answers := by
  have hlt := hostAtomNew_lt (kind := kind) x.toNat y.toNat (readN_lt s width pa)
  simp only [State.hostAtom]
  obtain hv | ⟨hv, hnew⟩ := atomVal_host hk width (s.readN width pa) x.toNat y.toNat
  · obtain ⟨ts, hw⟩ := devWrite_of_no_reuse hr pa (bytesOf width (hostAtomNew kind width (s.readN width pa) x.toNat y.toNat))
    rw [hv]
    rw [Nat.pow_mul] at hlt
    simp only [hw, wrBytes_bytesOf]
    exact ⟨(rdN_wrN ..).trans (Nat.mod_eq_of_lt hlt), fun b hb => rdB_wrN_out _ _ _ _ _ (by omega), trivial, trivial, trivial⟩
  · rw [hv]
    exact ⟨hnew.symm, fun _ _ => rfl, rfl, rfl, rfl⟩

theorem inboundAtomicop_unsupported {s : State} {off kind width pa : Nat} (x y : Dword) (hpa : s.barMem off = some pa)
    (h : s.stage ≠ 5 ∨ (width ≠ 4 ∧ width ≠ 8) ∨ kind ∉ [0, 8, 9]) :
    exec (.inboundAtomicop off kind width x y) s = .next { s with answers := s.answers ++ [(off, [])] } := by
  have hcond : ¬(s.stage = 5 ∧ (width = 4 ∨ width = 8) ∧ (kind = 0 ∨ kind = 8 ∨ kind = 9) ∧ off % width = 0) := by
    rintro ⟨h5, hw, hk, -⟩
    obtain h | h | h := h
    · exact h h5
    · omega
    · exact h (by simpa only [List.mem_cons, List.not_mem_nil, or_false] using hk)
  show execInboundAtomicop off kind width x y s = _
  simp only [execInboundAtomicop, hpa]
  exact if_neg hcond

/-- The condition under which an atomic of the host is examined and performed (R274). -/
theorem inboundAtomicop_supported {s : State} {off kind width : Nat} (h5 : s.stage = 5) (hw : width = 4 ∨ width = 8)
    (hk : kind ∈ [0, 8, 9]) (ha : off % width = 0) :
    s.stage = 5 ∧ (width = 4 ∨ width = 8) ∧ (kind = 0 ∨ kind = 8 ∨ kind = 9) ∧ off % width = 0 :=
  ⟨h5, hw, by simpa using hk, ha⟩

theorem inboundAtomicop_refused {s : State} {off kind width pa : Nat} (x y : Dword) (hpa : s.barMem off = some pa) (h5 : s.stage = 5)
    (hw : width = 4 ∨ width = 8) (hk : kind ∈ [0, 8, 9]) (ha : off % width = 0)
    (hno : (s.scopeOne (hostIdent s.card) 3 (some 1) pa).1 = false) :
    exec (.inboundAtomicop off kind width x y) s = .next { s with answers := s.answers ++ [(off, [])] } := by
  show execInboundAtomicop off kind width x y s = _
  simp only [execInboundAtomicop, hpa]
  rw [if_pos (inboundAtomicop_supported h5 hw hk ha), if_pos (by rw [hno]; rfl)]

theorem inboundAtomicop_passed {s s2 : State} {off kind width pa : Nat} (x y : Dword) (hpa : s.barMem off = some pa) (h5 : s.stage = 5)
    (hw : width = 4 ∨ width = 8) (hk : kind ∈ [0, 8, 9]) (ha : off % width = 0)
    (hok : s.scopeOne (hostIdent s.card) 3 (some 1) pa = (true, s2)) :
    exec (.inboundAtomicop off kind width x y) s
      = .next { s2.hostAtom kind width x y pa with
          answers := (s2.hostAtom kind width x y pa).answers ++ [(off, bytesOf width (s.readN width pa))] } := by
  have hread : s.readN width pa = s2.readN width pa := by
    rw [← scopeOne_changes_lines hok]
    rfl
  show execInboundAtomicop off kind width x y s = _
  simp only [execInboundAtomicop, hpa]
  rw [if_pos (inboundAtomicop_supported h5 hw hk ha), hok, hread]
  rfl

theorem inboundAtomicop_performed {s s2 : State} {off kind width pa : Nat} (x y : Dword) (hpa : s.barMem off = some pa) (h5 : s.stage = 5)
    (hw : width = 4 ∨ width = 8) (hk : kind ∈ [0, 8, 9]) (ha : off % width = 0)
    (hok : s.scopeOne (hostIdent s.card) 3 (some 1) pa = (true, s2)) (hr : s.reuse = []) :
    brings (.inboundAtomicop off kind width x y) s fun t =>
      t.answers = s.answers ++ [(off, bytesOf width (s.readN width pa))]
        ∧ t.readN width pa = hostAtomNew kind width (s.readN width pa) x.toNat y.toNat
        ∧ (∀ b, ¬(pa ≤ b ∧ b < pa + width) → rdB t.mem b = rdB s.mem b) ∧ t.agents = s.agents ∧ t.lines = s2.lines := by
  have hs := scopeOne_changes_lines hok
  obtain ⟨hans, hmem, hagents, hreuse⟩ :
      s2.answers = s.answers ∧ s2.mem = s.mem ∧ s2.agents = s.agents ∧ s2.reuse = s.reuse := by
    rw [← hs]
    exact ⟨rfl, rfl, rfl, rfl⟩
  obtain ⟨hnew, hout, hag, hlines, ha2⟩ := hostAtom_spec (hreuse.trans hr) hk x y pa
  refine ⟨_, inboundAtomicop_passed x y hpa h5 hw hk ha hok, ?_, ?_, ?_, hag.trans hagents, hlines⟩
  · rw [ha2, hans]
  · have hread : s2.readN width pa = s.readN width pa := by rw [State.readN, hmem]; rfl
    rw [← hread]
    exact hnew
  · rw [← hmem]
    exact hout

/-- Settles O59: each clause is the rule of its request above. -/
theorem hostRequests : Obligations.HostRequests := by
  unfold Obligations.HostRequests
  intro s
  refine ⟨fun off n v h => registerWrite_ignored v h, ?keep, ?command, ?memWrite, ?regWrite, ?read, ?atomic⟩
  case keep =>
    intro h5 v
    refine ⟨fun c hc => ⟨?_, ctxWrite_rw h5 v hc (k := 1) (by decide) (by decide) rfl, ctxWrite_rw h5 v hc (k := 2) (by decide) (by decide) rfl,
      ctxWrite_rw h5 v hc (k := 3) (by decide) (by decide) rfl⟩, faultWrite_fq h5 v, faultWrite_fqHead h5 v, hostWrite_herr h5 v,
      hostWrite_hcto h5 v, hostWrite_readOnly h5 v, fun he => ⟨fun _ ho => wallWrite_disabled h5 he v ho, wallWrite_den h5 he v⟩,
      fun he _ ho => wallWrite_enabled h5 he v ho, fun c hc => ctxWrite_upperHalf h5 v hc⟩
    exact fun k hk => ctxWrite_allRw h5 v hc (by simpa using hk)
  case command =>
    intro h5 v
    exact ⟨fun q hq => tailWrite_doorbell h5 v hq, faultWrite_retry h5, faultWrite_kill h5, faultWrite_tiBusy h5 v,
      faultWrite_tlbPage h5, faultWrite_tlbContext h5, faultWrite_tlbAll h5, faultWrite_preempt h5, faultWrite_killContext h5,
      fun hv => ⟨memWrite_ergwSize h5 v, hostWrite_hablClear h5 hv, fabWrite_fabcfg h5 v, fun f hf => flowWrite_enable h5 hv hf⟩⟩
  case memWrite =>
    exact fun off bytes pa hpa hend hne => ⟨inboundMemWrite_early hpa hend, inboundMemWrite_memory hpa hend hne⟩
  case regWrite =>
    exact fun off bytes h0 h1 => ⟨inboundMemWrite_register h0 h1, inboundMemWrite_ignored h0⟩
  case read =>
    intro off n
    refine ⟨fun pa => inboundMemRead_memory, fun h0 h1 => ⟨?_, inboundMemRead_otherSize h0 h1⟩⟩
    rintro rfl ha
    exact inboundMemRead_register h0 h1 ha
  case atomic =>
    intro off kind width pa x y hpa
    exact ⟨fun h5 hw hk ha => ⟨fun s2 => inboundAtomicop_performed x y hpa h5 hw hk ha, inboundAtomicop_refused x y hpa h5 hw hk ha⟩,
      inboundAtomicop_unsupported x y hpa⟩

end Sys2Proof.Machine
end

section
/-!
PROOFS. O32: YIELD, END and HALT. First what the statement's words come down to in the model (a legal word, a valid record, an
agent that an update leaves), then a rule for each case of the three instructions, then the refutation.
-/
namespace Sys2Proof.KMap
variable {α : Type}

theorem find?_of_mem_nodup {m : KMap α} (hm : (m.map (·.1)).Nodup) {p : Nat × α} (hp : p ∈ m) : find? m p.1 = some p.2 := by
  induction m with
  | nil => cases hp
  | cons q m ih =>
    obtain ⟨hq, hm⟩ := List.nodup_cons.mp hm
    rw [find?_cons]
    obtain rfl | hp := List.mem_cons.mp hp
    · exact if_pos rfl
    · rw [if_neg fun h => hq (List.mem_map.mpr ⟨p, hp, h.symm⟩), ih hm hp]

/-- Where a key is listed once, a change at it is a change of the value that it reads as. -/
theorem upd_congr_of_nodup {m : KMap α} (hm : (m.map (·.1)).Nodup) {i : Nat} {v : α} (hv : find? m i = some v) {f g : α → α}
    (hfg : f v = g v) : upd m i f = upd m i g := by
  refine List.map_congr_left fun p hp => ?_
  by_cases hi : p.1 = i
  · have hpv : p.2 = v := by
      have h := find?_of_mem_nodup hm hp
      rw [hi, hv] at h
      exact (Option.some.inj h).symm
    simp only [if_pos hi, hpv, hfg]
  · simp only [if_neg hi]

theorem filter_key_of_nodup {m : KMap α} (hm : (m.map (·.1)).Nodup) {i : Nat} {v : α} (hv : find? m i = some v) :
    m.filter (fun p => decide (p.1 = i)) = [(i, v)] := by
  induction m with
  | nil => cases hv
  | cons q m ih =>
    obtain ⟨hq, hm⟩ := List.nodup_cons.mp hm
    rw [find?_cons] at hv
    split at hv
    · next hi =>
      obtain rfl := Option.some.inj hv
      subst hi
      have hrest : m.filter (fun p => decide (p.1 = q.1)) = [] :=
        List.filter_eq_nil_iff.mpr fun p hp => by
          simpa using fun h => hq (List.mem_map.mpr ⟨p, hp, h⟩)
      simp [hrest]
    · next hi => simp [hi, ih hm hv]

end Sys2Proof.KMap

namespace Sys2Proof.Machine
open Sys2Proof.Safety

/-! ## Issue and update of the issuer's own agent -/

theorem updAgent_updAgent (s : State) (a : Nat) (f g : Agent → Agent) :
    (s.updAgent a f).updAgent a g = s.updAgent a fun ag => g (f ag) := by
  simp only [State.updAgent, KMap.upd, List.map_map]
  congr 2
  funext p
  by_cases h : p.1 = a <;> simp [h]

theorem updAgent_id (s : State) (a : Nat) : s.updAgent a (fun ag => ag) = s := by
  rw [State.updAgent, KMap.upd_id]

/-- A legal instruction of one pass runs its body on the state with its slot taken. -/
theorem issueOne_ready {s : State} {c : Iss} (h : ready s c) {lg : Legal} (hl : lg.fate c = none) (foot : Iss → Foot) (lat : Nat)
    (fixed : Bool) (body : State → Iss → (Bool × Bool) → Out) :
    issueWith s lg foot .one lat fixed body = body (slotted s c 0) c (true, false) :=
  issueWith_ready h hl foot .one lat fixed body

theorem acts_of_updAgent {i : Instr} {s : State} {c : Iss} (hc : s.issuer = some c) {g : Agent → Agent}
    (he : exec i s = .next ((slotted s c 0).updAgent c.a g)) : acts i s c 0 (g c.ag) := by
  refine ⟨_, he, ?_, fun b hb => agent?_updAgent_ne _ _ hb, fun _ => rfl, rfl, rfl⟩
  rw [agent?_updAgent_self]
  exact congrArg (Option.map g) (issuer_agent hc).1

/-- An instruction leaves one agent. -/
theorem acts_unique {i : Instr} {s : State} {c : Iss} {extra : Nat} {x y : Agent} (hx : acts i s c extra x) (hy : acts i s c extra y) :
    x = y := by
  obtain ⟨t, ht, htx, -⟩ := hx
  obtain ⟨u, hu, huy, -⟩ := hy
  obtain rfl : t = u := by injection ht.symm.trans hu
  exact Option.some.inj (htx.symm.trans huy)

/-- The fragment held by w at the instruction that it issues at `clk`, or has issued (R226). -/
def Frag.heldBy (clk : Nat) (w : Wait) (fr : Frag) : Frag :=
  { fr with wait := w, phase := 4, iss := if fr.phase < 4 then clk else fr.iss }

theorem hold_eq_updAgent (s : State) (c : Iss) (w : Wait) :
    s.hold c w 4 = s.updAgent c.a fun ag => ag.updFrag c.fid (Frag.heldBy s.clk w) := rfl

/-- A hold that begins, where fragment numbers are distinct. -/
theorem updFrag_heldBy_eq_waiting {s : State} {c : Iss} (hc : ready s c) (hn : (c.ag.frags.map (·.1)).Nodup) (hh : c.fr.hop = 0)
    (w : Wait) : c.ag.updFrag c.fid (Frag.heldBy s.clk w) = { c.ag with frags := waiting s c w 0 } := by
  obtain ⟨hi, -, hp⟩ := hc
  refine congrArg (fun m => { c.ag with frags := m }) (KMap.upd_congr_of_nodup hn (issuer_agent hi).2 ?_)
  simp only [Frag.heldBy, if_pos hp, ← hh]

theorem rejected_none {ag : Agent} (h : ∀ o ∈ ag.ops, o.rej = none) (p : Op → Bool) : ag.rejected p = none := by
  have hfind : (ag.ops.find? fun o => o.rej.isSome && p o) = none :=
    List.find?_eq_none.mpr fun o ho => by simp [h o ho]
  simp [Agent.rejected, hfind]

/-! ## Legal words -/

theorem isLeat_of_group {ag : Agent} (h : ag.kind = .group) : ag.isLeat = false := by simp [Agent.isLeat, h]

/-- An F-SYS word without operands, SUB 0: it asks for the kind of agent and for no handler as its row does (R58, R48). -/
theorem fate_sysPlain {c : Iss} {f : FSYS} {leat noHnd : Bool} (hf : sysFields c f 0 false false false false 0)
    (hl : c.ag.isLeat = true → leat = true) (hn : noHnd = true → c.inHandler = false) :
    (legalSys f { leat := leat, noHnd := noHnd }).fate c = none := by
  obtain ⟨ha, hsub, hsd, hsa, hsb, hres, himm, -⟩ := hf
  refine fate_none ⟨hl, fun _ => rfl, nofun, hn⟩ ?_ ?_ ha nofun (fun _ => nofun)
  · simpa [legalSys, hsd rfl, hsa rfl, hsb rfl, hres rfl] using himm
  · simp [legalSys, hsub]

/-- An END word whose reserved fields are zero is legal outside a handler (R58, R47). -/
theorem fate_end {c : Iss} {f : FBR} (ha : allOk c f.all) (h1 : f.rsv = 0) (h2 : f.cond = 0) (h3 : f.sc = 0) (h4 : f.sl = 0)
    (h5 : f.off = 0) (hn : c.ag.handler = none) : ({ legalBR f false false false false with noHnd := true } : Legal).fate c = none := by
  refine fate_none ⟨fun _ => rfl, fun _ => rfl, nofun, fun _ => by simp [Iss.inHandler, hn]⟩ ?_ ?_ ha nofun (fun _ => ?_)
  · simp [legalBR, h1, h2, h3, h4, h5]
  · simp [legalBR]
  · simp [legalBR, h3, h4]

/-! ## Liveness records -/

theorem all_zipIdx_pairs {α : Type} (l : List α) (R : α → α → Bool) (hR : ∀ a b, R a b = R b a) :
    (l.zipIdx.all fun p => l.zipIdx.all fun q => decide (p.2 = q.2) || R p.1 q.1) = true ↔ l.Pairwise fun a b => R a b = true := by
  simp only [List.all_eq_true, Prod.forall, List.mem_zipIdx_iff_getElem?, Bool.or_eq_true, decide_eq_true_eq,
    List.pairwise_iff_getElem]
  constructor
  · intro h i j hi hj hij
    exact (h _ i (List.getElem?_eq_getElem hi) _ j (List.getElem?_eq_getElem hj)).resolve_left (by omega)
  · intro h a i hi b j hj
    obtain ⟨hil, rfl⟩ := List.getElem?_eq_some_iff.mp hi
    obtain ⟨hjl, rfl⟩ := List.getElem?_eq_some_iff.mp hj
    obtain hij | rfl | hij := Nat.lt_trichotomy i j
    · exact .inr (h i j hil hjl hij)
    · exact .inl rfl
    · exact .inr ((hR _ _).trans (h j i hjl hil hij))

/-- OFFi and LENi of a liveness record (R79). -/
def liveOff (r i : Nat) : Nat := r / 2 ^ (192 + 64 * i) % 2 ^ 32
def liveLen (r i : Nat) : Nat := r / 2 ^ (224 + 64 * i) % 2 ^ 32

/-- The conditions of R433 on the record r of a group with nv registers in a team with `size` bytes of scratchpad. -/
def validRecord (nv size r : Nat) : Prop :=
  r / 2 ^ 449 % 2 ^ 63 = 0 ∧ r % 2 ^ 64 < 2 ^ (nv / 16)
    ∧ (∀ i, i < 4 → liveOff r i % 4 = 0 ∧ liveLen r i % 4 = 0 ∧ (liveLen r i ≠ 0 → liveOff r i + liveLen r i ≤ size))
    ∧ (∀ i j, i < j → j < 4 → liveLen r i ≠ 0 → liveLen r j ≠ 0 →
        liveOff r i + liveLen r i ≤ liveOff r j ∨ liveOff r j + liveLen r j ≤ liveOff r i)

theorem overlap_comm (a n b m : Nat) : overlap a n b m = overlap b m a n := by
  simp [overlap, and_comm]

theorem not_overlap_iff (a n b m : Nat) : (!overlap a n b m) = true ↔ a + n ≤ b ∨ b + m ≤ a := by
  simp only [overlap, Bool.not_eq_true', decide_eq_false_iff_not]
  omega

theorem liveRanges_eq (r : Nat) :
    liveRanges r = ((List.range 4).map fun i => (liveOff r i, liveLen r i)).filter fun p => p.2 ≠ 0 := by
  simp only [liveRanges, natFld, Nat.shiftRight_eq_div_pow, liveOff, liveLen]

theorem forall_mem_liveRanges (r : Nat) (P : Nat × Nat → Prop) :
    (∀ p ∈ liveRanges r, P p) ↔ ∀ i, i < 4 → liveLen r i ≠ 0 → P (liveOff r i, liveLen r i) := by
  simp only [liveRanges_eq, List.mem_filter, List.mem_map, List.mem_range, decide_eq_true_eq]
  constructor
  · exact fun h i hi hl => h _ ⟨⟨i, hi, rfl⟩, hl⟩
  · rintro h _ ⟨⟨i, hi, rfl⟩, hl⟩
    exact h i hi hl

theorem pairwise_liveRanges (r : Nat) (R : Nat × Nat → Nat × Nat → Prop) :
    (liveRanges r).Pairwise R ↔ ∀ i j, i < j → j < 4 → liveLen r i ≠ 0 → liveLen r j ≠ 0 →
      R (liveOff r i, liveLen r i) (liveOff r j, liveLen r j) := by
  rw [liveRanges_eq, List.pairwise_filter, List.pairwise_map, List.pairwise_iff_getElem]
  simp only [List.getElem_range, List.length_range, decide_eq_true_eq]
  exact ⟨fun h i j hij hj => h i j (Nat.lt_trans hij hj) hj hij, fun h i j _ hj hij => h i j hij hj⟩

theorem liveOk_iff (ag : Agent) (tm : Team) (bytes : List Byte) : liveOk ag tm bytes = true ↔ validRecord ag.nv tm.size (numOf bytes) := by
  have hpairs := all_zipIdx_pairs (liveRanges (numOf bytes)) (fun a b => !overlap a.1 a.2 b.1 b.2)
    fun a b => by rw [overlap_comm]
  simp only [liveOk, Bool.and_eq_true, hpairs, pairwise_liveRanges, List.all_eq_true, forall_mem_liveRanges, not_overlap_iff]
  simp only [validRecord, List.forall_mem_map, List.mem_range, natFld, Nat.shiftRight_eq_div_pow, decide_eq_true_eq, Nat.pow_zero,
    Nat.div_one, liveOff, liveLen]
  constructor
  · rintro ⟨⟨⟨⟨hrsv, hmap⟩, hmul⟩, hin⟩, hdisj⟩
    exact ⟨hrsv, hmap, fun i hi => ⟨(hmul i hi).1, (hmul i hi).2, fun hl => of_decide_eq_true (hin i hi hl)⟩, hdisj⟩
  · rintro ⟨hrsv, hmap, hrange, hdisj⟩
    exact ⟨⟨⟨⟨hrsv, hmap⟩, fun i hi => ⟨(hrange i hi).1, (hrange i hi).2.1⟩⟩, fun i hi hl => decide_eq_true ((hrange i hi).2.2 hl)⟩, hdisj⟩

/-! ## YIELD (R433) -/

section Yield
variable {s : State} {c : Iss} {f : FSYS}

/-- The fragment at the header after its clause's liveness record, not before clk n. -/
def Frag.passRecord (n : Nat) (fr : Frag) : Frag := { fr.goHdr (fr.nextHdr + 64) with next := n }

theorem fate_yield (hk : c.ag.kind = .group) (hh : c.ag.handler = none) (hf : sysFields c f 0 false false false false 0) :
    (legalSys f { noHnd := true }).fate c = none :=
  fate_sysPlain (leat := false) hf (by simp [isLeat_of_group hk]) (by simp [Iss.inHandler, hh])

theorem yield_invalid_raises (hc : ready s c) (hk : c.ag.kind = .group) (hh : c.ag.handler = none)
    (hf : sysFields c f 0 false false false false 0) (hv : ¬validRecord c.ag.nv (s.teamOf c.ag).size (numOf c.fr.live)) :
    raises (.yield f) s c { code := 3, detail := 5 } := by
  rw [← liveOk_iff, Bool.not_eq_true] at hv
  have hv' : liveOk c.ag ((slotted s c 0).teamOf c.ag) c.fr.live = false := hv
  show execYield f s = _
  rw [execYield, issueOne_ready hc (fate_yield hk hh hf), hv']
  rfl

/-- YIELD with a valid record and no rejected operation holds or goes on. -/
theorem exec_yield_valid (hc : ready s c) (hk : c.ag.kind = .group) (hh : c.ag.handler = none)
    (hf : sysFields c f 0 false false false false 0) (hv : validRecord c.ag.nv (s.teamOf c.ag).size (numOf c.fr.live))
    (hr : ∀ o ∈ c.ag.ops, o.rej = none) :
    exec (.yield f) s =
      if s.preempting c.ag.ctx then .next ((slotted s c 0).hold c .yield 4)
      else .next ((slotted s c 0).updFrag c.a c.fid (Frag.passRecord (takenAt s f.stl))) := by
  rw [← liveOk_iff] at hv
  have hv' : liveOk c.ag ((slotted s c 0).teamOf c.ag) c.fr.live = true := hv
  have hp : ¬4 ≤ c.fr.phase := Nat.not_le.mpr hc.2.2
  show execYield f s = _
  rw [execYield, issueOne_ready hc (fate_yield hk hh hf), hv', rejected_none hr]
  simp only [if_neg hp]
  rfl

/-- YIELD with a valid record and no pre-emption pending: every fragment listed under the issuer's number goes on from its own
clause. -/
theorem yield_valid_acts (hc : ready s c) (hk : c.ag.kind = .group) (hh : c.ag.handler = none)
    (hf : sysFields c f 0 false false false false 0) (hv : validRecord c.ag.nv (s.teamOf c.ag).size (numOf c.fr.live))
    (hr : ∀ o ∈ c.ag.ops, o.rej = none) (hp : KMap.find? s.preempts c.ag.ctx = none) :
    acts (.yield f) s c 0 (c.ag.updFrag c.fid (Frag.passRecord (takenAt s f.stl))) := by
  refine acts_of_updAgent hc.1 (g := fun ag => ag.updFrag c.fid (Frag.passRecord (takenAt s f.stl))) ?_
  rw [exec_yield_valid hc hk hh hf hv hr, if_neg (by simp [State.preempting, hp]), State.updFrag]

/-- The same, where the issuer's number names one fragment: it goes on at the header after the record. -/
theorem yield_goes_on (hc : ready s c) (hlast : lastWord c) (hk : c.ag.kind = .group) (hh : c.ag.handler = none)
    (hf : sysFields c f 0 false false false false 0) (hv : validRecord c.ag.nv (s.teamOf c.ag).size (numOf c.fr.live))
    (hr : ∀ o ∈ c.ag.ops, o.rej = none) (hp : KMap.find? s.preempts c.ag.ctx = none) (hn : (c.ag.frags.map (·.1)).Nodup) :
    acts (.yield f) s c 0
      { c.ag with frags := KMap.upd c.ag.frags c.fid fun fr => { fr.goHdr (nextClause c + 64) with next := takenAt s f.stl } } := by
  have hnext : c.fr.nextHdr = nextClause c := by rw [Frag.nextHdr, nextClause, hlast.2]
  have hupd := KMap.upd_congr_of_nodup hn (issuer_agent hc.1).2
    (f := Frag.passRecord (takenAt s f.stl)) (g := fun fr => { fr.goHdr (nextClause c + 64) with next := takenAt s f.stl })
    (by simp only [Frag.passRecord, hnext])
  rw [← hupd]
  exact yield_valid_acts hc hk hh hf hv hr hp

theorem yield_preempted_waits (hc : ready s c) (hk : c.ag.kind = .group) (hh : c.ag.handler = none)
    (hf : sysFields c f 0 false false false false 0) (hv : validRecord c.ag.nv (s.teamOf c.ag).size (numOf c.fr.live))
    (hr : ∀ o ∈ c.ag.ops, o.rej = none) (hp : KMap.find? s.preempts c.ag.ctx ≠ none) (hhop : c.fr.hop = 0)
    (hn : (c.ag.frags.map (·.1)).Nodup) : acts (.yield f) s c 0 { c.ag with frags := waiting s c .yield 0 } := by
  rw [← updFrag_heldBy_eq_waiting hc hn hhop]
  refine acts_of_updAgent hc.1 (g := fun ag => ag.updFrag c.fid (Frag.heldBy s.clk .yield)) ?_
  rw [exec_yield_valid hc hk hh hf hv hr, if_pos (by simpa [State.preempting, Option.isSome_iff_ne_none] using hp), hold_eq_updAgent]
  rfl

end Yield

/-! ## The last fragment's end (R95) -/

section EndLast
variable {s : State} {c : Iss} {i : Instr} {g fin : Agent → Agent}

/-- An instruction that changes the agent by g and then ends it: with no operation in flight it is over. -/
theorem acts_endLast_empty (hc : s.issuer = some c) (hops : c.ag.ops = [])
    (he : exec i s = .next (((slotted s c 0).updAgent c.a g).endLast c fun t => t.updAgent c.a fin)) : acts i s c 0 (fin (g c.ag)) := by
  refine acts_of_updAgent hc (g := fun ag => fin (g ag)) ?_
  rw [he, State.endLast, rejected_none (by simp [hops])]
  simp [hops, updAgent_updAgent]

/-- With operations in flight its fragment waits for the counters. -/
theorem acts_endLast_busy (hc : ready s c) (hops : c.ag.ops ≠ []) (hr : ∀ o ∈ c.ag.ops, o.rej = none)
    (he : exec i s = .next (((slotted s c 0).updAgent c.a g).endLast c fun t => t.updAgent c.a fin)) :
    acts i s c 0 ((g c.ag).updFrag c.fid (Frag.heldBy s.clk .ended)) := by
  refine acts_of_updAgent hc.1 (g := fun ag => (g ag).updFrag c.fid _) ?_
  rw [he, State.endLast, rejected_none hr]
  simp only [List.isEmpty_iff, hops, if_false, hold_eq_updAgent, updAgent_updAgent]
  rfl

end EndLast

/-! ## END (R95, R145, R310) -/

section End
variable {s : State} {c : Iss} {f : FBR}

/-- The reserved fields of an END word are zero, and ALL is allowed. -/
def endFields (c : Iss) (f : FBR) : Prop := allOk c f.all ∧ f.rsv = 0 ∧ f.cond = 0 ∧ f.sc = 0 ∧ f.sl = 0 ∧ f.off = 0

theorem exec_end (hc : ready s c) (hf : endFields c f) (hh : c.ag.handler = none) :
    exec (.endGroup f) s =
      if c.ag.frags.length ≤ 1 then
        .next ((slotted s c 0).endLast c fun t => t.updAgent c.a fun ag => ag.endFrag c.fid s.clk)
      else .next ((slotted s c 0).updAgent c.a fun ag => ag.endFrag c.fid s.clk) := by
  obtain ⟨ha, h1, h2, h3, h4, h5⟩ := hf
  show execEnd f s = _
  rw [execEnd, issueOne_ready hc (fate_end ha h1 h2 h3 h4 h5 hh)]
  rfl

theorem end_in_handler_raises (hc : ready s c) (hh : c.ag.handler.isSome = true) (hk : c.ag.kind = .group) :
    exec (.endGroup f) s = .next (s.raise c.a c.fid { code := 3, detail := 1 }) := by
  show execEnd f s = _
  refine issueWith_illegal hc.1 ?_ ..
  simp [Legal.fate, legalBR, isLeat_of_group hk, Iss.inHandler, hh, illegalOp]

theorem endFrag_only {ag : Agent} {x : Nat} {fr : Frag} (hfr : ag.frags = [(x, fr)]) (hs : ag.split = []) (clk : Nat) :
    ag.endFrag x clk = { ag with frags := [], ended := true } := by
  simp [Agent.endFrag, Agent.entriesOf, hs, hfr, KMap.del, sortBy]

theorem end_only_acts (hc : ready s c) (hf : endFields c f) (hh : c.ag.handler = none) (hfr : c.ag.frags = [(c.fid, c.fr)])
    (hs : c.ag.split = []) (hops : c.ag.ops = []) : acts (.endGroup f) s c 0 { c.ag with frags := [], ended := true } := by
  rw [← endFrag_only hfr hs s.clk]
  refine acts_endLast_empty (g := fun ag => ag) (fin := fun ag => ag.endFrag c.fid s.clk) hc.1 hops ?_
  rw [exec_end hc hf hh, if_pos (by simp [hfr]), updAgent_id]

theorem end_only_waits (hc : ready s c) (hf : endFields c f) (hh : c.ag.handler = none) (hfr : c.ag.frags = [(c.fid, c.fr)])
    (hhop : c.fr.hop = 0) (hr : ∀ o ∈ c.ag.ops, o.rej = none) (hops : c.ag.ops ≠ []) :
    acts (.endGroup f) s c 0 { c.ag with frags := waiting s c .ended 0 } := by
  rw [← updFrag_heldBy_eq_waiting hc (by simp [hfr]) hhop]
  refine acts_endLast_busy (g := fun ag => ag) (fin := fun ag => ag.endFrag c.fid s.clk) hc hops hr ?_
  rw [exec_end hc hf hh, if_pos (by simp [hfr]), updAgent_id]

/-- The agent once the child of its one entry has ended (R145): a parent that waits at the JOIN goes on alone, from `clk` + 3; else
the child has arrived. -/
def Agent.childEnded (ag : Agent) (clk e : Nat) (n : SplitEnt) (pf : Frag) : Agent :=
  if pf.wait = .join e then { ag with split := [], frags := [(n.pid, { pf.goHdr pf.nextHdr with em := n.pem, next := clk + 3 })] }
  else { ag with frags := [(n.pid, pf)], split := [(e, { n with ca := true, cem := 0 })] }

section Child
variable {ag : Agent} {e : Nat} {n : SplitEnt} {pf : Frag}

theorem endAt_child (hs : ag.split = [(e, n)]) (hne : n.pid ≠ n.cid) (hfr : ag.frags = [(n.pid, pf)]) (clk : Nat) :
    ag.endAt n.cid clk e = ag.childEnded clk e n pf := by
  by_cases hw : pf.wait = .join e
  · simp [Agent.endAt, Agent.fuse, Agent.putFrag, Agent.childEnded, hs, hfr, hne, hw, KMap.find?, KMap.put, KMap.del]
  · simp [Agent.endAt, Agent.childEnded, hs, hfr, hne, hw, KMap.find?, KMap.put]

theorem childEnded_frags_ne_nil (ag : Agent) (clk e : Nat) (n : SplitEnt) (pf : Frag) : (ag.childEnded clk e n pf).frags ≠ [] := by
  unfold Agent.childEnded
  split <;> simp

/-- The end of a child is its arrival at the entry that it takes part in. -/
theorem endFrag_child (hs : ag.split = [(e, n)]) (hne : n.pid ≠ n.cid) {fr : Frag} (hfr : ag.frags = [(n.pid, pf), (n.cid, fr)])
    (clk : Nat) : ag.endFrag n.cid clk = ag.childEnded clk e n pf := by
  have hes : (ag.entriesOf n.cid).map (·.1) = [e] := by simp [Agent.entriesOf, hs, sortBy, insertBy]
  have hdel : KMap.del ag.frags n.cid = [(n.pid, pf)] := by simp [hfr, KMap.del, hne]
  have hat := endAt_child (ag := { ag with frags := [(n.pid, pf)] }) hs hne rfl clk
  simp only [Agent.endFrag, hes, hdel, List.foldl_cons, List.foldl_nil, hat, List.isEmpty_iff, childEnded_frags_ne_nil, if_false]
  rfl

end Child

theorem end_child_acts {e : Nat} {n : SplitEnt} {pf : Frag} (hc : ready s c) (hf : endFields c f) (hh : c.ag.handler = none)
    (hs : c.ag.split = [(e, n)]) (hcid : n.cid = c.fid) (hne : n.pid ≠ n.cid) (hfr : c.ag.frags = [(n.pid, pf), (c.fid, c.fr)]) :
    acts (.endGroup f) s c 0 (c.ag.childEnded s.clk e n pf) := by
  rw [← endFrag_child hs hne (hcid ▸ hfr), hcid]
  refine acts_of_updAgent hc.1 (g := fun ag => ag.endFrag c.fid s.clk) ?_
  rw [exec_end hc hf hh, if_neg (by simp [hfr])]

end End

/-! ## HALT (R438) -/

section Halt
variable {s : State} {c : Iss} {f : FSYS}

/-- What HALT leaves of the agent before its last fragment ends. -/
def Agent.abandonTo (ag : Agent) (fid : Nat) : Agent :=
  { ag with frags := ag.frags.filter (fun (p : Nat × Frag) => p.1 = fid), split := [], handler := none }

theorem exec_halt (hc : ready s c) (hf : sysFields c f 0 false false false false 0) :
    exec (.halt f) s = .next (((slotted s c 0).updAgent c.a fun ag => ag.abandonTo c.fid).endLast c
      fun t => t.updAgent c.a fun ag => { ag with frags := [], ended := true }) := by
  have hl := fate_sysPlain (leat := true) (noHnd := false) hf (fun _ => rfl) nofun
  show execHalt f s = _
  rw [execHalt, issueOne_ready hc hl]
  rfl

theorem halt_acts (hc : ready s c) (hf : sysFields c f 0 false false false false 0) (hops : c.ag.ops = []) :
    acts (.halt f) s c 0 { c.ag with frags := [], split := [], handler := none, ended := true } :=
  acts_endLast_empty hc.1 hops (exec_halt hc hf)

theorem halt_waits (hc : ready s c) (hf : sysFields c f 0 false false false false 0) (hn : (c.ag.frags.map (·.1)).Nodup)
    (hr : ∀ o ∈ c.ag.ops, o.rej = none) (hops : c.ag.ops ≠ []) :
    acts (.halt f) s c 0
      { c.ag with frags := [(c.fid, { c.fr with wait := .ended, phase := 4, iss := s.clk })], split := [], handler := none } := by
  have h := acts_endLast_busy hc hops hr (exec_halt hc hf)
  simp only [Agent.abandonTo, Agent.updFrag, KMap.filter_key_of_nodup hn (issuer_agent hc.1).2, KMap.upd, List.map_cons, List.map_nil,
    if_true, Frag.heldBy, if_pos hc.2.2] at h
  exact h

end Halt

/-! ## The refutation -/

/-- A YIELD at the last word of its clause, whose header stands at h, with an empty liveness record. -/
def yieldFrag (h : Nat) : Frag := { h := h, k := 1, em := 1, own := 1, code := [0], live := List.replicate 64 0 }

/-- A group whose map of fragments lists number 0 twice, at the headers 0 and 0x1000; a read of the map sees the first only. -/
def twiceListed : Agent :=
  { kind := .group, core := 0, ctx := 0, team := 1, nv := 16, frags := [(0, yieldFrag 0), (0, yieldFrag 0x1000)] }

def twiceListedState : State := { State.reset with cur := (1, 0), agents := [(1, twiceListed)] }

def twiceListedIss : Iss := { a := 1, fid := 0, ag := twiceListed, fr := yieldFrag 0 }

def plainYield : FSYS := { stl := 0, all := 0, sd := 0, sa := 0, sb := 0, res := 0, sub := 0, imm := 0 }

theorem twiceListed_ready : ready twiceListedState twiceListedIss ∧ lastWord twiceListedIss
    ∧ sysFields twiceListedIss plainYield 0 false false false false 0
    ∧ (∀ o ∈ twiceListedIss.ag.ops, o.rej = none) ∧ KMap.find? twiceListedState.preempts twiceListedIss.ag.ctx = none := by decide +kernel

theorem validRecord_zero (nv size : Nat) : validRecord nv size 0 := by
  have hoff : ∀ i, liveOff 0 i = 0 := fun i => by rw [liveOff, Nat.zero_div, Nat.zero_mod]
  have hlen : ∀ i, liveLen 0 i = 0 := fun i => by rw [liveLen, Nat.zero_div, Nat.zero_mod]
  refine ⟨by rw [Nat.zero_div, Nat.zero_mod], ?_, fun i _ => ?_, fun i _ _ _ h => absurd (hlen i) h⟩
  · rw [Nat.zero_mod]
    exact Nat.two_pow_pos _
  · rw [hoff, hlen]
    exact ⟨rfl, rfl, fun h => absurd rfl h⟩

theorem numOf_live : numOf twiceListedIss.fr.live = 0 := by decide +kernel

/-- What the statement claims of YIELD with a valid record and no pre-emption pending. -/
theorem yieldsAndEnds_claim (h : Obligations.YieldsAndEnds) {s : State} {c : Iss} {f : FSYS} (hc : ready s c) (hlast : lastWord c)
    (hk : c.ag.kind = .group) (hh : c.ag.handler = none) (hf : sysFields c f 0 false false false false 0)
    (hv : validRecord c.ag.nv (s.teamOf c.ag).size (numOf c.fr.live)) (hr : ∀ o ∈ c.ag.ops, o.rej = none)
    (hp : KMap.find? s.preempts c.ag.ctx = none) :
    acts (.yield f) s c 0
      { c.ag with frags := KMap.upd c.ag.frags c.fid fun fr => { fr.goHdr (nextClause c + 64) with next := takenAt s f.stl } } :=
  ((h.1 s c f hc hlast hk hh hf).2 hv hr).1 hp

/-- Refutes O32: its YIELD clauses do not ask, as its HALT clause does, that a fragment number is listed once. Where number 0 is
listed twice, the device's change of fragment 0 takes the second entry to the header after its own record, 0x1050, and not to the
one after the issuer's record, 0x50. The rules above are the statement's clauses, those of YIELD with the fragment numbers distinct. -/
theorem not_yieldsAndEnds : ¬ Obligations.YieldsAndEnds := by
  intro h
  obtain ⟨hc, hlast, hf, hr, hp⟩ := twiceListed_ready
  have hv : validRecord twiceListedIss.ag.nv (twiceListedState.teamOf twiceListedIss.ag).size (numOf twiceListedIss.fr.live) := by
    rw [numOf_live]
    exact validRecord_zero ..
  have hmodel := yield_valid_acts hc rfl rfl hf hv hr hp
  have hclaim := yieldsAndEnds_claim h hc hlast rfl rfl hf hv hr hp
  have hsame := congrArg (fun ag => ag.frags.map fun p => p.2.h) (acts_unique hmodel hclaim)
  exact absurd hsame (by decide +kernel)

end Sys2Proof.Machine
end

section
/-!
PROOFS. O10, O11, O12: what the common frame of the scalar instructions (R82) writes, in terms of exact integers, then each
operation of R83 to R89 on bit vectors as the integer operation that it stands for.
-/
namespace Sys2Proof.Machine
open Sys2Proof.Safety

/-! ## Operands and results (R82) -/

theorem scalarTypes_spec {ty : BitVec 4} {w : Nat} {sgn : Bool} (h : (ty, w, sgn) ∈ scalarTypes) :
    tyWidth ty = w ∧ tySgn ty = sgn ∧ tyScalar ty = true ∧ (w = 32 ∨ w = 64) := by
  simp only [scalarTypes, List.mem_cons, Prod.mk.injEq, List.not_mem_nil, or_false] at h
  obtain ⟨rfl, rfl, rfl⟩ | ⟨rfl, rfl, rfl⟩ | ⟨rfl, rfl, rfl⟩ | ⟨rfl, rfl, rfl⟩ := h <;> decide

theorem two_pow_eq_double {w : Nat} (hw : 0 < w) : 2 ^ w = 2 * 2 ^ (w - 1) := by
  rw [← Nat.pow_succ', Nat.succ_eq_add_one, Nat.sub_add_cancel hw]

theorem ofInt_congr {w : Nat} {r r' : Int} (h : r % 2 ^ w = r' % 2 ^ w) : BitVec.ofInt w r = BitVec.ofInt w r' := by
  apply BitVec.eq_of_toNat_eq
  rw [BitVec.toNat_ofInt, BitVec.toNat_ofInt]
  push_cast
  rw [h]

theorem ofInt_sub (w : Nat) (x y : Int) : BitVec.ofInt w (x - y) = BitVec.ofInt w x - BitVec.ofInt w y := by
  rw [sub_eq_add_neg, BitVec.ofInt_add, BitVec.ofInt_neg, ← sub_eq_add_neg]

/-- An operand is congruent to the register's low bits. -/
theorem ofInt_operand (w : Nat) (sgn : Bool) (x : Dword) : BitVec.ofInt w (operand w sgn x) = x.setWidth w := by
  have hu : BitVec.ofInt w (operand w sgn x) = BitVec.ofInt w x.toNat := by
    apply ofInt_congr
    simp only [operand]
    split <;> simp
  rw [hu, BitVec.ofInt_natCast, BitVec.ofNat_toNat]

theorem operand_eq_ival {w : Nat} (hw : 0 < w) (sgn : Bool) (x : Dword) : operand w sgn x = ival sgn (x.setWidth w) := by
  have h2 := two_pow_eq_double hw
  cases sgn
  · simp [operand, ival]
  · simp only [operand, ival, BitVec.toInt_eq_toNat_cond, BitVec.toNat_setWidth, true_and, if_true]
    push_cast
    split <;> split <;> omega

/-- The extension of R82 of a w-bit result is what the register receives for the integer. -/
theorem extResult_ofInt {ty : BitVec 4} {w : Nat} (hw : w = 32 ∨ w = 64) (r : Int) :
    extResult ty (BitVec.ofInt w r) = written w (tySgn ty) r := by
  have hlt : (r % 2 ^ w).toNat < 2 ^ w := by
    have := Int.emod_lt_of_pos r (b := 2 ^ w) (by positivity)
    have := Int.emod_nonneg r (b := 2 ^ w) (by positivity)
    zify; omega
  have hof : BitVec.ofInt w r = BitVec.ofNat w (r % 2 ^ w).toNat := by
    apply BitVec.eq_of_toNat_eq
    rw [BitVec.toNat_ofInt, BitVec.toNat_ofNat, Nat.mod_eq_of_lt hlt]
    push_cast; rfl
  simp only [written, extResult, hof]
  generalize (r % 2 ^ w).toNat = u at hlt
  apply BitVec.eq_of_toNat_eq
  cases tySgn ty
  · obtain rfl | rfl := hw
    · simp; omega
    · simp
  · simp only [if_true, true_and, BitVec.toNat_signExtend, BitVec.toNat_setWidth, BitVec.msb_eq_decide, decide_eq_true_eq,
      BitVec.toNat_ofNat, Nat.mod_eq_of_lt hlt, apply_ite BitVec.toNat]
    obtain rfl | rfl := hw
    all_goals split <;> omega

/-! ## The frame of R82 -/

section Exec
variable (f : FS3) (s : State)

theorem exec_sadd : exec (.sadd f) s = execSadd f s := rfl
theorem exec_ssub : exec (.ssub f) s = execSsub f s := rfl
theorem exec_smul : exec (.smul f) s = execSmul f s := rfl
theorem exec_smulh : exec (.smulh f) s = execSmulh f s := rfl
theorem exec_sdiv : exec (.sdiv f) s = execSdiv f s := rfl
theorem exec_srem : exec (.srem f) s = execSrem f s := rfl
theorem exec_smin : exec (.smin f) s = execSmin f s := rfl
theorem exec_smax : exec (.smax f) s = execSmax f s := rfl
theorem exec_sand : exec (.sand f) s = execSand f s := rfl
theorem exec_sor : exec (.sor f) s = execSor f s := rfl
theorem exec_sxor : exec (.sxor f) s = execSxor f s := rfl
theorem exec_sshl : exec (.sshl f) s = execSshl f s := rfl
theorem exec_sshr : exec (.sshr f) s = execSshr f s := rfl
theorem exec_ssar : exec (.ssar f) s = execSsar f s := rfl
theorem exec_slea : exec (.slea f) s = execSlea f s := rfl
theorem exec_smov : exec (.smov f) s = execSmov f s := rfl
theorem exec_snot : exec (.snot f) s = execSnot f s := rfl
theorem exec_spopc : exec (.spopc f) s = execSpopc f s := rfl
theorem exec_sclz : exec (.sclz f) s = execSclz f s := rfl
theorem exec_sctz : exec (.sctz f) s = execSctz f s := rfl
theorem exec_scmp : exec (.scmp f) s = execScmp f s := rfl
theorem exec_ssel : exec (.ssel f) s = execSsel f s := rfl
theorem exec_sbfe : exec (.sbfe f) s = execSbfe f s := rfl
theorem exec_sbfi : exec (.sbfi f) s = execSbfi f s := rfl

end Exec

theorem opB_eq_operandB (f : FS3) (ag : Agent) : opB f ag = operandB f (tySgn f.ty) ag := rfl

/-- A scalar instruction whose operation on the operands' low bits is the integer `r` modulo 2^w writes `r`. -/
theorem acts_scalarS3_int {i : Instr} {s : State} {c : Iss} {f : FS3} {row : S3Row} {lat w : Nat} {sgn : Bool} {r : Int}
    {op : (w : Nat) → (sgn : Bool) → (a b c : BitVec w) → BitVec w} (ht : (f.ty, w, sgn) ∈ scalarTypes) (h : ready s c)
    (hl : (legalS3 f row).fate c = none) (he : exec i s = scalarS3 f row lat op s)
    (hr : op w sgn ((c.ag.sr f.sa.toNat).setWidth w) ((operandB f sgn c.ag).setWidth w) ((c.ag.sr f.sc.toNat).setWidth w) = BitVec.ofInt w r) :
    acts i s c 0 (wroteS s c f.sd (written w sgn r) lat f.stl) := by
  obtain ⟨rfl, rfl, -, hw⟩ := scalarTypes_spec ht
  have hx := acts_scalarS3 he h hl
  rwa [opB_eq_operandB, hr, extResult_ofInt hw] at hx

/-! ## Arithmetic (R85, R86) -/

section Arithmetic
variable {w : Nat} (sgn : Bool) (a b c : BitVec w)

@[simp] theorem ofInt_ival : BitVec.ofInt w (ival sgn a) = a := by
  cases sgn
  · simp [ival]
  · exact BitVec.ofInt_toInt

theorem ival_eq_zero_iff : ival sgn a = 0 ↔ a = 0 := by
  constructor
  · intro h
    rw [← ofInt_ival sgn a, h]
    rfl
  · rintro rfl
    cases sgn <;> simp [ival]

theorem ofInt_neg_one (w : Nat) : BitVec.ofInt w (-1) = BitVec.allOnes w := by
  rw [← BitVec.neg_one_eq_allOnes, BitVec.ofInt_neg]
  rfl

/-- The overflow case of R86: the divisor is -1. -/
theorem ival_of_overflow {w : Nat} (hw : 0 < w) {sgn : Bool} {a b : BitVec w}
    (h : (sgn && decide (a = BitVec.intMin w) && decide (b = BitVec.allOnes w)) = true) :
    ival sgn b = -1 ∧ -a = a := by
  simp only [Bool.and_eq_true, decide_eq_true_eq] at h
  obtain ⟨⟨rfl, rfl⟩, rfl⟩ := h
  exact ⟨by simp [ival, BitVec.toInt_allOnes, hw], BitVec.neg_intMin⟩

theorem sdivOp_eq (hw : 0 < w) :
    sdivOp w sgn a b c = BitVec.ofInt w (if ival sgn b = 0 then -1 else (ival sgn a).tdiv (ival sgn b)) := by
  unfold sdivOp
  simp only [ival_eq_zero_iff]
  split
  · exact (ofInt_neg_one w).symm
  · split
    · next h =>
      obtain ⟨hb, ha⟩ := ival_of_overflow hw h
      rw [hb, Int.tdiv_neg, Int.tdiv_one, BitVec.ofInt_neg, ofInt_ival, ha]
    · rfl

theorem sremOp_eq (hw : 0 < w) :
    sremOp w sgn a b c = BitVec.ofInt w (if ival sgn b = 0 then ival sgn a else (ival sgn a).tmod (ival sgn b)) := by
  unfold sremOp
  simp only [ival_eq_zero_iff]
  split
  · exact (ofInt_ival sgn a).symm
  · split
    · next h =>
      rw [(ival_of_overflow hw h).1, Int.tmod_neg, Int.tmod_one]
      rfl
    · rfl

theorem sminOp_eq : sminOp w sgn a b c = BitVec.ofInt w (min (ival sgn a) (ival sgn b)) := by
  unfold sminOp
  split
  · rw [min_eq_right (by omega), ofInt_ival]
  · rw [min_eq_left (by omega), ofInt_ival]

theorem smaxOp_eq : smaxOp w sgn a b c = BitVec.ofInt w (max (ival sgn a) (ival sgn b)) := by
  unfold smaxOp
  split
  · rw [max_eq_right (by omega), ofInt_ival]
  · rw [max_eq_left (by omega), ofInt_ival]

end Arithmetic

/-- Fields that are among those of a word in order, or zero, are in order (R51). -/
theorem scalarsOk_of_subset {c : Iss} {rs rs' : List (BitVec 7)} (h : scalarsOk c rs) (hr : ∀ r ∈ rs', r ∈ rs ∨ r = 0) : scalarsOk c rs' :=
  fun hk r hm => (hr r hm).elim (h hk r) fun h0 => by rw [h0]; decide

/-- Settles O10: in each operation of R85 and R86 the low bits of the result are those of the exact integer. -/
theorem scalarArithmetic : Obligations.ScalarArithmetic := by
  unfold Obligations.ScalarArithmetic
  intro s c f w sgn hc ha ht hs hcc hsc hsb hx
  obtain ⟨hwid, hsgn, hty, hw⟩ := scalarTypes_spec ht
  have hw0 : 0 < w := by omega
  have hl : (legalS3 f {}).fate c = none :=
    fate_legalS3 ha hty (scalarsOk_of_subset hs (by simp [hsc])) (fun _ => rfl) (fun _ => hcc) (by simp [hcc]) (by simpa using hsb) (fun _ => hsc) hx
  have hlat : divLat f.ty = if w = 32 then 20 else 36 := by rw [divLat, hwid]
  dsimp only
  rw [← hlat]
  refine ⟨acts_scalarS3_int ht hc hl (exec_sadd f s) ?add, acts_scalarS3_int ht hc hl (exec_ssub f s) ?sub, acts_scalarS3_int ht hc hl (exec_smul f s) ?mul,
    acts_scalarS3_int ht hc hl (exec_smulh f s) ?mulh, acts_scalarS3_int ht hc hl (exec_sdiv f s) ?div, acts_scalarS3_int ht hc hl (exec_srem f s) ?rem,
    acts_scalarS3_int ht hc hl (exec_smin f s) ?min, acts_scalarS3_int ht hc hl (exec_smax f s) ?max⟩
  case add => rw [BitVec.ofInt_add, ofInt_operand, ofInt_operand]
  case sub => rw [ofInt_sub, ofInt_operand, ofInt_operand]
  case mul => rw [BitVec.ofInt_mul, ofInt_operand, ofInt_operand]
  all_goals simp only [operand_eq_ival hw0]
  case mulh => rfl
  case div => exact sdivOp_eq sgn _ _ _ hw0
  case rem => exact sremOp_eq sgn _ _ _ hw0
  case min => exact sminOp_eq sgn _ _ _
  case max => exact smaxOp_eq sgn _ _ _

/-! ## Logic, shifts and addresses (R83, R84, R89) -/

section Logic
variable {w : Nat} (sgn : Bool) (a b c : BitVec w)

theorem eq_ofInt_of_toNat {a : BitVec w} {n : Nat} (h : a.toNat = n % 2 ^ w) : a = BitVec.ofInt w n := by
  apply BitVec.eq_of_toNat_eq
  rw [h, BitVec.ofInt_natCast, BitVec.toNat_ofNat]

theorem and_eq_ofInt : a &&& b = BitVec.ofInt w (a.toNat &&& b.toNat : Nat) :=
  eq_ofInt_of_toNat (by rw [← BitVec.toNat_and, BitVec.toNat_mod_cancel])

theorem or_eq_ofInt : a ||| b = BitVec.ofInt w (a.toNat ||| b.toNat : Nat) :=
  eq_ofInt_of_toNat (by rw [← BitVec.toNat_or, BitVec.toNat_mod_cancel])

theorem xor_eq_ofInt : a ^^^ b = BitVec.ofInt w (a.toNat ^^^ b.toNat : Nat) :=
  eq_ofInt_of_toNat (by rw [← BitVec.toNat_xor, BitVec.toNat_mod_cancel])

theorem sshlOp_eq : sshlOp w sgn a b c = BitVec.ofInt w (a.toNat * 2 ^ (b.toNat % 128) : Nat) := by
  apply eq_ofInt_of_toNat
  unfold sshlOp shiftCount
  split
  · rw [BitVec.toNat_shiftLeft, Nat.shiftLeft_eq]
  · next h =>
    have hd : 2 ^ w ∣ a.toNat * 2 ^ (b.toNat % 128) := (Nat.pow_dvd_pow 2 (by omega)).mul_left _
    rw [Nat.mod_eq_zero_of_dvd hd]
    rfl

theorem sshrOp_eq : sshrOp w sgn a b c = BitVec.ofInt w (a.toNat / 2 ^ (b.toNat % 128) : Nat) := by
  apply eq_ofInt_of_toNat
  unfold sshrOp shiftCount
  rw [Nat.mod_eq_of_lt (Nat.lt_of_le_of_lt (Nat.div_le_self ..) a.isLt)]
  split
  · rw [BitVec.toNat_ushiftRight, Nat.shiftRight_eq_div_pow]
  · next h =>
    have hlt : a.toNat < 2 ^ (b.toNat % 128) := Nat.lt_of_lt_of_le a.isLt (Nat.pow_le_pow_right (by decide) (by omega))
    rw [Nat.div_eq_of_lt hlt]
    rfl

/-- A signed number is below 2^k in magnitude for each k from its width less one on: divided by 2^k it leaves its sign. -/
theorem toInt_div_two_pow {k : Nat} (hk : w - 1 ≤ k) (a : BitVec w) : a.toInt / 2 ^ k = if a.toInt < 0 then -1 else 0 := by
  have hp : (2 : Int) ^ (w - 1) ≤ 2 ^ k := pow_le_pow_right₀ (by decide) hk
  have h1 := BitVec.le_toInt a
  have h2 := BitVec.toInt_lt (x := a)
  split
  · rw [Int.ediv_eq_iff_of_pos (by positivity)]
    omega
  · exact Int.ediv_eq_zero_of_lt (by omega) (by omega)

theorem ssarOp_eq : ssarOp w sgn a b c = BitVec.ofInt w (a.toInt / 2 ^ (b.toNat % 128)) := by
  have hk : ∀ k, a.sshiftRight k = BitVec.ofInt w (a.toInt / 2 ^ k) := fun k => by
    rw [← BitVec.ofInt_toInt (x := a.sshiftRight k), BitVec.toInt_sshiftRight, Int.shiftRight_eq_div_pow]
    norm_cast
  unfold ssarOp shiftCount
  rw [hk]
  obtain h | h := Nat.le_total (b.toNat % 128) (w - 1)
  · rw [min_eq_left h]
  · rw [min_eq_right h, toInt_div_two_pow (Nat.le_refl _), toInt_div_two_pow h]

theorem sleaOp_eq (cc : Nat) : sleaOp cc w sgn a b c = BitVec.ofInt w (a.toNat + b.toNat * 2 ^ cc : Nat) := by
  apply eq_ofInt_of_toNat
  rw [sleaOp, BitVec.toNat_add, BitVec.toNat_shiftLeft, Nat.shiftLeft_eq, Nat.add_mod_mod]

end Logic

/-- Settles O11: each operation of R83, R84 and R89 on the operands' low bits as numbers. -/
theorem scalarLogicAndShifts : Obligations.ScalarLogicAndShifts := by
  unfold Obligations.ScalarLogicAndShifts
  intro s c f w sgn hc ha ht hs hsc hsb hx
  obtain ⟨-, -, hty, hw⟩ := scalarTypes_spec ht
  have hs4 : scalarsOk c [f.sd, f.sa, f.sb, f.sc] := scalarsOk_of_subset hs (by simp [hsc])
  have hb : ∀ row : S3Row, row.usesB = true → f.im = 1 ∨ row.usesB = false → f.sb = 0 := fun row hr => by simpa [hr] using hsb
  simp only [← BitVec.toNat_setWidth]
  refine ⟨fun hcc => ?_, ?_⟩
  · have hl : (legalS3 f {}).fate c = none :=
      fate_legalS3 ha hty hs4 (fun _ => rfl) (fun _ => hcc) (by simp [hcc]) (hb _ rfl) (fun _ => hsc) hx
    refine ⟨acts_scalarS3_int ht hc hl (exec_sand f s) (and_eq_ofInt ..), acts_scalarS3_int ht hc hl (exec_sor f s) (or_eq_ofInt ..),
      acts_scalarS3_int ht hc hl (exec_sxor f s) (xor_eq_ofInt ..), acts_scalarS3_int ht hc hl (exec_sshl f s) (sshlOp_eq ..),
      acts_scalarS3_int ht hc hl (exec_sshr f s) (sshrOp_eq ..), acts_scalarS3_int ht hc hl (exec_ssar f s) ?_⟩
    rw [operand_eq_ival (by omega)]
    exact ssarOp_eq ..
  · have hl : (legalS3 f { usesCC := true }).fate c = none :=
      fate_legalS3 ha hty hs4 (fun _ => rfl) nofun (by have := f.cc.isLt; simp; omega) (hb _ rfl) (fun _ => hsc) hx
    exact acts_scalarS3_int ht hc hl (exec_slea f s) (sleaOp_eq ..)

/-! ## Counts (R83) -/

section Counts
variable {w : Nat} (x : BitVec w)

theorem getLsbD_eq_div (i : Nat) : x.getLsbD i = decide (x.toNat / 2 ^ i % 2 = 1) := by
  rw [← BitVec.testBit_toNat, Nat.testBit_eq_decide_div_mod_eq]

theorem mod_two_pow_succ (n : Nat) : x.toNat % 2 ^ (n + 1) = x.toNat % 2 ^ n + if x.getLsbD n then 2 ^ n else 0 := by
  rw [Nat.mod_pow_succ, getLsbD_eq_div]
  obtain h | h := Nat.mod_two_eq_zero_or_one (x.toNat / 2 ^ n) <;> simp [h]

theorem popFrom_eq_count (n : Nat) : popFrom x n = ((List.range n).filter fun k => x.toNat / 2 ^ k % 2 = 1).length := by
  induction n with
  | zero => rfl
  | succ n ih =>
    rw [popFrom, ih, List.range_succ, List.filter_append, List.length_append, getLsbD_eq_div, Nat.add_comm]
    by_cases h : x.toNat / 2 ^ n % 2 = 1 <;> simp [h]

theorem clzFrom_le (n : Nat) : clzFrom x n ≤ n := by
  induction n with
  | zero => exact Nat.le_refl _
  | succ n ih => rw [clzFrom]; split <;> omega

/-- Among the lowest n bits, those from the count down are zero. -/
theorem mod_lt_of_clzFrom (n : Nat) : x.toNat % 2 ^ n < 2 ^ (n - clzFrom x n) := by
  induction n with
  | zero => simp [clzFrom, Nat.mod_one]
  | succ n ih =>
    rw [clzFrom]
    split
    · exact Nat.mod_lt _ (Nat.two_pow_pos _)
    · next h =>
      rw [mod_two_pow_succ, if_neg h, show n + 1 - (1 + clzFrom x n) = n - clzFrom x n by omega]
      exact ih

/-- The bit below them, if there is one, is 1. -/
theorem le_mod_of_clzFrom (n : Nat) (h : clzFrom x n < n) : 2 ^ (n - clzFrom x n - 1) ≤ x.toNat % 2 ^ n := by
  induction n with
  | zero => omega
  | succ n ih =>
    rw [mod_two_pow_succ]
    rw [clzFrom] at h ⊢
    split
    · simp
    · next hb =>
      rw [if_neg hb] at h
      rw [show n + 1 - (1 + clzFrom x n) - 1 = n - clzFrom x n - 1 by omega]
      exact Nat.le_trans (ih (by omega)) (Nat.le_add_right ..)

theorem ctzFrom_le (n i : Nat) : ctzFrom x n i ≤ n := by
  induction n generalizing i with
  | zero => exact Nat.le_refl _
  | succ n ih => rw [ctzFrom]; have := ih (i + 1); split <;> omega

/-- Where the bits below i are zero, so are those below the place that the count from i on leads to. -/
theorem mod_eq_zero_of_ctzFrom (n i : Nat) (h : x.toNat % 2 ^ i = 0) : x.toNat % 2 ^ (i + ctzFrom x n i) = 0 := by
  induction n generalizing i with
  | zero => exact h
  | succ n ih =>
    rw [ctzFrom]
    split
    · exact h
    · next hb =>
      rw [← Nat.add_assoc]
      refine ih (i + 1) ?_
      rw [mod_two_pow_succ, h, if_neg hb]

/-- The bit at that place, if it is below the end, is 1. -/
theorem getLsbD_of_ctzFrom (n i : Nat) (h : ctzFrom x n i < n) : x.getLsbD (i + ctzFrom x n i) = true := by
  induction n generalizing i with
  | zero => omega
  | succ n ih =>
    rw [ctzFrom] at h ⊢
    split
    · next hb => simpa using hb
    · next hb =>
      rw [if_neg hb] at h
      rw [← Nat.add_assoc]
      exact ih (i + 1) (by omega)

theorem ctzFrom_spec : x.toNat % 2 ^ ctzFrom x w 0 = 0 ∧ (ctzFrom x w 0 < w → x.toNat % 2 ^ (ctzFrom x w 0 + 1) ≠ 0) := by
  refine ⟨by simpa using mod_eq_zero_of_ctzFrom x w 0 (by simp [Nat.mod_one]), fun h => ?_⟩
  have hb := getLsbD_of_ctzFrom x w 0 h
  rw [Nat.zero_add] at hb
  rw [mod_two_pow_succ, if_pos hb]
  exact Nat.ne_of_gt (Nat.add_pos_right _ (Nat.two_pow_pos _))

end Counts

/-! ## Compare, select and bit fields (R87, R88) -/

section Fields
variable {w : Nat} (sgn : Bool) (a b c : BitVec w)

theorem not_eq_ofInt : ~~~a = BitVec.ofInt w (2 ^ w - 1 - a.toNat) := by
  have h := a.isLt
  have h1 : (2 : Int) ^ w - 1 - a.toNat = (2 ^ w - 1 - a.toNat : Nat) := by
    push_cast [show a.toNat ≤ 2 ^ w - 1 by omega, Nat.one_le_two_pow]
    rfl
  rw [h1]
  exact eq_ofInt_of_toNat (by rw [BitVec.toNat_not, Nat.mod_eq_of_lt (by omega)])

theorem sselOp_eq : sselOp w sgn a b c = BitVec.ofInt w (if c.toNat ≠ 0 then (a.toNat : Int) else b.toNat) := by
  have h : c ≠ 0 ↔ c.toNat ≠ 0 := not_congr BitVec.toNat_inj.symm
  simp only [sselOp, h]
  split <;> simp

/-- A bit field as a number. -/
theorem toNat_extractLsb'_eq (p n : Nat) : (a.extractLsb' p n).toNat = a.toNat / 2 ^ p % 2 ^ n := by
  rw [BitVec.extractLsb'_toNat, Nat.shiftRight_eq_div_pow]

theorem sbfeOp_eq : sbfeOp w sgn a b c = BitVec.ofInt w (
      let field := a.toNat / 2 ^ bfPos w b % 2 ^ bfLen w b
      if sgn = true ∧ 0 < bfLen w b ∧ 2 ^ (bfLen w b - 1) ≤ field then (field : Int) - 2 ^ bfLen w b else field) := by
  unfold sbfeOp
  generalize bfLen w b = n
  generalize bfPos w b = p
  have hx := toNat_extractLsb'_eq a p n
  simp only [← hx]
  generalize a.extractLsb' p n = x at hx
  by_cases hn : n = 0
  · subst hn
    simp [BitVec.toNat_of_zero_length]
  · have hn0 : 0 < n := Nat.pos_of_ne_zero hn
    cases sgn
    · simp [hn]
    · have h2 := two_pow_eq_double hn0
      have hi : x.toInt = if 2 ^ (n - 1) ≤ x.toNat then (x.toNat : Int) - 2 ^ n else x.toNat := by
        rw [BitVec.toInt_eq_toNat_cond]
        push_cast
        split <;> split <;> omega
      simp only [hn, hn0, if_true, if_false, true_and, ← hi]
      rfl

/-- c with its n bits from p on replaced by those of m, as a number. -/
theorem replace_field_eq (c m p n : Nat) :
    c - c / 2 ^ p % 2 ^ n * 2 ^ p + m * 2 ^ p = 2 ^ p * (2 ^ n * (c / 2 ^ p / 2 ^ n) + m) + c % 2 ^ p := by
  have h1 := Nat.div_add_mod c (2 ^ p)
  have h2 := Nat.div_add_mod (c / 2 ^ p) (2 ^ n)
  have h3 : 2 ^ p * (c / 2 ^ p) = 2 ^ p * (2 ^ n * (c / 2 ^ p / 2 ^ n)) + c / 2 ^ p % 2 ^ n * 2 ^ p := by
    conv_lhs => rw [← h2]
    ring
  have h4 : 2 ^ p * (2 ^ n * (c / 2 ^ p / 2 ^ n) + m) = 2 ^ p * (2 ^ n * (c / 2 ^ p / 2 ^ n)) + m * 2 ^ p := by ring
  omega

theorem sbfiOp_eq : sbfiOp w sgn a b c = BitVec.ofInt w (
      c.toNat - c.toNat / 2 ^ bfPos w b % 2 ^ bfLen w b * 2 ^ bfPos w b + a.toNat % 2 ^ bfLen w b * 2 ^ bfPos w b : Nat) := by
  have hp : bfPos w b + bfLen w b ≤ w := by unfold bfLen; have : bfPos w b ≤ w := by { unfold bfPos; omega }; omega
  unfold sbfiOp
  generalize bfLen w b = n at *
  generalize bfPos w b = p at *
  have hm : a.toNat % 2 ^ n < 2 ^ n := Nat.mod_lt _ (Nat.two_pow_pos _)
  rw [replace_field_eq, BitVec.ofInt_natCast]
  apply BitVec.eq_of_getLsbD_eq
  intro i hi
  simp only [BitVec.getLsbD_or, BitVec.getLsbD_and, BitVec.getLsbD_not, BitVec.getLsbD_shiftLeft, BitVec.getLsbD_ofNat,
    Nat.testBit_two_pow_sub_one, Nat.testBit_two_pow_mul_add _ (Nat.mod_lt c.toNat (Nat.two_pow_pos p)), Nat.testBit_two_pow_mul_add _ hm,
    Nat.testBit_mod_two_pow, Nat.testBit_div_two_pow, BitVec.testBit_toNat]
  by_cases h1 : i < p
  · simp [hi, h1]
  · by_cases h2 : i - p < n
    · simp [hi, h1, h2, show i - p < w by omega]
    · simp [hi, h1, h2, show i - p < w by omega, show i - p - n + n + p = i by omega]

end Fields

theorem scmpOp_eq (cc : Nat) {w : Nat} (sgn : Bool) (a b c : BitVec w) :
    scmpOp cc w sgn a b c = BitVec.ofInt w (if ccHolds cc (ival sgn a) (ival sgn b) then 1 else 0) := by
  unfold scmpOp
  split <;> rfl

/-- CC above 5 is an illegal value of SCMP (R87). -/
theorem fate_scmp_illegal {c : Iss} {f : FS3} (hcc : 5 < f.cc.toNat) (hc : f.sc = 0) (hb : f.im = 1 → f.sb = 0) (hx : f.im = 0 → f.aux = 0) :
    (legalS3 f { usesCC := true, ccMax := 5 }).fate c = some (illegalOp 3) := by
  have hr : (legalS3 f { usesCC := true, ccMax := 5 }).rsv = false := by
    simp only [legalS3, hc]
    simpa using ⟨hb, hx⟩
  have hd : (legalS3 f { usesCC := true, ccMax := 5 }).bad = true := by simp [legalS3, hcc]
  rw [Legal.fate, hr, hd]
  simp [legalS3]

theorem scmp_illegal_raises {s : State} {c : Iss} {f : FS3} (hi : s.issuer = some c) (hcc : 5 < f.cc.toNat) (hc : f.sc = 0)
    (hb : f.im = 1 → f.sb = 0) (hx : f.im = 0 → f.aux = 0) : exec (.scmp f) s = .next (s.raise c.a c.fid { code := 3, detail := 3 }) := by
  rw [exec_scmp, execScmp, scalarS3, issueLocal, issueWith_illegal hi (fate_scmp_illegal hcc hc hb hx)]
  rfl

/-- Settles O12: the counts by what they count, the compares by their conditions, the bit fields by the bits they take. -/
theorem scalarUnaryAndCompare : Obligations.ScalarUnaryAndCompare := by
  unfold Obligations.ScalarUnaryAndCompare
  refine ⟨?unary, ?binary⟩
  case unary =>
    intro s c f w sgn hc ha ht hs hcc hsb hsc him hx
    obtain ⟨-, -, hty, hw⟩ := scalarTypes_spec ht
    have hl : (legalS3 f oneSrc).fate c = none :=
      fate_legalS3 ha hty (scalarsOk_of_subset hs (by simp [hsb, hsc])) (by simp [him]) (fun _ => hcc) (by simp [hcc]) (fun _ => hsb)
        (fun _ => hsc) fun _ => hx
    simp only [← BitVec.toNat_setWidth w]
    generalize hA : (c.ag.sr f.sa.toNat).setWidth w = a
    have puts : ∀ {i op} {r : Int}, exec i s = scalarS3 f oneSrc 2 op s → (∀ b c, op w sgn a b c = BitVec.ofInt w r) →
        acts i s c 0 (wroteS s c f.sd (written w sgn r) 2 f.stl) :=
      fun he hr => acts_scalarS3_int ht hc hl he (hA ▸ hr _ _)
    refine ⟨puts (exec_smov f s) fun _ _ => by simp, puts (exec_snot f s) fun _ _ => not_eq_ofInt a,
      puts (exec_spopc f s) fun _ _ => ?_, ⟨clzFrom a w, clzFrom_le a w, ?_, ?_, puts (exec_sclz f s) fun _ _ => ?_⟩,
      ⟨ctzFrom a w 0, ctzFrom_le a w 0, (ctzFrom_spec a).1, (ctzFrom_spec a).2, puts (exec_sctz f s) fun _ _ => ?_⟩⟩
    · rw [spopcOp, popFrom_eq_count, BitVec.ofInt_natCast]
    · simpa only [BitVec.toNat_mod_cancel] using mod_lt_of_clzFrom a w
    · simpa only [BitVec.toNat_mod_cancel] using le_mod_of_clzFrom a w
    · rw [sclzOp, BitVec.ofInt_natCast]
    · rw [sctzOp, BitVec.ofInt_natCast]
  case binary =>
    intro s c f w sgn hc ha ht hs hsb hx
    obtain ⟨-, -, hty, hw⟩ := scalarTypes_spec ht
    have hb : ∀ row : S3Row, row.usesB = true → f.im = 1 ∨ row.usesB = false → f.sb = 0 := fun row hr => by simpa [hr] using hsb
    have hcc7 : f.cc.toNat ≤ 7 := by have := f.cc.isLt; omega
    simp only [← BitVec.toNat_setWidth w, operand_eq_ival (show 0 < w by omega)]
    refine ⟨fun hsc => ?_, fun hcc => ?_⟩
    · have cmp : ∀ {k : BitVec 3} {r : Int}, f.cc = k → k.toNat ≤ 5 →
          (if ccHolds k.toNat (ival sgn ((c.ag.sr f.sa.toNat).setWidth w)) (ival sgn ((operandB f sgn c.ag).setWidth w)) then 1 else 0) = r →
          acts (.scmp f) s c 0 (wroteS s c f.sd (written w sgn r) 2 f.stl) := by
        rintro k r rfl h5 hr
        exact acts_scalarS3_int ht hc (fate_legalS3 ha hty hs (fun _ => rfl) (by simp) h5 (hb _ rfl) (fun _ => hsc) hx) (exec_scmp f s)
          (hr ▸ scmpOp_eq ..)
      refine ⟨fun h => cmp h (by decide) ?_, fun h => cmp h (by decide) ?_, fun h => cmp h (by decide) ?_, fun h => cmp h (by decide) ?_,
        fun h => cmp h (by decide) ?_, fun h => cmp h (by decide) ?_, fun h => scmp_illegal_raises hc.1 h hsc hsb hx, fun hcc => ?bfe⟩
      case bfe =>
        have hl : (legalS3 f {}).fate c = none :=
          fate_legalS3 ha hty hs (fun _ => rfl) (fun _ => hcc) hcc7 (hb _ rfl) (fun _ => hsc) hx
        exact acts_scalarS3_int ht hc hl (exec_sbfe f s) (sbfeOp_eq ..)
      all_goals simp [ccHolds]
    · have hl : (legalS3 f { usesC := true }).fate c = none :=
        fate_legalS3 ha hty hs (fun _ => rfl) (fun _ => hcc) hcc7 (hb _ rfl) (by simp) hx
      exact ⟨acts_scalarS3_int ht hc hl (exec_ssel f s) (sselOp_eq ..), acts_scalarS3_int ht hc hl (exec_sbfi f s) (sbfiOp_eq ..)⟩

end Sys2Proof.Machine
end

section
/-!
PROOFS. O14, O15: what a one-pass instruction commits, then the rules of the relative branch (R92) and of the branch to an address
in a register (R93), one for each way they go, then the instructions.
-/
namespace Sys2Proof.Machine
open Sys2Proof.Safety

/-! ## One-pass instructions -/

section OnePass
variable {i : Instr} {s : State} {c : Iss} {lg : Legal} {foot : Iss → Foot} {stl lat : Nat} {body : State → Iss → Except Flt Fx}

theorem acts_localOne {fx : Fx} (he : exec i s = issueLocal s lg foot .one stl lat body) (h : ready s c) (hl : lg.fate c = none)
    (hb : body (slotted s c 0) c = .ok fx) : acts i s c 0 (c.ag.commit c.fid c.fr (true, false) s.clk stl lat fx) :=
  acts_local (pm := .one) he h hl hb

theorem raises_localOne {x : Flt} (he : exec i s = issueLocal s lg foot .one stl lat body) (h : ready s c) (hl : lg.fate c = none)
    (hb : body (slotted s c 0) c = .error x) : raises i s c x := by
  rw [raises, he, issueLocal, issueOne_ready h hl, hb]

end OnePass

/-- The writes of scalar registers on their way with latency 2. -/
def links (s : State) (c : Iss) (ws : List (Nat × Dword)) : List Pend :=
  ws.map fun p => { fid := c.fid, dst := .s p.1, vals := [(0, p.2)], ready := s.clk + 2 }

/-- What an instruction leaves that writes scalar registers and may go to a header. -/
def linkFx (ws : List (Nat × Dword)) (go : Option Nat) : Fx := { writes := ws.map fun p => (.s p.1, [(0, p.2)]), go := go }

theorem commit_linkFx {s : State} {c : Iss} (h : ready s c) (stl : Nat) (ws : List (Nat × Dword)) (go : Option Nat) :
    c.ag.commit c.fid c.fr (true, false) s.clk stl 2 (linkFx ws go)
      = { c.ag with
          pend := links s c ws
          frags := KMap.put c.ag.frags c.fid (match go with
            | some t => { c.fr.goHdr t with next := max (s.clk + 3) (s.clk + 1 + stl) }
            | none => c.fr.adv (s.clk + 1 + stl)) } := by
  unfold Agent.commit linkFx
  rw [markWrites_settled h.2.1]
  cases go <;> simp [extraPass, h.2.1.1, links, List.flatMap_map, ← List.map_eq_flatMap, List.filter_map, Function.comp_def]

theorem adv_lastWord {c : Iss} (h : lastWord c) (n : Nat) : c.fr.adv n = { c.fr.goHdr (nextClause c) with next := n } := by
  have hn : c.fr.nextHdr = nextClause c := by rw [Frag.nextHdr, nextClause, h.2]
  rw [Frag.adv, if_neg (by rw [h.1]; exact Nat.lt_irrefl _), hn]

/-! ## Legal words (R47, R58) -/

theorem fate_legalBR {c : Iss} {f : FBR} {condFree usesSC usesSL usesOff leat : Bool} (hk : leat = true ∨ c.ag.kind = .group)
    (ha : allOk c f.all) (hs : scalarsOk c [f.sc, f.sl]) (hr : f.rsv = 0) (hcond : if condFree then f.cond.toNat ≤ 8 else f.cond = 0)
    (hsc : usesSC = false → f.sc = 0) (hsl : usesSL = false → f.sl = 0) (ho : usesOff = false → f.off = 0) :
    (legalBR f condFree usesSC usesSL usesOff leat).fate c = none := by
  refine fate_none ⟨fun h => ?_, fun _ => rfl, nofun, nofun⟩ ?_ ?_ ha nofun fun h => ?_
  · exact hk.resolve_right ((isLeat_iff _).mp h)
  · have hz : ∀ {n : Nat} {u : Bool} {x : BitVec n}, (u = false → x = 0) → (!u && decide (x ≠ 0)) = false := fun {n u x} hx => by
      cases u
      · simp [hx rfl]
      · rfl
    have hc : (!condFree && decide (f.cond ≠ 0)) = false := hz fun h => by simpa [h] using hcond
    simp only [legalBR, hr, hc, hz hsc, hz hsl, hz ho]
    rfl
  · cases condFree
    · rfl
    · simpa [legalBR] using hcond
  · have h2 := hs ((isLeat_iff _).mp h)
    simp only [List.forall_mem_cons] at h2
    simpa [legalBR] using ⟨h2.1, h2.2.1⟩

/-! ## Relative branches (R92) -/

section Relative
variable {i : Instr} {s : State} {c : Iss} {f : FBR} {lg : Legal} {reads writes : List Nat} {taken : Iss → Bool}
  {wr : Iss → List (Nat × Dword)}

theorem targetOk_iff (t : Int) : targetOk t = true ↔ 0 ≤ t ∧ t ≤ 2 ^ 48 - 8 := decide_eq_true_iff

theorem relBranch_goes (he : exec i s = relBranch f lg reads writes taken wr s) (h : ready s c) (hl : lg.fate c = none)
    (ht : taken c = true) (hin : 0 ≤ brTarget f c.fr ∧ brTarget f c.fr ≤ 2 ^ 48 - 8) :
    acts i s c 0 (sentTo c (links s c (wr c)) (brTarget f c.fr).toNat (takenAt s f.stl)) := by
  have hx := acts_localOne (fx := linkFx (wr c) (some (brTarget f c.fr).toNat)) he h hl
    (by simp [linkFx, ht, (targetOk_iff _).mpr hin])
  rwa [commit_linkFx h] at hx

theorem relBranch_raises (he : exec i s = relBranch f lg reads writes taken wr s) (h : ready s c) (hl : lg.fate c = none)
    (ht : taken c = true) (hin : ¬(0 ≤ brTarget f c.fr ∧ brTarget f c.fr ≤ 2 ^ 48 - 8)) :
    raises i s c (illegalAddr (brTarget f c.fr)) :=
  raises_localOne he h hl (by simp [ht, mt (targetOk_iff _).mp hin])

theorem relBranch_falls (he : exec i s = relBranch f lg reads writes taken wr s) (h : ready s c) (hl : lg.fate c = none)
    (ht : taken c = false) (hlast : lastWord c) :
    acts i s c 0 (sentTo c (links s c (wr c)) (nextClause c) (s.clk + 1 + f.stl.toNat)) := by
  have hx := acts_localOne (fx := linkFx (wr c) none) he h hl (by simp [linkFx, ht])
  rw [commit_linkFx h] at hx
  simp only [adv_lastWord hlast] at hx
  exact hx

end Relative

section Exec
variable (f : FBR) (s : State)

theorem exec_bra : exec (.bra f) s = execBra f s := rfl
theorem exec_brc : exec (.brc f) s = execBrc f s := rfl
theorem exec_call : exec (.call f) s = execCall f s := rfl
theorem exec_loop : exec (.loop f) s = execLoop f s := rfl
theorem exec_brzm : exec (.brzm f) s = execBrzm f s := rfl
theorem exec_ret : exec (.ret f) s = execRet f s := rfl
theorem exec_jmp : exec (.jmp f) s = execJmp f s := rfl
theorem exec_nop : exec (.nop f) s = execNop f s := rfl

end Exec

/-- The conditions of R47 on a register. -/
theorem condHolds_iff {cond : BitVec 4} {x : Dword} {holds : Prop}
    (h : (cond = 0 ∧ holds) ∨ (cond = 1 ∧ (holds ↔ x = 0)) ∨ (cond = 2 ∧ (holds ↔ x ≠ 0)) ∨ (cond = 3 ∧ (holds ↔ x.toInt < 0))
      ∨ (cond = 4 ∧ (holds ↔ 0 ≤ x.toInt)) ∨ (cond = 5 ∧ (holds ↔ 0 < x.toInt)) ∨ (cond = 6 ∧ (holds ↔ x.toInt ≤ 0))
      ∨ (cond = 7 ∧ (holds ↔ x.toNat % 2 = 1)) ∨ (cond = 8 ∧ (holds ↔ x.toNat % 2 = 0))) :
    cond.toNat ≤ 8 ∧ (condHolds cond x = true ↔ holds) := by
  have hbit : x.getLsbD 0 = decide (x.toNat % 2 = 1) := by simpa using getLsbD_eq_div x 0
  obtain ⟨rfl, h⟩ | ⟨rfl, h⟩ | ⟨rfl, h⟩ | ⟨rfl, h⟩ | ⟨rfl, h⟩ | ⟨rfl, h⟩ | ⟨rfl, h⟩ | ⟨rfl, h⟩ | ⟨rfl, h⟩ := h
  all_goals refine ⟨by decide, ?_⟩
  all_goals simp only [h]
  all_goals simp [condHolds, BitVec.slt, -BitVec.getLsbD_eq_getElem, hbit]

/-- Settles O14: each instruction is the relative branch with its own condition and link. -/
theorem relativeBranches : Obligations.RelativeBranches := by
  unfold Obligations.RelativeBranches
  intro s c f hc hlast ha hs hr
  have hnext : c.fr.nextHdr = nextClause c := by rw [Frag.nextHdr, nextClause, hlast.2]
  refine ⟨fun hcond hsc hsl => ?bra, fun hcond hsc => ?call, fun hcond hsl => ?loop, fun hsl holds h => ?brc⟩
  case bra =>
    have hl := fate_legalBR (leat := true) (condFree := false) (usesSC := false) (usesSL := false) (usesOff := true) (.inl rfl) ha hs hr hcond
      (fun _ => hsc) (fun _ => hsl) nofun
    exact ⟨relBranch_goes (exec_bra f s) hc hl rfl, relBranch_raises (exec_bra f s) hc hl rfl⟩
  case call =>
    have hl := fate_legalBR (leat := true) (condFree := false) (usesSC := false) (usesSL := true) (usesOff := true) (.inl rfl) ha hs hr hcond
      (fun _ => hsc) nofun nofun
    rw [← hnext]
    exact ⟨relBranch_goes (exec_call f s) hc hl rfl, relBranch_raises (exec_call f s) hc hl rfl⟩
  case loop =>
    have hl := fate_legalBR (leat := true) (condFree := false) (usesSC := true) (usesSL := false) (usesOff := true) (.inl rfl) ha hs hr hcond
      nofun (fun _ => hsl) nofun
    refine ⟨fun hx => relBranch_goes (exec_loop f s) hc hl (by simpa using hx),
      fun hx => relBranch_raises (exec_loop f s) hc hl (by simpa using hx), fun hx => ?_⟩
    have hf := relBranch_falls (exec_loop f s) hc hl (by simpa using hx) hlast
    simp only [hx] at hf
    exact hf
  case brc =>
    obtain ⟨h8, hiff⟩ := condHolds_iff h
    have hl := fate_legalBR (leat := true) (condFree := true) (usesSC := true) (usesSL := false) (usesOff := true) (.inl rfl) ha hs hr h8
      nofun (fun _ => hsl) nofun
    exact ⟨fun hh => relBranch_goes (exec_brc f s) hc hl (hiff.mpr hh), fun hh => relBranch_raises (exec_brc f s) hc hl (hiff.mpr hh),
      fun hh => relBranch_falls (exec_brc f s) hc hl (Bool.eq_false_iff.mpr (mt hiff.mp hh)) hlast⟩

/-! ## Branches to an address in a register, NOP (R91, R93) -/

section ByRegister
variable {i : Instr} {s : State} {c : Iss} {f : FBR} {lg : Legal}

/-- s(SC) + 8 × OFF32, without wrap. -/
def regTarget (c : Iss) (f : FBR) : Int := ((c.ag.sr f.sc.toNat).toNat : Int) + 8 * f.off.toInt

theorem regBranch_goes (he : exec i s = regBranch f lg s) (h : ready s c) (hl : lg.fate c = none)
    (h0 : 0 ≤ regTarget c f) (h1 : regTarget c f < 2 ^ 48) (h8 : regTarget c f % 8 = 0) :
    acts i s c 0 (sentTo c [] (regTarget c f).toNat (takenAt s f.stl)) := by
  have hb : ¬(regTarget c f < 0 ∨ 2 ^ 48 ≤ regTarget c f) := by omega
  have hx := acts_localOne (fx := linkFx [] (some (regTarget c f).toNat)) he h hl ((if_neg hb).trans (if_neg (not_not.mpr h8)))
  rwa [commit_linkFx h] at hx

theorem regBranch_misaligned (he : exec i s = regBranch f lg s) (h : ready s c) (hl : lg.fate c = none)
    (h0 : 0 ≤ regTarget c f) (h1 : regTarget c f < 2 ^ 48) (h8 : regTarget c f % 8 ≠ 0) :
    raises i s c (misalign (regTarget c f).toNat) := by
  have hb : ¬(regTarget c f < 0 ∨ 2 ^ 48 ≤ regTarget c f) := by omega
  exact raises_localOne he h hl ((if_neg hb).trans (if_pos h8))

theorem regBranch_outside (he : exec i s = regBranch f lg s) (h : ready s c) (hl : lg.fate c = none)
    (hb : regTarget c f < 0 ∨ 2 ^ 48 ≤ regTarget c f) : raises i s c (illegalAddr (regTarget c f)) :=
  raises_localOne he h hl (if_pos hb)

end ByRegister

theorem nop_passes {s : State} {c : Iss} {f : FBR} (h : ready s c)
    (hl : (legalBR f false false false false).fate c = none) : acts (.nop f) s c 0 (passedOn s c [] c.fr.em f.stl) := by
  have hx := acts_localOne (fx := linkFx [] none) (exec_nop f s) h hl rfl
  rwa [commit_linkFx h] at hx

/-- BRZM is taken where no lane of em below the width is set in s(SC). -/
theorem brzm_taken_iff (em x : Dword) {w : Nat} (hw : w ≤ 64) :
    em &&& x &&& wmask w = 0 ↔ ∀ l, l < w → ¬(em.getLsbD l = true ∧ x.getLsbD l = true) := by
  constructor
  · intro h l hl hx
    have hb := congrArg (fun y : Dword => y.getLsbD l) h
    simp [wmask, BitVec.getLsbD_ofNat, -BitVec.getLsbD_eq_getElem, hx, hl, show l < 64 by omega] at hb
  · intro h
    apply BitVec.eq_of_getLsbD_eq
    intro l hl
    have hx := h l
    simp only [BitVec.getLsbD_and, wmask, BitVec.getLsbD_ofNat, Nat.testBit_two_pow_sub_one]
    by_cases hlw : l < w
    · have := hx hlw
      simpa [hl, hlw, -BitVec.getLsbD_eq_getElem] using this
    · simp [hlw]

/-- Settles O15: RET and JMP are the branch to an address in a register, BRZM the relative branch under its condition on em. -/
theorem registerBranchesAndMasks : Obligations.RegisterBranchesAndMasks := by
  unfold Obligations.RegisterBranchesAndMasks
  refine ⟨fun s c f hc ha hs hr hcond hsl => ?_, fun s c f hc hlast hk hw ha hr hcond hsl => ?_⟩
  · have hs2 : scalarsOk c [f.sc, f.sl] := scalarsOk_of_subset hs (by simp [hsl])
    have hlJmp := fate_legalBR (leat := true) (condFree := false) (usesSC := true) (usesSL := false) (usesOff := true) (.inl rfl) ha hs2 hr hcond
      nofun (fun _ => hsl) nofun
    have hlRet := fun ho : f.off = 0 => fate_legalBR (leat := true) (condFree := false) (usesSC := true) (usesSL := false) (usesOff := false)
      (.inl rfl) ha hs2 hr hcond nofun (fun _ => hsl) fun _ => ho
    refine ⟨fun ho => ⟨regBranch_goes (exec_ret f s) hc (hlRet ho), regBranch_misaligned (exec_ret f s) hc (hlRet ho),
        regBranch_outside (exec_ret f s) hc (hlRet ho)⟩,
      ⟨regBranch_goes (exec_jmp f s) hc hlJmp, regBranch_misaligned (exec_jmp f s) hc hlJmp, regBranch_outside (exec_jmp f s) hc hlJmp⟩,
      fun hsc ho => nop_passes hc ?_⟩
    exact fate_legalBR (.inl rfl) ha hs2 hr hcond (fun _ => hsc) (fun _ => hsl) fun _ => ho
  · have hs : scalarsOk c [f.sc, f.sl] := fun hg => absurd hk hg
    have hl := fate_legalBR (leat := false) (condFree := false) (usesSC := true) (usesSL := false) (usesOff := true) (.inr hk) ha hs hr hcond
      nofun (fun _ => hsl) nofun
    have ht := brzm_taken_iff c.fr.em (c.ag.sr f.sc.toNat) hw
    exact ⟨fun he => relBranch_goes (exec_brzm f s) hc hl (decide_eq_true (ht.mpr he)),
      fun he => relBranch_raises (exec_brzm f s) hc hl (decide_eq_true (ht.mpr he)),
      fun he => relBranch_falls (exec_brzm f s) hc hl (decide_eq_false (mt ht.mp he)) hlast⟩

end Sys2Proof.Machine
end

section
/-!
PROOFS. O28: the legality of F-SYS words, then the rules of SLEEPPT (R99) and of the barriers (R148 to R150) where fragment numbers
are distinct, then the refutation.
-/
namespace Sys2Proof.Machine
open Sys2Proof.Safety

/-- An F-SYS word whose fields are in order for its row is legal for an issuer that the row admits (R48, R58). -/
theorem fate_legalSys {c : Iss} {f : FSYS} {r : SysRow} {sub : BitVec 4} (hf : sysFields c f sub r.sd r.sa r.sb r.res r.imm)
    (hrsv : r.rsv = false) (hbad : r.bad = false) (hsub : if r.subRsv then sub = 0 else sub.toNat ∈ r.subs)
    (hwho : (c.ag.isLeat = true → r.leat = true) ∧ (c.ag.isLeat = false → r.grp = true) ∧ (r.hnd = true → c.inHandler = true)
      ∧ (r.noHnd = true → c.inHandler = false)) : (legalSys f r).fate c = none := by
  obtain ⟨ha, rfl, hsd, hsa, hsb, hres, himm, hs⟩ := hf
  have hz : ∀ {n : Nat} {u : Bool} {x : BitVec n}, (u = false → x = 0) → (!u && decide (x ≠ 0)) = false := fun {n u x} hx => by
    cases u
    · simp [hx rfl]
    · rfl
  refine fate_none hwho ?_ ?_ ha nofun fun hl => ?_
  · have h : (r.subRsv && decide (f.sub ≠ 0)) = false := by
      cases hr : r.subRsv
      · rfl
      · rw [hr] at hsub
        simp [(show f.sub = 0 from hsub)]
    simp only [legalSys, hz hsd, hz hsa, hz hsb, hz hres, himm, hrsv, h]
    rfl
  · cases hr : r.subRsv
    · simpa [legalSys, hbad, hr] using hsub
    · simp [legalSys, hbad, hr]
  · have h := hs ((isLeat_iff _).mp hl)
    simp only [List.forall_mem_cons] at h
    obtain ⟨h1, h2, h3, -⟩ := h
    simp only [legalSys, List.mem_append]
    rintro q ((hq | hq) | hq)
    all_goals
      split at hq
      · obtain rfl := List.mem_singleton.mp hq
        assumption
      · cases hq

theorem updFrag_updFrag (ag : Agent) (fid : Nat) (f g : Frag → Frag) :
    (ag.updFrag fid f).updFrag fid g = ag.updFrag fid fun fr => g (f fr) := by
  simp only [Agent.updFrag, KMap.upd, List.map_map]
  congr 2
  funext p
  by_cases h : p.1 = fid <;> simp [h]

theorem sysDone_ready {s : State} {c : Iss} (h : ready s c) (t : State) (stl : Nat) :
    t.sysDone c stl = t.updFrag c.a c.fid fun fr => fr.adv (t.clk + 1 + stl) := by
  have hp : ¬4 ≤ c.fr.phase := Nat.not_le.mpr h.2.2
  rw [State.sysDone, if_neg hp]

/-! ## SLEEPPT (R99) -/

section Sleep
variable {s : State} {c : Iss} {f : FSYS} {rel : Bool}

/-- The two rows of SLEEPPT. -/
def sleepRow (rel : Bool) (f : FSYS) : Instr := if rel then .sleepptRel f else .sleeppt f

/-- T of R99: s(SA), or pt + s(SA), at most 2^64 - 1. -/
def sleepTarget (s : State) (rel : Bool) (x : Nat) : Nat := if rel then (if s.pt + x < 2 ^ 64 then s.pt + x else 2 ^ 64 - 1) else x

/-- The fragment asleep until t. -/
def Frag.asleep (clk t : Nat) (fr : Frag) : Frag := { fr.heldBy clk (.sleep t) with hop := t }

theorem exec_sleep (hc : ready s c) (hf : sysFields c f (if rel then 1 else 0) false true false false 0) :
    exec (sleepRow rel f) s =
      let t := sleepTarget s rel (c.ag.sr f.sa.toNat).toNat
      if c.ag.pure then .next ((slotted s c 0).raise c.a c.fid purity)
      else if t ≤ s.pt then .next ((slotted s c 0).updFrag c.a c.fid (goesOn s 0 f.stl))
      else .next ((slotted s c 0).updAgent c.a fun ag => ag.updFrag c.fid (Frag.asleep s.clk t)) := by
  have hl : (legalSys f { sa := true, leat := true, subs := if rel then [1] else [0] }).fate c = none := by
    refine fate_legalSys hf rfl rfl ?_ ⟨fun _ => rfl, fun _ => rfl, nofun, nofun⟩
    cases rel <;> decide
  have he : exec (sleepRow rel f) s = sleepUntil f rel s := by cases rel <;> rfl
  have hp : ¬c.fr.phase = 4 := by have := hc.2.2; omega
  have ht : (if rel then min (s.pt + (c.ag.sr f.sa.toNat).toNat) (2 ^ 64 - 1) else (c.ag.sr f.sa.toNat).toNat)
      = sleepTarget s rel (c.ag.sr f.sa.toNat).toNat := by
    unfold sleepTarget
    split
    · split <;> omega
    · rfl
  rw [he, sleepUntil, issueOne_ready hc hl]
  simp only [if_neg hp, sysDone_ready hc, hold_eq_updAgent, State.updFrag, updAgent_updAgent, updFrag_updFrag]
  rw [← ht]
  rfl

theorem sleep_pure_raises (hc : ready s c) (hf : sysFields c f (if rel then 1 else 0) false true false false 0) (hp : c.ag.pure = true) :
    raises (sleepRow rel f) s c { code := 14 } := by
  rw [raises, exec_sleep hc hf]
  exact if_pos hp

theorem sleep_past_passes (hc : ready s c) (hf : sysFields c f (if rel then 1 else 0) false true false false 0) (hp : c.ag.pure = false)
    (ht : sleepTarget s rel (c.ag.sr f.sa.toNat).toNat ≤ s.pt) : acts (sleepRow rel f) s c 0 { c.ag with frags := passed s c f.stl } := by
  refine acts_of_updAgent hc.1 (g := fun ag => ag.updFrag c.fid (goesOn s 0 f.stl)) ?_
  rw [exec_sleep hc hf]
  exact (if_neg (by simp [hp])).trans (if_pos ht)

theorem sleep_waits (hc : ready s c) (hf : sysFields c f (if rel then 1 else 0) false true false false 0) (hp : c.ag.pure = false)
    (hn : (c.ag.frags.map (·.1)).Nodup) (ht : s.pt < sleepTarget s rel (c.ag.sr f.sa.toNat).toNat) :
    let t := sleepTarget s rel (c.ag.sr f.sa.toNat).toNat
    acts (sleepRow rel f) s c 0 { c.ag with frags := waiting s c (.sleep t) t } := by
  intro t
  have hw : c.ag.updFrag c.fid (Frag.asleep s.clk t) = { c.ag with frags := waiting s c (.sleep t) t } :=
    congrArg (fun m => { c.ag with frags := m }) (KMap.upd_congr_of_nodup hn (issuer_agent hc.1).2 (by
      simp only [Frag.asleep, Frag.heldBy, if_pos hc.2.2]))
  rw [← hw]
  refine acts_of_updAgent hc.1 (g := fun ag => ag.updFrag c.fid (Frag.asleep s.clk t)) ?_
  rw [exec_sleep hc hf]
  exact (if_neg (by simp [hp])).trans (if_neg (Nat.not_le.mpr ht))

end Sleep

/-! ## TBAR and SBAR (R148 to R150) -/

section Barrier
variable {s : State} {c : Iss} {f : FSYS} {kind : Nat} {i : Instr}

/-- The barriers of the kind that the agent has arrived at. -/
def Agent.arrivals (ag : Agent) (kind : Nat) : Nat := if kind = 0 then ag.tbar else ag.sbar

def Agent.setArrivals (ag : Agent) (kind n : Nat) : Agent := if kind = 0 then { ag with tbar := n } else { ag with sbar := n }

theorem exec_barrier (he : exec i s = barrier f kind s) (hc : ready s c) (hk : c.ag.kind = .group)
    (hf : sysFields c f 0 false false false false 0) :
    exec i s = if c.ag.split = [] then
        .next ((slotted s c 0).updAgent c.a fun ag =>
          (ag.updFrag c.fid (Frag.heldBy s.clk (.barrier kind (c.ag.arrivals kind + 1)))).setArrivals kind (c.ag.arrivals kind + 1))
      else .next ((slotted s c 0).raise c.a c.fid illegalSplit) := by
  have hl : (legalSys f { subRsv := true }).fate c = none :=
    fate_legalSys hf rfl rfl rfl ⟨by simp [isLeat_of_group hk], fun _ => rfl, nofun, nofun⟩
  have hn : (if kind = 0 then c.ag.tbar + 1 else c.ag.sbar + 1) = c.ag.arrivals kind + 1 := (apply_ite (· + 1) _ _ _).symm
  rw [he, barrier, issueOne_ready hc hl]
  simp only [hn, hold_eq_updAgent, updAgent_updAgent]
  cases c.ag.split <;> rfl

theorem barrier_split_raises (he : exec i s = barrier f kind s) (hc : ready s c) (hk : c.ag.kind = .group)
    (hf : sysFields c f 0 false false false false 0) (hs : c.ag.split ≠ []) : raises i s c { code := 7 } := by
  rw [raises, exec_barrier he hc hk hf, if_neg hs]
  rfl

/-- An arrival at a barrier: every fragment listed under the issuer's number is held from its own state. -/
theorem barrier_acts (he : exec i s = barrier f kind s) (hc : ready s c) (hk : c.ag.kind = .group)
    (hf : sysFields c f 0 false false false false 0) (hs : c.ag.split = []) :
    acts i s c 0 ((c.ag.updFrag c.fid (Frag.heldBy s.clk (.barrier kind (c.ag.arrivals kind + 1)))).setArrivals kind (c.ag.arrivals kind + 1)) := by
  refine acts_of_updAgent hc.1 (g := fun ag =>
    (ag.updFrag c.fid (Frag.heldBy s.clk (.barrier kind (c.ag.arrivals kind + 1)))).setArrivals kind (c.ag.arrivals kind + 1)) ?_
  rw [exec_barrier he hc hk hf, if_pos hs]

/-- The same, where the issuer's number names one fragment: it waits at the barrier. -/
theorem barrier_waits (he : exec i s = barrier f kind s) (hc : ready s c) (hk : c.ag.kind = .group)
    (hf : sysFields c f 0 false false false false 0) (hs : c.ag.split = []) (hh : c.fr.hop = 0) (hn : (c.ag.frags.map (·.1)).Nodup) :
    acts i s c 0 (({ c.ag with frags := waiting s c (.barrier kind (c.ag.arrivals kind + 1)) 0 } : Agent).setArrivals kind (c.ag.arrivals kind + 1)) := by
  rw [← updFrag_heldBy_eq_waiting hc hn hh]
  exact barrier_acts he hc hk hf hs

end Barrier

/-! ## The refutation -/

/-- A group that stands at its first instruction and lists fragment 0 twice; a read of the map sees the first only, and the second
keeps the number of an operation that it held for. -/
def heldTwice : Agent :=
  { kind := .group, core := 0, ctx := 0, team := 1, frags := [(0, yieldFrag 0), (0, { yieldFrag 0x1000 with hop := 1 })] }

def heldTwiceState : State := { State.reset with cur := (1, 0), agents := [(1, heldTwice)] }

def heldTwiceIss : Iss := { a := 1, fid := 0, ag := heldTwice, fr := yieldFrag 0 }

theorem heldTwice_ready : ready heldTwiceState heldTwiceIss ∧ sysFields heldTwiceIss plainYield 0 false false false false 0 := by decide +kernel

/-- Refutes O28: its clause on TBAR does not ask that a fragment number is listed once. Where number 0 is listed twice, the hold of
the device leaves each entry the operation that it held for, and the statement has it cleared in both. The rules above are the
statement's clauses with the fragment numbers distinct. -/
theorem not_timeAndBarriers : ¬ Obligations.TimeAndBarriers := by
  rintro ⟨-, h⟩
  obtain ⟨hc, hf⟩ := heldTwice_ready
  have hclaim := ((h heldTwiceState heldTwiceIss plainYield hc rfl hf).2 rfl rfl).1
  have hmodel := barrier_acts (i := .tbar plainYield) (kind := 0) rfl hc rfl hf rfl
  have hsame := congrArg (fun ag => ag.frags.map fun p => p.2.hop) (acts_unique hmodel hclaim)
  exact absurd hsame (by decide +kernel)

end Sys2Proof.Machine
end

section
/-!
PROOFS. O45: the ends of the waits that hold issue (R226), then the choice of the fragment queue (R372).
-/
namespace Sys2Proof.Machine
open Sys2Proof.Safety

/-! ## Sleeps and holds -/

theorem sleepWake_moves {s : State} {a fid : Nat} {ag : Agent} {fr : Frag} (h : fragOf s a fid ag fr) {t : Nat} (hw : fr.wait = .sleep t)
    (ht : t ≤ s.pt) : moves (.sleepWake a fid) s a fid ag fun x => { x with wait := .none } := by
  refine moves_of h.1 ?_
  show execSleepWake a fid s = _
  simp [execSleepWake, h.1, h.2, hw, ht]

theorem holdEnd_moves {s : State} {a fid : Nat} {ag : Agent} {fr : Frag} (h : fragOf s a fid ag fr) (ho : s.holdOver a ag fr = true) :
    moves (.holdEnd a fid) s a fid ag fun x => { x with wait := .none, woke := s.clk + 1 } := by
  refine moves_of h.1 ?_
  show execHoldEnd a fid s = _
  simp [execHoldEnd, h.1, h.2, ho]

/-- Operations are over that have all returned. -/
theorem opsReturned {ag : Agent} {ids : List Nat} (h : ∀ o ∈ ag.ops, o.id ∈ ids → o.returned = true) :
    (ids.all fun i => ((ag.findOp i).map (·.returned)).getD true) = true := by
  refine List.all_eq_true.mpr fun i hi => ?_
  cases hf : ag.findOp i with
  | none => rfl
  | some o =>
    have hid : o.id = i := by simpa using List.find?_some hf
    exact h o (List.mem_of_find?_eq_some hf) (hid ▸ hi)

theorem unacked_false {s : State} {a : Nat} (h : ∀ r ∈ s.fabReqs, ¬(r.2.agent = a ∧ r.2.kind = 1)) : s.unacked a = false :=
  List.any_eq_false.mpr fun r hr => by simpa using h r hr

/-- The condition that each of these waits ends with (R226). -/
theorem holdOver_of {s : State} {a : Nat} {ag : Agent} {fr : Frag}
    (h : match fr.wait with
      | .walk w => KMap.find? s.walks w = none
      | .clk t => t ≤ s.clk
      | .ctr c n => ag.ctrVal c ≤ n
      | .ops ids wall => (∀ o ∈ ag.ops, o.id ∈ ids → o.returned = true) ∧ (wall = true → ∀ r ∈ s.fabReqs, ¬(r.2.agent = a ∧ r.2.kind = 1))
      | .handle h st ph dl => s.handleIn ag h st ph = true ∨ dl.toNat ≤ s.pt
      | .yield => KMap.find? s.preempts ag.ctx = none
      | .ended => ag.ops = []
      | .wbar flow n => s.wbarReady flow n = true
      | .xops => s.xRunning a = false
      | .xsvc k => s.xUnserved k = false
      | _ => False) : s.holdOver a ag fr = true := by
  unfold State.holdOver
  split at h
  case h_4 ids wall hw =>
    rw [hw]
    cases wall
    · simpa using opsReturned h.1
    · simpa [unacked_false (h.2 rfl)] using opsReturned h.1
  all_goals simp_all [State.preempting]

/-! ## The fragment queue -/

theorem leastBy_mem {α : Type} {lt : α → α → Bool} {l : List α} {y : α} (h : leastBy lt l = some y) : y ∈ l := by
  induction l generalizing y with
  | nil => cases h
  | cons z l ih =>
    rw [leastBy] at h
    cases hl : leastBy lt l with
    | none => 
      rw [hl] at h
      cases h
      exact List.mem_cons_self ..
    | some w =>
      rw [hl] at h
      simp only at h
      split at h
      · cases h; exact List.mem_cons_of_mem _ (ih hl)
      · cases h; exact List.mem_cons_self ..

/-- An element that stands before each other one, and none before it, is the least. -/
theorem leastBy_eq {α : Type} {lt : α → α → Bool} {l : List α} {x : α} (hx : x ∈ l) (hn : l.Nodup)
    (h : ∀ y ∈ l, y ≠ x → lt x y = true ∧ lt y x = false) : leastBy lt l = some x := by
  induction l with
  | nil => cases hx
  | cons z l ih =>
    obtain ⟨hz, hn⟩ := List.nodup_cons.mp hn
    rw [leastBy]
    obtain rfl | hx := List.mem_cons.mp hx
    · cases hl : leastBy lt l with
      | none => rfl
      | some y =>
        have hy := leastBy_mem hl
        simp [(h y (List.mem_cons_of_mem _ hy) fun he => hz (he ▸ hy)).2]
    · have hzx : z ≠ x := fun he => hz (he ▸ hx)
      rw [ih hx hn fun y hy => h y (List.mem_cons_of_mem _ hy)]
      simp [(h z (List.mem_cons_self ..) hzx).1]

/-- The key of a queued fragment: that of its task (R372). -/
def State.fragKey (s : State) (y : Nat × Nat) : BitVec 2048 × Nat :=
  match (s.agent? y.1).bind fun a => a.task.bind fun t => KMap.find? s.tasks t with
  | some t => (t.bits, t.serial)
  | none => (0, 0)

theorem fragmentQueueRelease_leaves {s : State} {core part : Nat} {q : List (Nat × Nat)} {x : Nat × Nat} {ag : Agent} {fr : Frag}
    (hroom : s.taskFrags (4 * core + part) < 16) (hq : KMap.find? s.fragQ (4 * core + part) = some q)
    (hlive : ∀ y ∈ q, (s.agent? y.1).isSome) (hfrag : fragOf s x.1 x.2 ag fr) 
    (hleast : leastBy (fun x y => taskBefore false (s.fragKey x) (s.fragKey y)) q = some x) :
    let rest := q.erase x
    let at' := 4 * core + part
    leaves (.fragmentQueueRelease core part) s { s with fragQ := if rest = [] then KMap.del s.fragQ at' else KMap.put s.fragQ at' rest } x.1
      { ag with frags := KMap.upd ag.frags x.2 fun y => { y with wait := .none, next := max y.next s.clk } } := by
  intro rest at'
  have hfilter : q.filter (fun y => (s.agent? y.1).isSome) = q := List.filter_eq_self.mpr hlive
  refine leaves_of (s' := { s with fragQ := if rest = [] then KMap.del s.fragQ at' else KMap.put s.fragQ at' rest })
    (g := fun g => g.updFrag x.2 fun y => { y with wait := .none, next := max y.next s.clk }) rfl hfrag.1 ?_
  show execFragmentQueueRelease core part s = _
  simp only [execFragmentQueueRelease, if_neg (Nat.not_le.mpr hroom), hq, Option.getD_some, hfilter]
  change (match leastBy (fun x y => taskBefore false (s.fragKey x) (s.fragKey y)) q with
    | none => Host.Outcome.next s
    | some x => _) = _
  rw [hleast]
  simp only [List.isEmpty_iff]
  rfl

/-- Settles O45: each wait by its own condition, the fragment queue by the least key. -/
theorem waitsEnd : Obligations.WaitsEnd := by
  unfold Obligations.WaitsEnd
  intro s
  refine ⟨fun a fid ag fr h => ⟨fun t hw ht => sleepWake_moves h hw ht, fun hw => holdEnd_moves h (holdOver_of hw)⟩, ?_⟩
  intro core part q x ag fr key hroom hq hlive hn hx hbest hfrag
  exact fragmentQueueRelease_leaves hroom hq hlive hfrag (leastBy_eq hx hn hbest)

end Sys2Proof.Machine
end

section
/-!
PROOFS. O49: the release of a group can write memory, because the generations that it pinned get their pins back and their records
in memory count them.
-/
namespace Sys2Proof.Machine
open Sys2Proof.Safety

/-- A group that has ended and holds a pin of generation 7 (R359). -/
def endedPinner : Agent := { kind := .group, core := 0, ctx := 0, team := 1, pins := [(0x2000, 7)], ended := true }

/-- The group is the last of its team; the record of generation 7 in memory reads GEN 1, STATE 1 and PINS 1 (R338). -/
def endedPinnerState : State :=
  { State.reset with
    mem := wrN [] 12 0x1000 (1 + 2 ^ 32 + 2 ^ 64)
    agents := [(1, endedPinner)]
    teams := [(1, { grid := 0, ctx := 0, idx := 0, core := 0, size := 0, groups := [1] })]
    gens := [(7, pinnedGen)] }

/-- With the group goes its pin, and PINS of the generation record in memory falls from 1 to 0 (R338, R340). -/
theorem groupRelease_releases_pin :
    ∃ t, exec (.groupRelease 1) endedPinnerState = .next t ∧ endedPinnerState.readN 4 0x1008 = 1 ∧ t.readN 4 0x1008 = 0 :=
  ⟨_, rfl, by decide +kernel, by decide +kernel⟩

/-- Refutes O49: its clause on GROUP_RELEASE says that the release of a team's last group leaves memory as it is, but the pins that the
group holds go back with it, and the device then writes PINS of the generation record, which stands in memory. -/
theorem not_teamsComeAndGo : ¬ Obligations.TeamsComeAndGo := by
  unfold Obligations.TeamsComeAndGo
  intro h
  obtain ⟨-, -, -, -, hrelease⟩ := h endedPinnerState
  obtain ⟨-, hlast⟩ := hrelease 1 endedPinner _ rfl rfl rfl rfl rfl rfl rfl
  obtain ⟨t, ht, -, -, hmem, -⟩ := hlast (by decide) rfl
  obtain ⟨u, hu, hbefore, hafter⟩ := groupRelease_releases_pin
  have htu : u = t := by injection hu.symm.trans ht
  have hsame : u.readN 4 0x1008 = endedPinnerState.readN 4 0x1008 := by simp only [State.readN, htu, hmem]
  omega

end Sys2Proof.Machine
end

section
/-!
PROOFS. O40: the facts that TSPAWN and LAUNCH share (their record, the waits of a release, the write of a status), then TSPAWN (R364)
and TEND (R365).
-/
namespace Sys2Proof
variable {p : Nat → Bool}

theorem firstNat_eq_none {fuel start : Nat} (h : ∀ i, i < fuel → p (start + i) = false) : firstNat p fuel start = none := by
  induction fuel generalizing start with
  | zero => rfl
  | succ n ih =>
    have h0 : p start = false := h 0 (by omega)
    rw [firstNat, if_neg (by simp [h0])]
    exact ih fun i hi => by rw [Nat.add_assoc]; exact h (1 + i) (by omega)

theorem firstNat_eq_some {fuel start i : Nat} (hi : i < fuel) (hp : p (start + i) = true) (h : ∀ j, j < i → p (start + j) = false) :
    firstNat p fuel start = some (start + i) := by
  induction fuel generalizing start i with
  | zero => omega
  | succ n ih =>
    rw [firstNat]
    cases i with
    | zero => rw [if_pos (by simpa using hp)]; rfl
    | succ i =>
      have h0 : p start = false := h 0 (by omega)
      rw [if_neg (by simp [h0]), ih (start := start + 1) (i := i) (by omega) (by rw [Nat.add_assoc, Nat.add_comm 1]; exact hp)
        fun j hj => by rw [Nat.add_assoc]; exact h (1 + j) (by omega), Nat.add_assoc, Nat.add_comm 1]

/-- A field whose bits outside a mask are zero is at most the mask. -/
theorem toNat_le_of_and_not_eq_zero {n : Nat} {x m : BitVec n} (h : x &&& ~~~m = 0) : x.toNat ≤ m.toNat := by
  have hx : x &&& m = x := by
    apply BitVec.eq_of_getLsbD_eq
    intro i hi
    have hb := congrArg (fun y : BitVec n => y.getLsbD i) h
    simp only [BitVec.getLsbD_and, BitVec.getLsbD_not, hi, decide_true, Bool.true_and] at hb ⊢
    cases hxi : x.getLsbD i <;> simp_all
  rw [← hx, BitVec.toNat_and]
  exact Nat.and_le_right

end Sys2Proof

namespace Sys2Proof.Machine
open Sys2Proof.Safety

/-! ## Answers of an instruction that changes its own agent and more of the state -/

theorem answers_of_updAgent {i : Instr} {s t : State} {c : Iss} {g : Agent → Agent} {rest : State → Prop} (hc : s.issuer = some c)
    (he : exec i s = .next (t.updAgent c.a g)) (ha : t.agents = s.agents) (hm : t.mem = s.mem) (hr : rest (t.updAgent c.a g)) :
    answers i s c (g c.ag) rest := by
  have hag : ∀ b, t.agent? b = s.agent? b := fun b => by rw [State.agent?, ha]; rfl
  refine ⟨_, he, ?_, fun b hb => ?_, fun pa => ?_, hr⟩
  · rw [agent?_updAgent_self, hag, (issuer_agent hc).1]
    rfl
  · rw [agent?_updAgent_ne _ _ hb, hag]
  · rw [← hm]
    rfl

/-! ## The record that an instruction reads (R225) -/

/-- The translation of one more part of a record, as `recParts` makes it. -/
def State.recStep (s : State) (ag : Agent) (write again : Bool) (acc : Except (Flt ⊕ (State × Wait)) (List (Nat × Nat × Nat)))
    (p : Nat × Nat) : Except (Flt ⊕ (State × Wait)) (List (Nat × Nat × Nat)) :=
  match acc with
  | .error e => .error e
  | .ok l =>
    let dead := again && (match s.walk ag.ctx p.1 with
      | .error _ => true
      | .ok _ => false)
    if (s.l1tlb ag.core ag.ctx p.1).isNone && !dead then .error (.inr (s.missHold ag.core ag.ctx [p.1]))
    else match s.translate ag.core ag.ctx p.1 with
      | .error d => .error (.inl { code := 1, detail := d + (if write then 2 ^ 10 else 0), addr := p.1 })
      | .ok t =>
        if write && !t.w then .error (.inl { code := 2, detail := 2 ^ 10, addr := p.1 })
        else .ok (l ++ [(p.1, s.selfPa (t.phys p.1) write, p.2)])

theorem recParts_eq_foldl (s : State) (ag : Agent) (va n : Nat) (write again : Bool) :
    s.recParts ag va n write again = (pageParts va n).foldl (s.recStep ag write again) (.ok []) := rfl

theorem foldl_recStep_error (s : State) (ag : Agent) (write again : Bool) (e : Flt ⊕ (State × Wait)) (l : List (Nat × Nat)) :
    l.foldl (s.recStep ag write again) (.error e) = .error e := by
  induction l with
  | nil => rfl
  | cons p l ih => exact ih

/-- A part that the core's TLB translates is translated the same for an issue whose walk has ended. -/
theorem recStep_again {s : State} {ag : Agent} {write : Bool} {acc : Except (Flt ⊕ (State × Wait)) (List (Nat × Nat × Nat))}
    {p : Nat × Nat} {l : List (Nat × Nat × Nat)} (h : s.recStep ag write false acc p = .ok l) (again : Bool) :
    s.recStep ag write again acc p = .ok l := by
  cases acc with
  | error e => cases h
  | ok l0 =>
    simp only [State.recStep] at h ⊢
    cases ht : (s.l1tlb ag.core ag.ctx p.1).isNone
    · simpa [ht] using h
    · simp [ht] at h

theorem recParts_again {s : State} {ag : Agent} {va n : Nat} {write : Bool} {ps : List (Nat × Nat × Nat)}
    (h : s.recParts ag va n write false = .ok ps) (again : Bool) : s.recParts ag va n write again = .ok ps := by
  rw [recParts_eq_foldl] at h ⊢
  generalize pageParts va n = l at h ⊢
  generalize Except.ok [] = acc at h ⊢
  induction l generalizing acc with
  | nil => exact h
  | cons p l ih =>
    rw [List.foldl_cons] at h ⊢
    cases hs : s.recStep ag write false acc p with
    | error e =>
      rw [hs, foldl_recStep_error] at h
      cases h
    | ok l' =>
      rw [hs] at h
      rw [recStep_again hs]
      exact ih _ h

theorem partsRead_onCard {s : State} {ps : List (Nat × Nat × Nat)} (h : ∀ p ∈ ps, s.onCard p.2.1 = true) : (s.partsRead ps).1 = s := by
  induction ps with
  | nil => rfl
  | cons p ps ih =>
    obtain ⟨hp, hps⟩ := List.forall_mem_cons.mp h
    simp only [State.partsRead, State.unitRead, hp, if_true, ih hps]

theorem recordAt_iff {s : State} {c : Iss} {a n x : Nat} (h : recordAt s c a n x) :
    a + n ≤ 2 ^ 48 ∧ ∃ ps, s.recParts c.ag a n false false = .ok ps ∧ s.partsRead ps = (s, x) := by
  obtain ⟨hle, h⟩ := h
  refine ⟨hle, ?_⟩
  split at h
  · next ps hps =>
    split at h
    · next hall =>
      refine ⟨ps, hps, Prod.ext (partsRead_onCard ?_) (Option.some.inj h)⟩
      simpa using hall
    · cases h
  · cases h

/-- A release whose accesses have all returned, and that meets no held peer line, goes on (R242, R243). -/
theorem relStop_none {s : State} {c : Iss} (hops : ∀ o ∈ c.ag.ops, o.kind.isAccess = true → o.returned = true)
    (hp : s.heldPeer c.ag.core c.ag.ctx = none) (phase : Nat) : s.relStop c phase = none := by
  have hids : c.ag.openAccesses = [] := by
    simp only [Agent.openAccesses, List.map_eq_nil_iff, List.filter_eq_nil_iff, Bool.and_eq_true, Bool.not_eq_true']
    exact fun o ho h => by simp [hops o ho h.1] at h
  have hw : s.releaseWait c.a c.ag 0 = none := by simp [State.releaseWait, hids]
  simp [State.relStop, hw, hp]

/-- A field of a number's word. -/
theorem fldN_ofNat {w : Nat} (x : Nat) {lo n : Nat} (h : lo + n ≤ w) : fldN (BitVec.ofNat w x) lo n = x / 2 ^ lo % 2 ^ n := by
  apply Nat.eq_of_testBit_eq
  intro i
  simp only [fldN, BitVec.toNat_ofNat, Nat.testBit_mod_two_pow, Nat.testBit_shiftRight, Nat.testBit_div_two_pow]
  by_cases hi : i < n
  · simp [hi, show lo + i < w by omega, Nat.add_comm]
  · simp [hi]

/-! ## TSPAWN (R364) -/

section Tspawn
variable {s : State} {c : Iss} {f : FSYS}

theorem exec_tspawn : exec (.tspawn f) s = execTspawn f s := rfl

/-- The fields of a TSPAWN word are in order: its bank field is not 3. -/
def tspawnFields (c : Iss) (f : FSYS) : Prop := sysFields c f 0 true true false false 3 ∧ f.imm ≠ 3

theorem tspawn_imm (hf : tspawnFields c f) : fldN f.imm 0 2 = f.imm.toNat ∧ f.imm.toNat ≠ 3 := by
  obtain ⟨⟨-, -, -, -, -, -, himm, -⟩, h3⟩ := hf
  have hle : f.imm.toNat ≤ 3 := toNat_le_of_and_not_eq_zero himm
  refine ⟨?_, fun h => h3 (BitVec.eq_of_toNat_eq h)⟩
  rw [fldN, Nat.shiftRight_zero]
  omega

theorem fate_tspawn (hk : c.ag.kind = .group) (hf : tspawnFields c f) :
    (legalSys f { sd := true, sa := true, imm := 3, subRsv := true, bad := fldN f.imm 0 2 = 3 }).fate c = none := by
  obtain ⟨h1, h3⟩ := tspawn_imm hf
  exact fate_legalSys hf.1 rfl (by simp [h1, h3]) rfl ⟨by simp [isLeat_of_group hk], fun _ => rfl, nofun, nofun⟩

theorem illegalAddr_reg (x : Dword) : illegalAddr (x.toNat : Int) = { code := 6, addr := x.toNat } := by
  have h : ((x.toNat : Int) % 2 ^ 64).toNat = x.toNat := by
    have := x.isLt
    omega
  rw [illegalAddr, h]

theorem tspawn_outside (hc : ready s c) (hk : c.ag.kind = .group) (hf : tspawnFields c f) (ha : 2 ^ 48 < (c.ag.sr f.sa.toNat).toNat + 256) :
    raises (.tspawn f) s c { code := 6, addr := (c.ag.sr f.sa.toNat).toNat } := by
  rw [raises, exec_tspawn, execTspawn, issueOne_ready hc (fate_tspawn hk hf), ← illegalAddr_reg]
  exact if_pos ha

theorem tspawn_misaligned (hc : ready s c) (hk : c.ag.kind = .group) (hf : tspawnFields c f) (ha : (c.ag.sr f.sa.toNat).toNat + 256 ≤ 2 ^ 48)
    (hm : (c.ag.sr f.sa.toNat).toNat % 64 ≠ 0) : raises (.tspawn f) s c { code := 8, addr := (c.ag.sr f.sa.toNat).toNat } := by
  rw [raises, exec_tspawn, execTspawn, issueOne_ready hc (fate_tspawn hk hf)]
  exact (if_neg (Nat.not_lt.mpr ha)).trans (if_pos hm)

theorem tspawn_pure (hc : ready s c) (hk : c.ag.kind = .group) (hf : tspawnFields c f) (ha : (c.ag.sr f.sa.toNat).toNat + 256 ≤ 2 ^ 48)
    (hm : (c.ag.sr f.sa.toNat).toNat % 64 = 0) (hp : c.ag.pure = true) : raises (.tspawn f) s c { code := 14 } := by
  rw [raises, exec_tspawn, execTspawn, issueOne_ready hc (fate_tspawn hk hf)]
  exact (if_neg (Nat.not_lt.mpr ha)).trans ((if_neg (not_not.mpr hm)).trans (if_pos hp))

/-- The die that a TSPAWN names: its own, or die IMM - 1. -/
def spawnDie (c : Iss) (f : FSYS) : Nat := if f.imm = 0 then c.ag.core / 64 else f.imm.toNat - 1

/-- TSPAWN writes its status and passes on, at the end of the hold that its record made. -/
def Agent.wroteStatus (ag : Agent) (c : Iss) (clk d st stl : Nat) : Agent :=
  ({ markWrites ag [sreg d] with
    pend := (markWrites ag [sreg d]).pend ++ [{ fid := c.fid, dst := .s d, vals := [(0, ofN st)], ready := clk + 2 }] } : Agent).updFrag c.fid
    fun fr => fr.adv (max (clk + 1) (fr.iss + 1 + stl))

theorem wroteStatus_settled (hc : ready s c) (st : Nat) :
    c.ag.wroteStatus c s.clk f.sd.toNat st f.stl.toNat
      = { c.ag with pend := link s c f.sd (BitVec.ofNat 64 st), frags := released s c f.stl } := by
  simp only [Agent.wroteStatus, markWrites_settled hc.2.1, hc.2.1.1, List.nil_append]
  rfl

theorem putS_sceneDone {t : State} (hp : c.fr.phase = 3) (d st stl : Nat) :
    (t.putS c d (ofN st) (t.clk + 2)).sceneDone c stl = t.updAgent c.a fun ag => ag.wroteStatus c t.clk d st stl := by
  have h3 : 3 ≤ c.fr.phase := Nat.le_of_eq hp.symm
  simp only [State.sceneDone, if_pos h3, State.putS, State.finishHold, State.updFrag, updAgent_updAgent]
  rfl

/-- TSPAWN with its record read and nothing to wait for: full, or the record placed, and the status. -/
def State.spawn (s : State) (die ctx addr : Nat) (b : BitVec 2048) : State × Nat :=
  if trClass b = 0 then
    if 256 ≤ (s.taskBank die 32).length then (s, 1) else (s.insertTask die 32 b addr ctx, 0)
  else
    match firstNat (fun i => decide ((s.taskBank die ((KMap.get 0 s.pushPtr die + i) % 32)).length < 256)) 32 0 with
    | none => (s, 1)
    | some i =>
      let k := (KMap.get 0 s.pushPtr die + i) % 32
      ({ s.insertTask die k b addr ctx with pushPtr := KMap.set 0 s.pushPtr die ((k + 1) % 32) }, 0)

variable {x : Nat}

theorem exec_tspawn_read (hc : ready s c) (hk : c.ag.kind = .group) (hf : tspawnFields c f) (hm : (c.ag.sr f.sa.toNat).toNat % 64 = 0)
    (hp : c.ag.pure = false) (hph : c.fr.phase = 3) (hops : ∀ o ∈ c.ag.ops, o.kind.isAccess = true → o.returned = true)
    (hpeer : s.heldPeer c.ag.core c.ag.ctx = none) (hrec : recordAt (slotted s c 0) c (c.ag.sr f.sa.toNat).toNat 256 x) :
    let r := (slotted s c 0).spawn (spawnDie c f) c.ag.ctx (c.ag.sr f.sa.toNat).toNat (BitVec.ofNat 2048 x)
    exec (.tspawn f) s = .next (r.1.updAgent c.a fun ag => ag.wroteStatus c s.clk f.sd.toNat r.2 f.stl.toNat) := by
  obtain ⟨hle, ps, hps, hread⟩ := recordAt_iff hrec
  have hdie : (if fldN f.imm 0 2 = 0 then c.ag.die else fldN f.imm 0 2 - 1) = spawnDie c f := by
    have h0 : f.imm.toNat = 0 ↔ f.imm = 0 := ⟨fun h => BitVec.eq_of_toNat_eq h, fun h => by rw [h]; rfl⟩
    rw [(tspawn_imm hf).1, spawnDie, if_congr h0 rfl rfl]
    rfl
  have hrel : (slotted s c 0).relStop c c.fr.phase = none := relStop_none (s := slotted s c 0) hops hpeer _
  rw [exec_tspawn, execTspawn, issueOne_ready hc (fate_tspawn hk hf)]
  have h2 : ¬c.fr.phase = 2 := by omega
  simp only [if_neg (Nat.not_lt.mpr hle), if_neg (not_not.mpr hm), hp, Bool.false_eq_true, if_false, h2, decide_false, hps, hrel, hread, hdie,
    if_neg (not_not.mpr hph)]
  simp only [putS_sceneDone hph, State.spawn]
  by_cases h0 : trClass (BitVec.ofNat 2048 x) = 0
  · by_cases hfull : 256 ≤ ((slotted s c 0).taskBank (spawnDie c f) 32).length
    · simp only [if_pos h0, if_pos hfull]
      rfl
    · simp only [if_pos h0, if_neg hfull]
      rfl
  · simp only [if_neg h0]
    generalize firstNat _ 32 0 = o
    cases o <;> rfl

/-- TSPAWN with the outcome r of its record. -/
theorem exec_tspawn_outcome (hc : ready s c) (hk : c.ag.kind = .group) (hf : tspawnFields c f) (hm : (c.ag.sr f.sa.toNat).toNat % 64 = 0)
    (hp : c.ag.pure = false) (hph : c.fr.phase = 3) (hops : ∀ o ∈ c.ag.ops, o.kind.isAccess = true → o.returned = true)
    (hpeer : s.heldPeer c.ag.core c.ag.ctx = none) (hrec : recordAt (slotted s c 0) c (c.ag.sr f.sa.toNat).toNat 256 x) {r : State × Nat}
    (hr : (slotted s c 0).spawn (spawnDie c f) c.ag.ctx (c.ag.sr f.sa.toNat).toNat (BitVec.ofNat 2048 x) = r) :
    exec (.tspawn f) s = .next (r.1.updAgent c.a fun ag => ag.wroteStatus c s.clk f.sd.toNat r.2 f.stl.toNat) := by
  subst hr
  exact exec_tspawn_read hc hk hf hm hp hph hops hpeer hrec

/-- What the statement says of a TSPAWN that answers with r. -/
theorem tspawn_answers (hc : ready s c) {r : State × Nat} {rest : State → Prop}
    (he : exec (.tspawn f) s = .next (r.1.updAgent c.a fun ag => ag.wroteStatus c s.clk f.sd.toNat r.2 f.stl.toNat))
    (ha : r.1.agents = s.agents) (hm : r.1.mem = s.mem) (hr : ∀ g, rest (r.1.updAgent c.a g)) :
    answers (.tspawn f) s c { c.ag with pend := link s c f.sd (BitVec.ofNat 64 r.2), frags := released s c f.stl } rest := by
  rw [← wroteStatus_settled hc]
  exact answers_of_updAgent (g := fun ag => ag.wroteStatus c s.clk f.sd.toNat r.2 f.stl.toNat) hc.1 he ha hm (hr _)

theorem insertTask_eq (s : State) (die k : Nat) (b : BitVec 2048) (addr ctx : Nat) :
    s.insertTask die k b addr ctx =
      { s with
        banks := KMap.put s.banks (64 * die + k)
          (s.taskBank die k ++ [{ bits := b, addr := addr, ctx := ctx, serial := KMap.get 0 s.taskSerial die }])
        taskSerial := KMap.set 0 s.taskSerial die ((KMap.get 0 s.taskSerial die + 1) % 2 ^ 64) } := by
  have h : ∀ x : TaskRec, (s.taskBank die k ++ [x]).isEmpty = false := fun x => by simp
  simp only [State.insertTask, State.setTaskBank, h, Bool.false_eq_true, if_false, bankKey]

/-- A record that finds room joins its bank with the die's next serial; the push pointer becomes p. -/
theorem tspawn_placed (hc : ready s c) {die k addr ctx : Nat} {b : BitVec 2048} {p : KMap Nat} {more : State → Prop}
    (he : exec (.tspawn f) s = .next ({ (slotted s c 0).insertTask die k b addr ctx with pushPtr := p }.updAgent c.a fun ag =>
      ag.wroteStatus c s.clk f.sd.toNat 0 f.stl.toNat))
    (hmore : ∀ t : State, t.pushPtr = p → more t) :
    answers (.tspawn f) s c { c.ag with pend := link s c f.sd (BitVec.ofNat 64 0), frags := released s c f.stl } fun t =>
      t.banks = KMap.put s.banks (64 * die + k)
          (s.taskBank die k ++ [{ bits := b, addr := addr, ctx := ctx, serial := KMap.get 0 s.taskSerial die }])
        ∧ t.taskSerial = KMap.set 0 s.taskSerial die ((KMap.get 0 s.taskSerial die + 1) % 2 ^ 64) ∧ more t
        ∧ { t with agents := s.agents, slots := s.slots, banks := s.banks, taskSerial := s.taskSerial, pushPtr := s.pushPtr } = s := by
  rw [insertTask_eq] at he
  exact tspawn_answers (r := (_, 0)) hc he rfl rfl fun g => ⟨rfl, rfl, hmore _ rfl, rfl⟩

theorem tspawn_full (hc : ready s c)
    (he : exec (.tspawn f) s = .next ((slotted s c 0).updAgent c.a fun ag => ag.wroteStatus c s.clk f.sd.toNat 1 f.stl.toNat)) :
    answers (.tspawn f) s c { c.ag with pend := link s c f.sd (BitVec.ofNat 64 1), frags := released s c f.stl }
      fun t => { t with agents := s.agents, slots := s.slots } = s :=
  tspawn_answers (r := (slotted s c 0, 1)) hc he rfl rfl fun _ => rfl

theorem spawn_edf_room {die ctx addr : Nat} {b : BitVec 2048} (hb : trClass b = 0) (t : State) (h : (t.taskBank die 32).length < 256) :
    t.spawn die ctx addr b = ({ t.insertTask die 32 b addr ctx with pushPtr := t.pushPtr }, 0) := by
  rw [State.spawn, if_pos hb, if_neg (Nat.not_le.mpr h), insertTask_eq]

theorem spawn_edf_full {die ctx addr : Nat} {b : BitVec 2048} (hb : trClass b = 0) (t : State) (h : 256 ≤ (t.taskBank die 32).length) :
    t.spawn die ctx addr b = (t, 1) := by
  rw [State.spawn, if_pos hb, if_pos h]

theorem spawn_bank {die ctx addr i : Nat} {b : BitVec 2048} (hb : trClass b ≠ 0) (t : State) (hi : i < 32)
    (hroom : (t.taskBank die ((KMap.get 0 t.pushPtr die + i) % 32)).length < 256)
    (hbefore : ∀ j, j < i → 256 ≤ (t.taskBank die ((KMap.get 0 t.pushPtr die + j) % 32)).length) :
    let k := (KMap.get 0 t.pushPtr die + i) % 32
    t.spawn die ctx addr b = ({ t.insertTask die k b addr ctx with pushPtr := KMap.set 0 t.pushPtr die ((k + 1) % 32) }, 0) := by
  rw [State.spawn, if_neg hb, firstNat_eq_some hi (start := 0) (by simpa using hroom) fun j hj => by simpa using hbefore j hj, Nat.zero_add]

theorem spawn_banks_full {die ctx addr : Nat} {b : BitVec 2048} (hb : trClass b ≠ 0) (t : State)
    (hfull : ∀ i, i < 32 → 256 ≤ (t.taskBank die ((KMap.get 0 t.pushPtr die + i) % 32)).length) : t.spawn die ctx addr b = (t, 1) := by
  rw [State.spawn, if_neg hb, firstNat_eq_none fun i hi => by simpa using hfull i hi]

end Tspawn

/-! ## TEND (R365) -/

section Tend
variable {s : State} {c : Iss} {f : FSYS}

theorem exec_tend (hc : ready s c) (hk : c.ag.kind = .group) (hf : sysFields c f 0 false false false false 0) (hh : c.ag.handler = none) :
    exec (.tend f) s =
      if c.ag.task = none then .next ((slotted s c 0).raise c.a c.fid (illegalOp 1))
      else if c.ag.split = [] then .next (((slotted s c 0).updAgent c.a fun ag => ag).endLast c fun t => t.updAgent c.a fun ag => ag.endFrag c.fid s.clk)
      else .next ((slotted s c 0).raise c.a c.fid illegalSplit) := by
  have hl : ({ legalSys f { noHnd := true, subRsv := true } with leat := false } : Legal).fate c = none :=
    fate_legalSys (r := { noHnd := true, subRsv := true }) hf rfl rfl rfl
      ⟨by simp [isLeat_of_group hk], fun _ => rfl, nofun, fun _ => by simp [Iss.inHandler, hh]⟩
  show execTend f s = _
  rw [execTend, issueOne_ready hc hl, updAgent_id]
  simp only [Option.isNone_iff_eq_none]
  cases c.ag.split <;> rfl

theorem tend_noTask_raises (hc : ready s c) (hk : c.ag.kind = .group) (hf : sysFields c f 0 false false false false 0)
    (hh : c.ag.handler = none) (ht : c.ag.task = none) : raises (.tend f) s c { code := 3, detail := 1 } := by
  rw [raises, exec_tend hc hk hf hh, if_pos ht]
  rfl

theorem tend_split_raises (hc : ready s c) (hk : c.ag.kind = .group) (hf : sysFields c f 0 false false false false 0)
    (hh : c.ag.handler = none) (ht : c.ag.task ≠ none) (hs : c.ag.split ≠ []) : raises (.tend f) s c { code := 7 } := by
  rw [raises, exec_tend hc hk hf hh, if_neg ht, if_neg hs]
  rfl

theorem tend_acts (hc : ready s c) (hk : c.ag.kind = .group) (hf : sysFields c f 0 false false false false 0) (hh : c.ag.handler = none)
    (ht : c.ag.task ≠ none) (hs : c.ag.split = []) (hfr : c.ag.frags = [(c.fid, c.fr)]) (hops : c.ag.ops = []) :
    acts (.tend f) s c 0 { c.ag with frags := [], ended := true } := by
  rw [← endFrag_only hfr hs s.clk]
  refine acts_endLast_empty (g := fun ag => ag) (fin := fun ag => ag.endFrag c.fid s.clk) hc.1 hops ?_
  rw [exec_tend hc hk hf hh, if_neg ht, if_pos hs]

theorem tend_waits (hc : ready s c) (hk : c.ag.kind = .group) (hf : sysFields c f 0 false false false false 0) (hh : c.ag.handler = none)
    (ht : c.ag.task ≠ none) (hs : c.ag.split = []) (hfr : c.ag.frags = [(c.fid, c.fr)]) (hr : ∀ o ∈ c.ag.ops, o.rej = none)
    (hhop : c.fr.hop = 0) (hops : c.ag.ops ≠ []) : acts (.tend f) s c 0 { c.ag with frags := waiting s c .ended 0 } := by
  rw [← updFrag_heldBy_eq_waiting hc (by simp [hfr]) hhop]
  refine acts_endLast_busy (g := fun ag => ag) (fin := fun ag => ag.endFrag c.fid s.clk) hc hops hr ?_
  rw [exec_tend hc hk hf hh, if_neg ht, if_pos hs]

end Tend

end Sys2Proof.Machine
end

section
/-!
PROOFS. O40, LAUNCH (R166): what a write through a context's translation leaves, the status, then the rules.
-/
namespace Sys2Proof.Machine
open Sys2Proof.Safety

/-! ## Writes of records -/

/-- t is s but for memory, what was sent off the card, and what a write marks in the reuse table and the tasks. -/
def State.storedOnly (s t : State) : Prop :=
  { t with mem := s.mem, tasks := s.tasks, reuse := s.reuse, hostOut := s.hostOut, fabOut := s.fabOut } = s

theorem storedOnly_trans {s t u : State} (h1 : s.storedOnly t) (h2 : t.storedOnly u) : s.storedOnly u := by
  unfold State.storedOnly at *
  calc _ = { { u with mem := t.mem, tasks := t.tasks, reuse := t.reuse, hostOut := t.hostOut, fabOut := t.fabOut } with
        mem := s.mem, tasks := s.tasks, reuse := s.reuse, hostOut := s.hostOut, fabOut := s.fabOut } := rfl
    _ = s := by rw [h2]; exact h1

theorem devWrite_storedOnly (s : State) (pa : Nat) (bs : List Byte) (own : Nat) : s.storedOnly (s.devWrite pa bs own) := by
  unfold State.devWrite
  split
  · rfl
  · simp only [State.dropReuse]
    split <;> rfl

theorem unitWrite_storedOnly (s : State) (pa : Nat) (bs : List Byte) (own : Nat) : s.storedOnly (s.unitWrite pa bs own) := by
  unfold State.unitWrite
  split
  · rfl
  · rfl
  · rfl
  · exact devWrite_storedOnly ..

theorem partsWrite_storedOnly (s : State) (own : Nat) (ps : List (Nat × Nat × Nat)) (bs : List Byte) :
    s.storedOnly (s.partsWrite own ps bs) := by
  induction ps generalizing s bs with
  | nil => rfl
  | cons p ps ih => exact storedOnly_trans (unitWrite_storedOnly ..) (ih ..)

theorem ctxWrite_storedOnly {s t : State} {ctx va own : Nat} {bs : List Byte} (h : s.ctxWrite ctx va bs own = .ok t) : s.storedOnly t := by
  unfold State.ctxWrite at h
  split at h
  · cases h
  · cases h
    exact partsWrite_storedOnly ..

theorem putFld_low (x : Dword) (v : Nat) : (putFld x 0 32 v).toNat % 2 ^ 32 = v % 2 ^ 32 := by
  apply Nat.eq_of_testBit_eq
  intro i
  simp only [Nat.testBit_mod_two_pow, BitVec.testBit_toNat, putFld, BitVec.getLsbD_or, BitVec.getLsbD_and, BitVec.getLsbD_not,
    BitVec.shiftLeft_zero, BitVec.getLsbD_ofNat, Nat.testBit_two_pow_sub_one]
  by_cases hi : i < 32
  · simp [hi, show i < 64 by omega]
  · simp [hi]

/-! ## LAUNCH -/

section Launch
variable {s : State} {c : Iss} {f : FSYS}

/-- The fields of a LAUNCH word are in order, and counter G has room (R218). -/
def launchFields (c : Iss) (f : FSYS) : Prop := sysFields c f 0 true true false false 0x3F ∧ room c .g

theorem fate_launch (hk : c.ag.kind = .group) (hf : launchFields c f) :
    (legalSys f { sd := true, sa := true, imm := 0x3F, subRsv := true }).fate c = none :=
  fate_legalSys hf.1 rfl rfl rfl ⟨by simp [isLeat_of_group hk], fun _ => rfl, nofun, nofun⟩

theorem launch_queue (hf : launchFields c f) : fldN f.imm 0 6 = f.imm.toNat := by
  obtain ⟨⟨-, -, -, -, -, -, himm, -⟩, -⟩ := hf
  have hle : f.imm.toNat ≤ 0x3F := toNat_le_of_and_not_eq_zero himm
  rw [fldN, Nat.shiftRight_zero]
  omega

theorem launch_hasRoom (hk : c.ag.kind = .group) (hf : launchFields c f) (p : Prop) : ¬(p ∧ c.ag.ctrVal .g = 63) := by
  have h := hf.2.resolve_left (not_not.mpr hk)
  omega

theorem launch_outside (hc : ready s c) (hk : c.ag.kind = .group) (hf : launchFields c f)
    (ha : 2 ^ 48 < (c.ag.sr f.sa.toNat).toNat + 128) : raises (.launch f) s c { code := 6, addr := (c.ag.sr f.sa.toNat).toNat } := by
  show execLaunch f s = _
  simp only [execLaunch, hc.1, if_neg (launch_hasRoom hk hf _), issueOne_ready hc (fate_launch hk hf), ← illegalAddr_reg]
  exact if_pos ha

theorem launch_misaligned (hc : ready s c) (hk : c.ag.kind = .group) (hf : launchFields c f)
    (ha : (c.ag.sr f.sa.toNat).toNat + 128 ≤ 2 ^ 48) (hm : (c.ag.sr f.sa.toNat).toNat % 64 ≠ 0) :
    raises (.launch f) s c { code := 8, addr := (c.ag.sr f.sa.toNat).toNat } := by
  show execLaunch f s = _
  simp only [execLaunch, hc.1, if_neg (launch_hasRoom hk hf _), issueOne_ready hc (fate_launch hk hf)]
  exact (if_neg (Nat.not_lt.mpr ha)).trans (if_pos hm)

theorem launch_pure (hc : ready s c) (hk : c.ag.kind = .group) (hf : launchFields c f)
    (ha : (c.ag.sr f.sa.toNat).toNat + 128 ≤ 2 ^ 48) (hm : (c.ag.sr f.sa.toNat).toNat % 64 = 0) (hp : c.ag.pure = true) :
    raises (.launch f) s c { code := 14 } := by
  show execLaunch f s = _
  simp only [execLaunch, hc.1, if_neg (launch_hasRoom hk hf _), issueOne_ready hc (fate_launch hk hf)]
  exact (if_neg (Nat.not_lt.mpr ha)).trans ((if_neg (not_not.mpr hm)).trans (if_pos hp))

/-- The status of a LAUNCH of the record lr into queue q (R166). -/
def State.launchStatus (s : State) (ctx q lr : Nat) : Nat :=
  if !s.qEn q ∨ !s.qDev q ∨ s.qCtx q ≠ ctx then 2
  else if lrClass (BitVec.ofNat 1024 lr) < s.qMax q then 3
  else if s.qPend q = s.qSize q then 1 else 0

/-- The operation of a LAUNCH, which returns its status 200 clk later. -/
def launchOp (id clk : Nat) (c : Iss) (f : FSYS) (status : Nat) : Op :=
  { id := id, fid := c.fid, ctr := some .g, issue := clk, due := clk + 200, kind := .launch f.sd.toNat status,
    dsts := [sreg f.sd.toNat], pc := c.fr.pc }

/-- The LAUNCH has become an operation in flight, and its fragment goes on. -/
def State.launched (t : State) (c : Iss) (f : FSYS) (clk status : Nat) : State :=
  ({ t with ids := t.ids + 1 }.startOp c.a (launchOp t.ids clk c f status)).updFrag c.a c.fid fun fr => fr.adv (clk + 1 + f.stl.toNat)

/-- The record stands in its entry: TAIL grows, and the queue is read again. -/
def State.tailGrown (s t : State) (q : Nat) : State :=
  let t1 := t.barPut (qDesc q 3) 0 32 (s.qTail q + 1)
  if (t1.qState q).reading then t1 else t1.setQ q { t1.qState q with due := max (t1.qState q).due (s.clk + 8) }

/-- LAUNCH with its record read and nothing to wait for. -/
theorem exec_launch_read (hc : ready s c) (hk : c.ag.kind = .group) (hf : launchFields c f)
    (ha : (c.ag.sr f.sa.toNat).toNat + 128 ≤ 2 ^ 48) (hm : (c.ag.sr f.sa.toNat).toNat % 64 = 0) (hp : c.ag.pure = false)
    (hops : ∀ o ∈ c.ag.ops, o.kind.isAccess = true → o.returned = true) (hpeer : s.heldPeer c.ag.core c.ag.ctx = none)
    {ps : List (Nat × Nat × Nat)} (hps : State.recParts (slotted s c 0) c.ag (c.ag.sr f.sa.toNat).toNat 128 false false = .ok ps)
    (hcard : ∀ p ∈ ps, s.onCard p.2.1 = true) :
    let t := slotted s c 0
    let lr := (t.partsRead ps).2
    let status := t.launchStatus c.ag.ctx f.imm.toNat lr
    exec (.launch f) s =
      if status ≠ 0 then .next (t.launched c f t.clk status)
      else match t.ctxWrite c.ag.ctx (t.qEntry f.imm.toNat (t.qTail f.imm.toNat)) (bytesOf 128 lr) with
        | .error x => .next (t.raise c.a c.fid x)
        | .ok u => .next ((t.tailGrown u f.imm.toNat).launched c f t.clk status) := by
  have hread : ((slotted s c 0).partsRead ps).1 = slotted s c 0 := partsRead_onCard hcard
  have hrel : (slotted s c 0).relStop c c.fr.phase = none := relStop_none (s := slotted s c 0) hops hpeer _
  show execLaunch f s = _
  rw [execLaunch, hc.1]
  refine (if_neg (launch_hasRoom hk hf _)).trans ?_
  rw [issueOne_ready hc (fate_launch hk hf)]
  refine (if_neg (Nat.not_lt.mpr ha)).trans ((if_neg (not_not.mpr hm)).trans ((if_neg (by simp [hp])).trans ?_))
  rw [recParts_again hps]
  simp -zeta only [hrel, launch_queue hf]
  generalize slotted s c 0 = t at hread ⊢
  extract_lets r lr status go
  have hgo : ∀ u, go u = u.launched c f t.clk status := fun _ => rfl
  have hst : status = t.launchStatus c.ag.ctx f.imm.toNat r.2 := rfl
  have hr : r.1 = t := hread
  clear_value go status
  subst hst
  rw [hr, hgo]
  cases t.ctxWrite c.ag.ctx (t.qEntry f.imm.toNat (t.qTail f.imm.toNat)) (bytesOf 128 r.2) with
  | error x => rfl
  | ok u => exact if_congr Iff.rfl rfl (congrArg Host.Outcome.next (hgo _))

/-- The agent of a LAUNCH: one more operation in flight, its fragment goes on. -/
def Agent.launches (ag : Agent) (c : Iss) (clk : Nat) (stl : BitVec 3) (o : Op) : Agent :=
  ({ markWrites ag o.dsts with
    ops := ag.ops.map (fun q => { q with
      clash := q.clash ++ State.startOp.hitOf o.dsts q.dsts, winClash := q.winClash ++ State.startOp.hitOf o.dsts q.win }) ++ [o] } :
      Agent).updFrag c.fid fun fr => fr.adv (clk + 1 + stl.toNat)

theorem launched_eq (t : State) (clk status : Nat) :
    t.launched c f clk status =
      { t with ids := t.ids + 1 }.updAgent c.a fun ag => ag.launches c clk f.stl (launchOp t.ids clk c f status) := by
  rw [State.launched, State.startOp, State.updFrag, updAgent_updAgent]
  rfl

/-- No operation of a settled agent has a destination or a read window for a LAUNCH to meet. -/
theorem launches_settled (hc : ready s c) (o : Op) : c.ag.launches c s.clk f.stl o = withOp c o (goesOn s 0 f.stl) := by
  have hmap : c.ag.ops.map (fun q => { q with
      clash := q.clash ++ State.startOp.hitOf o.dsts q.dsts, winClash := q.winClash ++ State.startOp.hitOf o.dsts q.win }) = c.ag.ops := by
    conv => rhs; rw [← List.map_id c.ag.ops]
    refine List.map_congr_left fun q hq => ?_
    obtain ⟨hd, hw⟩ := hc.2.1.2 q hq
    have hdsts : State.startOp.hitOf o.dsts q.dsts = [] := by rw [hd]; rfl
    have hwin : State.startOp.hitOf o.dsts q.win = [] := by rw [hw]; rfl
    rw [hdsts, hwin, List.append_nil, List.append_nil]
    rfl
  rw [Agent.launches, hmap, markWrites_settled hc.2.1]
  rfl

/-! ### The status -/

theorem qEn_iff (t : State) (q : Nat) : t.qEn q = (t.barRd (4 * q + 1)).getLsbD 12 := by
  rw [getLsbD_eq_div, ← Nat.shiftRight_eq_div_pow]
  rfl

theorem qDev_iff (t : State) (q : Nat) : t.qDev q = (t.barRd (4 * q + 1)).getLsbD 14 := by
  rw [getLsbD_eq_div, ← Nat.shiftRight_eq_div_pow]
  rfl

theorem barFld_eq (t : State) (i lo n : Nat) : t.barFld i lo n = (t.barRd i).toNat / 2 ^ lo % 2 ^ n := by
  rw [State.barFld, fldN, Nat.shiftRight_eq_div_pow]

theorem lrClass_ofNat (x : Nat) : lrClass (BitVec.ofNat 1024 x) = x / 2 ^ 56 % 4 := fldN_ofNat x (by decide)

variable {t : State} {ctx q lr : Nat}

/-- The queue is off, not a device queue, or another context's. -/
def State.launchOff (t : State) (ctx q : Nat) : Prop :=
  (t.barRd (4 * q + 1)).getLsbD 12 = false ∨ (t.barRd (4 * q + 1)).getLsbD 14 = false ∨ (t.barRd (4 * q + 1)).toNat / 2 ^ 4 % 64 ≠ ctx

theorem launchOff_iff : t.launchOff ctx q ↔ (!t.qEn q ∨ !t.qDev q ∨ t.qCtx q ≠ ctx) := by
  rw [qEn_iff, qDev_iff, State.qCtx, barFld_eq]
  simp [State.launchOff, qDesc]

theorem launchStatus_off (h : t.launchOff ctx q) : t.launchStatus ctx q lr = 2 := by
  rw [State.launchStatus, if_pos (launchOff_iff.mp h)]

theorem launchStatus_on (h : ¬t.launchOff ctx q) :
    t.launchStatus ctx q lr = if lr / 2 ^ 56 % 4 < (t.barRd (4 * q + 1)).toNat / 2 ^ 10 % 4 then 3
      else if ((t.barRd (4 * q + 3)).toNat % 2 ^ 32 + 2 ^ 32 - (t.barRd (4 * q + 2)).toNat % 2 ^ 32) % 2 ^ 32
        = 2 ^ ((t.barRd (4 * q + 1)).toNat % 16 + 4) then 1 else 0 := by
  rw [State.launchStatus, if_neg (mt launchOff_iff.mpr h), lrClass_ofNat]
  simp only [State.qMax, State.qPend, State.qTail, State.qHead, State.qSize, barFld_eq, qDesc, Nat.pow_zero, Nat.div_one]
  rfl

theorem partsRead_slotted {ps : List (Nat × Nat × Nat)} (hcard : ∀ p ∈ ps, s.onCard p.2.1 = true) :
    ((slotted s c 0).partsRead ps).2 = (s.partsRead ps).2 := by
  induction ps with
  | nil => rfl
  | cons p ps ih =>
    obtain ⟨hp, hps⟩ := List.forall_mem_cons.mp hcard
    have hp' : (slotted s c 0).onCard p.2.1 = true := hp
    simp only [State.partsRead, State.unitRead, hp, hp', if_true, ih hps]
    rfl

theorem qTail_slotted (q : Nat) : (slotted s c 0).qTail q = s.qTail q := rfl

theorem qPend_slotted (q : Nat) : (slotted s c 0).qPend q = s.qPend q := by
  have hhead : (slotted s c 0).qHead q = s.qHead q := rfl
  rw [State.qPend, State.qPend, qTail_slotted, hhead]

theorem qSize_slotted (q : Nat) : (slotted s c 0).qSize q = s.qSize q := by
  have h : (slotted s c 0).barFld (qDesc q 1) 0 4 = s.barFld (qDesc q 1) 0 4 := rfl
  rw [State.qSize, State.qSize, h]

theorem launchStatus_slotted (q lr : Nat) : (slotted s c 0).launchStatus ctx q lr = s.launchStatus ctx q lr := by
  have hen : (slotted s c 0).qEn q = s.qEn q := rfl
  have hdev : (slotted s c 0).qDev q = s.qDev q := rfl
  have hctx : (slotted s c 0).qCtx q = s.qCtx q := rfl
  have hmax : (slotted s c 0).qMax q = s.qMax q := rfl
  rw [State.launchStatus, State.launchStatus, hen, hdev, hctx, hmax, qPend_slotted, qSize_slotted]

theorem qEntry_slotted (q n : Nat) : (slotted s c 0).qEntry q n = s.qEntry q n := by
  have hbase : (slotted s c 0).qBase q = s.qBase q := rfl
  rw [State.qEntry, State.qEntry, hbase, qSize_slotted]

theorem qEntry_eq (t : State) (q : Nat) :
    t.qEntry q (t.qTail q) = (t.barRd (4 * q)).toNat % 2 ^ 48
      + 128 * ((t.barRd (4 * q + 3)).toNat % 2 ^ 32 % 2 ^ ((t.barRd (4 * q + 1)).toNat % 16 + 4)) := by
  simp only [State.qEntry, State.qBase, State.qTail, State.qSize, barFld_eq, qDesc, Nat.pow_zero, Nat.div_one, Nat.add_zero]
  rfl

/-! ### The two outcomes -/

theorem launch_turned (hc : ready s c) {status : Nat} (he : exec (.launch f) s = .next ((slotted s c 0).launched c f s.clk status)) :
    answers (.launch f) s c (withOp c (launchOp s.ids s.clk c f status) (goesOn s 0 f.stl)) fun t =>
      { t with agents := s.agents, slots := s.slots, ids := s.ids } = s ∧ t.ids = s.ids + 1 := by
  rw [launched_eq] at he
  rw [← launches_settled hc]
  exact answers_of_updAgent (g := fun ag => ag.launches c s.clk f.stl (launchOp s.ids s.clk c f status)) hc.1 he rfl rfl ⟨rfl, rfl⟩

theorem tailGrown_bar (s t : State) (q : Nat) :
    ∃ qs, s.tailGrown t q = { t.barPut (qDesc q 3) 0 32 (s.qTail q + 1) with queues := qs } := by
  rw [State.tailGrown]
  split
  · exact ⟨_, rfl⟩
  · exact ⟨_, rfl⟩

theorem launch_enqueued (hc : ready s c) {u : State} (hu : (slotted s c 0).storedOnly u)
    (he : exec (.launch f) s = .next (((slotted s c 0).tailGrown u q).launched c f s.clk 0)) :
    ∃ t, exec (.launch f) s = .next t ∧ t.agent? c.a = some (withOp c (launchOp s.ids s.clk c f 0) (goesOn s 0 f.stl))
      ∧ (∀ b, b ≠ c.a → t.agent? b = s.agent? b) ∧ t.mem = u.mem
      ∧ (t.barRd (4 * q + 3)).toNat % 2 ^ 32 = ((s.barRd (4 * q + 3)).toNat % 2 ^ 32 + 1) % 2 ^ 32
      ∧ (∀ j, j ≠ 4 * q + 3 → t.barRd j = s.barRd j) := by
  obtain ⟨qs, hq⟩ := tailGrown_bar (slotted s c 0) u q
  have hag : u.agents = s.agents := (congrArg State.agents hu :)
  have hids : u.ids = s.ids := (congrArg State.ids hu :)
  have hbar : ∀ j, u.barRd j = s.barRd j := fun j => by
    have h : u.bar = s.bar := (congrArg State.bar hu :)
    rw [State.barRd, h]
    rfl
  have hfind : ∀ b, ({ u.barPut (qDesc q 3) 0 32 ((slotted s c 0).qTail q + 1) with queues := qs } : State).agent? b = s.agent? b :=
    fun b => congrArg (KMap.find? · b) hag
  rw [hq, launched_eq] at he
  refine ⟨_, he, ?_, fun b hb => ?_, rfl, ?_, fun j hj => ?_⟩
  · rw [agent?_updAgent_self]
    refine (congrArg (Option.map _) (hfind c.a)).trans ?_
    rw [(issuer_agent hc.1).1, ← launches_settled hc, ← hids]
    rfl
  · exact (agent?_updAgent_ne _ _ hb).trans (hfind b)
  · have h := State.barRd_barWr_self u (qDesc q 3) (putFld (u.barRd (qDesc q 3)) 0 32 ((slotted s c 0).qTail q + 1))
    refine (congrArg (fun x : Dword => x.toNat % 2 ^ 32) h).trans ((putFld_low _ _).trans ?_)
    have htail : (slotted s c 0).qTail q = (s.barRd (4 * q + 3)).toNat % 2 ^ 32 := by
      rw [State.qTail, barFld_eq, Nat.pow_zero, Nat.div_one]
      rfl
    rw [htail]
  · exact (State.barRd_barWr_ne u hj _).trans (hbar j)

/-- LAUNCH has its record, and nothing of the agent's is to be waited for (R166). -/
structure LaunchReads (s : State) (c : Iss) (f : FSYS) (ps : List (Nat × Nat × Nat)) : Prop where
  inside : (c.ag.sr f.sa.toNat).toNat + 128 ≤ 2 ^ 48
  aligned : (c.ag.sr f.sa.toNat).toNat % 64 = 0
  impure : c.ag.pure = false
  returned : ∀ o ∈ c.ag.ops, o.kind.isAccess = true → o.returned = true
  noPeer : s.heldPeer c.ag.core c.ag.ctx = none
  parts : State.recParts (slotted s c 0) c.ag (c.ag.sr f.sa.toNat).toNat 128 false false = .ok ps
  onCard : ∀ p ∈ ps, s.onCard p.2.1 = true

variable {ps : List (Nat × Nat × Nat)}

theorem exec_launch (hc : ready s c) (hk : c.ag.kind = .group) (hf : launchFields c f) (hr : LaunchReads s c f ps) :
    exec (.launch f) s =
      if s.launchStatus c.ag.ctx f.imm.toNat (s.partsRead ps).2 ≠ 0 then
        .next ((slotted s c 0).launched c f s.clk (s.launchStatus c.ag.ctx f.imm.toNat (s.partsRead ps).2))
      else match (slotted s c 0).ctxWrite c.ag.ctx (s.qEntry f.imm.toNat (s.qTail f.imm.toNat)) (bytesOf 128 (s.partsRead ps).2) with
        | .error x => .next ((slotted s c 0).raise c.a c.fid x)
        | .ok u => .next (((slotted s c 0).tailGrown u f.imm.toNat).launched c f s.clk
            (s.launchStatus c.ag.ctx f.imm.toNat (s.partsRead ps).2)) := by
  have h := exec_launch_read hc hk hf hr.inside hr.aligned hr.impure hr.returned hr.noPeer hr.parts hr.onCard
  have hclk : (slotted s c 0).clk = s.clk := rfl
  simp only [partsRead_slotted hr.onCard, launchStatus_slotted, qTail_slotted, qEntry_slotted, hclk] at h
  exact h

theorem launch_read_turned (hc : ready s c) (hk : c.ag.kind = .group) (hf : launchFields c f) (hr : LaunchReads s c f ps) {status : Nat}
    (hst : s.launchStatus c.ag.ctx f.imm.toNat (s.partsRead ps).2 = status) (h0 : status ≠ 0) :
    answers (.launch f) s c (withOp c (launchOp s.ids s.clk c f status) (goesOn s 0 f.stl)) fun t =>
      { t with agents := s.agents, slots := s.slots, ids := s.ids } = s ∧ t.ids = s.ids + 1 := by
  refine launch_turned hc ?_
  rw [exec_launch hc hk hf hr, hst, if_pos h0]

theorem launch_read_enqueued (hc : ready s c) (hk : c.ag.kind = .group) (hf : launchFields c f) (hr : LaunchReads s c f ps)
    (hst : s.launchStatus c.ag.ctx f.imm.toNat (s.partsRead ps).2 = 0) {u : State}
    (hu : (slotted s c 0).ctxWrite c.ag.ctx (s.qEntry f.imm.toNat (s.qTail f.imm.toNat)) (bytesOf 128 (s.partsRead ps).2) = .ok u) :
    exec (.launch f) s = .next (((slotted s c 0).tailGrown u f.imm.toNat).launched c f s.clk 0) := by
  rw [exec_launch hc hk hf hr, hst, if_neg (not_not.mpr rfl), hu]

end Launch
/-! ## The obligation -/

theorem trClass_ofNat (x : Nat) : trClass (BitVec.ofNat 2048 x) = x / 2 ^ 48 % 4 := fldN_ofNat x (by decide)

/-- Settles O40: TSPAWN by the outcomes of `State.spawn`, LAUNCH by its status and, for status 0, by what a write through a context's
translation leaves unchanged. -/
theorem tasksAndLaunches : Obligations.TasksAndLaunches := by
  unfold Obligations.TasksAndLaunches
  refine ⟨fun s c f hc hk => ⟨fun hf h3 => ?_, fun hf hh => ?_⟩, fun s c f hc hk hf hroom => ?_⟩
  · have hf' : tspawnFields c f := ⟨hf, h3⟩
    refine ⟨tspawn_outside hc hk hf', tspawn_misaligned hc hk hf', tspawn_pure hc hk hf',
      fun hm hp hph hops hpeer x hrec => ?_⟩
    have hclassN := trClass_ofNat x
    have he := fun r => exec_tspawn_outcome (r := r) hc hk hf' hm hp hph hops hpeer hrec
    refine ⟨fun h0 => ⟨fun hroom => ?_, fun hfull => ?_⟩, fun h0 => ⟨fun i hi hroom hbefore => ?_, fun hfull => ?_⟩⟩
    · exact tspawn_placed hc (he _ (spawn_edf_room (hclassN.trans h0) (slotted s c 0) hroom)) fun _ ht => ht
    · exact tspawn_full hc (he _ (spawn_edf_full (hclassN.trans h0) (slotted s c 0) hfull))
    · exact tspawn_placed hc (he _ (spawn_bank (hclassN ▸ h0) (slotted s c 0) hi hroom hbefore)) fun _ ht => ht
    · exact tspawn_full hc (he _ (spawn_banks_full (hclassN ▸ h0) (slotted s c 0) hfull))
  · exact ⟨tend_noTask_raises hc hk hf hh, tend_split_raises hc hk hf hh, fun ht hs hfr hops hhop =>
      ⟨tend_acts hc hk hf hh ht hs hfr, tend_waits hc hk hf hh ht hs hfr hops hhop⟩⟩
  · have hf' : launchFields c f := ⟨hf, hroom⟩
    refine ⟨launch_outside hc hk hf', launch_misaligned hc hk hf', launch_pure hc hk hf',
      fun ha hm hp hops hpeer ps hps hcard => ?_⟩
    have hr : LaunchReads s c f ps := ⟨ha, hm, hp, hops, hpeer, hps, hcard⟩
    refine ⟨fun hoff => ?_, fun hon hlow => ?_, fun hon hlow hfull => ?_, fun hon hlow hfull u hu => ?_⟩
    · exact launch_read_turned hc hk hf' hr (launchStatus_off hoff) (by decide)
    · exact launch_read_turned hc hk hf' hr ((launchStatus_on hon).trans (if_pos hlow)) (by decide)
    · exact launch_read_turned hc hk hf' hr ((launchStatus_on hon).trans ((if_neg hlow).trans (if_pos hfull))) (by decide)
    · have hctx : (s.barRd (4 * f.imm.toNat + 1)).toNat / 2 ^ 4 % 64 = c.ag.ctx := by
        by_contra h
        exact hon (.inr (.inr h))
      have hentry : (slotted s c 0).ctxWrite c.ag.ctx (s.qEntry f.imm.toNat (s.qTail f.imm.toNat)) (bytesOf 128 (s.partsRead ps).2) = .ok u := by
        rw [qEntry_eq]
        rw [hctx] at hu
        exact hu
      exact launch_enqueued hc (ctxWrite_storedOnly hentry)
        (launch_read_enqueued hc hk hf' hr ((launchStatus_on hon).trans ((if_neg hlow).trans (if_neg hfull))) hentry)

end Sys2Proof.Machine
end

section
/-!
PROOFS. O16: what an instruction leaves that only writes registers and em, then the rule of the mask instructions (R139), and what
MFIRST and MCNT compute.
-/
namespace Sys2Proof.Machine
open Sys2Proof.Safety

/-! ## Instructions that write registers and em -/

/-- Writes that each make one entry, with values, are on their way as they stand. -/
theorem filter_flatMap_writes {ws : List (Reg × List (Nat × Dword))} {g : Reg × List (Nat × Dword) → List Pend}
    {p : Reg × List (Nat × Dword) → Pend} (hg : ∀ w ∈ ws, g w = [p w]) (hp : ∀ w ∈ ws, (p w).vals ≠ []) :
    ((ws.flatMap g).filter fun q => !q.vals.isEmpty) = ws.map p := by
  rw [List.map_eq_flatMap, List.flatMap_congr hg, List.filter_eq_self]
  intro q hq
  obtain ⟨w, hw, hqw⟩ := List.mem_flatMap.mp hq
  rw [List.mem_singleton.mp hqw]
  simpa using hp w hw

theorem commit_writes {s : State} {c : Iss} (h : ready s c) (stl lat : Nat) {ws : List (Reg × List (Nat × Dword))}
    (hw : ∀ w ∈ ws, w.2 ≠ []) (em : Option Dword) :
    c.ag.commit c.fid c.fr (true, false) s.clk stl lat { writes := ws, em := em }
      = { c.ag with
          pend := ws.map fun w => { fid := c.fid, dst := w.1, vals := w.2, ready := s.clk + lat }
          frags := KMap.put c.ag.frags c.fid ({ c.fr with em := em.getD c.fr.em }.adv (s.clk + 1 + stl)) } := by
  simp only [Agent.commit, markWrites_settled h.2.1, h.2.1.1, List.nil_append]
  rw [filter_flatMap_writes (p := fun w => { fid := c.fid, dst := w.1, vals := w.2, ready := s.clk + lat }) _ hw]
  · rfl
  · rintro ⟨r, vals⟩ -
    cases r <;> rfl

/-! ## The mask instructions -/

section Mask
variable {s : State} {c : Iss} {f : FS3} {i : Instr} {lg : Legal} {useA useB : Bool} {res em : Iss → Dword → Option Dword}

theorem maskOp_acts {x : Option Dword} (he : exec i s = maskOp f lg useA useB res em s) (h : ready s c) (hl : lg.fate c = none)
    (hres : res c (maskB f c.ag) = x) :
    acts i s c 0 (passedOn s c ((x.map (link s c f.sd)).getD []) ((em c (maskB f c.ag)).getD c.fr.em) f.stl) := by
  have hx := acts_localOne he h hl rfl
  rw [hres] at hx
  cases x with
  | none =>
    dsimp only at hx
    rw [commit_writes h _ _ (by simp)] at hx
    exact hx
  | some v =>
    dsimp only at hx
    rw [commit_writes h _ _ (by simp)] at hx
    exact hx

theorem fate_legalMask {im usesD usesA usesB : Bool} (hk : c.ag.kind = .group) (ha : allOk c f.all) (hty : f.ty = 10) (hcc : f.cc = 0)
    (hsc : f.sc = 0) (him : im = false → f.im = 0) (hd : usesD = false → f.sd = 0) (hsa : usesA = false → f.sa = 0)
    (hsb : f.im = 1 ∨ usesB = false → f.sb = 0) (hx : f.im = 0 → f.aux = 0) : (legalMask f im usesD usesA usesB).fate c = none := by
  refine fate_none ⟨by simp [isLeat_of_group hk], fun _ => rfl, nofun, nofun⟩ ?_ (by simp [legalMask, hty]) ha nofun fun _ => nofun
  have hz : ∀ {n : Nat} {u : Bool} {x : BitVec n}, (u = false → x = 0) → (!u && decide (x ≠ 0)) = false := fun {n u x} hx => by
    cases u
    · simp [hx rfl]
    · rfl
  have e1 : (decide (f.im = 1) && !im) = false := by
    cases im
    · simp [him rfl]
    · simp
  have e2 : ((decide (f.im = 1) || !usesB) && decide (f.sb ≠ 0)) = false := by
    by_cases h : f.im = 1 ∨ usesB = false
    · simp [hsb h]
    · simpa using fun hb => absurd (by simpa using hb) h
  have e3 : (decide (f.im = 0) && decide (f.aux ≠ 0)) = false := by simpa using hx
  simp only [legalMask, hcc, hsc, hz hd, hz hsa, e1, e2, e3]
  rfl

/-- IM is reserved in the rows that take no operand B (R138). -/
theorem fate_mask_immediate {usesD usesA usesB : Bool} (hk : c.ag.kind = .group) (him : f.im = 1) :
    (legalMask f false usesD usesA usesB).fate c = some (illegalOp 2) := by
  simp [Legal.fate, legalMask, isLeat_of_group hk, him]

theorem mask_immediate_illegal {usesD usesA usesB : Bool}
    (he : exec i s = maskOp f (legalMask f false usesD usesA usesB) useA useB res em s) (hc : s.issuer = some c) (hk : c.ag.kind = .group)
    (him : f.im = 1) : exec i s = .next (s.raise c.a c.fid { code := 3, detail := 2 }) := by
  rw [he, maskOp, issueLocal, issueWith_illegal hc (fate_mask_immediate hk him)]
  rfl

end Mask

theorem lanesOf_and_wmask (x : Dword) {w : Nat} (hw : w ≤ 64) : lanesOf (x &&& wmask w) = (List.range w).filter fun l => x.getLsbD l := by
  have hbit : ∀ l, (x &&& wmask w).getLsbD l = (x.getLsbD l && decide (l < w)) := fun l => by
    rw [BitVec.getLsbD_and, wmask, BitVec.getLsbD_ofNat, Nat.testBit_two_pow_sub_one]
    by_cases h : l < w
    · simp [h, show l < 64 by omega]
    · simp [h]
  have hrange : List.range 64 = List.range w ++ (List.range (64 - w)).map (w + ·) := by rw [← List.range_add, Nat.add_sub_of_le hw]
  have hrest : ((List.range (64 - w)).map (w + ·)).filter (fun l => x.getLsbD l && decide (l < w)) = [] := by simp
  simp only [lanesOf, hbit]
  rw [hrange, List.filter_append, hrest, List.append_nil]
  exact List.filter_congr fun l hl => by simp [List.mem_range.mp hl]

theorem popc_and_wmask (x : Dword) {w : Nat} (hw : w ≤ 64) :
    popc (x &&& wmask w) = ((List.range w).filter fun l => x.getLsbD l).length := by
  rw [popc, lanesOf_and_wmask x hw]

/-- The lowest set bit below the width, 64 where there is none (R139). -/
theorem lowest_and_wmask (x : Dword) {w : Nat} (hw : w ≤ 64) :
    let n := lowest (x &&& wmask w) 64
    n ≤ 64 ∧ (∀ j, j < n → j < w → x.getLsbD j = false) ∧ (n < 64 → n < w ∧ x.getLsbD n = true) := by
  simp only [lowest, lanesOf_and_wmask x hw, List.head?_filter]
  cases h : (List.range w).find? fun l => x.getLsbD l with
  | none =>
    have hnone := List.find?_range_eq_none.mp h
    exact ⟨Nat.le_refl _, fun j _ hj => by simpa using hnone j hj, fun hn => absurd hn (Nat.lt_irrefl _)⟩
  | some n =>
    obtain ⟨hx, hn, hbelow⟩ := List.find?_range_eq_some.mp h
    have hnw := List.mem_range.mp hn
    exact ⟨Nat.le_of_lt (Nat.lt_of_lt_of_le hnw hw), fun j hj _ => by simpa using hbelow j hj, fun _ => ⟨hnw, hx⟩⟩

section Exec
variable (f : FS3) (s : State)

theorem exec_mset : exec (.mset f) s = execMset f s := rfl
theorem exec_mget : exec (.mget f) s = execMget f s := rfl
theorem exec_mand : exec (.mand f) s = execMand f s := rfl
theorem exec_mandn : exec (.mandn f) s = execMandn f s := rfl
theorem exec_mor : exec (.mor f) s = execMor f s := rfl
theorem exec_mfirst : exec (.mfirst f) s = execMfirst f s := rfl
theorem exec_mcnt : exec (.mcnt f) s = execMcnt f s := rfl

end Exec

/-- Settles O16: each instruction is the mask operation with its own result and em. -/
theorem maskInstructions : Obligations.MaskInstructions := by
  unfold Obligations.MaskInstructions
  intro s c f hc hk ha hw hty hcc hsc hsb hx
  refine ⟨fun hsa => ?em, fun him hb => ?count, fun him =>
    ⟨mask_immediate_illegal (exec_mfirst f s) hc.1 hk him, mask_immediate_illegal (exec_mcnt f s) hc.1 hk him⟩⟩
  case em =>
    have hl : (legalMask f true true false true).fate c = none :=
      fate_legalMask hk ha hty hcc hsc nofun nofun (fun _ => hsa) (by simpa using hsb) hx
    refine ⟨fun hsd => ?mset, maskOp_acts (exec_mand f s) hc hl rfl, maskOp_acts (exec_mandn f s) hc hl rfl,
      maskOp_acts (exec_mor f s) hc hl rfl, fun him hb => ?mget, mask_immediate_illegal (exec_mget f s) hc.1 hk⟩
    case mset =>
      exact maskOp_acts (exec_mset f s) hc
        (fate_legalMask hk ha hty hcc hsc nofun (fun _ => hsd) (fun _ => hsa) (by simpa using hsb) hx) rfl
    case mget =>
      exact maskOp_acts (exec_mget f s) hc (fate_legalMask hk ha hty hcc hsc (fun _ => him) nofun (fun _ => hsa) (fun _ => hb) hx) rfl
  case count =>
    have hl : (legalMask f false true true false).fate c = none :=
      fate_legalMask hk ha hty hcc hsc (fun _ => him) nofun nofun (fun _ => hb) hx
    obtain ⟨hle, hbelow, hat⟩ := lowest_and_wmask (c.ag.sr f.sa.toNat) hw
    rw [← popc_and_wmask _ hw]
    exact ⟨⟨_, hle, hbelow, hat, maskOp_acts (exec_mfirst f s) hc hl rfl⟩, maskOp_acts (exec_mcnt f s) hc hl rfl⟩

end Sys2Proof.Machine
end

section
/-!
PROOFS. O31: the accesses of a trap handler. XLMR and XLMW by the lane that they name (R436), FLTRD by the dword that it reads (R437).
-/
namespace Sys2Proof.Machine
open Sys2Proof.Safety

/-- A word that would be legal but for an illegal field value (R58). -/
theorem fate_badValue {c : Iss} {l : Legal} (h : l.fate c = none) : ({ l with bad := true } : Legal).fate c = some (illegalOp 3) := by
  unfold Legal.fate at h ⊢
  split at h
  · cases h
  next hwho =>
    split at h
    · cases h
    next hrsv => rw [if_neg hwho, if_neg hrsv, if_pos rfl]

/-- A handler-only word whose fields are in order for its row, in a group's handler. -/
theorem fate_handlerSys {c : Iss} {f : FSYS} {r : SysRow} {sub : BitVec 4} {h : Handler} (hk : c.ag.kind = .group)
    (hh : c.ag.handler = some h) (hf : sysFields c f sub r.sd r.sa r.sb r.res r.imm) (hrow : r.rsv = false ∧ r.bad = false)
    (hplain : r.subRsv = false ∧ r.grp = true ∧ r.noHnd = false) (hsub : sub.toNat ∈ r.subs) : (legalSys f r).fate c = none := by
  obtain ⟨hrsv, hbad⟩ := hrow
  obtain ⟨hsubRsv, hgrp, hno⟩ := hplain
  exact fate_legalSys hf hrsv hbad (by simpa [hsubRsv] using hsub)
    ⟨by simp [isLeat_of_group hk], fun _ => hgrp, fun _ => by simp [Iss.inHandler, hh], by simp [hno]⟩

/-- The agent with these writes on their way, readable `lat` clk later, and its fragment past the instruction. -/
def wroteRegs (s : State) (c : Iss) (ws : List (Reg × List (Nat × Dword))) (lat : Nat) (stl : BitVec 3) : Agent :=
  { c.ag with
    pend := ws.map fun w => { fid := c.fid, dst := w.1, vals := w.2, ready := s.clk + lat }
    frags := KMap.put c.ag.frags c.fid (goesOn s 0 stl c.fr) }

theorem acts_wroteRegs {i : Instr} {s : State} {c : Iss} {lg : Legal} {foot : Iss → Foot} {stl : BitVec 3} {lat : Nat}
    {body : State → Iss → Except Flt Fx} {ws : List (Reg × List (Nat × Dword))}
    (he : exec i s = issueLocal s lg foot .one stl.toNat lat body) (h : ready s c) (hl : lg.fate c = none)
    (hb : body (slotted s c 0) c = .ok { writes := ws }) (hw : ∀ w ∈ ws, w.2 ≠ []) : acts i s c 0 (wroteRegs s c ws lat stl) := by
  have hx := acts_localOne he h hl hb
  rwa [commit_writes h _ _ hw] at hx

section Exec
variable (f : FSYS) (s : State)

theorem exec_xlmr : exec (.xlmr f) s = execXlmr f s := rfl
theorem exec_xlmw : exec (.xlmw f) s = execXlmw f s := rfl
theorem exec_fltrdRec : exec (.fltrdRec f) s = fltrd f 0 s := rfl
theorem exec_fltrdSpl : exec (.fltrdSpl f) s = fltrd f 1 s := rfl
theorem exec_fltrdRng : exec (.fltrdRng f) s = fltrd f 2 s := rfl

end Exec

/-! ## XLMR and XLMW (R436) -/

section Lane
variable {s : State} {c : Iss} {f : FSYS} {h : Handler} {p : Bool}

/-- The register that an XLMR or XLMW names, and the lane. -/
def xlmReg (c : Iss) (f : FSYS) : Nat := (c.ag.sr f.sa.toNat).toNat % 1024
def xlmLane (c : Iss) (f : FSYS) : Nat := (c.ag.sr f.sb.toNat).toNat % 64

/-- The fields of an XLMR or XLMW word, with P or without, are in order. -/
abbrev xlmFields (c : Iss) (f : FSYS) (p : Bool) : Prop := sysFields c f (if p then 1 else 0) true true true false 0

theorem fate_xlm (hk : c.ag.kind = .group) (hh : c.ag.handler = some h) (hf : xlmFields c f p) :
    (legalSys f { handlerRow with sd := true, sa := true, sb := true, subs := [0, 1] }).fate c = none :=
  fate_handlerSys hk hh hf ⟨rfl, rfl⟩ ⟨rfl, rfl, rfl⟩ (by cases p <;> decide)

theorem xlm_sub (hf : xlmFields c f p) : (f.sub = 1 ↔ p = true) ∧ (f.sub.toNat % 2 = 1 ↔ p = true) := by
  obtain ⟨-, hsub, -⟩ := hf
  rw [hsub]
  cases p <;> decide

theorem laneReg_eq (hf : xlmFields c f p) :
    laneReg f c = if p = true ∧ xlmReg c f % 2 = 1 then .error (illegalOp 3)
      else if c.ag.nv < xlmReg c f + (if p then 2 else 1) then .error { code := 4 } else .ok (xlmReg c f, xlmLane c f) := by
  simp only [laneReg, (xlm_sub hf).2]
  rfl

theorem laneReg_ok (hf : xlmFields c f p) (hr : xlmReg c f + (if p then 1 else 0) < c.ag.nv) (hpair : p = true → xlmReg c f % 2 = 0) :
    laneReg f c = .ok (xlmReg c f, xlmLane c f) := by
  have hodd : ¬(p = true ∧ xlmReg c f % 2 = 1) := fun ⟨hp, h1⟩ => by have := hpair hp; omega
  rw [laneReg_eq hf, if_neg hodd, if_neg]
  cases p <;> simp at hr ⊢ <;> omega

theorem laneReg_odd (hf : xlmFields c f p) (hodd : p = true ∧ xlmReg c f % 2 = 1) :
    laneReg f c = .error { code := 3, detail := 3 } := by
  rw [laneReg_eq hf, if_pos hodd]
  rfl

theorem laneReg_above (hf : xlmFields c f p) (hodd : ¬(p = true ∧ xlmReg c f % 2 = 1)) (hr : c.ag.nv ≤ xlmReg c f) :
    laneReg f c = .error { code := 4 } := by
  rw [laneReg_eq hf, if_neg hodd, if_pos]
  split <;> omega

theorem xlmr_reads (hc : ready s c) (hk : c.ag.kind = .group) (hh : c.ag.handler = some h) (hf : xlmFields c f p)
    (hl : laneReg f c = .ok (xlmReg c f, xlmLane c f)) :
    acts (.xlmr f) s c 0 (wroteRegs s c [(.s f.sd.toNat, [(0,
      if c.ag.width ≤ xlmLane c f then 0#64 else BitVec.ofNat 64 ((c.ag.vr (xlmReg c f) (xlmLane c f)).toNat
        + if p then 2 ^ 32 * (c.ag.vr (xlmReg c f + 1) (xlmLane c f)).toNat else 0))])] 8 f.stl) := by
  refine acts_wroteRegs (exec_xlmr f s) hc (fate_xlm hk hh hf) ?_ (by simp)
  simp only [hl, (xlm_sub hf).1, ofN, apply_ite (BitVec.ofNat 64)]

theorem xlmw_writes (hc : ready s c) (hk : c.ag.kind = .group) (hh : c.ag.handler = some h) (hf : xlmFields c f p)
    (hl : laneReg f c = .ok (xlmReg c f, xlmLane c f)) :
    acts (.xlmw f) s c 0 (wroteRegs s c (if c.ag.width ≤ xlmLane c f then [] else
      (.v (xlmReg c f), [(xlmLane c f, c.ag.sr f.sd.toNat &&& 0xFFFF_FFFF#64)]) ::
        if p then [(.v (xlmReg c f + 1), [(xlmLane c f, c.ag.sr f.sd.toNat >>> 32)])] else []) 8 f.stl) := by
  refine acts_wroteRegs (exec_xlmw f s) hc (fate_xlm hk hh hf) ?_ ?_
  · simp only [hl, (xlm_sub hf).1]
    split <;> rfl
  · split
    · nofun
    · cases p <;> simp

theorem xlm_raises (hc : ready s c) (hk : c.ag.kind = .group) (hh : c.ag.handler = some h) (hf : xlmFields c f p) {x : Flt}
    (hx : laneReg f c = .error x) : raises (.xlmr f) s c x ∧ raises (.xlmw f) s c x :=
  ⟨raises_localOne (exec_xlmr f s) hc (fate_xlm hk hh hf) (by simp only [hx]),
    raises_localOne (exec_xlmw f s) hc (fate_xlm hk hh hf) (by simp only [hx])⟩

end Lane

/-! ## FLTRD (R437) -/

/-- The dword d of entry e of table k: the fault record, the split table, the range locks of the core. -/
def fltDword (s : State) (c : Iss) (k d e : Nat) : Dword :=
  match k with
  | 0 => (c.ag.handler.map fun h => ofN (fldN h.record (64 * d) 64)).getD 0
  | 1 => ((KMap.find? c.ag.split e).map fun x => x.dword d).getD 0
  | _ => ((KMap.find? s.rlocks (64 * c.ag.core + e)).map fun x => ofN (fldN x.bits (64 * d) 64)).getD 0

/-- Table k has no dword d of an entry e. -/
def fltOutside (k d e : Nat) : Bool :=
  match k with
  | 0 => e ≠ 0
  | 1 => decide (7 < e ∨ 3 < d)
  | _ => decide (1 < d)

theorem fltrd_eq (f : FSYS) (k : Nat) (s : State) :
    fltrd f k s = issueLocal s
      (legalSys f { handlerRow with sd := true, imm := 0x1FF, subs := [k], bad := fltOutside k (fldN f.imm 0 3) (fldN f.imm 3 6) })
      (fun _ => { writes := [sreg f.sd.toNat] }) .one f.stl.toNat 2 fun s c =>
        .ok { writes := [(.s f.sd.toNat, [(0, fltDword s c k (fldN f.imm 0 3) (fldN f.imm 3 6))])] } := rfl

section Fltrd
variable {s : State} {c : Iss} {f : FSYS} {h : Handler} {i : Instr} {sub : BitVec 4} {k d e : Nat}

theorem fltrd_imm (hd : d < 8) (he : e < 64) (himm : f.imm.toNat = d + 8 * e) : fldN f.imm 0 3 = d ∧ fldN f.imm 3 6 = e := by
  simp only [fldN, himm, Nat.shiftRight_eq_div_pow]
  omega

theorem fltrd_reads (hx : exec i s = fltrd f k s) (hc : ready s c) (hk : c.ag.kind = .group) (hh : c.ag.handler = some h)
    (hf : sysFields c f sub true false false false 0x1FF) (hsub : sub.toNat = k) (himm : fldN f.imm 0 3 = d ∧ fldN f.imm 3 6 = e)
    (hin : fltOutside k d e = false) : acts i s c 0 (wroteRegs s c [(.s f.sd.toNat, [(0, fltDword s c k d e)])] 2 f.stl) := by
  obtain ⟨rfl, rfl⟩ := himm
  rw [fltrd_eq] at hx
  exact acts_wroteRegs hx hc (fate_handlerSys hk hh hf ⟨rfl, hin⟩ ⟨rfl, rfl, rfl⟩ (by simp [hsub])) rfl (by simp)

theorem fltrd_outside (hx : exec i s = fltrd f k s) (hc : s.issuer = some c) (hk : c.ag.kind = .group) (hh : c.ag.handler = some h)
    (hf : sysFields c f sub true false false false 0x1FF) (hsub : sub.toNat = k) (himm : fldN f.imm 0 3 = d ∧ fldN f.imm 3 6 = e)
    (hout : fltOutside k d e = true) : exec i s = .next (s.raise c.a c.fid { code := 3, detail := 3 }) := by
  obtain ⟨rfl, rfl⟩ := himm
  have hl : (legalSys f { handlerRow with sd := true, imm := 0x1FF, subs := [k] }).fate c = none :=
    fate_handlerSys hk hh hf ⟨rfl, rfl⟩ ⟨rfl, rfl, rfl⟩ (by simp [hsub])
  rw [hx, fltrd_eq, hout]
  exact issueWith_illegal hc (fate_badValue hl) ..

end Fltrd

theorem ofN_fldN {w : Nat} (x : BitVec w) (lo : Nat) : ofN (fldN x lo 64) = BitVec.ofNat 64 (x.toNat / 2 ^ lo) := by
  apply BitVec.eq_of_toNat_eq
  rw [ofN, fldN, BitVec.toNat_ofNat, BitVec.toNat_ofNat, Nat.mod_mod, Nat.shiftRight_eq_div_pow]

theorem ite_zero_eq_toNat_mul (b : Bool) (x : Nat) : (if b then x else 0) = b.toNat * x := by cases b <;> simp

theorem splitEnt_dword_eq (n : SplitEnt) (d : Nat) :
    n.dword d = match d with
      | 0 => n.pmask
      | 1 => n.cmask
      | 2 => BitVec.ofNat 64 (n.jpc + n.pid * 2 ^ 48 + n.cid * 2 ^ 52 + n.pa.toNat * 2 ^ 56 + n.ca.toNat * 2 ^ 57 + 2 ^ 58)
      | _ => 0 := by
  simp only [SplitEnt.dword, ite_zero_eq_toNat_mul, ofN] <;> rfl

/-- Settles O31: XLMR and XLMW by the lane that they name, FLTRD by its three tables. -/
theorem handlerAccess : Obligations.HandlerAccess := by
  unfold Obligations.HandlerAccess
  intro s c f h hc hk hh
  refine ⟨fun p hf hr hpair => ?lane, fun p hf hodd => xlm_raises hc hk hh hf (laneReg_odd hf hodd),
    fun p hf hodd hr => xlm_raises hc hk hh hf (laneReg_above hf hodd hr), fun d e hd he himm k hf => ?fltrd⟩
  case lane =>
    have hl := laneReg_ok hf hr hpair
    exact ⟨xlmr_reads hc hk hh hf hl, xlmw_writes hc hk hh hf hl⟩
  case fltrd =>
    have hi := fltrd_imm hd he himm
    refine ⟨?record, ?split, ?ranges, ?recordBad, ?splitBad, ?rangesBad⟩
    case record =>
      rintro rfl rfl
      have hx := fltrd_reads (exec_fltrdRec f s) hc hk hh hf rfl hi rfl
      rw [fltDword, hh, Option.map_some, ofN_fldN] at hx
      exact hx
    case split =>
      rintro rfl he8 hd4
      have hx := fltrd_reads (exec_fltrdSpl f s) hc hk hh hf rfl hi (by simp [fltOutside]; omega)
      refine ⟨fun hn => ?_, fun n hn => ?_⟩
      · rw [fltDword, hn] at hx
        exact hx
      · rw [fltDword, hn, Option.map_some, Option.getD_some, splitEnt_dword_eq] at hx
        exact hx
    case ranges =>
      rintro rfl hd2
      have hx := fltrd_reads (exec_fltrdRng f s) hc hk hh hf rfl hi (by simp [fltOutside]; omega)
      refine ⟨fun hn => ?_, fun n hn => ?_⟩
      · simp only [fltDword, hn] at hx
        exact hx
      · simp only [fltDword, hn, Option.map_some, Option.getD_some, ofN_fldN] at hx
        exact hx
    case recordBad =>
      rintro rfl hout
      exact fltrd_outside (exec_fltrdRec f s) hc.1 hk hh hf rfl hi (by simpa [fltOutside] using hout)
    case splitBad =>
      rintro rfl hout
      exact fltrd_outside (exec_fltrdSpl f s) hc.1 hk hh hf rfl hi (by simp [fltOutside]; omega)
    case rangesBad =>
      rintro rfl hout
      exact fltrd_outside (exec_fltrdRng f s) hc.1 hk hh hf rfl hi (by simp [fltOutside]; omega)

end Sys2Proof.Machine
end

section
/-!
PROOFS. O17: SPLIT (R143) and JOIN (R144), a rule for each outcome.
-/
namespace Sys2Proof.Machine
open Sys2Proof.Safety

/-- The fields of a SPLIT word are in order; JOIN has none but these. -/
def splitFields (c : Iss) (f : FS3) : Prop := allOk c f.all ∧ f.ty = 10 ∧ f.im = 0 ∧ f.cc = 0 ∧ f.sb = 0 ∧ f.sc = 0 ∧ f.sd = 0

theorem fate_legalSplit {c : Iss} {f : FS3} {usesA : Bool} (hk : c.ag.kind = .group) (hf : splitFields c f)
    (ha : usesA = false → f.sa = 0 ∧ f.aux = 0) : (legalSplit f usesA).fate c = none := by
  obtain ⟨hall, hty, him, hcc, hsb, hsc, hsd⟩ := hf
  refine fate_none ⟨by simp [isLeat_of_group hk], fun _ => rfl, nofun, nofun⟩ ?_ (by simp [legalSplit, hty]) hall nofun fun _ => nofun
  simpa [legalSplit, him, hcc, hsb, hsc, hsd] using ha

theorem exec_split (f : FS3) (s : State) : exec (.split f) s = execSplit f s := rfl
theorem exec_joinI (f : FS3) (s : State) : exec (.joinI f) s = execJoin f s := rfl

theorem nextHdr_lastWord {c : Iss} (h : lastWord c) : c.fr.nextHdr = nextClause c := by rw [Frag.nextHdr, nextClause, h.2]

/-! ## SPLIT -/

section Split
variable {s : State} {c : Iss} {f : FS3} {e : Nat}

/-- The lanes of em that go to the label, those that fall through, and the label's address (R143). -/
def splitTaken (c : Iss) (f : FS3) : Dword := c.fr.em &&& c.ag.sr f.sa.toNat &&& wmask c.ag.width
def splitFalls (c : Iss) (f : FS3) : Dword := c.fr.em &&& ~~~(c.ag.sr f.sa.toNat) &&& wmask c.ag.width
def splitTarget (c : Iss) (f : FS3) : Int := (c.fr.h : Int) + 8 * f.aux.toInt

/-- e is the lowest free entry of the split table. -/
def firstFree (c : Iss) (e : Nat) : Prop := e < 8 ∧ KMap.find? c.ag.split e = none ∧ ∀ d, d < e → (KMap.find? c.ag.split d).isSome

theorem fate_split (hk : c.ag.kind = .group) (hf : splitFields c f) : (legalSplit f true).fate c = none := fate_legalSplit hk hf (by simp)

theorem split_full_raises (hc : ready s c) (hk : c.ag.kind = .group) (hf : splitFields c f)
    (hfull : ∀ e, e < 8 → (KMap.find? c.ag.split e).isSome) : raises (.split f) s c { code := 7 } := by
  have hnone : firstNat (fun e => (KMap.find? c.ag.split e).isNone) 8 0 = none :=
    firstNat_eq_none fun i hi => by simpa [Option.isSome_iff_ne_none] using hfull i hi
  rw [raises, exec_split, execSplit, issueOne_ready hc (fate_split hk hf), hnone]
  rfl

/-- SPLIT with a free entry, in a group that is no task's. -/
theorem exec_split_free (hc : ready s c) (hk : c.ag.kind = .group) (hf : splitFields c f) (ht : c.ag.task = none) (he : firstFree c e) :
    exec (.split f) s = if targetOk (splitTarget c f) then
        .next ((slotted s c 0).updAgent c.a fun ag =>
          ag.doSplit c.fid c.fr e (splitTaken c f) (splitFalls c f) (splitTarget c f).toNat s.clk f.stl.toNat)
      else .next ((slotted s c 0).raise c.a c.fid (illegalAddr (splitTarget c f))) := by
  obtain ⟨he8, hfree, hbelow⟩ := he
  have hfirst : firstNat (fun e => (KMap.find? c.ag.split e).isNone) 8 0 = some e := by
    have h := firstNat_eq_some (p := fun e => (KMap.find? c.ag.split e).isNone) (start := 0) he8 (by simp [hfree])
      fun j hj => by simpa [Option.isSome_iff_ne_none] using hbelow j hj
    simpa using h
  rw [exec_split, execSplit, issueOne_ready hc (fate_split hk hf)]
  simp only [hfirst, ht, Option.isNone_none, true_or, if_true]
  by_cases hin : targetOk (splitTarget c f) = true
  · rw [if_pos hin]
    exact if_neg (show ¬(!targetOk (splitTarget c f)) = true by simp [hin])
  · rw [if_neg hin]
    exact if_pos (show (!targetOk (splitTarget c f)) = true by simpa using hin)

theorem split_outside_raises (hc : ready s c) (hk : c.ag.kind = .group) (hf : splitFields c f) (ht : c.ag.task = none)
    (he : firstFree c e) (hin : ¬(0 ≤ splitTarget c f ∧ splitTarget c f ≤ 2 ^ 48 - 8)) :
    raises (.split f) s c (illegalAddr (splitTarget c f)) := by
  rw [raises, exec_split_free hc hk hf ht he, if_neg (mt (targetOk_iff _).mp hin)]

theorem split_acts (hc : ready s c) (hk : c.ag.kind = .group) (hf : splitFields c f) (ht : c.ag.task = none) (he : firstFree c e)
    (hin : 0 ≤ splitTarget c f ∧ splitTarget c f ≤ 2 ^ 48 - 8) :
    acts (.split f) s c 0
      (c.ag.doSplit c.fid c.fr e (splitTaken c f) (splitFalls c f) (splitTarget c f).toNat s.clk f.stl.toNat) :=
  acts_of_updAgent hc.1 ((exec_split_free hc hk hf ht he).trans (if_pos ((targetOk_iff _).mpr hin)))

/-- The two sides have no lane in common. -/
theorem splitTaken_ne_splitFalls (h : splitTaken c f ≠ 0) : splitTaken c f ≠ splitFalls c f := by
  intro heq
  have hand : splitTaken c f &&& splitFalls c f = 0 := by
    apply BitVec.eq_of_getLsbD_eq
    intro l hl
    simp only [splitTaken, splitFalls, BitVec.getLsbD_and, BitVec.getLsbD_not]
    cases (c.ag.sr f.sa.toNat).getLsbD l <;> simp
  rw [← heq, BitVec.and_self] at hand
  exact h hand

/-- The fragment at the header at h, not before clk n. -/
def Frag.sentAt (fr : Frag) (h n : Nat) : Frag := { fr.goHdr h with next := n }

/-- A split with lanes on one side only: nothing is detached. -/
theorem doSplit_oneSided (hlast : lastWord c) {t n : Dword} (h : t = 0 ∨ n = 0) (target clk stl : Nat) :
    c.ag.doSplit c.fid c.fr e t n target clk stl =
      { c.ag with
        splitSeq := c.ag.splitSeq + 1
        frags := KMap.put c.ag.frags c.fid (if n = 0 ∧ t ≠ 0 then c.fr.sentAt target (max (clk + 3) (clk + 1 + stl))
          else c.fr.sentAt (nextClause c) (clk + 1 + stl))
        split := KMap.put c.ag.split e { pmask := c.fr.own, cmask := 0, pid := c.fid, cid := 15, seq := c.ag.splitSeq } } := by
  simp only [Agent.doSplit, if_pos h, adv_lastWord hlast]
  rfl

/-- A split with lanes on both sides: m, the smaller side, is detached as fragment k. -/
theorem doSplit_twoSided (hlast : lastWord c) {t n : Dword} (ht : t ≠ 0) (hn : n ≠ 0) (hne : t ≠ n) {k : Nat}
    (hk : firstNat (fun x => !c.ag.fidUsed x) 9 0 = some k) (target clk stl : Nat) :
    c.ag.doSplit c.fid c.fr e t n target clk stl =
      let low := popc t ≤ popc n
      let m := if low then t else n
      let fr := { c.fr with own := c.fr.own &&& ~~~m, em := c.fr.em &&& ~~~m }
      let child : Frag := { h := if low then target else nextClause c, em := m, own := m, chk := c.fr.chk, next := clk + 3 }
      { c.ag with
        splitSeq := c.ag.splitSeq + 1
        frags := KMap.put (KMap.put c.ag.frags c.fid
          (if low then fr.sentAt (nextClause c) (clk + 1 + stl) else fr.sentAt target (max (clk + 3) (clk + 1 + stl)))) k child
        split := KMap.put c.ag.split e { pmask := c.fr.own &&& ~~~m, cmask := m, pid := c.fid, cid := k, seq := c.ag.splitSeq } } := by
  have hadv : ∀ own em n, { c.fr with own := own, em := em }.adv n = { c.fr with own := own, em := em }.sentAt (nextClause c) n :=
    fun own em n => adv_lastWord (c := { c with fr := { c.fr with own := own, em := em } }) hlast n
  have hside : (if popc t ≤ popc n then t else n) = t ↔ popc t ≤ popc n := by
    split
    · simp [*]
    · simp [*, hne.symm]
  have hboth : ¬(t = 0 ∨ n = 0) := not_or.mpr ⟨ht, hn⟩
  simp only [Agent.doSplit, if_neg hboth, hk, Option.getD_some, hside, hadv, nextHdr_lastWord hlast]
  rfl

end Split

/-! ## JOIN -/

section Join
variable {s : State} {c : Iss} {f : FS3} {e : Nat} {ent : SplitEnt} {es : List (Nat × SplitEnt)}

theorem join_noEntry_raises (hc : ready s c) (hl : (legalSplit f false).fate c = none) (he : c.ag.entriesOf c.fid = []) :
    raises (.joinI f) s c { code := 7 } := by
  rw [raises, exec_joinI, execJoin, issueOne_ready hc hl]
  simp only [he]
  rfl

theorem join_elsewhere_raises (hc : ready s c) (hl : (legalSplit f false).fate c = none) (he : c.ag.entriesOf c.fid = (e, ent) :: es)
    (hj : ent.jpc ≠ 0 ∧ ent.jpc ≠ c.fr.pc) : raises (.joinI f) s c { code := 7 } := by
  rw [raises, exec_joinI, execJoin, issueOne_ready hc hl]
  simp only [he, if_pos hj]
  rfl

/-- The entry once its parent has arrived at the JOIN. -/
def SplitEnt.parentAt (ent : SplitEnt) (fr : Frag) : SplitEnt := { ent with jpc := fr.pc, pa := true, pem := fr.em }

/-- The agent once the parent of its entry e has arrived: it goes on with the child's lanes, or waits for the child. -/
def Agent.parentJoins (ag : Agent) (c : Iss) (e : Nat) (ent : SplitEnt) (clk stl : Nat) : Agent :=
  if ent.ca then ag.fuse e (ent.parentAt c.fr) c.fr.nextHdr clk stl
  else ({ ag with split := KMap.put ag.split e (ent.parentAt c.fr) } : Agent).updFrag c.fid fun fr =>
    { fr with wait := .join e, next := clk + 1 + stl }

/-- JOIN by the parent of its innermost entry, at the entry's JOIN address. -/
theorem join_parent_acts (hc : ready s c) (hl : (legalSplit f false).fate c = none) (he : c.ag.entriesOf c.fid = (e, ent) :: es)
    (hj : ent.jpc = 0 ∨ ent.jpc = c.fr.pc) (hpid : ent.pid = c.fid) (hcid : ent.cid ≠ 15) :
    acts (.joinI f) s c 0 (c.ag.parentJoins c e ent s.clk f.stl.toNat) := by
  have hhere : ¬(ent.jpc ≠ 0 ∧ ent.jpc ≠ c.fr.pc) := by tauto
  refine acts_of_updAgent hc.1 (g := fun ag => ag.parentJoins c e ent s.clk f.stl.toNat) ?_
  rw [exec_joinI, execJoin, issueOne_ready hc hl]
  simp only [he, if_neg hhere, if_pos hpid, hcid, false_or, true_and]
  rfl

theorem fuse_both {nxt clk stl : Nat} {p ch : Frag} (hp : KMap.find? c.ag.frags ent.pid = some p)
    (hch : KMap.find? c.ag.frags ent.cid = some ch) :
    c.ag.fuse e ent nxt clk stl =
      { c.ag with
        split := KMap.del c.ag.split e
        frags := KMap.put (KMap.del c.ag.frags ent.cid) ent.pid
          { p.goHdr nxt with own := ent.pmask ||| ent.cmask, em := ent.pem ||| ent.cem, next := max (clk + 3) (clk + 1 + stl) } } := by
  simp only [Agent.fuse, hp, hch]

end Join

/-- Settles O17: SPLIT by its table, its label and its two sides, JOIN by what its innermost entry holds. -/
theorem splitAndJoin : Obligations.SplitAndJoin := by
  unfold Obligations.SplitAndJoin
  intro s c f hc hlast hk htask ha hty him hcc hsb hsc hsd
  have hf : splitFields c f := ⟨ha, hty, him, hcc, hsb, hsc, hsd⟩
  refine ⟨split_full_raises hc hk hf, fun e he8 hfree hbelow => ?split, fun hsa haux => ?join⟩
  case split =>
    have he : firstFree c e := ⟨he8, hfree, hbelow⟩
    refine ⟨split_outside_raises hc hk hf htask he, fun hin hone => ?oneSided, fun k hk8 hkfree hkbelow hin ht hn => ?twoSided⟩
    case oneSided =>
      have hx := split_acts hc hk hf htask he hin
      rw [doSplit_oneSided (t := splitTaken c f) (n := splitFalls c f) hlast hone] at hx
      exact hx
    case twoSided =>
      have hfirst : firstNat (fun x => !c.ag.fidUsed x) 9 0 = some k := by
        have h := firstNat_eq_some (p := fun x => !c.ag.fidUsed x) (fuel := 9) (start := 0) (i := k) (by omega) (by simp [hkfree])
          fun j hj => by simp [hkbelow j hj]
        simpa using h
      have hx := split_acts hc hk hf htask he hin
      rw [doSplit_twoSided (t := splitTaken c f) (n := splitFalls c f) hlast ht hn (splitTaken_ne_splitFalls ht) hfirst] at hx
      exact hx
  case join =>
    have hl : (legalSplit f false).fate c = none := fate_legalSplit hk hf fun _ => ⟨hsa, haux⟩
    refine ⟨join_noEntry_raises hc hl, fun e ent es he => ⟨fun h0 hpc => join_elsewhere_raises hc hl he ⟨h0, hpc⟩,
      fun hj hpid hcid => ?_⟩⟩
    have hx := join_parent_acts hc hl he hj hpid hcid
    refine ⟨fun hca => ?waits, fun hca ch hch => ?fuses⟩
    case waits =>
      rw [Agent.parentJoins, if_neg (by simp [hca])] at hx
      exact hx
    case fuses =>
      have hp : KMap.find? c.ag.frags ent.pid = some c.fr := hpid ▸ (issuer_agent hc.1).2
      rw [Agent.parentJoins, if_pos hca, fuse_both (ent := ent.parentAt c.fr) hp hch, nextHdr_lastWord hlast] at hx
      simp only [SplitEnt.parentAt, hpid] at hx
      exact hx

end Sys2Proof.Machine
end

section
/-!
PROOFS. O1: what a field of the register blocks reads as after reset.
-/
namespace Sys2Proof.Machine

theorem reset_barFld (i lo n : Nat) : State.reset.barFld i lo n = fldN (barReset i) lo n := rfl

/-- Every register of a context's descriptor is 0 after reset but its yield budget (R411). -/
theorem barReset_ctx {c k : Nat} (hc : c < 64) (hk : k < 8) : barReset (blkCtx + 8 * c + k) = if k = 3 then 25000#64 else 0#64 := by
  obtain ⟨-, hMedia, -, hCtx, hHost, -⟩ := blk_bounds
  have hrow : (blkCtx + 8 * c + k - blkCtx) % 8 = k := by omega
  unfold barReset
  rw [if_neg (by omega), if_neg (by omega), hrow]
  split
  · next h => rw [if_pos h.2.2]
  · next h => rw [if_neg (by omega), if_neg (by omega), if_neg (by omega), if_neg (by omega), if_neg (by omega)]

/-- Every register of a flow's descriptor is 0 after reset but its GUARD (R381). -/
theorem barReset_flow {f k : Nat} (hf : f < 64) (hk : k < 8) : barReset (blkMedia + 8 * f + k) = if k = 3 then 500000#64 else 0#64 := by
  obtain ⟨-, hMedia, -, hCtx, hHost, -⟩ := blk_bounds
  have hrow : (blkMedia + 8 * f + k - blkMedia) % 8 = k := by omega
  unfold barReset
  rw [if_neg (by omega), if_neg (by omega), if_neg (by omega), if_neg (by omega), if_neg (by omega), if_neg (by omega), hrow]
  split
  · next h => rw [if_pos h.2.2]
  · next h => rw [if_neg (by omega)]

theorem reset_ctxFld {c k : Nat} (hc : c < 64) (hk : k < 8) (lo n : Nat) :
    State.reset.barFld (blkCtx + 8 * c + k) lo n = fldN (if k = 3 then 25000#64 else 0#64) lo n := by
  rw [reset_barFld, barReset_ctx hc hk]

theorem reset_fdesc {f lo : Nat} (hf : f < 64) (hlo : lo < 512) (n : Nat) :
    State.reset.fdesc f lo n = fldN (if lo / 64 = 3 then 500000#64 else 0#64) (lo % 64) n := by
  rw [State.fdesc, reset_barFld, barReset_flow hf (by omega)]

theorem reset_ctx {c : Nat} (hc : c < 64) :
    State.reset.ctxEn c = false ∧ State.reset.ctxDead c = false ∧ State.reset.ctxHandler c = 0 ∧ State.reset.ctxBudget c = 25000 := by
  refine ⟨?_, ?_, ?_, ?_⟩
  · rw [State.ctxEn, ← Nat.add_zero (blkCtx + 8 * c), reset_ctxFld hc (by decide)]; rfl
  · rw [State.ctxDead, ← Nat.add_zero (blkCtx + 8 * c), reset_ctxFld hc (by decide)]; rfl
  · rw [State.ctxHandler, reset_ctxFld hc (by decide)]; rfl
  · rw [State.ctxBudget, reset_ctxFld hc (by decide)]; rfl

theorem reset_flow {f : Nat} (hf : f < 64) :
    State.reset.flowOn f = false ∧ State.reset.guard f = 500000 ∧ State.reset.troff f = 0 := by
  refine ⟨?_, ?_, ?_⟩
  · rw [State.flowOn, reset_fdesc hf (by decide)]; rfl
  · rw [State.guard, reset_fdesc hf (by decide)]; rfl
  · rw [State.troff, reset_fdesc hf (by decide)]; rfl

theorem reset_mrs {i : Nat} (hi : i < 4) : State.reset.mrs.getD i [] = List.replicate 64 0#8 := by
  have h : State.reset.mrs = List.replicate 4 (List.replicate 64 0#8) := rfl
  rw [h, List.getD_eq_getElem?_getD, List.getElem?_replicate_of_lt hi]
  rfl

/-- Settles O1: every register reads as `barReset` gives it (that of ECCCNT is the model's choice, log entry 3), every other field as
its declaration. -/
theorem resetLeaves : Obligations.ResetLeaves := by
  unfold Obligations.ResetLeaves
  exact ⟨rfl, rfl, rfl, rfl, rfl, fun _ => reset_mrs, rfl, rfl, rfl, rfl, rfl, rfl, fun _ => reset_ctx, fun _ => reset_flow,
    rfl, rfl, rfl, rfl, rfl, rfl, rfl, rfl, rfl, rfl⟩

end Sys2Proof.Machine
end

section
/-!
PROOFS. O48: fields of the register blocks after a write, what each event of a launch queue leaves, admission, then a grid's way to
its completion record.
-/
namespace Sys2Proof.Machine
open Sys2Proof.Safety

/-! ## Fields of a register after a write of one -/

theorem testBit_fldN {w : Nat} (x : BitVec w) (lo n i : Nat) : (fldN x lo n).testBit i = (decide (i < n) && x.getLsbD (lo + i)) := by
  rw [fldN, Nat.testBit_mod_two_pow, Nat.testBit_shiftRight, BitVec.testBit_toNat]

theorem getLsbD_putFld (x : Dword) (lo n v : Nat) {i : Nat} (hi : i < 64) :
    (putFld x lo n v).getLsbD i = if lo ≤ i ∧ i < lo + n then v.testBit (i - lo) else x.getLsbD i := by
  simp only [putFld, BitVec.getLsbD_or, BitVec.getLsbD_and, BitVec.getLsbD_not, BitVec.getLsbD_shiftLeft, BitVec.getLsbD_ofNat,
    Nat.testBit_two_pow_sub_one]
  by_cases hlo : lo ≤ i
  · by_cases hn : i < lo + n
    · simp [hi, hlo, hn, Nat.not_lt.mpr hlo, show i - lo < n by omega, show i - lo < 64 by omega]
    · simp [hi, hn, show ¬i - lo < n by omega]
  · simp [hi, hlo, show i < lo by omega]

theorem fldN_putFld_self (x : Dword) {lo n : Nat} (h : lo + n ≤ 64) (v : Nat) : fldN (putFld x lo n v) lo n = v % 2 ^ n := by
  apply Nat.eq_of_testBit_eq
  intro i
  rw [testBit_fldN, Nat.testBit_mod_two_pow]
  by_cases hi : i < n
  · rw [getLsbD_putFld x lo n v (by omega), if_pos (by omega), Nat.add_sub_cancel_left]
  · simp [hi]

theorem fldN_putFld_apart (x : Dword) {lo n lo' n' : Nat} (h : lo' + n' ≤ lo ∨ lo + n ≤ lo') (hw : lo' + n' ≤ 64) (v : Nat) :
    fldN (putFld x lo n v) lo' n' = fldN x lo' n' := by
  apply Nat.eq_of_testBit_eq
  intro i
  rw [testBit_fldN, testBit_fldN]
  by_cases hi : i < n'
  · rw [getLsbD_putFld x lo n v (by omega), if_neg (by omega)]
  · simp [hi]

namespace State

theorem barFld_barPut_self (s : State) (i : Nat) {lo n : Nat} (h : lo + n ≤ 64) (v : Nat) : (s.barPut i lo n v).barFld i lo n = v % 2 ^ n := by
  rw [barFld, barPut, barRd_barWr_self, fldN_putFld_self _ h]

theorem barFld_barPut_apart (s : State) (i : Nat) {lo n lo' n' : Nat} (h : lo' + n' ≤ lo ∨ lo + n ≤ lo') (hw : lo' + n' ≤ 64) (v : Nat) :
    (s.barPut i lo n v).barFld i lo' n' = s.barFld i lo' n' := by
  rw [barFld, barPut, barRd_barWr_self, fldN_putFld_apart _ h hw, barFld]

theorem barRd_barPut_ne (s : State) {i j : Nat} (h : j ≠ i) (lo n v : Nat) : (s.barPut i lo n v).barRd j = s.barRd j :=
  barRd_barWr_ne s h _

theorem barFld_barPut_ne (s : State) {i j : Nat} (h : j ≠ i) (lo n v lo' n' : Nat) :
    (s.barPut i lo n v).barFld j lo' n' = s.barFld j lo' n' := by
  rw [barFld, barRd_barPut_ne s h, barFld]

/-! ## The state of a queue -/

@[simp] theorem qState_setQ (s : State) (q : Nat) (x : QState) : (s.setQ q x).qState q = x := by
  unfold qState setQ
  by_cases h : x = {} <;> simp [h]

theorem setQ_eq (s : State) (q : Nat) (x : QState) : ∃ qs, s.setQ q x = { s with queues := qs } := ⟨_, rfl⟩

theorem setQ_of_ne {x : QState} (h : x ≠ {}) (s : State) (q : Nat) : s.setQ q x = { s with queues := KMap.put s.queues q x } := by
  rw [setQ, if_neg h]

@[simp] theorem qError_qEn (s : State) (q : Nat) : (s.qError q).qEn q = false := by
  rw [qEn, qError, barFld_barPut_self _ _ (by decide)]
  rfl

/-- ERR, which the clearing of EN leaves set. -/
@[simp] theorem qError_err (s : State) (q : Nat) : (s.qError q).barFld (4 * q + 1) 13 1 = 1 := by
  rw [qError, qDesc, barFld_barPut_apart _ _ (.inr (by decide)) (by decide), barFld_barPut_self _ _ (by decide)]
  rfl

@[simp] theorem qError_qTail (s : State) (q : Nat) : (s.qError q).qTail q = s.qTail q := by
  have hreg : qDesc q 3 ≠ qDesc q 1 := by unfold qDesc; omega
  rw [qTail, qError, barFld_barPut_ne _ hreg, barFld_barPut_ne _ hreg, qTail]

end State

/-! ## DOORBELL -/

section Doorbell
variable {s : State} {q tail : Nat}

/-- TAIL moves so far ahead of HEAD that the ring cannot hold what lies between (R152). -/
def State.tailPasses (s : State) (q tail : Nat) : Prop :=
  s.qEn q = true ∧ s.qSize q < (tail % 2 ^ 32 + 2 ^ 32 - s.qHead q) % 2 ^ 32

theorem qTail_tailPut (s : State) (q tail : Nat) : (s.barPut (qDesc q 3) 0 32 tail).qTail q = tail % 2 ^ 32 :=
  State.barFld_barPut_self s _ (by decide) tail

theorem qPend_tailPut (s : State) (q tail : Nat) :
    (s.barPut (qDesc q 3) 0 32 tail).qPend q = (tail % 2 ^ 32 + 2 ^ 32 - s.qHead q) % 2 ^ 32 := by
  have hreg : qDesc q 2 ≠ qDesc q 3 := by unfold qDesc; omega
  rw [State.qPend, qTail_tailPut, State.qHead, State.barFld_barPut_ne s hreg, State.qHead]

theorem doorbell_passes (hq : q < 64) (hd : s.qDev q = false) (h : s.tailPasses q tail) :
    exec (.doorbell q tail) s = .next ((s.barPut (qDesc q 3) 0 32 tail).qError q) := by
  show execDoorbell q tail s = _
  rw [execDoorbell, if_neg (by simp [hd, hq])]
  exact if_pos ⟨h.1, by rw [qPend_tailPut]; exact h.2⟩

theorem doorbell_within (hq : q < 64) (hd : s.qDev q = false) (h : ¬s.tailPasses q tail) :
    ∃ qs, exec (.doorbell q tail) s = .next { s.barPut (qDesc q 3) 0 32 tail with queues := qs } := by
  show ∃ qs, execDoorbell q tail s = _
  rw [execDoorbell, if_neg (by simp [hd, hq])]
  extract_lets s1
  rw [if_neg fun hp => h ⟨hp.1, by rw [← qPend_tailPut]; exact hp.2⟩]
  split
  · exact ⟨s1.queues, rfl⟩
  · obtain ⟨qs, hqs⟩ := s1.setQ_eq q { s1.qState q with due := max (s1.qState q).due (s.clk + 8) }
    exact ⟨qs, congrArg _ hqs⟩

theorem doorbell_sets_tail (hq : q < 64) (hd : s.qDev q = false) :
    brings (.doorbell q tail) s fun t => t.qTail q = tail % 2 ^ 32
      ∧ ((s.tailPasses q tail → t.barFld (4 * q + 1) 13 1 = 1 ∧ t.qEn q = false)
        ∧ (¬s.tailPasses q tail → t.barRd (4 * q + 1) = s.barRd (4 * q + 1)))
      ∧ { t with bar := s.bar, queues := s.queues } = s := by
  by_cases h : s.tailPasses q tail
  · obtain ⟨b, hb⟩ : ∃ b, (s.barPut (qDesc q 3) 0 32 tail).qError q = { s with bar := b } := ⟨_, rfl⟩
    refine ⟨_, doorbell_passes hq hd h, ?_, ⟨fun _ => ⟨?_, ?_⟩, fun hn => absurd h hn⟩, by rw [hb]⟩
    · rw [State.qError_qTail, qTail_tailPut]
    · rw [State.qError_err]
    · rw [State.qError_qEn]
  · obtain ⟨qs, he⟩ := doorbell_within hq hd h
    have hreg : 4 * q + 1 ≠ qDesc q 3 := by unfold qDesc; omega
    exact ⟨_, he, qTail_tailPut s q tail, ⟨fun hp => absurd hp h, fun _ => State.barRd_barPut_ne s hreg 0 32 tail⟩, rfl⟩

end Doorbell

/-! ## QUEUE_ENTRY_READ -/

section EntryRead
variable {s : State} {q : Nat}

/-- The state in which queue q has had its turn in this clk. -/
def State.turned (s : State) (q : Nat) : State := { s with qTurn := (q + 1) % 64, qClk := some s.clk }

theorem entryRead_beyond (h : s.qNext = some q) (ha : 2 ^ 48 < s.qEntry q (s.qHead q) + 128) :
    exec (.queueEntryRead q) s = .next (((s.turned q).qError q).recordLost 8 (s.qCtx q) (s.qEntry q (s.qHead q)) 3) := by
  show execQueueEntryRead q s = _
  rw [execQueueEntryRead, if_neg (not_not.mpr h)]
  exact if_pos ha

theorem recordLost_qError (s : State) (q agent ctx addr kind : Nat) :
    let t := (s.qError q).recordLost agent ctx addr kind
    t.qEn q = false ∧ t.barFld (4 * q + 1) 13 1 = 1 ∧ t.faultQ.length = s.faultQ.length + 1 ∧ t.mem = s.mem :=
  ⟨s.qError_qEn q, s.qError_err q, List.length_append, rfl⟩

theorem entryRead_starts (h : s.qNext = some q) (ha : s.qEntry q (s.qHead q) + 128 ≤ 2 ^ 48) {ps : List (Nat × Nat × Nat)}
    (hps : s.ctxParts (s.qCtx q) (s.qEntry q (s.qHead q)) 128 false = .ok ps) :
    exec (.queueEntryRead q) s = .next { s with
      qTurn := (q + 1) % 64, qClk := some s.clk
      queues := KMap.put s.queues q { due := s.clk + s.partsLat 0 0 ps, reading := true } } := by
  show execQueueEntryRead q s = _
  simp only [execQueueEntryRead, h, ne_eq, not_true_eq_false, if_false, Nat.not_lt.mpr ha, hps]
  exact congrArg Host.Outcome.next (State.setQ_of_ne (by simp) (s.turned q) q)

theorem entryRead_parks (h : s.qNext = some q) (ha : s.qEntry q (s.qHead q) + 128 ≤ 2 ^ 48) {f : Flt}
    (hf : s.ctxParts (s.qCtx q) (s.qEntry q (s.qHead q)) 128 false = .error f) :
    brings (.queueEntryRead q) s fun t => (t.qState q).parked = true ∧ KMap.find? t.tokens s.tokenNext = some (.queue q)
      ∧ t.faultQ = s.faultQ ++ [faultRec { agent := 8, ctx := s.qCtx q, tenant := s.ctxTenant (s.qCtx q), opk := 13 } 0
          { f with addr := s.qEntry q (s.qHead q) } s.tokenNext s.pt] := by
  refine ⟨((s.turned q).setQ q { (s.turned q).qState q with parked := true }).replay
    (s.unitRaiser 8 (s.qCtx q) 0 (opk := 13)) 0 { f with addr := s.qEntry q (s.qHead q) } (.queue q), ?_, ?_, KMap.find?_put_self .., rfl⟩
  · show execQueueEntryRead q s = _
    simp only [execQueueEntryRead, h, ne_eq, not_true_eq_false, if_false, Nat.not_lt.mpr ha, hf]
    rfl
  · exact congrArg QState.parked (State.qState_setQ (s.turned q) q { (s.turned q).qState q with parked := true })

end EntryRead

/-! ## ADMISSION -/

section Admission
variable {s : State} {q x : Nat} {d : BitVec 512}

/-- REASON of the launch of a kernel that queue q reads (R155). -/
def State.entryReason (s : State) (q : Nat) (lr : BitVec 1024) (d : BitVec 512) : Nat :=
  s.kernelReason (s.qCtx q) lr (.ok (s, d)) (decide (lrClass lr < s.qMax q))

/-- The grid of a kernel's launch record that queue q reads: it waits for its time, or its record comes next. -/
def State.entryGrid (s : State) (q : Nat) (lr : BitVec 1024) (d : BitVec 512) : Grid :=
  let g : Grid :=
    { ctx := s.qCtx q, queue := q, lr := lr, addr := s.qEntry q (s.qHead q), desc := d, cls := lrClass lr, nbef := lrNbef lr,
      dline := lrDline lr, seq := 0, due := s.clk + 1 + s.ctxLat 0 (s.qCtx q) (lrDesc lr) 64 0 }
  if s.entryReason q lr d ≠ 0 then g.close 4 (s.entryReason q lr d) s.clk else g

/-- Admission has the entry of a queue that is on, in a live context, as a kernel's launch record with its descriptor. -/
structure EntryReturned (s : State) (q x : Nat) (d : BitVec 512) : Prop where
  reading : (s.qState q).reading = true
  due : (s.qState q).due ≤ s.clk
  live : s.ctxLive (s.qCtx q) = true
  on : s.qEn q = true
  entry : s.ctxRead (s.qCtx q) (s.qEntry q (s.qHead q)) 128 = .ok (s, x)
  desc : s.readDesc (s.qCtx q) (lrDesc (BitVec.ofNat 1024 x)) = .ok (s, d)
  kernel : lrGraph (BitVec.ofNat 1024 x) = false

theorem exec_admission (h : EntryReturned s q x d) :
    exec (.admission q) s = .next (((s.addGrid (s.entryGrid q (BitVec.ofNat 1024 x) d)).barPut (qDesc q 2) 0 32 (s.qHead q + 1)).setQ q
      { due := s.clk }) := by
  obtain ⟨hr, hdue, hlive, hon, hentry, hdesc, hkernel⟩ := h
  show execAdmission q s = _
  rw [execAdmission]
  refine (if_neg (by simp [hr, hdue])).trans ((if_neg (by simp [hlive, hon])).trans ?_)
  simp only [hentry, hdesc, hkernel, Bool.false_eq_true, if_false]
  rfl

theorem entryGrid_fields (s : State) (q : Nat) (lr : BitVec 1024) (d : BitVec 512) :
    let g := s.entryGrid q lr d
    g.ctx = s.qCtx q ∧ g.queue = q ∧ g.lr = lr ∧ g.desc = d ∧ g.cls = lrClass lr ∧ g.nbef = lrNbef lr ∧ g.dline = lrDline lr := by
  unfold State.entryGrid
  by_cases h : s.entryReason q lr d ≠ 0
  · simp only [if_pos h, Grid.close, and_self]
  · simp only [if_neg h, and_self]

theorem entryGrid_admitted {lr : BitVec 1024} (h : s.entryReason q lr d = 0) :
    (s.entryGrid q lr d).st = .waiting ∧ (s.entryGrid q lr d).code = 0 := by
  rw [State.entryGrid, if_neg (not_not.mpr h)]
  exact ⟨rfl, rfl⟩

theorem entryGrid_rejected {lr : BitVec 1024} (h : s.entryReason q lr d ≠ 0) :
    (s.entryGrid q lr d).st = .rec1 ∧ (s.entryGrid q lr d).code = 4 ∧ (s.entryGrid q lr d).reason = s.entryReason q lr d := by
  rw [State.entryGrid, if_pos h]
  exact ⟨rfl, rfl, rfl⟩

theorem admission_advances (h : EntryReturned s q x d) :
    let lr : BitVec 1024 := BitVec.ofNat 1024 x
    brings (.admission q) s fun t => t.qHead q = (s.qHead q + 1) % 2 ^ 32 ∧ t.mem = s.mem
      ∧ (∃ g, KMap.find? t.grids s.newSerial = some g ∧ g.ctx = s.qCtx q ∧ g.queue = q ∧ g.lr = lr ∧ g.desc = d ∧ g.cls = lrClass lr
        ∧ g.nbef = lrNbef lr ∧ g.dline = lrDline lr ∧ g.seq = s.gridSeq
        ∧ (s.entryReason q lr d = 0 → g.st = .waiting ∧ g.code = 0)
        ∧ (s.entryReason q lr d ≠ 0 → g.st = .rec1 ∧ g.code = 4 ∧ g.reason = s.entryReason q lr d))
      ∧ (∀ k, k ≠ s.newSerial → KMap.find? t.grids k = KMap.find? s.grids k) := by
  intro lr
  obtain ⟨hctx, hqueue, hlr, hdesc, hcls, hnbef, hdline⟩ := entryGrid_fields s q lr d
  refine ⟨_, exec_admission h, ?_, rfl, ⟨{ s.entryGrid q lr d with seq := s.gridSeq }, KMap.find?_put_self .., hctx, hqueue, hlr, hdesc,
    hcls, hnbef, hdline, rfl, entryGrid_admitted, entryGrid_rejected⟩, fun k hk => KMap.find?_put_ne _ _ hk⟩
  exact State.barFld_barPut_self _ (qDesc q 2) (by decide) _

end Admission

/-! ## A grid's turns -/

section Turns
variable {s : State} {k : Nat} {g : Grid}

theorem gridEligible_opens (hg : KMap.find? s.grids k = some g) (hst : g.st = .waiting) (hdue : g.due ≤ s.clk) (hnbef : g.nbef ≤ s.pt)
    (hk : lrGraph g.lr = false) :
    exec (.gridEligible k) s = .next (s.updGrid k fun y => { y with st := .opened, since := s.clk }) := by
  have he : s.eligible k g = true := by simp [State.eligible, State.relaunchHeld, hst, hdue, hnbef, hk]
  show execGridEligible k s = _
  simp only [execGridEligible, hg]
  rw [if_neg (by simp [he])]
  exact if_neg (by simp [hk])

theorem firmDeadlineShed_sheds (hg : KMap.find? s.grids k = some g) (hcls : g.cls = 1) (hw : s.teamWaits g = true) (hd : g.dline < s.pt) :
    exec (.firmDeadlineShed k) s = .next (s.updGrid k fun y => { y with code := 2 }) := by
  have hl : s.firmLate g = true := by simp [State.firmLate, hcls, hw, hd]
  show execFirmDeadlineShed k s = _
  simp only [execFirmDeadlineShed, hg]
  exact if_pos hl

theorem completion_begins (hg : KMap.find? s.grids k = some g) (hst : g.st = .opened) (hk : lrGraph g.lr = false)
    (hrun : g.code ≠ 0 ∨ lrTeams g.lr ≤ g.run) (hteams : ∀ tm ∈ s.teams, tm.2.grid ≠ k) (hheld : s.ctxHeld g.ctx = none) :
    exec (.gridCompletionRecord k) s =
      .next (s.updGrid k fun y => { y with st := .rec1, code := if y.code = 0 then 1 else y.code, due := s.clk + 1 }) := by
  have ho : s.gridOver k g = true := by
    simp only [State.gridOver, hst, hk, decide_true, Bool.false_and, Bool.not_false, Bool.true_and, Bool.and_eq_true,
      Bool.or_eq_true, decide_eq_true_eq, Bool.not_eq_true', List.any_eq_false]
    exact ⟨hrun, hteams⟩
  show execGridCompletionRecord k s = _
  simp only [execGridCompletionRecord, hg, hst, hheld]
  exact if_neg (by simp [ho])

end Turns

/-! ## Walks -/

theorem barFld_congr {s t : State} (hbar : t.bar = s.bar) : t.barFld = s.barFld := by
  funext i lo n
  rw [State.barFld, State.barRd, hbar, State.barFld, State.barRd]

theorem paKind_congr {s t : State} (hbar : t.bar = s.bar) : t.paKind = s.paKind := by
  funext pa
  rw [State.paKind, State.ergSize, State.ergSize, State.peerUp, barFld_congr hbar, State.paKind, State.ergSize, State.ergSize, State.peerUp]

theorem onCard_congr {s t : State} (hbar : t.bar = s.bar) : t.onCard = s.onCard := by
  funext pa
  rw [State.onCard, paKind_congr hbar, State.onCard]

/-- States that agree on memory and on what lies where walk alike. The walk is opened by `delta`: Lean does not find its equations
within the limits. -/
theorem walkFrom_congr {s t : State} (hread : t.readN = s.readN) (hkind : t.paKind = s.paKind) : t.walkFrom = s.walkFrom := by
  have htable : t.tableOk = s.tableOk := by
    funext pa
    simp only [State.tableOk, State.onCard, hkind]
  have hrun : s64Run t = s64Run s := by
    funext table va e
    simp only [s64Run, hread]
  delta State.walkFrom State.walkFrom._f
  rw [hread, htable, hrun]

/-- A translation reads memory and the registers alone. -/
theorem ctxPhys_congr {s t : State} (hbar : t.bar = s.bar) (hmem : t.mem = s.mem) : t.ctxPhys = s.ctxPhys := by
  have hread : t.readN = s.readN := by
    funext n pa
    rw [State.readN, hmem, State.readN]
  have hfld := barFld_congr hbar
  have hkind := paKind_congr hbar
  have hpage : t.pageOk = s.pageOk := by
    funext x
    rw [State.pageOk, hkind, State.pageOk]
  funext ctx va w
  rw [State.ctxPhys, State.walk, walkFrom_congr hread hkind, hpage, State.ctxRoot, hfld, State.ctxPhys, State.walk, State.ctxRoot]

theorem ctxPhys_updGrid (s : State) (k : Nat) (f : Grid → Grid) : (s.updGrid k f).ctxPhys = s.ctxPhys := by
  have hbar : (s.updGrid k f).bar = s.bar := rfl
  have hmem : (s.updGrid k f).mem = s.mem := rfl
  rw [ctxPhys_congr hbar hmem]

theorem onCard_updGrid (s : State) (k : Nat) (f : Grid → Grid) : (s.updGrid k f).onCard = s.onCard := by
  have hbar : (s.updGrid k f).bar = s.bar := rfl
  rw [onCard_congr hbar]

/-! ## Writes of a completion record -/

section Record
variable {s : State} {k : Nat} {g : Grid}

/-- Bytes that do not cross a page are one part. -/
theorem pageParts_within {va n : Nat} (h0 : 0 < n) (h : va % 4096 + n ≤ 4096) : pageParts va n = [(va, n)] := by
  have hpages : (va % 4096 + n + 4095) / 4096 = 1 := by omega
  have hlo : max va (va / 4096 * 4096 + 4096 * 0) = va := by omega
  have hhi : min (va + n) (va / 4096 * 4096 + 4096 * (0 + 1)) - va = n := by omega
  rw [pageParts, hpages]
  show [_] = _
  simp only [hlo, hhi]

theorem selfPa_onCard {pa : Nat} (h : s.onCard pa = true) (w : Bool) : s.selfPa pa w = pa := by
  refine if_neg fun hp => ?_
  rw [State.onCard, hp.1] at h
  cases h

theorem unitWrite_onCard {pa : Nat} (h : s.onCard pa = true) (bs : List Byte) (own : Nat) : s.unitWrite pa bs own = s.devWrite pa bs own := by
  rw [State.onCard] at h
  rw [State.unitWrite]
  cases hp : s.paKind pa with
  | gddr | erg => rfl
  | peer | host | none => simp [hp] at h

/-- A write within one page of this card, through a context's translation. -/
theorem ctxWrite_page {ctx va pa : Nat} {bs : List Byte} (h0 : 0 < bs.length) (hpage : va % 4096 + bs.length ≤ 4096)
    (hpa : s.ctxPhys ctx va true = .ok pa) (hon : s.onCard pa = true) : s.ctxWrite ctx va bs = .ok (s.devWrite pa bs 0) := by
  have hparts : s.ctxParts ctx va bs.length true = .ok [(va, pa, bs.length)] := by
    simp [State.ctxParts, pageParts_within h0 hpage, hpa, selfPa_onCard hon]
  rw [State.ctxWrite, hparts]
  simp only [State.partsWrite, List.take_length, unitWrite_onCard hon]

theorem length_bytesOf (n x : Nat) : (bytesOf n x).length = n := by
  induction n generalizing x with
  | zero => rfl
  | succ n ih => exact congrArg (· + 1) (ih _)

/-- A part of the record that lies within one page of this card is written, and memory and the tasks alone change. -/
theorem putRecord_onCard {off n pa : Nat} (h0 : 0 < n) (hpage : (lrComp g.lr + off) % 4096 + n ≤ 4096)
    (hpa : s.ctxPhys g.ctx (lrComp g.lr + off) true = .ok pa) (hon : s.onCard pa = true) (hreuse : s.reuse = []) (next : State → State) :
    ∃ ts, s.putRecord k g off n next
      = next { s with mem := wrBytes s.mem pa (bytesOf n (g.record / 2 ^ (8 * off))), tasks := ts } := by
  obtain ⟨ts, hts⟩ := devWrite_of_no_reuse hreuse pa (bytesOf n (g.record / 2 ^ (8 * off)))
  have hlen := length_bytesOf n (g.record / 2 ^ (8 * off))
  refine ⟨ts, ?_⟩
  rw [State.putRecord]
  simp only [ctxWrite_page (by rwa [hlen]) (by rwa [hlen]) hpa hon, hts]

/-- The grid as the first write of its record sees it: FINISH and LATE are known (R158, R159). -/
def State.finished (s : State) (g : Grid) : Grid :=
  { g with finish := s.pt, late := g.late || (decide (g.cls ≠ 3) && decide (g.dline < s.pt)) }

/-- The first write of the record of a kernel's grid (R159). -/
theorem exec_record_first (hg : KMap.find? s.grids k = some g) (hst : g.st = .rec1) (hdue : g.due ≤ s.clk) (hlost : g.lost = false)
    (hk : lrGraph g.lr = false) :
    exec (.gridCompletionRecord k) s =
      if lrComp g.lr = 0 then .next ((s.updGrid k fun _ => s.finished g).gridDone k (s.finished g))
      else .next ((s.updGrid k fun _ => s.finished g).putRecord k (s.finished g) 8 24 fun t => t.updGrid k fun z =>
        { z with st := .rec2, due := s.clk + 1 + s.ctxLat 0 g.ctx (lrComp g.lr) 32 1 }) := by
  show execGridCompletionRecord k s = _
  simp only [execGridCompletionRecord, hg, hst]
  refine (if_neg (Nat.not_lt.mpr hdue)).trans ?_
  simp only [hk, hlost, State.finished, hst, Bool.false_eq_true, false_and, if_false]

theorem exec_record_last (hg : KMap.find? s.grids k = some g) (hst : g.st = .rec2) (hdue : g.due ≤ s.clk) :
    exec (.gridCompletionRecord k) s = .next (s.putRecord k g 0 8 fun t => t.gridDone k g) := by
  show execGridCompletionRecord k s = _
  simp only [execGridCompletionRecord, hg, hst]
  exact if_neg (Nat.not_lt.mpr hdue)

/-- A grid of no graph that is complete is gone; nothing else changes. -/
theorem gridDone_of_no_node (h : g.node = none) (s : State) (k : Nat) : s.gridDone k g = { s with grids := KMap.del s.grids k } := by
  simp only [State.gridDone, h]

theorem record_unwanted (hg : KMap.find? s.grids k = some g) (hst : g.st = .rec1) (hdue : g.due ≤ s.clk) (hlost : g.lost = false)
    (hk : lrGraph g.lr = false) (hcomp : lrComp g.lr = 0) (hnode : g.node = none) :
    brings (.gridCompletionRecord k) s fun t => KMap.find? t.grids k = none ∧ t.mem = s.mem := by
  refine ⟨_, (exec_record_first hg hst hdue hlost hk).trans (if_pos hcomp), ?_⟩
  rw [gridDone_of_no_node (g := s.finished g) hnode]
  exact ⟨KMap.find?_del_self .., rfl⟩

theorem record_first_write (hg : KMap.find? s.grids k = some g) (hst : g.st = .rec1) (hdue : g.due ≤ s.clk) (hlost : g.lost = false)
    (hk : lrGraph g.lr = false) {pa : Nat} (hcomp : lrComp g.lr ≠ 0) (hal : lrComp g.lr % 32 = 0)
    (hpa : s.ctxPhys g.ctx (lrComp g.lr + 8) true = .ok pa) (hon : s.onCard pa = true) (hreuse : s.reuse = []) :
    brings (.gridCompletionRecord k) s fun t => t.mem = wrBytes s.mem pa (bytesOf 24 ((s.finished g).record / 2 ^ 64))
      ∧ ∃ g', KMap.find? t.grids k = some g' ∧ g'.st = .rec2 ∧ g'.finish = s.pt ∧ g'.late = (s.finished g).late := by
  have hpage : (lrComp g.lr + 8) % 4096 + 24 ≤ 4096 := by omega
  have hpa' : (s.updGrid k fun _ => s.finished g).ctxPhys g.ctx (lrComp g.lr + 8) true = .ok pa := by
    rw [ctxPhys_updGrid, hpa]
  have hon' : (s.updGrid k fun _ => s.finished g).onCard pa = true := by rw [onCard_updGrid, hon]
  obtain ⟨ts, hts⟩ := putRecord_onCard (k := k) (g := s.finished g) (by decide) hpage hpa' hon' hreuse
    fun t => t.updGrid k fun z => { z with st := .rec2, due := s.clk + 1 + s.ctxLat 0 g.ctx (lrComp g.lr) 32 1 }
  refine ⟨_, (exec_record_first hg hst hdue hlost hk).trans (if_neg hcomp), ?_⟩
  rw [hts]
  refine ⟨rfl, { s.finished g with st := .rec2, due := s.clk + 1 + s.ctxLat 0 g.ctx (lrComp g.lr) 32 1 }, ?_, rfl, rfl, rfl⟩
  simp only [State.updGrid, KMap.find?_upd_self, hg, Option.map_some]

theorem record_last_write (hg : KMap.find? s.grids k = some g) (hst : g.st = .rec2) (hdue : g.due ≤ s.clk) (hnode : g.node = none)
    {pa : Nat} (hal : lrComp g.lr % 32 = 0) (hpa : s.ctxPhys g.ctx (lrComp g.lr) true = .ok pa) (hon : s.onCard pa = true)
    (hreuse : s.reuse = []) :
    brings (.gridCompletionRecord k) s fun t => t.mem = wrBytes s.mem pa (bytesOf 8 g.record) ∧ KMap.find? t.grids k = none := by
  have hpage : (lrComp g.lr + 0) % 4096 + 8 ≤ 4096 := by omega
  obtain ⟨ts, hts⟩ := putRecord_onCard (k := k) (by decide) hpage hpa hon hreuse fun t => t.gridDone k g
  refine ⟨_, exec_record_last hg hst hdue, ?_⟩
  rw [hts, gridDone_of_no_node hnode, Nat.mul_zero, Nat.pow_zero, Nat.div_one]
  exact ⟨rfl, KMap.find?_del_self ..⟩

end Record

/-- Settles O48: each event by the lemma of its outcome, in the order of a launch's life. -/
theorem queuesAndGrids : Obligations.QueuesAndGrids := by
  unfold Obligations.QueuesAndGrids
  refine fun s => ⟨fun q tail hq hd => doorbell_sets_tail hq hd, fun q hnext => ⟨fun ha _ => ?_, fun ha => ?_⟩,
    fun q x d _ hr hdue hlive hon hentry hdesc hkernel => ?_, fun k g hg => ⟨?_, ?_, ?_, fun hst hdue hlost hk => ⟨?_, ?_⟩, ?_⟩⟩
  · exact ⟨_, entryRead_beyond hnext ha, recordLost_qError (s.turned q) q ..⟩
  · exact ⟨fun ps hps => entryRead_starts hnext ha hps, fun f hf => entryRead_parks hnext ha hf⟩
  · exact admission_advances ⟨hr, hdue, hlive, hon, hentry, hdesc, hkernel⟩
  · exact gridEligible_opens hg
  · exact firmDeadlineShed_sheds hg
  · exact completion_begins hg
  · exact record_unwanted hg hst hdue hlost hk
  · exact fun pa => record_first_write hg hst hdue hlost hk
  · exact fun pa hst hdue hnode => record_last_write hg hst hdue hnode

end Sys2Proof.Machine
end

section
/-!
PROOFS. O18: the vector frames (R170). What a vector instruction commits, which of its words are legal (R39, R40, R50, R58), and how the
elements of a lane are mapped, stated in the words of the claims; then the arithmetic of R173 and R174.
-/
namespace Sys2Proof.Machine
open Sys2Proof.Safety

/-! ## What a vector instruction commits (R28, R128) -/

/-- The entry of a write with values. -/
def onWay (fid : Nat) (dst : Reg) (ready : Nat) (vals : List (Nat × Dword)) : List Pend :=
  if vals.isEmpty then [] else [{ fid := fid, dst := dst, vals := vals, ready := ready }]

theorem filter_onWay (fid : Nat) (dst : Reg) (ready : Nat) (vals : List (Nat × Dword)) :
    [({ fid := fid, dst := dst, vals := vals, ready := ready } : Pend)].filter (fun q => !q.vals.isEmpty) = onWay fid dst ready vals := by
  cases vals <;> rfl

/-- The entries of a vector register's write: those of the second pass one clk later. -/
def laneWrites (s : State) (c : Iss) (all : BitVec 1) (d lat : Nat) (vals : List (Nat × Dword)) : List Pend :=
  if twoPasses c all = (true, true) then
    onWay c.fid (.v d) (s.clk + lat) (vals.filter fun v => v.1 < 32) ++ onWay c.fid (.v d) (s.clk + 1 + lat) (vals.filter fun v => 32 ≤ v.1)
  else onWay c.fid (.v d) (s.clk + lat) vals

theorem laneWrites_laneVals (s : State) (c : Iss) (all : BitVec 1) (d lat : Nat) (g : Nat → Word) :
    laneWrites s c all d lat (laneVals (c.active all) g) = vectorWrites s c all d lat g := rfl

theorem extraPass_eq (p : Bool × Bool) : extraPass p = if p = (true, true) then 1 else 0 := by
  obtain ⟨_ | _, _ | _⟩ := p <;> rfl

theorem commit_laneWrites {s : State} {c : Iss} (h : ready s c) (all : BitVec 1) (stl : BitVec 3) (lat : Nat)
    (ws : List (Nat × List (Nat × Dword))) (srx : Option Dword) :
    c.ag.commit c.fid c.fr (twoPasses c all) s.clk stl.toNat lat { writes := ws.map fun w => (.v w.1, w.2), srx := srx }
      = { (vectorDone s c all (ws.flatMap fun w => laneWrites s c all w.1 lat w.2) stl) with srx := srx.getD c.ag.srx } := by
  simp only [Agent.commit, vectorDone, markWrites_settled h.2.1, h.2.1.1, List.nil_append, List.flatMap_map, List.filter_flatMap, extraPass_eq]
  have hpend : ∀ w : Nat × List (Nat × Dword),
      (if (if twoPasses c all = (true, true) then 1 else 0) = 0 then [({ fid := c.fid, dst := Reg.v w.1, vals := w.2, ready := s.clk + lat } : Pend)]
        else [{ fid := c.fid, dst := Reg.v w.1, vals := w.2.filter fun v => v.1 < 32, ready := s.clk + lat },
          { fid := c.fid, dst := Reg.v w.1, vals := w.2.filter fun v => 32 ≤ v.1, ready := s.clk + 1 + lat }]).filter (fun q => !q.vals.isEmpty)
        = laneWrites s c all w.1 lat w.2 := fun w => by
    by_cases h2 : twoPasses c all = (true, true)
    · simp only [laneWrites, h2, if_true, Nat.one_ne_zero, if_false, ← filter_onWay, ← List.filter_append, List.singleton_append]
    · simp only [laneWrites, h2, if_true, if_false, filter_onWay]
  simp only [hpend]
  rfl

section Frames
variable {i : Instr} {s : State} {c : Iss} {lg : Legal} {foot : Iss → Foot} {pm : Pm} {lat : Nat} {body : State → Iss → Except Flt Fx}

/-- What an instruction leaves that writes vector registers and may advance the stochastic state. -/
theorem acts_laneWrites {stl : BitVec 3} {ws : List (Nat × List (Nat × Dword))} {srx : Option Dword}
    (he : exec i s = issueLocal s lg foot pm stl.toNat lat body) (hpm : pm ≠ .one) (h : ready s c) (hl : lg.fate c = none)
    (hb : body { s with slots := pipe s c (extraPass (passesOf pm c lg.all)) } c = .ok { writes := ws.map fun w => (.v w.1, w.2), srx := srx }) :
    acts i s c (extraPass (twoPasses c lg.all))
      { (vectorDone s c lg.all (ws.flatMap fun w => laneWrites s c lg.all w.1 lat w.2) stl) with srx := srx.getD c.ag.srx } := by
  have hx := acts_local he h hl hb
  have hp : passesOf pm c lg.all = twoPasses c lg.all := if_neg hpm
  rwa [hp, commit_laneWrites h] at hx

/-- What an instruction leaves that writes one vector register. -/
theorem acts_vectorWrites {stl : BitVec 3} {d : Nat} {g : Nat → Word} (he : exec i s = issueLocal s lg foot pm stl.toNat lat body)
    (hpm : pm ≠ .one) (h : ready s c) (hl : lg.fate c = none)
    (hb : body { s with slots := pipe s c (extraPass (passesOf pm c lg.all)) } c = .ok { writes := [(.v d, laneVals (c.active lg.all) g)] }) :
    acts i s c (extraPass (twoPasses c lg.all)) (vectorDone s c lg.all (vectorWrites s c lg.all d lat g) stl) := by
  have hx := acts_laneWrites (ws := [(d, laneVals (c.active lg.all) g)]) (srx := none) he hpm h hl hb
  rwa [List.flatMap_singleton, laneWrites_laneVals] at hx

end Frames

/-! ## Legal vector words (R39, R40, R50, R58) -/

section Legal
variable {c : Iss} {used sel : Bool} {field : BitVec 10}

theorem srcRsv_sourceOk (h : sourceOk c used sel field) : srcRsv used sel field = false := by
  unfold srcRsv
  unfold sourceOk at h
  cases used
  · simp_all
  · cases sel <;> simp_all

theorem scalar_sourceOk (h : sourceOk c true sel field) (hs : sel = true) : field.toNat < 128 := by
  simpa only [sourceOk, hs, if_true] using h

theorem and_sel (h : sourceOk c used sel field) : (used && sel) = sel := by
  cases used
  · simp [h.1]
  · rfl

theorem vreg_sourceOk (h : sourceOk c used sel field) : ∀ r ∈ (if used && !sel then [field.toNat] else []), r < c.ag.nv := by
  unfold sourceOk at h
  cases used <;> cases sel <;> simp_all

theorem vreg_usedSource (h : sourceOk c true sel field) : ∀ r ∈ (if sel then [] else [field.toNat]), r < c.ag.nv := by
  unfold sourceOk at h
  cases sel <;> simp_all

theorem fate_group {l : Legal} (hk : c.ag.kind = .group) (hg : l.grp = true) (hh : l.hnd = false ∧ l.noHnd = false) (ha : allOk c l.all)
    (hrsv : l.rsv = false) (hbad : l.bad = false) (hv : ∀ r ∈ l.vregs, r < c.ag.nv) : l.fate c = none :=
  fate_none ⟨by simp [isLeat_of_group hk], fun _ => hg, by simp [hh.1], by simp [hh.2]⟩ hrsv hbad ha hv (by simp [isLeat_of_group hk])

end Legal

theorem modXop_eq (m : BitVec 4) : modXop m = decide (m.toNat % 2 = 1) := by
  rw [modXop, getLsbD_eq_div, pow_zero, Nat.div_one]

theorem modSat_eq (m : BitVec 4) : modSat m = decide (m.toNat / 2 % 2 = 1) := getLsbD_eq_div ..

theorem hi_reserved {h a b c : Bool} (hi : h = true → a = true ∨ b = true ∨ c = true) : (h && !(a || b || c)) = false := by
  revert h a b c
  decide

/-- The row takes the word's TY and MOD. -/
def V3Row.takes (row : V3Row) (ty mod : BitVec 4) : Prop := row.ty ty = true ∧ modRsv row mod = false ∧ modBad row ty mod = false

/-- MOD holds a rounding mode or SAT only where the row uses it (R50, R171). -/
theorem V3Row.takes_of {row : V3Row} {ty mod : BitVec 4} (hty : row.ty ty = true) (hc : row.cond = false)
    (hxop : row.xop = false → mod.toNat % 2 = 0) (hrm : mod.toNat / 4 ≠ 0 → row.rm ty = true)
    (hsat : mod.toNat / 2 % 2 = 1 → row.sat ty = true) : row.takes ty mod := by
  refine ⟨hty, ?_, ?_⟩
  · cases hx : row.xop
    · simp [modRsv, modXop_eq, hxop hx]
    · simp [modRsv, hx]
  · simp only [modBad, modSat_eq, modRM, hc, Bool.false_eq_true, if_false]
    exact Bool.or_eq_false_iff.mpr ⟨by simpa using hrm, by simpa using hsat⟩

theorem V3Row.takes_zero {row : V3Row} {ty mod : BitVec 4} (hty : row.ty ty = true) (hmod : mod = 0) : row.takes ty mod := by
  subst hmod
  exact ⟨hty, by simp [modRsv, modXop], by simp [modBad, modRM, modSat]⟩

theorem fate_legalV3 {c : Iss} {f : FV3} {row : V3Row} (hv : vectorOk c f row.a row.b row.c) (hs : row.sres = false)
    (hd : f.vd.toNat < c.ag.nv) (ht : row.takes f.ty f.mod) : (legalV3 f row).fate c = none := by
  obtain ⟨hk, ha, h1, h2, h3, hi⟩ := hv
  obtain ⟨hty, hr, hb⟩ := ht
  have hhi : (FV3.hi f && !((row.a && FV3.selA f) || (row.b && FV3.selB f) || (row.c && FV3.selC f))) = false := by
    simp only [FV3.hi, FV3.selA, FV3.selB, FV3.selC, and_sel h1, and_sel h2, and_sel h3]
    exact hi_reserved hi
  refine fate_group hk rfl ⟨rfl, rfl⟩ ha ?_ ?_ ?_
  · simp only [legalV3, FV3.selA, FV3.selB, FV3.selC] at hhi ⊢
    simp only [srcRsv_sourceOk h1, srcRsv_sourceOk h2, srcRsv_sourceOk h3, hhi, hr, hs]
    rfl
  · simp only [legalV3, hty, hb]
    rfl
  · simp only [legalV3, hs, List.forall_mem_append]
    exact ⟨⟨⟨by simpa using hd, vreg_sourceOk h1⟩, vreg_sourceOk h2⟩, vreg_sourceOk h3⟩

/-! ## Elements of a lane (R49, R170) -/

theorem fldN_lt {w : Nat} (x : BitVec w) (lo n : Nat) : fldN x lo n < 2 ^ n := Nat.mod_lt _ (Nat.two_pow_pos _)

section Elements
variable {ty : BitVec 4} {g : Nat → Nat → Nat → Nat} (a b c : Word)

theorem emap_eq_each3 (ty : BitVec 4) (g : Nat → Nat → Nat → Nat) : emap ty g a b c = each3 ty g a b c := by
  simp only [emap, each3, elems, List.zip_map', List.map_map]
  rfl

theorem emap_eq_each2 {g' : Nat → Nat → Nat} (hg : ∀ x y z, x < 2 ^ elemBits ty → g x y z = g' x y) : emap ty g a b c = each2 ty g' a b := by
  rw [emap_eq_each3, each3, each2]
  exact congrArg _ (List.map_congr_left fun k _ => hg _ _ _ (fldN_lt ..))

theorem emap_eq_each1 {g' : Nat → Nat} (hg : ∀ x y z, x < 2 ^ elemBits ty → g x y z = g' x) :
    emap ty g a b c = each2 ty (fun x _ => g' x) a a := by
  rw [emap_eq_each3, each3, each2]
  exact congrArg _ (List.map_congr_left fun k _ => hg _ _ _ (fldN_lt ..))

end Elements

/-- An instruction of the common frame for F-V3 writes what it computes of each lane. -/
theorem lanewise_vec3 {i : Instr} {s : State} {c : Iss} {f : FV3} {row : V3Row} {lat : Nat} {g : Word → Word → Word → Word} {g' : Nat → Word}
    (he : exec i s = vec3 f row lat g s) (h : ready s c) (hv : vectorOk c f row.a row.b row.c) (hs : row.sres = false)
    (hd : f.vd.toNat < c.ag.nv) (ht : row.takes f.ty f.mod)
    (hg : ∀ l, g (laneA c f l) (laneB c f l) (laneC c f l) = g' l) : lanewise s c f i lat g' := by
  obtain rfl : (fun l => g (laneA c f l) (laneB c f l) (laneC c f l)) = g' := funext hg
  exact acts_vectorWrites (lg := legalV3 f row) he nofun h (fate_legalV3 hv hs hd ht) rfl

/-- The row of an F-VI word uses no other source than VA. -/
theorem fate_legalVI {c : Iss} {f : FVI} {row : V3Row} (hv : vectorImmOk c f) (ha : row.a = false → f.va = 0) (ht : row.takes f.ty f.mod) :
    ({ all := f.all
       rsv := (tyVector f.ty && immRsv f.ty f.imm) || modRsv row f.mod || (!row.a && f.va ≠ 0)
       bad := !row.ty f.ty || modBad row f.ty f.mod
       vregs := [f.vd.toNat] ++ (if row.a then [f.va.toNat] else []) } : Legal).fate c = none := by
  obtain ⟨hk, hall, hd, hva, h16, h8⟩ := hv
  obtain ⟨hty, hr, hb⟩ := ht
  have himm : (tyVector f.ty && immRsv f.ty f.imm) = false := by
    have hfld : ∀ k, f.imm.toNat / 2 ^ k = 0 → f.imm.extractLsb' k (24 - k) = 0 := fun k hk =>
      BitVec.eq_of_toNat_eq (by rw [toNat_extractLsb'_eq, hk]; rfl)
    rw [Bool.and_eq_false_iff, tyVector, immRsv, decide_eq_false_iff_not, Nat.not_le]
    split
    · exact .inr rfl
    · exact .inr rfl
    · exact .inr rfl
    · exact .inr (by simpa using hfld 8 (h8 (by omega)))
    · exact .inr (by simpa using hfld 8 (h8 (by omega)))
    · next n0 n1 n2 n7 n8 =>
      have hne : f.ty.toNat ≠ 0 ∧ f.ty.toNat ≠ 1 ∧ f.ty.toNat ≠ 2 ∧ f.ty.toNat ≠ 7 ∧ f.ty.toNat ≠ 8 := ⟨n0, n1, n2, n7, n8⟩
      by_cases h : f.ty.toNat ≤ 8
      · exact .inr (by simpa using hfld 16 (h16 (by omega) (by omega)))
      · exact .inl (by omega)
  refine fate_group hk rfl ⟨rfl, rfl⟩ hall ?_ ?_ ?_
  · cases h : row.a <;> simp [himm, hr, h, ha]
  · simp [hty, hb]
  · cases h : row.a <;> simp [hd, hva]

theorem lanewiseImm_vecI {i : Instr} {s : State} {c : Iss} {f : FVI} {row : V3Row} {lat : Nat} {g : Word → Word → Word} {g' : Nat → Word}
    (he : exec i s = vecI f row lat g s) (h : ready s c) (hv : vectorImmOk c f) (ha : row.a = false → f.va = 0) (ht : row.takes f.ty f.mod)
    (hg : ∀ l, g (c.ag.vr f.va.toNat l) (expandImm f.ty f.imm) = g' l) : lanewiseImm s c f i lat g' := by
  obtain rfl : (fun l => g (c.ag.vr f.va.toNat l) (expandImm f.ty f.imm)) = g' := funext hg
  have hx := acts_vectorWrites (stl := f.stl) (d := f.vd.toNat) he nofun h (fate_legalVI hv ha ht) rfl
  exact hx

/-- A row whose elements come from those of two operands. -/
theorem lanewise_each2 {i : Instr} {s : State} {c : Iss} {f : FV3} {row : V3Row} {lat : Nat} {g : Nat → Nat → Nat → Nat} {g' : Nat → Nat → Nat}
    (he : exec i s = vec3 f row lat (emap f.ty g) s) (h : ready s c) (hv : vectorOk c f row.a row.b row.c) (hs : row.sres = false)
    (hd : f.vd.toNat < c.ag.nv) (ht : row.takes f.ty f.mod) (hg : ∀ x y z, x < 2 ^ elemBits f.ty → g x y z = g' x y) :
    lanewise s c f i lat fun l => each2 f.ty g' (laneA c f l) (laneB c f l) :=
  lanewise_vec3 he h hv hs hd ht fun _ => emap_eq_each2 _ _ _ hg

/-- A row whose elements come from those of operand A. -/
theorem lanewise_each1 {i : Instr} {s : State} {c : Iss} {f : FV3} {row : V3Row} {lat : Nat} {g : Nat → Nat → Nat → Nat} {g' : Nat → Nat}
    (he : exec i s = vec3 f row lat (emap f.ty g) s) (h : ready s c) (hv : vectorOk c f row.a row.b row.c) (hs : row.sres = false)
    (hd : f.vd.toNat < c.ag.nv) (ht : row.takes f.ty f.mod) (hg : ∀ x y z, x < 2 ^ elemBits f.ty → g x y z = g' x) :
    lanewise s c f i lat fun l => each2 f.ty (fun x _ => g' x) (laneA c f l) (laneA c f l) :=
  lanewise_vec3 he h hv hs hd ht fun _ => emap_eq_each1 _ _ _ hg

theorem lanewiseImm_each2 {i : Instr} {s : State} {c : Iss} {f : FVI} {row : V3Row} {lat : Nat} {g : Nat → Nat → Nat → Nat}
    {g' : Nat → Nat → Nat} (he : exec i s = vecI f row lat (fun a b => emap f.ty g a b 0) s) (h : ready s c) (hv : vectorImmOk c f)
    (ha : row.a = false → f.va = 0) (ht : row.takes f.ty f.mod) (hg : ∀ x y z, x < 2 ^ elemBits f.ty → g x y z = g' x y) :
    lanewiseImm s c f i lat fun l => each2 f.ty g' (c.ag.vr f.va.toNat l) (expandImm f.ty f.imm) :=
  lanewiseImm_vecI he h hv ha ht fun _ => emap_eq_each2 _ _ _ hg

/-! ## Arithmetic (R173, R174) -/

section Exec
variable (f : FV3) (g : FVI) (s : State)

theorem exec_vadd : exec (.vadd f) s = execVadd f s := rfl
theorem exec_vsub : exec (.vsub f) s = execVsub f s := rfl
theorem exec_vmul : exec (.vmul f) s = execVmul f s := rfl
theorem exec_vmulh : exec (.vmulh f) s = execVmulh f s := rfl
theorem exec_vmad : exec (.vmad f) s = execVmad f s := rfl
theorem exec_vfma : exec (.vfma f) s = execVfma f s := rfl
theorem exec_vaddFVi : exec (.vaddFVi g) s = execVaddFVi g s := rfl
theorem exec_vsubFVi : exec (.vsubFVi g) s = execVsubFVi g s := rfl
theorem exec_vmulFVi : exec (.vmulFVi g) s = execVmulFVi g s := rfl

end Exec

theorem intRes_eq_fit (ty mod : BitVec 4) (x : Int) : intRes ty mod x = fit ty mod x := by
  unfold intRes fit satN wrapN
  rw [modSat_eq]
  by_cases h : mod.toNat / 2 % 2 = 1 <;> simp [h]

theorem arith_eq_arithOf (ty mod : BitVec 4) (int : Int → Int → Int) (flt : Fmt → RM → Nat → Nat → Nat) (x y z : Nat) :
    arith ty mod (fun a b _ => int a b) (fun D rm a b _ => flt D rm a b) x y z = arithOf ty mod int flt x y := by
  unfold arith arithOf
  rw [intRes_eq_fit]
  rfl

theorem tyInt_of_not_float {ty : BitVec 4} (h : ty.toNat ≤ 8) (hi : tyFloat ty = false) : tyInt ty = true := by simp [tyInt, tyVector, h, hi]

theorem tyVector_of_le {ty : BitVec 4} (h : ty.toNat ≤ 8) : tyVector ty = true := decide_eq_true h

theorem rowArith_takes {ty mod : BitVec 4} (usesC : Bool) (h : arithMod ty mod) (hty : ty.toNat ≤ 8) : (rowArith usesC).takes ty mod := by
  obtain ⟨h0, hflt, hint⟩ := h
  refine V3Row.takes_of (tyVector_of_le hty) rfl (fun _ => h0) (fun hm => ?_) fun hm => tyInt_of_not_float hty ?_
  · by_contra hi
    have := hint (Bool.eq_false_of_not_eq_true hi)
    omega
  · by_contra hf
    have := hflt (by simpa using hf)
    omega

theorem latOf_of_float {ty : BitVec 4} (h : tyFloat ty = true) : latOf ty = 6 := if_pos h
theorem latOf_of_int {ty : BitVec 4} (h : tyFloat ty = false) : latOf ty = 4 := by rw [latOf, h]; rfl

/-- Settles O18: the rows of R172 by their element functions, which compute exactly and round once. -/
theorem vectorArithmetic : Obligations.VectorArithmetic := by
  unfold Obligations.VectorArithmetic
  refine ⟨fun s c f hc hd hty hm => ?_, fun s c f hc hv hty hm => ?_⟩
  · refine ⟨fun hv => ?two, fun hv => ⟨fun hi => ?madInt, fun hf => ?float⟩⟩
    case two =>
      have does : ∀ {i int flt}, exec i s = vec3 f (rowArith false) (latOf f.ty)
            (emap f.ty (arith f.ty f.mod (fun a b _ => int a b) fun D rm a b _ => flt D rm a b)) s →
          lanewise s c f i (arithLat f.ty) fun l => each2 f.ty (arithOf f.ty f.mod int flt) (laneA c f l) (laneB c f l) := fun he =>
        lanewise_each2 he hc hv rfl hd (rowArith_takes _ hm hty) fun _ _ _ _ => arith_eq_arithOf ..
      refine ⟨does (exec_vadd f s), does (exec_vsub f s), does (exec_vmul f s), fun hi h0 => ?_⟩
      exact lanewise_each2 (exec_vmulh f s) hc hv rfl hd (V3Row.takes_zero (tyInt_of_not_float hty hi) h0) fun _ _ _ _ => rfl
    case madInt =>
      rw [← latOf_of_int hi]
      refine lanewise_vec3 (exec_vmad f s) hc hv rfl hd (rowArith_takes _ hm hty) fun l => ?_
      rw [emap_eq_each3]
      congr 1
      funext x y z
      simp [madE, arith, hi, intRes_eq_fit]
    case float =>
      have hf : tyFloat f.ty = true := by simpa using hf
      refine ⟨?_, lanewise_vec3 (exec_vfma f s) hc hv rfl hd ?_ fun l => emap_eq_each3 ..⟩
      · rw [← latOf_of_float hf]
        refine lanewise_vec3 (exec_vmad f s) hc hv rfl hd (rowArith_takes _ hm hty) fun l => ?_
        rw [emap_eq_each3]
        congr 1
        funext x y z
        simp [madE, arith, hf, modRM]
      · exact V3Row.takes_of hf rfl (fun _ => hm.1) (fun _ => hf) fun h => absurd h (by simp [hm.2.1 hf])
  · have does : ∀ {i int flt}, exec i s = vecI f (rowArith false) (latOf f.ty)
          (fun a b => emap f.ty (arith f.ty f.mod (fun a b _ => int a b) fun D rm a b _ => flt D rm a b) a b 0) s →
        lanewiseImm s c f i (arithLat f.ty) fun l => each2 f.ty (arithOf f.ty f.mod int flt) (c.ag.vr f.va.toNat l) (expandImm f.ty f.imm) :=
      fun he => lanewiseImm_each2 he hc hv nofun (rowArith_takes _ hm hty) fun _ _ _ _ => arith_eq_arithOf ..
    exact ⟨does (exec_vaddFVi f s), does (exec_vsubFVi f s), does (exec_vmulFVi f s)⟩

end Sys2Proof.Machine
end

section
/-!
PROOFS. O19: the element functions of R175 to R178 in the words of the claim, then the rows.
-/
namespace Sys2Proof.Machine
open Sys2Proof.Safety

section Exec
variable (f : FV3) (g : FVI) (s : State)

theorem exec_vmin : exec (.vmin f) s = execVmin f s := rfl
theorem exec_vmax : exec (.vmax f) s = execVmax f s := rfl
theorem exec_vabs : exec (.vabs f) s = execVabs f s := rfl
theorem exec_vcmp : exec (.vcmp f) s = execVcmp f s := rfl
theorem exec_vsel : exec (.vsel f) s = execVsel f s := rfl
theorem exec_vand : exec (.vand f) s = execVand f s := rfl
theorem exec_vor : exec (.vor f) s = execVor f s := rfl
theorem exec_vxor : exec (.vxor f) s = execVxor f s := rfl
theorem exec_vnot : exec (.vnot f) s = execVnot f s := rfl
theorem exec_vshl : exec (.vshl f) s = execVshl f s := rfl
theorem exec_vshr : exec (.vshr f) s = execVshr f s := rfl
theorem exec_vsar : exec (.vsar f) s = execVsar f s := rfl
theorem exec_vmov : exec (.vmov f) s = execVmov f s := rfl
theorem exec_vbcast : exec (.vbcast f) s = execVbcast f s := rfl
theorem exec_vlane : exec (.vlane f) s = execVlane f s := rfl
theorem exec_vminFVi : exec (.vminFVi g) s = execVminFVi g s := rfl
theorem exec_vmaxFVi : exec (.vmaxFVi g) s = execVmaxFVi g s := rfl
theorem exec_vcmpFVi : exec (.vcmpFVi g) s = execVcmpFVi g s := rfl
theorem exec_vandFVi : exec (.vandFVi g) s = execVandFVi g s := rfl
theorem exec_vorFVi : exec (.vorFVi g) s = execVorFVi g s := rfl
theorem exec_vxorFVi : exec (.vxorFVi g) s = execVxorFVi g s := rfl
theorem exec_vshlFVi : exec (.vshlFVi g) s = execVshlFVi g s := rfl
theorem exec_vshrFVi : exec (.vshrFVi g) s = execVshrFVi g s := rfl
theorem exec_vsarFVi : exec (.vsarFVi g) s = execVsarFVi g s := rfl
theorem exec_vmovFVi : exec (.vmovFVi g) s = execVmovFVi g s := rfl

end Exec

/-! ## The lesser element, the absolute value, compares (R175, R177) -/

theorem minmaxE_eq (isMax : Bool) (ty : BitVec 4) (x y z : Nat) : minmaxE isMax ty x y z =
    if tyFloat ty then (tyFmt ty).fminmax isMax x y
    else if isMax then (if elemVal ty x < elemVal ty y then y else x) else (if elemVal ty x < elemVal ty y then x else y) := by
  simp only [minmaxE, decide_eq_true_eq]

theorem absE_eq (ty mod : BitVec 4) (x y z : Nat) : absE ty mod x y z =
    if tyFloat ty then (if ((tyFmt ty).decode x).isNan then (tyFmt ty).nan else x % (tyFmt ty).signBit)
    else if elemSgn ty then fit ty mod (elemVal ty x).natAbs else x := by
  rw [absE, intRes_eq_fit]

/-- All ones where the condition of R177 holds, zero where it does not. -/
def compareMask (ty cond : BitVec 4) (x y : Nat) : Nat :=
  let a := (tyFmt ty).decode x
  let b := (tyFmt ty).decode y
  let order := if tyFloat ty then FV.cmp a b else elemVal ty x - elemVal ty y
  let unordered := tyFloat ty ∧ (a.isNan ∨ b.isNan)
  if (unordered ∧ (cond = 1 ∨ cond = 6))
    ∨ (¬unordered ∧ ((cond = 0 ∧ order = 0) ∨ (cond = 1 ∧ order ≠ 0) ∨ (cond = 2 ∧ order < 0) ∨ (cond = 3 ∧ order ≤ 0)
      ∨ (cond = 4 ∧ 0 < order) ∨ (cond = 5 ∧ 0 ≤ order))) then 2 ^ elemBits ty - 1 else 0

/-- The condition of a compare is one of its type (R177). -/
def condLegal (ty mod : BitVec 4) : Prop := mod.toNat % 2 = 0 ∧ mod.toNat / 2 < if tyFloat ty then 7 else 6

theorem cmpE_eq {ty mod : BitVec 4} (h : condLegal ty mod) (x y z : Nat) :
    cmpE ty mod x y z = compareMask ty (BitVec.ofNat 4 (mod.toNat / 2)) x y := by
  obtain ⟨-, h⟩ := h
  rw [cmpE, compareMask]
  generalize mod.toNat / 2 = k at h
  congr 1
  cases hf : tyFloat ty
  · simp only [hf, Bool.false_eq_true, if_false] at h
    interval_cases k <;> simp [cmpHolds, hf, ccHolds] <;> omega
  · simp only [hf, if_true] at h
    interval_cases k <;> cases hx : ((tyFmt ty).decode x).isNan <;> cases hy : ((tyFmt ty).decode y).isNan <;> simp [cmpHolds, hf, hx, hy, ccHolds]

theorem takes_cond {ty mod : BitVec 4} (h : condLegal ty mod) (hty : ty.toNat ≤ 8) : ({ cond := true } : V3Row).takes ty mod := by
  obtain ⟨h0, h⟩ := h
  refine ⟨tyVector_of_le hty, by simp [modRsv, modXop_eq, h0], ?_⟩
  cases hf : tyFloat ty <;> simp [modBad, hf] at h ⊢ <;> omega

/-! ## Shifts (R176) -/

theorem shiftE_left (ty : BitVec 4) (x y z : Nat) : shiftE 0 ty x y z = x * 2 ^ (y % 128) % 2 ^ elemBits ty := by
  simp only [shiftE]
  split
  · rfl
  · next h => exact (Nat.mod_eq_zero_of_dvd (Dvd.dvd.mul_left (Nat.pow_dvd_pow 2 (Nat.le_of_not_lt h)) x)).symm

theorem shiftE_right {ty : BitVec 4} {x : Nat} (hx : x < 2 ^ elemBits ty) (y z : Nat) : shiftE 1 ty x y z = x / 2 ^ (y % 128) := by
  simp only [shiftE]
  split
  · rfl
  · next h => exact (Nat.div_eq_of_lt (Nat.lt_of_lt_of_le hx (Nat.pow_le_pow_right (by decide) (Nat.le_of_not_lt h)))).symm

theorem elemBits_pos (ty : BitVec 4) : 0 < elemBits ty := by
  unfold elemBits
  split <;> decide

/-- An n-bit value shifted right by n - 1 places or more leaves its sign. -/
theorem ediv_two_pow_of_le {v : Int} {n m : Nat} (h1 : -2 ^ n ≤ v) (h2 : v < 2 ^ n) (hm : n ≤ m) : v / 2 ^ m = if v < 0 then -1 else 0 := by
  have hp : (2 : Int) ^ n ≤ 2 ^ m := pow_le_pow_right₀ (by decide) hm
  split
  · rw [Int.ediv_eq_iff_of_pos (by positivity)]
    omega
  · exact Int.ediv_eq_zero_of_lt (by omega) (by omega)

theorem shiftE_arith {ty : BitVec 4} {x : Nat} (hx : x < 2 ^ elemBits ty) (y z : Nat) : shiftE 2 ty x y z =
    (let v : Int := if 2 ^ (elemBits ty - 1) ≤ x then (x : Int) - 2 ^ elemBits ty else x
     (v / 2 ^ (y % 128) % 2 ^ elemBits ty).toNat) := by
  have hn := elemBits_pos ty
  simp only [shiftE, wrapN, sx]
  generalize elemBits ty = n at *
  have h2 := two_pow_eq_double hn
  have hpow : ((2 ^ (n - 1) : Nat) : Int) = 2 ^ (n - 1) := by push_cast; rfl
  have h2' : (2 : Int) ^ n = 2 * 2 ^ (n - 1) := by exact_mod_cast h2
  have hv : (if x < 2 ^ (n - 1) then (x : Int) else x - 2 ^ n) = if 2 ^ (n - 1) ≤ x then (x : Int) - 2 ^ n else x := by
    split <;> split <;> omega
  rw [hv]
  generalize hV : (if 2 ^ (n - 1) ≤ x then (x : Int) - 2 ^ n else x) = v
  have hlo : -2 ^ (n - 1) ≤ v := by split at hV <;> omega
  have hhi : v < 2 ^ (n - 1) := by split at hV <;> omega
  by_cases hk : y % 128 ≤ n - 1
  · rw [Nat.min_eq_left hk]
  · rw [Nat.min_eq_right (by omega), ediv_two_pow_of_le hlo hhi (Nat.le_refl _), ediv_two_pow_of_le hlo hhi (by omega)]

/-! ## Broadcast and lane numbers (R178) -/

theorem extractLsb'_eq_ofNat (x : Dword) (k : Nat) : x.extractLsb' k 32 = BitVec.ofNat 32 (x.toNat / 2 ^ k) := by
  apply BitVec.eq_of_toNat_eq
  rw [toNat_extractLsb'_eq, BitVec.toNat_ofNat]

theorem ty01_of_le {ty : BitVec 4} (h : ty.toNat ≤ 1) : ty01 ty = true := by
  have : ty = 0 ∨ ty = 1 := by bv_omega
  rcases this with rfl | rfl <;> rfl

/-- A scalar source is the same in every lane (R39). -/
theorem laneA_scalar {f : FV3} (h : f.sel.getLsbD 0 = true) (c : Iss) (l k : Nat) : laneA c f l = laneA c f k := by
  simp only [laneA, opVA, vsrc, FV3.selA, h, if_true]

theorem vbcast_acts {s : State} {c : Iss} {f : FV3} (hc : ready s c) (hd : f.vd.toNat + 1 < c.ag.nv) (hev : f.vd.toNat % 2 = 0) (hty : f.ty.toNat ≤ 1)
    (hmod : f.mod = 0) (hsel : f.sel = 1) (hv : vectorOk c f true false false) :
    let x := (c.ag.sr f.va.toNat).toNat
    acts (.vbcast f) s c (extraPass (twoPasses c f.all)) (vectorDone s c f.all
      (vectorWrites s c f.all f.vd.toNat 4 (fun _ => BitVec.ofNat 32 x)
        ++ vectorWrites s c f.all (f.vd.toNat + 1) 4 (fun _ => BitVec.ofNat 32 (x / 2 ^ 32))) f.stl) := by
  obtain ⟨hk, ha, h1, ⟨-, h2⟩, ⟨-, h3⟩, -⟩ := hv
  have h128 : f.va.toNat < 128 := scalar_sourceOk h1 (by rw [hsel]; rfl)
  have heven : f.vd.getLsbD 0 = false := by rw [getLsbD_eq_div, pow_zero, Nat.div_one, hev]; rfl
  have hx0 := extractLsb'_eq_ofNat (c.ag.sr f.va.toNat) 0
  rw [pow_zero, Nat.div_one] at hx0
  intro x
  have hw := acts_laneWrites (srx := none) (ws := [(f.vd.toNat, laneVals (c.active f.all) fun _ => BitVec.ofNat 32 x),
    (f.vd.toNat + 1, laneVals (c.active f.all) fun _ => BitVec.ofNat 32 (x / 2 ^ 32))]) (exec_vbcast f s) nofun hc ?legal ?body
  case legal =>
    refine fate_group hk rfl ⟨rfl, rfl⟩ ha ?_ ?_ ?_
    · simp [FV3.selA, FV3.selB, FV3.selC, FV3.hi, hsel, h2, h3, hmod, h128]
    · simp only [FV3.selA, hsel, heven, ty01_of_le hty]
      rfl
    · simpa using ⟨by omega, hd⟩
  case body =>
    simp only [Nat.mod_eq_of_lt h128, hx0, extractLsb'_eq_ofNat]
    rfl
  simp only [List.flatMap_cons, List.flatMap_nil, List.append_nil, laneWrites_laneVals] at hw
  exact hw

theorem vlane_lanewise {s : State} {c : Iss} {f : FV3} (hc : ready s c) (hd : f.vd.toNat < c.ag.nv) (hty : f.ty.toNat ≤ 1)
    (hmod : f.mod = 0) (hv : vectorOk c f (f.sel.getLsbD 0) false false) :
    lanewise s c f (.vlane f) 4 fun l => BitVec.ofNat 32 l + (if f.sel.getLsbD 0 then laneA c f l else 0) := by
  have hl := fate_legalV3 (row := { a := FV3.selA f, b := false, ty := ty01 }) hv rfl hd (V3Row.takes_zero (ty01_of_le hty) hmod)
  have he := exec_vlane f s
  rw [execVlane, hmod, (by simp : (decide ((0 : BitVec 4) ≠ 0)) = false), Bool.or_false] at he
  refine acts_vectorWrites (lg := legalV3 f { a := FV3.selA f, b := false, ty := ty01 }) he nofun hc hl ?_
  have hlane : (fun l => BitVec.ofNat 32 l + (if f.sel.getLsbD 0 then laneA c f l else 0))
      = fun l => BitVec.ofNat 32 l + (if f.sel.getLsbD 0 then laneA c f 0 else 0) := by
    funext l
    split
    · next h => rw [laneA_scalar h c l 0]
    · rfl
  rw [hlane]
  rfl

/-! ## The rows -/

/-- Settles O19: the compares and selections by their element functions, the logic and shifts by theirs. -/
theorem vectorChoiceAndLogic : Obligations.VectorChoiceAndLogic := by
  unfold Obligations.VectorChoiceAndLogic
  refine ⟨⟨fun s c f hc hd hty => ?choice, fun s c f hc hv hty => ?choiceImm⟩,
    fun s c f hc hd hty h0 => ?logic, fun s c f hc hv hty h0 => ?logicImm⟩
  case choice =>
    have ht : ∀ {uc : Bool}, f.mod = 0 → ({ c := uc } : V3Row).takes f.ty f.mod := V3Row.takes_zero (tyVector_of_le hty)
    refine ⟨fun hv => ⟨fun h0 => ⟨?min, ?max⟩, fun h1 h2 => ?cmp⟩, fun hv hm => ?abs, fun hv h0 => ?sel⟩
    case min => exact lanewise_each2 (exec_vmin f s) hc hv rfl hd (ht h0) fun _ _ _ _ => minmaxE_eq ..
    case max => exact lanewise_each2 (exec_vmax f s) hc hv rfl hd (ht h0) fun _ _ _ _ => minmaxE_eq ..
    case cmp => exact lanewise_each2 (g' := compareMask f.ty _) (exec_vcmp f s) hc hv rfl hd (takes_cond ⟨h1, h2⟩ hty) fun _ _ _ _ => cmpE_eq ⟨h1, h2⟩ ..
    case abs =>
      have hsat : f.mod.toNat / 2 % 2 = 1 → tyInt f.ty = true := fun h => by
        obtain h0 | ⟨-, hi⟩ := hm
        · simp [h0] at h
        · exact tyInt_of_not_float hty hi
      have ht : ({ b := false, sat := tyInt } : V3Row).takes f.ty f.mod := by
        refine V3Row.takes_of (tyVector_of_le hty) rfl (fun _ => ?_) (fun h => ?_) hsat
        · obtain h0 | ⟨h2, -⟩ := hm <;> simp [*]
        · obtain h0 | ⟨h2, -⟩ := hm <;> simp [*] at h
      exact lanewise_each1 (exec_vabs f s) hc hv rfl hd ht fun _ _ _ _ => absE_eq ..
    case sel => exact lanewise_vec3 (exec_vsel f s) hc hv rfl hd (ht h0) fun _ => emap_eq_each3 ..
  case choiceImm =>
    refine ⟨fun h0 => ⟨?min, ?max⟩, fun h1 h2 => ?cmp⟩
    case min => exact lanewiseImm_each2 (exec_vminFVi f s) hc hv nofun (V3Row.takes_zero (tyVector_of_le hty) h0) fun _ _ _ _ => minmaxE_eq ..
    case max => exact lanewiseImm_each2 (exec_vmaxFVi f s) hc hv nofun (V3Row.takes_zero (tyVector_of_le hty) h0) fun _ _ _ _ => minmaxE_eq ..
    case cmp => exact lanewiseImm_each2 (g' := compareMask f.ty _) (exec_vcmpFVi f s) hc hv nofun (takes_cond ⟨h1, h2⟩ hty) fun _ _ _ _ => cmpE_eq ⟨h1, h2⟩ ..
  case logic =>
    have ht : ∀ {ub : Bool}, ({ b := ub } : V3Row).takes f.ty f.mod := V3Row.takes_zero (tyVector_of_le hty) h0
    have hint : tyFloat f.ty = false → ({ ty := tyInt } : V3Row).takes f.ty f.mod := fun hi => V3Row.takes_zero (tyInt_of_not_float hty hi) h0
    refine ⟨fun hv => ⟨?and, ?or, ?xor, fun hi => ⟨?shl, ?shr, ?sar⟩⟩, fun hv => ⟨?not, ?mov⟩,
      fun h1 hev hd1 hsel hv => vbcast_acts hc hd1 hev h1 h0 hsel hv, fun h1 hv => vlane_lanewise hc hd h1 h0 hv⟩
    case shl => exact lanewise_each2 (exec_vshl f s) hc hv rfl hd (hint hi) fun _ _ _ _ => shiftE_left ..
    case shr => exact lanewise_each2 (exec_vshr f s) hc hv rfl hd (hint hi) fun _ _ _ hx => shiftE_right hx ..
    case sar => exact lanewise_each2 (exec_vsar f s) hc hv rfl hd (hint hi) fun _ _ _ hx => shiftE_arith hx ..
    case and => exact lanewise_vec3 (exec_vand f s) hc hv rfl hd ht fun _ => rfl
    case or => exact lanewise_vec3 (exec_vor f s) hc hv rfl hd ht fun _ => rfl
    case xor => exact lanewise_vec3 (exec_vxor f s) hc hv rfl hd ht fun _ => rfl
    case not => exact lanewise_vec3 (exec_vnot f s) hc hv rfl hd ht fun _ => rfl
    case mov => exact lanewise_vec3 (exec_vmov f s) hc hv rfl hd ht fun _ => rfl
  case logicImm =>
    have ht : ∀ {ua : Bool}, ({ a := ua } : V3Row).takes f.ty f.mod := V3Row.takes_zero (tyVector_of_le hty) h0
    have hint : tyFloat f.ty = false → ({ ty := tyInt } : V3Row).takes f.ty f.mod := fun hi => V3Row.takes_zero (tyInt_of_not_float hty hi) h0
    refine ⟨?and, ?or, ?xor, fun hi => ⟨?shl, ?shr, ?sar⟩, fun ha => lanewiseImm_vecI (exec_vmovFVi f s) hc hv (fun _ => ha) ht fun _ => rfl⟩
    case shl => exact lanewiseImm_each2 (exec_vshlFVi f s) hc hv nofun (hint hi) fun _ _ _ _ => shiftE_left ..
    case shr => exact lanewiseImm_each2 (exec_vshrFVi f s) hc hv nofun (hint hi) fun _ _ _ hx => shiftE_right hx ..
    case sar => exact lanewiseImm_each2 (exec_vsarFVi f s) hc hv nofun (hint hi) fun _ _ _ hx => shiftE_arith hx ..
    case and => exact lanewiseImm_vecI (exec_vandFVi f s) hc hv nofun ht fun _ => rfl
    case or => exact lanewiseImm_vecI (exec_vorFVi f s) hc hv nofun ht fun _ => rfl
    case xor => exact lanewiseImm_vecI (exec_vxorFVi f s) hc hv nofun ht fun _ => rfl

end Sys2Proof.Machine
end

section
/-!
PROOFS. O20: what the elements of a lane are as numbers, then each operation of R179 to R183 and R187 on them in the words of the
claim, then the rows.
-/
namespace Sys2Proof.Machine
open Sys2Proof.Safety

section Exec
variable (f : FV3) (s : State)

theorem exec_vrcp : exec (.vrcp f) s = vecFun f 14 (fun D rm a => D.fun1 .rcp rm a) s := rfl
theorem exec_vrsq : exec (.vrsq f) s = vecFun f 14 (fun D rm a => D.fun1 .rsq rm a) s := rfl
theorem exec_vsqrt : exec (.vsqrt f) s = vecFun f 14 (fun D rm a => D.fun1 .sqrt rm a) s := rfl
theorem exec_vexp2 : exec (.vexp2 f) s = vecFun f 14 (fun D rm a => D.fun1 .exp2 rm a) s := rfl
theorem exec_vlog2 : exec (.vlog2 f) s = vecFun f 14 (fun D rm a => D.fun1 .log2 rm a) s := rfl
theorem exec_vsin : exec (.vsin f) s = vecFun f 14 (fun D rm a => D.fun1 .sin rm a) s := rfl
theorem exec_vcos : exec (.vcos f) s = vecFun f 14 (fun D rm a => D.fun1 .cos rm a) s := rfl
theorem exec_vfract : exec (.vfract f) s = vecFun f 6 (fun D rm a => D.ffract rm a) s := rfl
theorem exec_vround : exec (.vround f) s = vecFun f 6 (fun D rm a => D.fround rm a) s := rfl
theorem exec_vpopc : exec (.vpopc f) s = execVpopc f s := rfl
theorem exec_vclz : exec (.vclz f) s = execVclz f s := rfl
theorem exec_vbfe : exec (.vbfe f) s = execVbfe f s := rfl
theorem exec_vbfi : exec (.vbfi f) s = execVbfi f s := rfl
theorem exec_vunpk : exec (.vunpk f) s = execVunpk f s := rfl
theorem exec_vpack : exec (.vpack f) s = execVpack f s := rfl
theorem exec_vdot : exec (.vdot f) s = execVdot f s := rfl
theorem exec_vlut : exec (.vlut f) s = execVlut f s := rfl
theorem exec_vcvt : exec (.vcvt f) s = execVcvt f s := rfl

end Exec

/-! ## Functions of one float operand (R183, R184) -/

theorem lanewise_vecFun {i : Instr} {s : State} {c : Iss} {f : FV3} {lat : Nat} {g : Fmt → RM → Nat → Nat} (he : exec i s = vecFun f lat g s)
    (h : ready s c) (hv : vectorOk c f true false false) (hd : f.vd.toNat < c.ag.nv) (hflt : tyFloat f.ty = true) (hm : f.mod.toNat % 4 = 0) :
    lanewise s c f i lat fun l =>
      each2 f.ty (fun x _ => g (tyFmt f.ty) (RM.ofBits (f.mod.toNat / 4)) x) (laneA c f l) (laneA c f l) := by
  have ht : ({ b := false, ty := tyFloat, rm := tyFloat } : V3Row).takes f.ty f.mod :=
    V3Row.takes_of hflt rfl (fun _ => by omega) (fun _ => hflt) fun h => by omega
  exact lanewise_each1 he h hv rfl hd ht fun _ _ _ _ => rfl

/-! ## Counts (R179) -/

theorem popN_eq_count (x n : Nat) : popN x n = ((List.range n).filter fun k => x / 2 ^ k % 2 = 1).length := by
  induction n with
  | zero => rfl
  | succ n ih =>
    rw [popN, ih, List.range_succ, List.filter_append, List.length_append, Nat.add_comm]
    obtain h | h := Nat.mod_two_eq_zero_or_one (x / 2 ^ n) <;> simp [h]

theorem clzN_eq_clzFrom {w x : Nat} (hx : x < 2 ^ w) (n : Nat) : clzN x n = clzFrom (BitVec.ofNat w x) n := by
  induction n with
  | zero => rfl
  | succ n ih => simp only [clzN, clzFrom, getLsbD_eq_div, BitVec.toNat_ofNat, Nat.mod_eq_of_lt hx, ih, decide_eq_true_eq]

/-- k leading zeros of an n-bit number. -/
def leadingZeros (n x k : Nat) : Prop := k ≤ n ∧ x < 2 ^ (n - k) ∧ (k < n → 2 ^ (n - k - 1) ≤ x)

theorem leadingZeros_le {n x j k : Nat} (hj : leadingZeros n x j) (hk : leadingZeros n x k) : j ≤ k := by
  obtain ⟨hjn, hjx, -⟩ := hj
  obtain ⟨-, -, hkx⟩ := hk
  by_contra h
  have := (Nat.pow_lt_pow_iff_right (by decide)).mp (Nat.lt_of_le_of_lt (hkx (by omega)) hjx)
  omega

theorem leadingZeros_clzN {n x : Nat} (hx : x < 2 ^ n) : leadingZeros n x (clzN x n) := by
  have hm : (BitVec.ofNat n x).toNat % 2 ^ n = x := by rw [BitVec.toNat_mod_cancel, BitVec.toNat_ofNat, Nat.mod_eq_of_lt hx]
  rw [clzN_eq_clzFrom hx]
  refine ⟨clzFrom_le _ n, ?_, fun h => ?_⟩
  · simpa only [hm] using mod_lt_of_clzFrom (BitVec.ofNat n x) n
  · simpa only [hm] using le_mod_of_clzFrom (BitVec.ofNat n x) n h

/-! ## Elements as numbers (R49) -/

theorem fldN_eq {w : Nat} (x : BitVec w) (lo n : Nat) : fldN x lo n = x.toNat / 2 ^ lo % 2 ^ n := by rw [fldN, Nat.shiftRight_eq_div_pow]

theorem fldN_word (x : Word) : fldN x 0 32 = x.toNat := by rw [fldN_eq, pow_zero, Nat.div_one, BitVec.toNat_mod_cancel]

theorem sx_eq {n : Nat} (x : Nat) : sx n x = if 2 ^ (n - 1) ≤ x then (x : Int) - 2 ^ n else x := by
  unfold sx
  split <;> split <;> omega

/-- Field k of n bits under a signedness. -/
def signedFld (sgn : Bool) (x : Word) (k n : Nat) : Int :=
  if sgn ∧ 2 ^ (n - 1) ≤ x.toNat / 2 ^ (k * n) % 2 ^ n then (x.toNat / 2 ^ (k * n) % 2 ^ n : Int) - 2 ^ n
  else (x.toNat / 2 ^ (k * n) % 2 ^ n : Int)

theorem elemVal_fldN (ty : BitVec 4) (x : Word) (k : Nat) :
    elemVal ty (fldN x (k * elemBits ty) (elemBits ty)) = signedFld (elemSgn ty) x k (elemBits ty) := by
  rw [elemVal, signedFld, fldN_eq, sx_eq]
  cases elemSgn ty <;> simp

theorem elems_getD (ty : BitVec 4) (x : Word) {k : Nat} (hk : k < 32 / elemBits ty) :
    ((elems ty x).map (elemVal ty)).getD k 0 = signedFld (elemSgn ty) x k (elemBits ty) := by
  rw [← elemVal_fldN]
  simp [elems, hk]

theorem wrapN_lt (n : Nat) (x : Int) : wrapN n x < 2 ^ n := by
  have := Int.emod_lt_of_pos x (b := 2 ^ n) (by positivity)
  have := Int.emod_nonneg x (b := 2 ^ n) (by positivity)
  rw [wrapN]
  zify; omega

theorem fit_lt (ty mod : BitVec 4) (x : Int) : fit ty mod x < 2 ^ elemBits ty := by
  rw [← intRes_eq_fit, intRes]
  split
  · exact wrapN_lt ..
  · exact wrapN_lt ..

theorem natCast_wrapN (n : Nat) (x : Int) : (wrapN n x : Int) = x % 2 ^ n := Int.toNat_of_nonneg (Int.emod_nonneg x (by positivity))

/-- The integer types of 8 and 16 bits. -/
theorem packedTypes {ty : BitVec 4} (h5 : 5 ≤ ty.toNat) (h8 : ty.toNat ≤ 8) :
    tyPacked ty = true ∧ tyFloat ty = false ∧ elemBits (tyWide ty) = 2 * elemBits ty ∧ elemSgn (tyWide ty) = elemSgn ty
      ∧ (elemBits ty = 16 ∨ elemBits ty = 8) := by
  have h : ty = 5 ∨ ty = 6 ∨ ty = 7 ∨ ty = 8 := by bv_omega
  rcases h with rfl | rfl | rfl | rfl <;> decide

/-! ## Packing (R180) -/

theorem ofElems_two {ty : BitVec 4} (h : elemBits ty = 16) {x y : Nat} (hx : x < 2 ^ 16) (hy : y < 2 ^ 16) :
    ofElems ty [x, y] = BitVec.ofNat 32 (x + y * 2 ^ 16) := by
  simp only [ofElems, List.foldr, h, Nat.mod_eq_of_lt hx, Nat.mod_eq_of_lt hy]
  congr 1
  omega

theorem ofElems_four {ty : BitVec 4} (h : elemBits ty = 8) {x y z w : Nat} (hx : x < 2 ^ 8) (hy : y < 2 ^ 8) (hz : z < 2 ^ 8) (hw : w < 2 ^ 8) :
    ofElems ty [x, y, z, w] = BitVec.ofNat 32 (x + y * 2 ^ 8 + z * 2 ^ 16 + w * 2 ^ 24) := by
  simp only [ofElems, List.foldr, h, Nat.mod_eq_of_lt hx, Nat.mod_eq_of_lt hy, Nat.mod_eq_of_lt hz, Nat.mod_eq_of_lt hw]
  congr 1
  omega

theorem unpk_eq {ty : BitVec 4} (hn : elemBits ty = 16 ∨ elemBits ty = 8) {h : Nat} (hh : h ≤ 1) (a : Word) : unpk ty h a =
    if elemBits ty = 16 then BitVec.ofInt 32 (signedFld (elemSgn ty) a h 16)
    else BitVec.ofInt 32 (signedFld (elemSgn ty) a (2 * h) 8 % 2 ^ 16 + signedFld (elemSgn ty) a (2 * h + 1) 8 % 2 ^ 16 * 2 ^ 16) := by
  have hget : ∀ k, k < 32 / elemBits ty → _ := fun k hk => elems_getD ty a hk
  obtain h16 | h8 := hn
  · rw [unpk, if_neg (by omega), if_pos h16, hget h (by rw [h16]; omega), h16]
  · rw [unpk, if_pos h8, if_neg (by omega), hget (2 * h) (by rw [h8]; omega), hget (2 * h + 1) (by rw [h8]; omega), h8,
      ofElems_two rfl (wrapN_lt ..) (wrapN_lt ..),
      ← BitVec.ofInt_natCast]
    push_cast [natCast_wrapN]
    rfl

theorem pack_eq {ty : BitVec 4} (h5 : 5 ≤ ty.toNat) (h8 : ty.toNat ≤ 8) (mod : BitVec 4) (a b : Word) : pack ty mod a b =
    (let e := fun (x : Word) k => fit ty mod (signedFld (elemSgn ty) x k (2 * elemBits ty))
     if elemBits ty = 16 then BitVec.ofNat 32 (e a 0 + e b 0 * 2 ^ 16)
     else BitVec.ofNat 32 (e a 0 + e a 1 * 2 ^ 8 + e b 0 * 2 ^ 16 + e b 1 * 2 ^ 24)) := by
  obtain ⟨-, -, hw, hs, hn⟩ := packedTypes h5 h8
  have hes : ∀ x : Word, ((elems (tyWide ty) x).map fun y => intRes ty mod (elemVal (tyWide ty) y))
      = (List.range (32 / (2 * elemBits ty))).map fun k => fit ty mod (signedFld (elemSgn ty) x k (2 * elemBits ty)) := fun x => by
    simp only [elems, List.map_map, ← hw, ← hs, ← elemVal_fldN, ← intRes_eq_fit]
    rfl
  simp only [pack, hes]
  have hlt := fit_lt ty mod
  obtain hn | hn := hn
  · simp only [hn] at hlt
    simp only [hn, if_true]
    exact ofElems_two hn (hlt _) (hlt _)
  · simp only [hn] at hlt
    simp only [hn]
    exact ofElems_four hn (hlt _) (hlt _) (hlt _) (hlt _)

/-! ## Dot products and tables (R181, R182) -/

theorem dotI_eq (ty mod : BitVec 4) (a b z : Word) : dotI ty mod a b z =
    (let n := elemBits ty
     let t : BitVec 4 := if elemSgn ty then 0 else 1
     let x := (((List.range (32 / n)).map fun k => signedFld (elemSgn ty) a k n * signedFld (elemSgn ty) b k n).sum)
       + (if elemSgn ty then z.toInt else z.toNat)
     BitVec.ofNat 32 (fit t mod x)) := by
  have hz : elemVal (if elemSgn ty then 0 else 1) z.toNat = if elemSgn ty then z.toInt else z.toNat := by
    cases elemSgn ty
    · rfl
    · have := z.isLt
      rw [if_pos rfl, if_pos rfl, BitVec.toInt_eq_toNat_cond]
      change sx 32 z.toNat = _
      rw [sx]
      push_cast
      split <;> split <;> omega
  simp only [dotI, hz, intRes_eq_fit, elems, List.zip_map', List.map_map, ← elemVal_fldN]
  rfl

theorem lut_eq {ty : BitVec 4} (h : ty = 8 ∨ ty = 6) (t : Nat) (a : Word) : lut ty t a =
    each2 ty (fun x _ => t / 2 ^ (elemBits ty * (x % (128 / elemBits ty))) % 2 ^ elemBits ty) a a := by
  obtain rfl | rfl := h <;> simp only [lut, each2, elems, natFld, Nat.shiftRight_eq_div_pow, List.map_map] <;> rfl

theorem vlut_lanewise {s : State} {c : Iss} {f : FV3} (hc : ready s c) (hd : f.vd.toNat < c.ag.nv) (hty : f.ty = 8 ∨ f.ty = 6)
    (hmod : f.mod = 0) (hb : f.sel.getLsbD 1 = true) (hev : f.vb.toNat % 2 = 0) (hhi : f.sel.getLsbD 3 = false)
    (hv : vectorOk c f true true false) :
    let n := elemBits f.ty
    let t := (c.ag.sr f.vb.toNat).toNat + 2 ^ 64 * (c.ag.sr (f.vb.toNat + 1)).toNat
    lanewise s c f (.vlut f) 8 fun l => each2 f.ty (fun x _ => t / 2 ^ (n * (x % (128 / n))) % 2 ^ n) (laneA c f l) (laneA c f l) := by
  obtain ⟨hk, ha, h1, h2, ⟨hs3, h3⟩, -⟩ := hv
  have h128 : f.vb.toNat < 128 := scalar_sourceOk h2 hb
  have heven : f.vb.getLsbD 0 = false := by rw [getLsbD_eq_div, pow_zero, Nat.div_one, hev]; rfl
  intro n t
  have hw := acts_vectorWrites (d := f.vd.toNat) (g := fun l => lut f.ty t (laneA c f l)) (exec_vlut f s) nofun hc ?legal ?body
  case legal =>
    refine fate_group hk rfl ⟨rfl, rfl⟩ ha ?_ ?_ ?_
    · have hr : srcRsv true (FV3.selA f) f.va = false := srcRsv_sourceOk h1
      have hz : FV3.selC f = false ∧ FV3.hi f = false := ⟨hs3, hhi⟩
      simp [hr, hz, h3, hmod, h128]
    · have hz : FV3.selB f = true := hb
      have ht : (decide (f.ty = 8) || decide (f.ty = 6)) = true := by simpa using hty
      simp only [hz, heven, ht]
      rfl
    · exact List.forall_mem_append.mpr ⟨by simpa using hd, vreg_usedSource h1⟩
  case body =>
    simp only [Nat.mod_eq_of_lt h128]
    rfl
  simp only [lut_eq hty] at hw
  exact hw

/-! ## Conversions (R187) -/

/-- MOD holds what the conversion uses: RM, SAT and XOP where its row has them, and no rounding mode beside XOP. -/
def cvModOk (f : FV3) : Prop :=
  ((cvRow f.vb.toNat).rm = false → f.mod.toNat < 4) ∧ ((cvRow f.vb.toNat).ps = false → f.mod.toNat % 4 = 0)
    ∧ (f.mod.toNat % 2 = 1 → f.mod.toNat < 4)

/-- The rnd of a lane's elements where XOP asks for them. -/
def cvRnd (f : FV3) (c : Iss) (l e : Nat) : Option Nat := if modXop f.mod then some (srRnd (srNext c.ag.srx) l e) else none

theorem vcvt_acts {s : State} {c : Iss} {f : FV3} (hc : ready s c) (hd : f.vd.toNat < c.ag.nv) (hty : f.ty = 0) (hvb : f.vb.toNat < 23)
    (hsel : f.sel.getLsbD 1 = false) (hm : cvModOk f) (hv : vectorOk c { f with vb := 0 } true false (cvRow f.vb.toNat).c)
    (hpure : f.mod.toNat % 2 = 1 → c.ag.pure = false) :
    acts (.vcvt f) s c (extraPass (twoPasses c f.all))
      { (vectorDone s c f.all (vectorWrites s c f.all f.vd.toNat 6 fun l =>
          cvLane f.vb.toNat (RM.ofBits (f.mod.toNat / 4)) (modSat f.mod) (cvRnd f c l) (laneA c f l) (laneC c f l)) f.stl) with
        srx := if modXop f.mod then srNext c.ag.srx else c.ag.srx } := by
  obtain ⟨hk, ha, h1, -, h3, hi⟩ := hv
  obtain ⟨hrm, hps, hx⟩ := hm
  have h64 : f.vb.toNat % 64 = f.vb.toNat := Nat.mod_eq_of_lt (by omega)
  have h23 : decide (23 ≤ f.vb.toNat) = false := decide_eq_false (by omega)
  have hw := acts_laneWrites (stl := f.stl) (srx := if modXop f.mod then some (srNext c.ag.srx) else none)
    (ws := [(f.vd.toNat, laneVals (c.active f.all) fun l =>
      cvLane f.vb.toNat (RM.ofBits (f.mod.toNat / 4)) (modSat f.mod) (cvRnd f c l) (laneA c f l) (laneC c f l))])
    (exec_vcvt f s) nofun hc ?legal ?body
  case legal =>
    have huse : ((cvRow f.vb.toNat).c || decide (23 ≤ f.vb.toNat)) = (cvRow f.vb.toNat).c := by rw [h23, Bool.or_false]
    refine fate_group hk rfl ⟨rfl, rfl⟩ ha ?_ ?_ ?_
    · have hr1 : srcRsv true (FV3.selA f) f.va = false := srcRsv_sourceOk h1
      have hr3 : srcRsv (cvRow f.vb.toNat).c (FV3.selC f) f.vc = false := srcRsv_sourceOk h3
      have hsel' : FV3.selB f = false := hsel
      have hhi : (FV3.hi f && !(FV3.selA f || ((cvRow f.vb.toNat).c && FV3.selC f))) = false := by
        have hc3 : ((cvRow f.vb.toNat).c && FV3.selC f) = FV3.selC f := and_sel h3
        have := hi_reserved hi
        rw [show f.sel.getLsbD 1 = false from hsel, Bool.or_false] at this
        rwa [hc3]
      have h64' : decide (64 ≤ f.vb.toNat) = false := decide_eq_false (by omega)
      simp only [h64, huse, hr1, hr3, hsel', hhi, h64', hty]
      rfl
    · have e1 : (decide (modRM f.mod ≠ 0) && !(cvRow f.vb.toNat).rm) = false := by
        cases h : (cvRow f.vb.toNat).rm
        · have := hrm h
          simp [modRM]; omega
        · simp
      have e2 : (modSat f.mod && !(cvRow f.vb.toNat).ps) = false ∧ (modXop f.mod && !(cvRow f.vb.toNat).ps) = false := by
        rw [modSat_eq, modXop_eq]
        cases h : (cvRow f.vb.toNat).ps
        · have := hps h
          simp; omega
        · simp
      have e3 : (modXop f.mod && decide (modRM f.mod ≠ 0)) = false := by
        rw [modXop_eq]
        by_cases h : f.mod.toNat % 2 = 1
        · have := hx h
          simp [modRM]; omega
        · simp [h]
      simp only [h64, h23, e1, e2.1, e2.2, e3]
      rfl
    · simp only [h64, huse, List.forall_mem_append]
      exact ⟨⟨by simpa using hd, vreg_usedSource h1⟩, vreg_sourceOk h3⟩
  case body =>
    have hp : (modXop f.mod && c.ag.pure) = false := by
      rw [modXop_eq]
      by_cases h : f.mod.toNat % 2 = 1
      · simp [hpure h]
      · simp [h]
    simp only [hp, h64]
    rfl
  rw [List.flatMap_singleton, laneWrites_laneVals] at hw
  cases h : modXop f.mod <;> simpa [h] using hw

/-- Settles O20: the functions, then each other row by what its operation is on the elements. -/
theorem vectorFunctionsBitsPacking : Obligations.VectorFunctionsBitsPacking := by
  unfold Obligations.VectorFunctionsBitsPacking
  refine ⟨fun s c f hc hd hflt hm hv => ?functions, fun s c f hc hd hty => ?rows⟩
  case functions =>
    have fn : ∀ {i lat g}, exec i s = vecFun f lat g s → _ := fun he => lanewise_vecFun he hc hv hd hflt hm
    exact ⟨(fn (exec_vrcp f s) :), (fn (exec_vrsq f s) :), (fn (exec_vsqrt f s) :), (fn (exec_vexp2 f s) :), (fn (exec_vlog2 f s) :),
      (fn (exec_vsin f s) :), (fn (exec_vcos f s) :), (fn (exec_vfract f s) :), (fn (exec_vround f s) :)⟩
  case rows =>
    refine ⟨fun h0 hi hv => ⟨?popc, fun clz hclz => ?clz⟩, fun h0 h1 hv => ?bfe, fun h0 h1 hv => ?bfi, fun h5 hm hv => ?unpk,
      fun h5 hm hv => ?pack, fun h5 hm hv => ?dotInt, fun h86 h0 hb hev hhi hv => ?lut,
      fun hflt h2 hm hv => ?dotFloat, fun h0 hvb hsel hrm hps hv => ⟨fun hx => ?cvt, fun hx hm hp => ?cvtStochastic⟩⟩
    case popc =>
      exact (lanewise_each1 (exec_vpopc f s) hc hv rfl hd (V3Row.takes_zero (tyInt_of_not_float hty hi) h0) fun _ _ _ _ => popN_eq_count .. :)
    case clz =>
      refine lanewise_each1 (exec_vclz f s) hc hv rfl hd (V3Row.takes_zero (tyInt_of_not_float hty hi) h0) fun x _ _ hx => ?_
      exact Nat.le_antisymm (leadingZeros_le (leadingZeros_clzN hx) (hclz x hx)) (leadingZeros_le (hclz x hx) (leadingZeros_clzN hx))
    case bfe =>
      refine lanewise_vec3 (exec_vbfe f s) hc hv rfl hd (V3Row.takes_zero (ty01_of_le h1) h0) fun l => ?_
      rw [sbfeOp_eq]
      simp only [decide_eq_true_eq]
      rfl
    case bfi =>
      refine lanewise_vec3 (exec_vbfi f s) hc hv rfl hd (V3Row.takes_zero (ty01_of_le h1) h0) fun l => ?_
      rw [sbfiOp_eq, BitVec.ofInt_natCast]
      rfl
    case unpk =>
      obtain ⟨hp, -, -, -, hn⟩ := packedTypes h5 hty
      have ht : ({ b := false, ty := tyPacked, xop := true } : V3Row).takes f.ty f.mod :=
        V3Row.takes_of hp rfl nofun (fun _ => by omega) (fun _ => by omega)
      have hh : (if modXop f.mod then 1 else 0) = f.mod.toNat := by
        rw [modXop_eq]
        simp only [decide_eq_true_eq]
        split <;> omega
      refine lanewise_vec3 (exec_vunpk f s) hc hv rfl hd ht fun l => ?_
      rw [hh]
      exact unpk_eq hn hm _
    case pack =>
      obtain ⟨hp, -, -, -, -⟩ := packedTypes h5 hty
      have hm : f.mod.toNat = 0 ∨ f.mod.toNat = 2 := hm.imp (congrArg BitVec.toNat) (congrArg BitVec.toNat)
      have ht : ({ ty := tyPacked, sat := tyPacked } : V3Row).takes f.ty f.mod :=
        V3Row.takes_of hp rfl (fun _ => by omega) (fun _ => by omega) fun _ => hp
      exact lanewise_vec3 (exec_vpack f s) hc hv rfl hd ht fun l => pack_eq h5 hty ..
    case dotInt =>
      obtain ⟨hp, hf, -, -, -⟩ := packedTypes h5 hty
      have hm : f.mod.toNat = 0 ∨ f.mod.toNat = 2 := hm.imp (congrArg BitVec.toNat) (congrArg BitVec.toNat)
      have ht : ({ c := true, ty := fun t => tyPacked t || t = 3 || t = 4, rm := tyFloat, sat := tyPacked } : V3Row).takes f.ty f.mod :=
        V3Row.takes_of (by simp [hp]) rfl (fun _ => by omega) (fun _ => by omega) fun _ => hp
      have he := exec_vdot f s
      rw [execVdot, latOf_of_int hf] at he
      refine lanewise_vec3 he hc hv rfl hd ht fun l => ?_
      rw [hf]
      exact dotI_eq ..
    case lut => exact vlut_lanewise hc hd h86 h0 hb hev hhi hv
    case dotFloat =>
      have h34 : f.ty = 3 ∨ f.ty = 4 := by
        simp only [tyFloat, Bool.or_eq_true, decide_eq_true_eq] at hflt
        tauto
      have hel : ∀ x, elems f.ty x = [fldN x 0 16, fldN x 16 16] := fun x => by obtain h | h := h34 <;> rw [h] <;> rfl
      have ht : ({ c := true, ty := fun t => tyPacked t || t = 3 || t = 4, rm := tyFloat, sat := tyPacked } : V3Row).takes f.ty f.mod :=
        V3Row.takes_of (by simpa [or_assoc] using Or.inr h34) rfl (fun _ => by omega) (fun _ => hflt) (fun _ => by omega)
      have he := exec_vdot f s
      rw [execVdot, latOf_of_float hflt] at he
      refine lanewise_vec3 he hc hv rfl hd ht fun l => ?_
      rw [if_pos hflt, hel, hel]
      rfl
    case cvt =>
      have hw := vcvt_acts hc hd h0 hvb hsel ⟨hrm, hps, by omega⟩ hv (by omega)
      have hxop : modXop f.mod = false := by simp [modXop_eq, hx]
      have hrnd : cvRnd f c = fun _ _ => none := by
        funext l e
        rw [cvRnd, hxop]
        rfl
      simp only [hrnd, hxop, modSat_eq] at hw
      exact hw
    case cvtStochastic =>
      have hw := vcvt_acts hc hd h0 hvb hsel ⟨hrm, hps, fun _ => hm⟩ hv (fun _ => hp)
      have hxop : modXop f.mod = true := by simp [modXop_eq, hx]
      have hrnd : cvRnd f c = fun l e => some (srRnd (srNext c.ag.srx) l e) := by
        funext l e
        rw [cvRnd, if_pos hxop]
      simp only [hrnd, hxop, modSat_eq] at hw
      exact hw

end Sys2Proof.Machine
end

section
/-!
PROOFS. O21: the lanes of a mask, what a cross-lane instruction writes to a scalar register, its legal words (R194, R195), the
shuffles and masks, and the combination of R198 as a fold over the active lanes.
-/
namespace Sys2Proof.Machine
open Sys2Proof.Safety

section Exec
variable (f : FV3) (s : State)

theorem exec_vshuf : exec (.vshuf f) s = execVshuf f s := rfl
theorem exec_vshfu : exec (.vshfu f) s = execVshfu f s := rfl
theorem exec_vshfd : exec (.vshfd f) s = execVshfd f s := rfl
theorem exec_vxsw : exec (.vxsw f) s = execVxsw f s := rfl
theorem exec_vbal : exec (.vbal f) s = execVbal f s := rfl
theorem exec_vmatch : exec (.vmatch f) s = execVmatch f s := rfl
theorem exec_vredu : exec (.vredu f) s = execVredu f s := rfl
theorem exec_vscan : exec (.vscan f) s = execVscan f s := rfl
theorem exec_vrdln : exec (.vrdln f) s = execVrdln f s := rfl
theorem exec_vwrln : exec (.vwrln f) s = execVwrln f s := rfl

end Exec

/-! ## Lanes of a mask -/

theorem getLsbD_laneBit (l : Nat) {i : Nat} (hi : i < 64) : (laneBit l).getLsbD i = decide (l = i) := by
  rw [laneBit, BitVec.getLsbD_ofNat, Nat.testBit_two_pow]
  simp [hi]

theorem getLsbD_foldl_laneBit (ls : List Nat) (m : Dword) {i : Nat} (hi : i < 64) :
    (ls.foldl (fun m l => m ||| laneBit l) m).getLsbD i = (m.getLsbD i || decide (i ∈ ls)) := by
  induction ls generalizing m with
  | nil => simp
  | cons l ls ih => rw [List.foldl_cons, ih, BitVec.getLsbD_or, getLsbD_laneBit l hi, Bool.or_assoc]; simp [eq_comm]

theorem getLsbD_maskOf (ls : List Nat) {i : Nat} (hi : i < 64) : (maskOf ls).getLsbD i = decide (i ∈ ls) := by
  rw [maskOf, getLsbD_foldl_laneBit ls 0 hi]
  simp

theorem mem_lanesOf {m : Dword} {l : Nat} : l ∈ lanesOf m ↔ l < 64 ∧ m.getLsbD l = true := by
  rw [lanesOf, List.mem_filter, List.mem_range]

/-- A mask is determined by its lanes. -/
theorem eq_maskOf_filter {m act : Dword} {p : Nat → Bool} (h : ∀ l, l < 64 → (m.getLsbD l = true ↔ l ∈ lanesOf act ∧ p l = true)) :
    m = maskOf ((lanesOf act).filter p) := by
  refine BitVec.eq_of_getLsbD_eq fun i hi => ?_
  rw [getLsbD_maskOf _ hi, Bool.eq_iff_iff, h i hi]
  simp

theorem lanesOf_pairwise (m : Dword) : (lanesOf m).Pairwise (· < ·) := List.Pairwise.filter _ List.pairwise_lt_range

theorem lanesOf_and_laneBit (m : Dword) {n : Nat} (hn : n < 64) : lanesOf (m &&& laneBit n) = if n ∈ lanesOf m then [n] else [] := by
  have hbit : ∀ l ∈ List.range 64, (m &&& laneBit n).getLsbD l = (decide (l = n) && m.getLsbD n) := fun l hl => by
    rw [BitVec.getLsbD_and, getLsbD_laneBit n (List.mem_range.mp hl)]
    by_cases h : n = l
    · simp [h]
    · simp [h, Ne.symm h]
  have hmem : n ∈ lanesOf m ↔ m.getLsbD n = true := by rw [mem_lanesOf]; exact and_iff_right hn
  rw [lanesOf, List.filter_congr hbit]
  cases h : m.getLsbD n
  · simp [hmem, h]
  · simp only [hmem, h, Bool.and_true, if_true]
    rw [List.filter_eq, List.count_eq_one_of_mem List.nodup_range (List.mem_range.mpr hn)]
    rfl

/-! ## Scalar results (R28, R197) -/

/-- The agent after a vector instruction with one scalar result on its way. -/
def scalarDone (s : State) (c : Iss) (f : FV3) (lat : Nat) (x : Dword) : Agent :=
  { c.ag with
    pend := [{ fid := c.fid, dst := .s f.vd.toNat, vals := [(0, x)], ready := s.clk + extraPass (twoPasses c f.all) + lat }]
    frags := KMap.put c.ag.frags c.fid (c.fr.adv (s.clk + extraPass (twoPasses c f.all) + 1 + f.stl.toNat)) }

theorem acts_scalarDone {i : Instr} {s : State} {c : Iss} {f : FV3} {lg : Legal} {foot : Iss → Foot} {lat : Nat}
    {body : State → Iss → Except Flt Fx} {x : Dword} (he : exec i s = issueLocal s lg foot .cross f.stl.toNat lat body) (h : ready s c)
    (hl : lg.fate c = none) (hall : lg.all = f.all) (hd : f.vd.toNat < 128)
    (hb : body { s with slots := pipe s c (extraPass (passesOf .cross c lg.all)) } c = .ok { writes := [(.s (f.vd.toNat % 128), [(0, x)])] }) :
    acts i s c (extraPass (twoPasses c f.all)) (scalarDone s c f lat x) := by
  have hx := acts_local he h hl hb
  have hp : passesOf .cross c lg.all = twoPasses c f.all := by rw [hall]; rfl
  rw [hp, Nat.mod_eq_of_lt hd] at hx
  have hcommit : c.ag.commit c.fid c.fr (twoPasses c f.all) s.clk f.stl.toNat lat { writes := [(.s f.vd.toNat, [(0, x)])] } = scalarDone s c f lat x := by
    simp only [Agent.commit, markWrites_settled h.2.1, h.2.1.1, List.nil_append]
    rfl
  rwa [hcommit] at hx

/-! ## Legal words (R194, R195) -/

theorem selects_of_ne {sel : BitVec 4} (h : sel.toNat % 8 ≠ 0) : sel.getLsbD 0 = true ∨ sel.getLsbD 1 = true ∨ sel.getLsbD 2 = true := by
  revert sel
  decide

section LegalX
variable {c : Iss} {f : FV3} {cc sres : Bool}

/-- The reserved fields of a cross-lane word (R194, R195). -/
theorem legalX_rsv {cnt vb : Bool} (h1 : sourceOk c true (f.sel.getLsbD 0) f.va)
    (hb : (if cnt then decide (128 ≤ f.vb.toNat) else srcRsv vb (f.sel.getLsbD 1) f.vb) = false)
    (h3 : sourceOk c cc (f.sel.getLsbD 2) f.vc) (hsel : ((cnt || vb) && f.sel.getLsbD 1) = f.sel.getLsbD 1)
    (hi : f.sel.getLsbD 3 = true → f.sel.getLsbD 0 = true ∨ f.sel.getLsbD 1 = true ∨ f.sel.getLsbD 2 = true) (hmod : f.mod = 0)
    (hd : sres = true → f.vd.toNat < 128) : (legalX f true cnt vb cc sres).rsv = false := by
  have hres : (sres && decide (128 ≤ f.vd.toNat)) = false := by simpa using hd
  simp only [legalX, FV3.selA, FV3.selB, FV3.selC, FV3.hi, srcRsv_sourceOk h1, hb, srcRsv_sourceOk h3, and_sel h1, hsel, and_sel h3, hi_reserved hi,
    hmod, hres]
  rfl

theorem legalX_vregs {cnt vb : Bool} (h1 : sourceOk c true (f.sel.getLsbD 0) f.va)
    (hb : ∀ r ∈ (if vb && !f.sel.getLsbD 1 then [f.vb.toNat] else []), r < c.ag.nv) (h3 : sourceOk c cc (f.sel.getLsbD 2) f.vc)
    (hd : sres = false → f.vd.toNat < c.ag.nv) : ∀ r ∈ (legalX f true cnt vb cc sres).vregs, r < c.ag.nv := by
  simp only [legalX, List.forall_mem_append]
  refine ⟨⟨⟨?_, vreg_sourceOk h1⟩, hb⟩, vreg_sourceOk h3⟩
  cases sres
  · simpa using hd
  · simp

theorem legalX_bad {a cnt vb : Bool} (hty : f.ty.toNat ≤ 1) : (legalX f a cnt vb cc sres).bad = false := by simp [legalX, ty01_of_le hty]

/-- VB is a vector source, or unused. -/
theorem fate_legalX {vb : Bool} (hv : vectorOk c f true vb false) (hty : f.ty.toNat ≤ 1) (hmod : f.mod = 0)
    (hs : sres = true → f.vd.toNat < 128) (hd : sres = false → f.vd.toNat < c.ag.nv) : (legalX f true false vb false sres).fate c = none := by
  obtain ⟨hk, ha, h1, h2, h3, hi⟩ := hv
  exact fate_group hk rfl ⟨rfl, rfl⟩ ha (legalX_rsv h1 (srcRsv_sourceOk h2) h3 (by rw [Bool.false_or, and_sel h2]) hi hmod hs) (legalX_bad hty)
    (legalX_vregs h1 (vreg_sourceOk h2) h3 hd)

/-- The operand fields of a word whose VB is a count (R195). -/
def countFields (c : Iss) (f : FV3) (cc : Bool) : Prop :=
  (c.ag.kind = .group ∧ allOk c f.all ∧ sourceOk c true (f.sel.getLsbD 0) f.va ∧ f.vb.toNat < 128
    ∧ (f.sel.getLsbD 3 = true → f.sel.toNat % 8 ≠ 0)) ∧ sourceOk c cc (f.sel.getLsbD 2) f.vc

theorem countFields_rsv (hf : countFields c f cc) (hmod : f.mod = 0) (hs : sres = true → f.vd.toNat < 128) :
    (legalX f true true false cc sres).rsv = false := by
  obtain ⟨⟨-, -, h1, hb, hi⟩, h3⟩ := hf
  exact legalX_rsv h1 (by simpa using hb) h3 rfl (fun h => selects_of_ne (hi h)) hmod hs

theorem fate_legalX_count (hf : countFields c f cc) (hty : f.ty.toNat ≤ 1) (hmod : f.mod = 0) (hs : sres = true → f.vd.toNat < 128)
    (hd : sres = false → f.vd.toNat < c.ag.nv) : (legalX f true true false cc sres).fate c = none := by
  have hrsv := countFields_rsv hf hmod hs
  obtain ⟨⟨hk, ha, h1, hb, -⟩, h3⟩ := hf
  exact fate_group hk rfl ⟨rfl, rfl⟩ ha hrsv (legalX_bad hty) (legalX_vregs h1 nofun h3 hd)

end LegalX

/-- The count operand (R195). -/
theorem countOp_eq {c : Iss} {f : FV3} (hb : f.vb.toNat < 128) :
    countOp f c.ag = if f.sel.getLsbD 1 then (laneB c f 0).toNat % 128 else f.vb.toNat := by
  rw [countOp, Nat.mod_eq_of_lt hb]
  rfl

/-! ## Shuffles, masks, single lanes (R195 to R197, R199) -/

section CrossLane
variable {i : Instr} {s : State} {c : Iss} {f : FV3} {cnt vb cc : Bool}

theorem lanewise_shuffle {g : Iss → Nat → Word} {g' : Nat → Word} (he : exec i s = shuffle f cnt vb cc g s) (h : ready s c)
    (hl : (legalX f true cnt vb cc false).fate c = none) (hg : ∀ l, g c l = g' l) : lanewise s c f i 8 g' := by
  obtain rfl : g c = g' := funext hg
  exact acts_vectorWrites (lg := legalX f true cnt vb cc false) he nofun h hl rfl

theorem acts_laneMask {lat : Nat} {g : Iss → Dword} {m : Dword} (he : exec i s = laneMask f lat g s) (h : ready s c) (hd : f.vd.toNat < 128)
    (hv : vectorOk c f true false false) (hty : f.ty.toNat ≤ 1) (hmod : f.mod = 0) (hm : m = g c) :
    acts i s c (extraPass (twoPasses c f.all)) (scalarDone s c f lat m) :=
  hm ▸ acts_scalarDone he h (fate_legalX hv hty hmod (fun _ => hd) nofun) rfl hd rfl

/-- The write of lane n, where it is active. -/
def lanePend (s : State) (c : Iss) (f : FV3) (n : Nat) : List Pend :=
  if n < c.ag.width ∧ n ∈ lanesOf (c.active f.all) then
    [{ fid := c.fid, dst := .v f.vd.toNat, vals := [(n, (laneA c f n).setWidth 64)],
       ready := s.clk + (if 32 ≤ n then extraPass (twoPasses c f.all) else 0) + 8 }]
  else []

theorem laneWrites_one (s : State) (c : Iss) (all : BitVec 1) (d lat n : Nat) (x : Dword) :
    laneWrites s c all d lat [(n, x)] =
      [{ fid := c.fid, dst := .v d, vals := [(n, x)], ready := s.clk + (if 32 ≤ n then extraPass (twoPasses c all) else 0) + lat }] := by
  rw [laneWrites, extraPass_eq]
  by_cases h2 : twoPasses c all = (true, true)
  · by_cases hn : 32 ≤ n <;> simp [h2, hn, onWay]
    all_goals omega
  · simp [h2, onWay]

theorem laneWrites_nil (s : State) (c : Iss) (all : BitVec 1) (d lat : Nat) : laneWrites s c all d lat [] = [] := by
  simp [laneWrites, onWay]

/-- The lane that VWRLN writes, where it is active. -/
theorem laneVals_hit {act : Dword} {n w : Nat} (hw : w ≤ 64) (g : Nat → Word) :
    laneVals (if n < w then act &&& laneBit n else 0) g = if n < w ∧ n ∈ lanesOf act then [(n, (g n).setWidth 64)] else [] := by
  by_cases hn : n < w
  · simp only [hn, if_true, true_and, laneVals, lanesOf_and_laneBit act (Nat.lt_of_lt_of_le hn hw)]
    split <;> rfl
  · simp only [hn, if_false, false_and]
    rfl

theorem vwrln_acts (hc : ready s c) (hf : countFields c f false) (hty : f.ty.toNat ≤ 1) (hmod : f.mod = 0) (hw : c.ag.width ≤ 64)
    (hd : f.vd.toNat < c.ag.nv) (hsel : f.sel.getLsbD 0 = true) :
    acts (.vwrln f) s c (extraPass (twoPasses c f.all)) (vectorDone s c f.all (lanePend s c f (countOp f c.ag)) f.stl) := by
  obtain ⟨⟨hk, ha, -⟩, -⟩ := id hf
  have he := exec_vwrln f s
  dsimp only [execVwrln] at he
  have hx := acts_laneWrites (stl := f.stl) (srx := none) he nofun hc (ws := [(f.vd.toNat, laneVals
    (if countOp f c.ag < c.ag.width then c.active f.all &&& laneBit (countOp f c.ag) else 0) (laneA c f))]) ?legal ?body
  case legal =>
    refine fate_group hk rfl ⟨rfl, rfl⟩ ha (countFields_rsv (sres := false) hf hmod nofun) ?_ (by simpa using hd)
    have hA : FV3.selA f = true := hsel
    simp [hA, ty01_of_le hty]
  case body => rfl
  have hp : laneWrites s c f.all f.vd.toNat 8 (laneVals
      (if countOp f c.ag < c.ag.width then c.active f.all &&& laneBit (countOp f c.ag) else 0) (laneA c f)) = lanePend s c f (countOp f c.ag) := by
    rw [laneVals_hit hw, lanePend]
    split
    · exact laneWrites_one ..
    · exact laneWrites_nil ..
  rw [List.flatMap_singleton] at hx
  exact hp ▸ hx

end CrossLane

/-! ## Reductions (R198) -/

section Reductions
variable (op : Nat) (ty mod : BitVec 4)

/-- Element k of a lane as the combination carries it. -/
def redElem (k : Nat) (x : Word) : Int := redIn op ty (fldN x (k * elemBits ty) (elemBits ty))

/-- What the combination of no lane is. -/
def redUnit : Int := if op = 0 then 0 else redIdentity op ty

/-- The accumulator after one more value; none stands for no lane yet. -/
def redStep (acc : Option Int) (v : Int) : Int :=
  match acc with
  | none => v
  | some a => redOp op ty mod a v

/-- The accumulator after these values. -/
def redFold (acc : Option Int) (vs : List Int) : Option Int := vs.foldl (fun acc v => some (redStep op ty mod acc v)) acc

theorem redFold_some (a : Int) (vs : List Int) : redFold op ty mod (some a) vs = some (vs.foldl (redOp op ty mod) a) := by
  induction vs generalizing a with
  | nil => rfl
  | cons v vs ih => exact ih _

theorem redScan_length (k : Nat) (acc : Option Int) (xs : List Word) : (redScan op ty mod k acc xs).length = xs.length := by
  induction xs generalizing acc with
  | nil => rfl
  | cons x xs ih => simp [redScan, ih]

theorem redScan_cons {k : Nat} (hk : k < elemCount ty) (acc : Option Int) (x : Word) (xs : List Word) :
    redScan op ty mod k acc (x :: xs) = (acc, redStep op ty mod acc (redElem op ty k x))
      :: redScan op ty mod k (some (redStep op ty mod acc (redElem op ty k x))) xs := by
  have hx : redIn op ty ((elems ty x).getD k 0) = redElem op ty k x := by
    have hk' : k < 32 / elemBits ty := hk
    simp [elems, redElem, hk']
  cases acc <;> simp only [redScan, hx, redStep]

/-- The entries of the scan are the accumulator before and after each lane. -/
theorem redScan_getElem? {k : Nat} (hk : k < elemCount ty) (acc : Option Int) (xs : List Word) {j : Nat} (hj : j < xs.length) :
    (redScan op ty mod k acc xs)[j]? = some (redFold op ty mod acc ((xs.take j).map (redElem op ty k)),
      (redFold op ty mod acc ((xs.take (j + 1)).map (redElem op ty k))).getD 0) := by
  induction xs generalizing acc j with
  | nil => simp at hj
  | cons x xs ih =>
    rw [redScan_cons op ty mod hk]
    cases j with
    | zero => rfl
    | succ j => rw [List.getElem?_cons_succ, ih _ (by simpa using hj)]; rfl

/-- The accumulator of the last entry of a scan. -/
def lastOf (unit : Int) (l : List (Option Int × Int)) : Int :=
  match l.getLast? with
  | some p => p.2
  | none => unit

/-- The last entry's accumulator is that of all lanes. -/
theorem redScan_last {k : Nat} (hk : k < elemCount ty) (xs : List Word) :
    lastOf (redUnit op ty) (redScan op ty mod k none xs)
      = (redFold op ty mod none (xs.map (redElem op ty k))).getD (redUnit op ty) := by
  cases xs with
  | nil => rfl
  | cons x xs =>
    rw [lastOf, List.getLast?_eq_getElem?, redScan_length, redScan_getElem? op ty mod hk none _ (by simp)]
    simp only [List.length_cons, Nat.add_sub_cancel, List.take_succ_cons, List.take_length]
    obtain ⟨r, hr⟩ : ∃ r, redFold op ty mod none ((x :: xs).map (redElem op ty k)) = some r := ⟨_, redFold_some ..⟩
    rw [hr]
    rfl

/-- The combination of element k of the lanes' words (R198). -/
def redValue (xs : List Word) (k : Nat) : Int := (redFold op ty mod none (xs.map (redElem op ty k))).getD (redUnit op ty)

/-- Entry j of the scan: what the lanes before it combine to, and what they do with it. -/
theorem redScan_getD {k : Nat} (hk : k < elemCount ty) (xs : List Word) {j : Nat} (hj : j < xs.length) :
    let p := (redScan op ty mod k none xs).getD j (none, 0)
    p.1.getD (redUnit op ty) = redValue op ty mod (xs.take j) k ∧ p.2 = redValue op ty mod (xs.take (j + 1)) k := by
  rw [List.getD, redScan_getElem? op ty mod hk none xs hj]
  refine ⟨rfl, ?_⟩
  cases xs with
  | nil => simp at hj
  | cons x xs =>
    have hsome : redFold op ty mod none (((x :: xs).take (j + 1)).map (redElem op ty k)) = some _ := redFold_some ..
    rw [redValue, hsome]
    rfl

/-- The combination of the lanes' words, element by element. -/
def redPacked (xs : List Word) : Word := ofElems ty ((List.range (elemCount ty)).map fun k => redFin op ty mod (redValue op ty mod xs k))

end Reductions

/-- The operand fields of a reduction (R198). -/
structure RedFields (c : Iss) (f : FV3) : Prop where
  operands : vectorOk c { f with vb := 0 } true false false
  ty : f.ty.toNat ≤ 8
  op : f.vb.toNat < 6
  opFloat : tyFloat f.ty = true → f.vb.toNat < 3
  rm : f.mod.toNat / 4 ≠ 0 → f.vb.toNat = 0 ∧ tyFloat f.ty = true
  sat : f.mod.toNat / 2 % 2 = 1 → f.vb.toNat = 0 ∧ ¬tyFloat f.ty = true

theorem fate_legalRed {c : Iss} {f : FV3} {scan : Bool} (hf : RedFields c f) (hx : scan = false → f.mod.toNat % 2 = 0)
    (hs : scan = false → f.vd.toNat < 128) (hd : scan = true → f.vd.toNat < c.ag.nv) : (legalRed f scan).fate c = none := by
  obtain ⟨⟨hk, ha, h1, ⟨hs2, -⟩, ⟨hs3, h3⟩, hi⟩, hty, hop, hopf, hrm, hsat⟩ := hf
  have h8 : f.vb.toNat % 8 = f.vb.toNat := Nat.mod_eq_of_lt (by omega)
  refine fate_group hk rfl ⟨rfl, rfl⟩ ha ?_ ?_ ?_
  · have e1 : srcRsv true (FV3.selA f) f.va = false := srcRsv_sourceOk h1
    have e2 : FV3.selB f = false ∧ FV3.selC f = false ∧ f.vc = 0 := ⟨hs2, hs3, h3⟩
    have e3 : (FV3.hi f && !FV3.selA f) = false := by
      have := hi_reserved hi
      rw [show f.sel.getLsbD 1 = false from hs2, show f.sel.getLsbD 2 = false from hs3, Bool.or_false, Bool.or_false] at this
      exact this
    have e4 : decide (8 ≤ f.vb.toNat) = false := decide_eq_false (by omega)
    have e5 : (!scan && modXop f.mod) = false ∧ (!scan && decide (128 ≤ f.vd.toNat)) = false := by
      cases scan
      · simp [modXop_eq, hx, hs]
      · simp
    simp only [legalRed, e1, e2, e3, e4, e5]
    rfl
  · have e1 : (decide (3 ≤ f.vb.toNat) && tyFloat f.ty) = false := by
      cases hf : tyFloat f.ty
      · simp
      · simpa using hopf hf
    have e2 : (decide (modRM f.mod ≠ 0) && !(decide (f.vb.toNat = 0) && tyFloat f.ty)) = false := by
      by_cases h : modRM f.mod = 0
      · simp [h]
      · simp [hrm h]
    have e3 : (modSat f.mod && !(decide (f.vb.toNat = 0) && tyInt f.ty)) = false := by
      rw [modSat_eq]
      by_cases h : f.mod.toNat / 2 % 2 = 1
      · simp [hsat h, tyInt_of_not_float hty (Bool.eq_false_of_not_eq_true (hsat h).2)]
      · simp [h]
    have e4 : decide (6 ≤ f.vb.toNat) = false := decide_eq_false (by omega)
    simp only [legalRed, h8, tyVector_of_le hty, e1, e2, e3, e4]
    rfl
  · simp only [legalRed, List.forall_mem_append]
    refine ⟨?_, vreg_usedSource h1⟩
    cases scan
    · simp
    · simpa using hd

/-- A filter that the entries below place j pass, and no other, leaves them. -/
theorem filter_eq_take {l : List Nat} {p : Nat → Bool} {j : Nat} (h : ∀ i (hi : i < l.length), p l[i] = decide (i < j)) : l.filter p = l.take j := by
  calc l.filter p = (l.take j).filter p ++ (l.drop j).filter p := by rw [← List.filter_append, List.take_append_drop]
    _ = l.take j ++ [] := by
      congr 1
      · refine List.filter_eq_self.mpr fun a ha => ?_
        obtain ⟨i, hi, rfl⟩ := List.mem_iff_getElem.mp ha
        rw [List.length_take] at hi
        rw [List.getElem_take, h i (by omega)]
        simp; omega
      · refine List.filter_eq_nil_iff.mpr fun a ha => ?_
        obtain ⟨i, hi, rfl⟩ := List.mem_iff_getElem.mp ha
        rw [List.length_drop] at hi
        rw [List.getElem_drop, h (j + i) (by omega)]
        simp
    _ = l.take j := List.append_nil _

/-- In an ascending list, entries are ordered as their places. -/
theorem getElem_lt_iff {l : List Nat} (h : l.Pairwise (· < ·)) {i j : Nat} (hi : i < l.length) (hj : j < l.length) : l[i] < l[j] ↔ i < j := by
  rw [List.pairwise_iff_getElem] at h
  obtain hij | rfl | hij := Nat.lt_trichotomy i j
  · simp [hij, h i j hi hj hij]
  · simp
  · have := h j i hj hi hij
    omega

theorem filter_lt_getElem {l : List Nat} (h : l.Pairwise (· < ·)) {j : Nat} (hj : j < l.length) : l.filter (fun k => decide (k < l[j])) = l.take j :=
  filter_eq_take fun i hi => by rw [decide_eq_decide, getElem_lt_iff h hi hj]

theorem filter_le_getElem {l : List Nat} (h : l.Pairwise (· < ·)) {j : Nat} (hj : j < l.length) :
    l.filter (fun k => decide (k ≤ l[j])) = l.take (j + 1) :=
  filter_eq_take fun i hi => by rw [decide_eq_decide, ← Nat.not_lt, getElem_lt_iff h hj hi]; omega

/-- The active lanes that a scan combines for lane l: those below it, and without XOP the lane itself (R198). -/
def scanLanes (mod : BitVec 4) (act : List Nat) (l : Nat) : List Nat := act.filter fun k => if mod.toNat % 2 = 1 then k < l else k ≤ l

theorem scanLanes_getElem {act : List Nat} (h : act.Pairwise (· < ·)) {j : Nat} (hj : j < act.length) (mod : BitVec 4) :
    scanLanes mod act act[j] = act.take (if mod.toNat % 2 = 1 then j else j + 1) := by
  unfold scanLanes
  split
  · exact filter_lt_getElem h hj
  · exact filter_le_getElem h hj

section Reduce
variable {s : State} {c : Iss} {f : FV3}

/-- What VREDU makes of the elements' combinations: the sum of a word type without SAT as it is (R198). -/
def reducedScalar (op : Nat) (ty mod : BitVec 4) (fins : List Int) : Dword :=
  if ty01 ty && decide (op = 0) && !modSat mod then BitVec.ofInt 64 (fins.getD 0 0)
  else
    let w := ofElems ty (fins.map (redFin op ty mod))
    if ty = 0 then w.signExtend 64 else w.setWidth 64

theorem vredu_acts (hc : ready s c) (hf : RedFields c f) (hx : f.mod.toNat % 2 = 0) (hd : f.vd.toNat < 128) :
    acts (.vredu f) s c (extraPass (twoPasses c f.all)) (scalarDone s c f 12 (reducedScalar f.vb.toNat f.ty f.mod
      ((List.range (elemCount f.ty)).map (redValue f.vb.toNat f.ty f.mod ((lanesOf (c.active f.all)).map (laneA c f)))))) := by
  have he := exec_vredu f s
  dsimp only [execVredu] at he
  rw [Nat.mod_eq_of_lt (by have := hf.op; omega : f.vb.toNat < 8)] at he
  have hlast : ((List.range (elemCount f.ty)).map fun k => lastOf (redUnit f.vb.toNat f.ty)
      (redScan f.vb.toNat f.ty f.mod k none ((lanesOf (c.active f.all)).map (laneA c f)))) = (List.range (elemCount f.ty)).map (redValue f.vb.toNat f.ty f.mod ((lanesOf (c.active f.all)).map (laneA c f))) :=
    List.map_congr_left fun k hk => redScan_last _ _ _ (List.mem_range.mp hk) _
  rw [← hlast]
  exact acts_scalarDone he hc (fate_legalRed hf (fun _ => hx) (fun _ => hd) nofun) rfl hd rfl

theorem vscan_lanewise (hc : ready s c) (hf : RedFields c f) (hd : f.vd.toNat < c.ag.nv) :
    lanewise s c f (.vscan f) 12 fun l => redPacked f.vb.toNat f.ty f.mod ((scanLanes f.mod (lanesOf (c.active f.all)) l).map (laneA c f)) := by
  have he := exec_vscan f s
  dsimp only [execVscan] at he
  rw [Nat.mod_eq_of_lt (by have := hf.op; omega : f.vb.toNat < 8)] at he
  refine acts_vectorWrites (lg := legalRed f true) he nofun hc (fate_legalRed hf nofun nofun fun _ => hd) ?_
  have hvals : ∀ {vs ws : List (Nat × Dword)}, vs = ws →
      (Except.ok { writes := [(.v f.vd.toNat, vs)] } : Except Flt Fx) = .ok { writes := [(.v f.vd.toNat, ws)] } := fun h => h ▸ rfl
  refine hvals (List.ext_getElem ?_ fun j hj _ => ?_)
  · simp only [laneVals, List.length_map, List.length_range]
    rfl
  have hjl : j < (lanesOf (c.active f.all)).length := by simpa using hj
  simp only [laneVals, List.getElem_map, List.getElem_range, List.getD_eq_getElem _ _ hjl]
  refine Prod.ext rfl (congrArg (fun w : Word => w.setWidth 64) (congrArg (ofElems f.ty) ?_))
  rw [List.map_map]
  refine List.map_congr_left fun k hk => ?_
  obtain ⟨hbelow, hupto⟩ := redScan_getD f.vb.toNat f.ty f.mod (List.mem_range.mp hk) ((lanesOf (c.active f.all)).map (laneA c f)) (j := j)
    (by simpa using hjl)
  have hlanes := scanLanes_getElem (lanesOf_pairwise (c.active f.all)) hjl f.mod
  refine .trans ?_ (congrArg (fun ls : List Nat => redFin f.vb.toNat f.ty f.mod (redValue f.vb.toNat f.ty f.mod (ls.map (laneA c f)) k)) hlanes).symm
  rw [← List.map_take] at hbelow hupto
  by_cases hx : f.mod.toNat % 2 = 1
  · rw [if_pos hx, ← hbelow]
    exact if_pos (by simp [modXop_eq, hx])
  · rw [if_neg hx, ← hupto]
    exact if_neg (by simp [modXop_eq, hx])

end Reduce

theorem ty01_iff (ty : BitVec 4) : ty01 ty = true ↔ ty.toNat ≤ 1 := by
  revert ty
  decide

theorem not_tyFloat_word {ty : BitVec 4} (h : ty.toNat ≤ 1) : ¬tyFloat ty = true := by
  revert ty
  decide

theorem elemCount_pos (ty : BitVec 4) : 0 < elemCount ty := by
  revert ty
  decide

/-- With a legal MOD, the sum of a word type is written exactly where MOD is 0 (R198). -/
theorem reducedScalar_eq {op : Nat} {ty mod : BitVec 4} (xs : List Word) (hx : mod.toNat % 2 = 0)
    (hrm : mod.toNat / 4 ≠ 0 → op = 0 ∧ tyFloat ty = true) :
    reducedScalar op ty mod ((List.range (elemCount ty)).map (redValue op ty mod xs)) =
      if ty.toNat ≤ 1 ∧ op = 0 ∧ mod = 0 then BitVec.ofInt 64 (redValue op ty mod xs 0)
      else if ty = 0 then (redPacked op ty mod xs).signExtend 64 else (redPacked op ty mod xs).setWidth 64 := by
  have hcond : (ty01 ty && decide (op = 0) && !modSat mod) = true ↔ ty.toNat ≤ 1 ∧ op = 0 ∧ mod = 0 := by
    have hmod : ty.toNat ≤ 1 → (¬mod.toNat / 2 % 2 = 1 ↔ mod = 0) := fun h1 => by
      have : mod.toNat / 4 = 0 := by
        by_contra h
        exact not_tyFloat_word h1 (hrm h).2
      bv_omega
    rw [modSat_eq]
    simp only [Bool.and_eq_true, ty01_iff, decide_eq_true_eq, Bool.not_eq_true', decide_eq_false_iff_not, and_assoc]
    exact and_congr_right fun h1 => and_congr_right fun _ => hmod h1
  unfold reducedScalar
  by_cases h : ty.toNat ≤ 1 ∧ op = 0 ∧ mod = 0
  · rw [if_pos (hcond.mpr h), if_pos h]
    simp [elemCount_pos ty]
  · rw [if_neg (mt hcond.mp h), if_neg h, List.map_map]
    rfl

/-- Settles O21: the shuffles and masks by their lanes, the reductions by the combination of the active lanes. -/
theorem crossLaneInstructions : Obligations.CrossLaneInstructions := by
  unfold Obligations.CrossLaneInstructions
  refine ⟨fun s c f hc hty hmod hw => ?lanes, fun s c f hc hty hv hsel => ?reductions⟩
  case lanes =>
    intro A act n countOk scalar
    have hn : countOk → countOp f c.ag = n := fun ⟨_, _, _, h, _⟩ => countOp_eq h
    refine ⟨fun hd => ⟨fun hv => ?shuf, fun hk hs => ⟨?shfu, ?shfd⟩, fun hk hs => ⟨?xsw, fun hA => ?wrln⟩⟩,
      fun hd => ⟨fun hk hs _ => ?rdln, fun hv => ⟨fun m hm => ?bal, fun m hm => ?mtch⟩⟩⟩
    case shuf =>
      exact lanewise_shuffle (exec_vshuf f s) hc (fate_legalX hv hty hmod nofun fun _ => hd) fun l => rfl
    case shfu =>
      refine lanewise_shuffle (exec_vshfu f s) hc (fate_legalX_count ⟨hk, hs⟩ hty hmod nofun fun _ => hd) fun l => ?_
      rw [hn hk]
      rfl
    case shfd =>
      refine lanewise_shuffle (exec_vshfd f s) hc (fate_legalX_count ⟨hk, hs⟩ hty hmod nofun fun _ => hd) fun l => ?_
      rw [hn hk]
      rfl
    case xsw =>
      refine lanewise_shuffle (exec_vxsw f s) hc (fate_legalX_count ⟨hk, hs⟩ hty hmod nofun fun _ => hd) fun l => ?_
      rw [hn hk]
      rfl
    case wrln =>
      have hx := vwrln_acts hc ⟨hk, hs⟩ hty hmod hw hd hA
      rw [hn hk] at hx
      exact hx
    case rdln =>
      have hx := acts_scalarDone (exec_vrdln f s) hc (fate_legalX_count (sres := true) ⟨hk, hs⟩ hty hmod (fun _ => hd) nofun) rfl hd rfl
      simp only [hn hk] at hx
      exact hx
    case bal =>
      exact acts_laneMask (exec_vbal f s) hc hd hv hty hmod
        (eq_maskOf_filter fun l hl => by rw [decide_eq_true_eq]; exact hm l hl)
    case mtch =>
      exact acts_laneMask (exec_vmatch f s) hc hd hv hty hmod
        (eq_maskOf_filter fun l hl => by rw [decide_eq_true_eq, ← List.headD_eq_head?_getD]; exact hm l hl)
  case reductions =>
    intro op flt hop hopf hrm hsat n act value unit combined elem packed
    have hf : RedFields c f := ⟨hv, hty, hop, hopf, hrm, hsat⟩
    have hvalue : ∀ k l, value k l = redElem op f.ty k (laneA c f l) := fun k l => by
      simp only [value, redElem, redIn, flt, Bool.not_eq_true', Bool.not_eq_true]
      rfl
    have hcomb : ∀ k ls, combined k ls = redValue op f.ty f.mod (ls.map (laneA c f)) k := fun k ls => by
      cases ls with
      | nil => rfl
      | cons l ls =>
        have hsome : redFold op f.ty f.mod none (((l :: ls).map (laneA c f)).map (redElem op f.ty k))
            = some ((ls.map (value k)).foldl (redOp op f.ty f.mod) (value k l)) := by
          have hmap : ls.map (value k) = (ls.map (laneA c f)).map (redElem op f.ty k) := by
            rw [List.map_map]
            exact List.map_congr_left fun l _ => hvalue k l
          rw [hmap, hvalue]
          exact redFold_some ..
        rw [redValue, hsome]
        rfl
    have helem : ∀ x, elem x = redFin op f.ty f.mod x := fun x => by
      simp only [elem, redFin, flt, intRes_eq_fit, Bool.not_eq_true', Bool.not_eq_true]
      rfl
    have hpacked : ∀ ls, packed ls = redPacked op f.ty f.mod (ls.map (laneA c f)) := fun ls =>
      congrArg (ofElems f.ty) (List.map_congr_left fun k _ => (helem _).trans (congrArg _ (hcomb k ls)))
    simp only [hpacked, hcomb]
    refine ⟨fun hx hd => ?redu, fun hd => vscan_lanewise hc hf hd⟩
    case redu =>
      have hw := vredu_acts hc hf hx hd
      rw [reducedScalar_eq _ hx hrm] at hw
      exact hw

end Sys2Proof.Machine
end

section
/-!
PROOFS. O46: an operation that is due; what its lanes leave once they are performed and land (R219, R230); then the accesses of loads,
stores and atomics, the lane of TXLD out of range, and the first and last access of a sweep's repetition.
-/
namespace Sys2Proof.Machine
open Sys2Proof.Safety

section Exec
variable (op : Nat) (lanes : Dword) (ext : List Byte) (s : State)

theorem exec_loadReturn : exec (.loadReturn op lanes ext) s = execLoadReturn op lanes ext s := rfl
theorem exec_storeAccept : exec (.storeAccept op lanes) s = execStoreAccept op lanes s := rfl
theorem exec_atomicReturn : exec (.atomicReturn op lanes ext) s = execAtomicReturn op lanes ext s := rfl
theorem exec_sweepSegmentAccess : exec (.sweepSegmentAccess op) s = execSweepSegmentAccess op s := rfl

end Exec

/-! ## An operation that is due (R219) -/

/-- Operation op of agent a is o, and it is due. -/
structure OpDue (s : State) (op a : Nat) (ag : Agent) (o : Op) : Prop where
  owner : s.opOwner op = some (a, ag, o)
  agent : s.agent? a = some ag
  only : ∀ q ∈ ag.ops, q.id = op → q = o
  unreturned : o.returned = false
  due : o.due ≤ s.clk

section Due
variable {s : State} {op a : Nat} {ag : Agent} {o : Op}

theorem findOp_of_opOwner (h : s.opOwner op = some (a, ag, o)) : ag.findOp op = some o := by
  obtain ⟨p, -, hp⟩ := List.exists_of_findSome?_eq_some h
  obtain ⟨o', ho', heq⟩ := Option.map_eq_some_iff.mp hp
  cases heq
  exact ho'

theorem OpDue.id_eq (h : OpDue s op a ag o) : o.id = op := by
  simpa using List.find?_some (findOp_of_opOwner h.owner)

theorem OpDue.enabled (h : OpDue s op a ag o) : ¬(s.clk < o.due ∨ o.returned = true) := by
  rw [h.unreturned]
  simpa using h.due

end Due

/-! ## Landing -/

/-- The agent once values have reached its registers. -/
def Agent.landed (ag : Agent) (vals : List (Reg × Nat × Dword)) : Agent := vals.foldl (fun g v => g.setReg v.1 [(v.2.1, v.2.2)]) ag

@[simp] theorem landed_nil (ag : Agent) : ag.landed [] = ag := rfl

theorem landed_cons (ag : Agent) (v : Reg × Nat × Dword) (vals : List (Reg × Nat × Dword)) :
    ag.landed (v :: vals) = (ag.setReg v.1 [(v.2.1, v.2.2)]).landed vals := rfl

theorem setReg_one_ops (ag : Agent) (r : Reg) (p : Nat × Dword) : (ag.setReg r [p]).ops = ag.ops := by cases r <;> rfl

theorem landed_ops (ag : Agent) (vals : List (Reg × Nat × Dword)) : (ag.landed vals).ops = ag.ops := by
  induction vals generalizing ag with
  | nil => rfl
  | cons v vals ih => rw [landed_cons, ih, setReg_one_ops]

/-- No register of the operation was written since its issue: the values land. -/
theorem landVals_eq {o : Op} (hc : o.clash = []) (s : State) (a : Nat) (vals : List (Reg × Nat × Dword)) :
    s.landVals a o vals = s.updAgent a fun g => g.landed vals := by
  induction vals generalizing s with
  | nil => exact (updAgent_id s a).symm
  | cons v vals ih =>
    have hv : s.landVals a o (v :: vals) = (s.updAgent a fun g => g.setReg v.1 [(v.2.1, v.2.2)]).landVals a o vals := by
      simp [State.landVals, hc]
    rw [hv, ih, updAgent_updAgent]
    rfl

theorem laneFail_nil (s : State) (a id : Nat) : s.laneFail a id [] = s := by
  have hid : (fun ag : Agent => ag.updOp id fun o => o) = fun ag => ag := by
    funext ag
    simp [Agent.updOp]
  exact (congrArg (s.updAgent a) hid).trans (updAgent_id s a)

/-! ## Counting off (R218, R219) -/

theorem mem_countOff_go {q : Op} {held : List (Option Ctr)} {ops : List Op} (h : q ∈ Agent.countOff.go held ops) : q ∈ ops := by
  induction ops generalizing held with
  | nil => exact h
  | cons o os ih =>
    rw [Agent.countOff.go] at h
    split at h
    · exact .tail _ (ih h)
    · rcases List.mem_cons.mp h with rfl | h
      · exact .head _
      · exact .tail _ (ih h)

/-- Every copy of the operation has performed its lanes, and has returned unless a target turned lanes away. -/
def Agent.opDone (ag : Agent) (op : Nat) (rej : Option Flt) : Prop := ∀ q ∈ ag.ops, q.id = op → q.todo = 0 ∧ (rej = none → q.returned = true)

/-- Agent a has the registers of g, its operation is done, and no other agent differs. -/
def landsAs (s t : State) (a : Nat) (g : Agent) (op : Nat) (rej : Option Flt) : Prop :=
  (∀ b, b ≠ a → t.agent? b = s.agent? b) ∧ ∃ ag', t.agent? a = some ag' ∧ ag'.sregs = g.sregs ∧ ag'.vregs = g.vregs ∧ ag'.opDone op rej

/-- Agent g after lanes of operation id have been performed. -/
def Agent.laneMarked (g : Agent) (id : Nat) (lanes : Dword) : Agent := g.updOp id fun o => { o with todo := o.todo &&& ~~~lanes }

theorem findOp_laneMarked {g : Agent} {id : Nat} {o : Op} (h : g.findOp id = some o) (lanes : Dword) :
    (g.laneMarked id lanes).findOp id = some { o with todo := o.todo &&& ~~~lanes } := by
  have hid : o.id = id := by simpa using List.find?_some h
  have hp : ((fun o : Op => decide (o.id = id)) ∘ fun o : Op => if o.id = id then { o with todo := o.todo &&& ~~~lanes } else o)
      = fun o => decide (o.id = id) := by
    funext q
    by_cases hq : q.id = id <;> simp [hq]
  rw [Agent.findOp] at h
  rw [Agent.findOp, Agent.laneMarked, Agent.updOp, List.find?_map, hp, h, Option.map_some, if_pos hid]

theorem laneMarked_todo {g : Agent} {id : Nat} {o : Op} (ho : ∀ q ∈ g.ops, q.id = id → q = o) :
    ∀ q ∈ (g.laneMarked id o.todo).ops, q.id = id → q.todo = 0 := by
  intro q hq hid
  obtain ⟨p, hp, rfl⟩ := List.mem_map.mp hq
  by_cases hpid : p.id = id
  · rw [if_pos hpid, ho p hp hpid]
    exact BitVec.and_not_self _
  · exact absurd (by rwa [if_neg hpid] at hid) hpid

/-- The operation of an agent returns: its registers stay, and no copy of the operation that is kept is unreturned. -/
theorem returnOp_eq (s : State) (a id : Nat) : ∃ f : Agent → Agent, s.returnOp a id = s.updAgent a f ∧ ∀ g, (f g).sregs = g.sregs ∧
    (f g).vregs = g.vregs ∧ ∀ q ∈ (f g).ops, q.id = id → q.returned = true ∧ ∃ p ∈ g.ops, p.id = id ∧ p.todo = q.todo := by
  refine ⟨_, rfl, fun g => ?_⟩
  split
  case h_1 hnone =>
    refine ⟨rfl, rfl, fun q hq hid => ?_⟩
    simpa [hid] using List.find?_eq_none.mp hnone q hq
  case h_2 o ho =>
    refine ⟨rfl, rfl, fun q hq hid => ?_⟩
    obtain ⟨p, hp, rfl⟩ := List.mem_map.mp (mem_countOff_go hq)
    by_cases hpid : p.id = id
    · simp only [if_pos hpid] at hid ⊢
      exact ⟨trivial, p, hp, hpid, rfl⟩
    · exact absurd (by rwa [if_neg hpid] at hid) hpid

/-- An operation that is due has performed all lanes left to it: it returns, unless a target turned lanes away. -/
theorem laneDone_all {s : State} {a id : Nat} {g : Agent} {o : Op} (hag : s.agent? a = some g) (ho : g.findOp id = some o)
    (hdue : o.due ≤ s.clk) : s.laneDone a id o.todo = if o.rej = none then (s.updAgent a fun g => g.laneMarked id o.todo).returnOp a id
      else s.updAgent a fun g => g.laneMarked id o.todo := by
  have hfind : ((s.updAgent a fun g => g.laneMarked id o.todo).agent? a).bind (fun g => g.findOp id)
      = some { o with todo := o.todo &&& ~~~o.todo } := by
    rw [agent?_updAgent_self, hag]
    exact findOp_laneMarked ho _
  have hcond : (o.todo &&& ~~~o.todo = 0 ∧ o.rej.isNone = true ∧ o.due ≤ s.clk) ↔ o.rej = none := by
    simp [hdue]
  rw [State.laneDone]
  simp only [Agent.laneMarked] at hfind ⊢
  simp only [hfind, State.updAgent_clk, hcond]

section Land
variable {s u : State} {op a : Nat} {ag : Agent} {o : Op}

/-- All lanes left to an operation land their values: it is done. -/
theorem landVals_laneDone (h : OpDue s op a ag o) (hc : o.clash = []) (hagents : u.agents = s.agents) (hclk : u.clk = s.clk)
    (vals : List (Reg × Nat × Dword)) : ∃ f, (u.landVals a o vals).laneDone a o.id o.todo = u.updAgent a f
      ∧ landsAs s (u.updAgent a f) a (ag.landed vals) op o.rej := by
  have hag : u.agent? a = some ag := by rw [State.agent?, hagents]; exact h.agent
  have hother : ∀ f b, b ≠ a → (u.updAgent a f).agent? b = s.agent? b := fun f b hb => by
    rw [agent?_updAgent_ne u f hb, State.agent?, hagents]
    rfl
  let f1 := fun g : Agent => (g.landed vals).laneMarked op o.todo
  have hself : (u.updAgent a f1).agent? a = some (f1 ag) := by rw [agent?_updAgent_self, hag]; rfl
  have htodo : ∀ q ∈ (f1 ag).ops, q.id = op → q.todo = 0 := laneMarked_todo fun q hq => h.only q (by rwa [landed_ops] at hq)
  have hdone : (u.landVals a o vals).laneDone a o.id o.todo = if o.rej = none then (u.updAgent a f1).returnOp a op else u.updAgent a f1 := by
    have hlanded : (u.updAgent a fun g => g.landed vals).agent? a = some (ag.landed vals) := by rw [agent?_updAgent_self, hag]; rfl
    have hop : (ag.landed vals).findOp op = some o := by
      rw [Agent.findOp, landed_ops]
      exact findOp_of_opOwner h.owner
    rw [landVals_eq hc, h.id_eq, laneDone_all hlanded hop (by rw [State.updAgent_clk, hclk]; exact h.due), updAgent_updAgent]
  by_cases hrej : o.rej = none
  · obtain ⟨f2, heq, hf2⟩ := returnOp_eq (u.updAgent a f1) a op
    obtain ⟨hsr, hvr, hops⟩ := hf2 (f1 ag)
    refine ⟨fun g => f2 (f1 g), ?_, hother _, f2 (f1 ag), ?_, hsr, hvr, fun q hq hid => ?_⟩
    · rw [hdone, if_pos hrej, heq, updAgent_updAgent]
    · rw [agent?_updAgent_self, hag]
      rfl
    · obtain ⟨hret, p, hp, hpid, hpt⟩ := hops q hq hid
      exact ⟨hpt ▸ htodo p hp hpid, fun _ => hret⟩
  · refine ⟨f1, ?_, hother _, f1 ag, hself, rfl, rfl, fun q hq hid => ⟨htodo q hq hid, fun h => absurd h hrej⟩⟩
    rw [hdone, if_neg hrej]

end Land

/-! ## The access of one lane -/

/-- The operation is one lane's access, its lane is left, and its registers were not written since the issue. -/
structure OneLane (o : Op) (x : Acc) : Prop where
  acc : o.acc = [x]
  lane : x.lane < 64
  todo : o.todo = laneBit x.lane
  clash : o.clash = []

/-- The registers that receive lane value v of access x. -/
def landing (scalar : Bool) (data : Nat) (x : Acc) (v : Nat) : List (Reg × Nat × Dword) :=
  (dataVals scalar data x.n (BitVec.ofNat 128 v)).map fun d => (d.1, x.lane, d.2)

theorem landed_landing (ag : Agent) (scalar : Bool) (data : Nat) (x : Acc) (v : Nat) : ag.landed (landing scalar data x v) =
    (dataVals scalar data x.n (BitVec.ofNat 128 v)).foldl (fun g d => g.setReg d.1 [(x.lane, d.2)]) ag := List.foldl_map ..

theorem laneBit_self {l : Nat} (hl : l < 64) : (laneBit l).getLsbD l = true := by simp [getLsbD_laneBit l hl]

theorem laneBit_ne_zero {l : Nat} (hl : l < 64) : laneBit l ≠ 0 := fun h => by
  have h1 := laneBit_self hl
  rw [h] at h1
  simp at h1

theorem maskOf_one (l : Nat) : maskOf [l] = laneBit l := BitVec.zero_or

theorem eccRead_none {s : State} (h : s.bad = []) (r : Raiser) (pas : List Nat) : s.eccRead r pas = s := by simp [State.eccRead, h]

namespace OneLane
variable {o : Op} {x : Acc} (h : OneLane o x)
include h

theorem left : o.todo.getLsbD x.lane = true := by rw [h.todo]; exact laneBit_self h.lane

theorem todo_ne : o.todo ≠ 0 := by rw [h.todo]; exact laneBit_ne_zero h.lane

theorem accs : (o.acc.filter fun y => o.todo.getLsbD y.lane) = [x] := by simp [h.acc, h.left]

theorem cardLanes {s : State} {sp : Space} (hs : sp = .scr ∨ s.onCard x.pa = true) : (if some sp = some Space.scr then o.todo
    else maskOf ((o.acc.filter fun y => o.todo.getLsbD y.lane && s.onCard y.pa).map (·.lane))) = o.todo := by
  split
  · rfl
  · next hne =>
    have hon : s.onCard x.pa = true := hs.resolve_left fun h => hne (congrArg some h)
    simp only [h.acc, List.filter_cons, h.left, hon, Bool.and_self, if_true, List.filter_nil, List.map_cons, List.map_nil, maskOf_one]
    exact h.todo.symm

end OneLane

section Performed
variable {s u : State} {op a : Nat} {ag : Agent} {o : Op}

/-- All lanes left to an operation land their values where no line is bad (R492): it is done, and else the accesses' state stays. -/
theorem performed (h : OpDue s op a ag o) (hc : o.clash = []) (hagents : u.agents = s.agents) (hclk : u.clk = s.clk) (hbad : u.bad = [])
    (vals : List (Reg × Nat × Dword)) (mem : Prop) [Decidable mem] (r : Raiser) (pas : List Nat) :
    ∃ f, (if mem then ((u.landVals a o vals).laneDone a o.id o.todo).eccRead r pas else (u.landVals a o vals).laneDone a o.id o.todo)
      = u.updAgent a f ∧ landsAs s (u.updAgent a f) a (ag.landed vals) op o.rej := by
  obtain ⟨f, hf, hl⟩ := landVals_laneDone h hc hagents hclk vals
  refine ⟨f, ?_, hl⟩
  rw [hf, eccRead_none (show (u.updAgent a f).bad = [] from hbad), ite_self]

end Performed

/-! ## Loads (R209, R230) -/

section Load
variable (s : State) (ag : Agent) (sp : Space) (x : Acc)

/-- What a plain load reads. -/
def State.loadValue : Nat :=
  if sp = .scr then rdN (s.teamOf ag).scr x.n x.pa
  else if ag.kind ≠ .group then rdN s.mem x.n x.pa
  else match (s.core ag.core).l1.find? fun l => l.pa = lineOf x.pa with
    | some l => l.read x.pa x.n
    | none => rdN s.mem x.n x.pa

/-- A read through the L1 changes cores only, and gives the line's bytes or the memory's. -/
theorem l1Read_eq (core pa n hint : Nat) : ∃ cs, s.l1Read core pa n hint = ({ s with cores := cs },
    match (s.core core).l1.find? fun l => l.pa = lineOf pa with
    | some l => l.read pa n
    | none => rdN s.mem n pa) := by
  cases hf : (s.core core).l1.find? fun l => l.pa = lineOf pa with
  | some l => exact ⟨_, by simp only [State.l1Read, cacheFind, hf]; rfl⟩
  | none =>
    by_cases hh : hint ≤ 1
    · exact ⟨_, by simp only [State.l1Read, cacheFind, hf, if_pos hh]; rfl⟩
    · exact ⟨s.cores, by simp only [State.l1Read, cacheFind, hf, if_neg hh]; rfl⟩

theorem readAcc_eq (hint : Nat) : ∃ cs, s.readAcc ag sp true hint x = ({ s with cores := cs }, s.loadValue ag sp x) := by
  cases sp with
  | scr => exact ⟨s.cores, rfl⟩
  | glob =>
    by_cases hg : ag.kind = .group
    · obtain ⟨cs, hcs⟩ := l1Read_eq s ag.core x.pa x.n hint
      exact ⟨cs, by simp [State.readAcc, State.loadValue, Agent.isLeat, hg, hcs]⟩
    · exact ⟨s.cores, by simp [State.readAcc, State.loadValue, Agent.isLeat, hg, State.readN]⟩

end Load

theorem performLoad_one {o : Op} {x : Acc} (h : OneLane o x) (s : State) (a : Nat) (ag : Agent) (sp : Space) (data : Nat) (scalar : Bool)
    (hint : Nat) : s.performLoad a ag o sp data scalar hint none o.todo [] =
      let r := s.readAcc ag sp true hint x
      let t := (r.1.landVals a o (landing scalar data x r.2)).laneDone a o.id o.todo
      if sp = .glob then t.eccRead (ag.raiser o.fid o.pc) [x.pa] else t := by
  simp [State.performLoad, h.accs, State.loadVals, laneFail_nil, landing]

section LoadReturn
variable {s : State} {op a : Nat} {ag : Agent} {o : Op} {x : Acc}

theorem mayLoad_one (h : OneLane o x) (hb : ag.blocked o o.todo = false) (hl : o.localLanes s = o.todo) : o.mayLoad s ag o.todo [] = true := by
  have hne : o.todo ≠ 0#64 := h.todo_ne
  simp [Op.mayLoad, hne, hb, hl]

theorem loadReturn_lands (h : OpDue s op a ag o) (h1 : OneLane o x) (hb : ag.blocked o o.todo = false) (hbad : s.bad = [])
    {sp : Space} {data : Nat} {scalar : Bool} {hint : Nat} {ldc : Bool} (hk : o.kind = .load sp data scalar hint none ldc)
    (hs : sp = .scr ∨ s.onCard x.pa = true) : brings (.loadReturn op o.todo []) s fun t => t.mem = s.mem ∧ t.teams = s.teams
      ∧ landsAs s t a (ag.landed (landing scalar data x (s.loadValue ag sp x))) op o.rej := by
  have hl : o.localLanes s = o.todo := by
    simp only [Op.localLanes, hk]
    exact h1.cardLanes hs
  have he : execLoadReturn op o.todo [] s = .next (s.performLoad a ag o sp data scalar hint none o.todo []) := by
    simp only [execLoadReturn, h.owner, if_neg h.enabled, hk, if_neg h1.todo_ne, mayLoad_one h1 hb hl, if_true]
  obtain ⟨cs, hcs⟩ := readAcc_eq s ag sp x hint
  obtain ⟨f, hf, hland⟩ := performed (u := { s with cores := cs }) h h1.clash rfl rfl hbad (landing scalar data x (s.loadValue ag sp x))
    (sp = .glob) (ag.raiser o.fid o.pc) [x.pa]
  refine ⟨_, (exec_loadReturn ..).trans he, ?_⟩
  rw [performLoad_one h1]
  simp only [hcs, hf]
  exact ⟨rfl, rfl, hland⟩

end LoadReturn

/-! ## Stores (R210, R231) -/

theorem team?_updTeam (s : State) (i j : Nat) (f : Team → Team) :
    (s.updTeam i f).team? j = (s.team? j).map fun y => if j = i then f y else y := by
  by_cases h : j = i
  · subst h
    simp only [if_true]
    exact KMap.find?_upd_self ..
  · simp only [if_neg h, Option.map_id']
    exact KMap.find?_upd_ne _ f h

theorem l1Store_eq (s : State) (core pa hint : Nat) (bs : List Byte) : ∃ cs, s.l1Store core pa hint bs = { s with cores := cs } := by
  dsimp only [State.l1Store]
  split
  · exact ⟨s.cores, rfl⟩
  · split <;> exact ⟨_, rfl⟩

theorem l1Drop_eq (s : State) (core : Nat) (p : Nat → Bool) : ∃ cs, s.l1Drop core p = { s with cores := cs } := ⟨_, rfl⟩

section Store
variable {s : State} {op a : Nat} {ag : Agent} {o : Op} {x : Acc} {hint : Nat} {ordered : Bool}

theorem storeAcc_host (hk : s.paKind x.pa = .host) :
    s.storeAcc a ag o .glob hint ordered x = { s with hostOut := s.hostOut ++ [(x.pa % 2 ^ 51, bytesOf x.n x.x.toNat)] } := by
  simp only [State.storeAcc, hk]

theorem storeAcc_card (hon : s.onCard x.pa = true) (hr : s.reuse = []) : ∃ ts cs, s.storeAcc a ag o .glob hint ordered x
    = { s with mem := wrBytes s.mem x.pa (bytesOf x.n x.x.toNat), tasks := ts, cores := cs } := by
  obtain ⟨ts, hts⟩ := devWrite_of_no_reuse hr x.pa (bytesOf x.n x.x.toNat)
  have hdev : s.storeAcc a ag o .glob hint ordered x = (let s1 := s.devWrite x.pa (bytesOf x.n x.x.toNat)
      if ag.isLeat then s1
      else if ordered then s1.l1Drop ag.core fun pa => pa = lineOf x.pa
      else s1.l1Store ag.core x.pa hint (bytesOf x.n x.x.toNat)) := by
    rw [State.onCard] at hon
    simp only [State.storeAcc]
    split at hon <;> simp_all
  rw [hdev, hts]
  dsimp only
  split
  · exact ⟨ts, s.cores, rfl⟩
  · split
    · exact ⟨ts, _, rfl⟩
    · obtain ⟨cs, hcs⟩ := l1Store_eq { s with mem := wrBytes s.mem x.pa (bytesOf x.n x.x.toNat), tasks := ts } ag.core x.pa hint
        (bytesOf x.n x.x.toNat)
      exact ⟨ts, cs, hcs⟩

/-- The one store access of an operation that is due is performed, and the operation is done. -/
theorem storeAccept_lands (h : OpDue s op a ag o) (h1 : OneLane o x) (hb : ag.blocked o o.todo = false) {sp : Space} {scalar : Bool}
    {ord : Option Nat} (hk : o.kind = .store sp scalar hint ord) {u : State} (hu : s.storeAcc a ag o sp hint ord.isSome x = u)
    (hagents : u.agents = s.agents) (hclk : u.clk = s.clk) :
    ∃ f, exec (.storeAccept op o.todo) s = .next (u.updAgent a f) ∧ landsAs s (u.updAgent a f) a ag op o.rej := by
  have horder : o.storeOrder o.todo = true := by simp [Op.storeOrder]
  have hgo : ¬(o.todo = 0 ∨ o.todo &&& ~~~o.todo ≠ 0 ∨ ag.blocked o o.todo = true ∨ (!o.storeOrder o.todo) = true) := by
    have hne : o.todo ≠ 0#64 := h1.todo_ne
    simp [hne, hb, horder]
  have he : execStoreAccept op o.todo s = .next (u.laneDone a o.id o.todo) := by
    simp only [execStoreAccept, h.owner, if_neg h.enabled, hk, if_neg h1.todo_ne, if_neg hgo]
    rw [State.performStore, h1.accs, ← hu]
    rfl
  obtain ⟨f, hf, hland⟩ := landVals_laneDone h h1.clash hagents hclk []
  exact ⟨f, by rw [exec_storeAccept, he, ← hf]; rfl, hland⟩

end Store

/-! ## Atomics (R235) -/

section Atomic
variable {s : State} {op a : Nat} {ag : Agent} {o : Op} {x : Acc}

theorem performAtomic_one (h : OneLane o x) (s : State) (a : Nat) (ag : Agent) {sp : Space} (aop : Nat) {ord : Nat} (sch data : Nat)
    (hord : sp = .scr ∨ ord % 2 = 0) : s.performAtomic a ag o sp aop ord sch data o.todo [] =
      let r := s.atomAcc ag sp aop x
      let t := (r.1.landVals a o (landing false data x r.2)).laneDone a o.id o.todo
      if sp = .glob then t.eccRead (ag.raiser o.fid o.pc) [x.pa] else t := by
  have hchk : ¬(sp = .glob ∧ ord % 2 = 1) := by
    rintro ⟨rfl, h1⟩
    rcases hord with h | h
    · cases h
    · omega
  simp [State.performAtomic, h.accs, State.atomAll, laneFail_nil, landing, hchk]

/-- The one access of an atomic that is due is performed: its old value lands, and the operation is done. -/
theorem atomicReturn_lands (h : OpDue s op a ag o) (h1 : OneLane o x) (hb : ag.blocked o o.todo = false) {sp : Space} {aop ord sch data : Nat}
    (hk : o.kind = .atomic sp aop ord sch data) (hord : sp = .scr ∨ ord % 2 = 0) (hs : sp = .scr ∨ s.onCard x.pa = true) {u : State} {old : Nat}
    (hu : s.atomAcc ag sp aop x = (u, old)) (hagents : u.agents = s.agents) (hclk : u.clk = s.clk) (hbad : u.bad = []) :
    ∃ f, exec (.atomicReturn op o.todo []) s = .next (u.updAgent a f)
      ∧ landsAs s (u.updAgent a f) a (ag.landed (landing false data x old)) op o.rej := by
  have hl : o.localLanes s = o.todo := by
    simp only [Op.localLanes, hk]
    exact h1.cardLanes hs
  have hwhole : o.atomWhole sp o.todo = true := by simp [Op.atomWhole]
  have hne : o.todo ≠ 0#64 := h1.todo_ne
  have he : execAtomicReturn op o.todo [] s = .next (s.performAtomic a ag o sp aop ord sch data o.todo []) := by
    simp [execAtomicReturn, h.owner, h.enabled, hk, hne, hb, hwhole, hl]
  obtain ⟨f, hf, hland⟩ := performed h h1.clash hagents hclk hbad (landing false data x old) (sp = .glob) (ag.raiser o.fid o.pc) [x.pa]
  refine ⟨f, ?_, hland⟩
  rw [exec_atomicReturn, he, performAtomic_one h1 s a ag aop sch data hord]
  simp only [hu, hf]

theorem atomAcc_scr (s : State) (ag : Agent) (aop : Nat) (x : Acc) : let old := rdN (s.teamOf ag).scr x.n x.pa
    ∃ ts, s.atomAcc ag .scr aop x = ({ s with teams := ts }, old) ∧ ∀ tm, KMap.find? ts tm = (s.team? tm).map fun y =>
      if tm = ag.team then { y with scr := ((atomVal aop x.n old x.x.toNat x.y.toNat).map (wrN y.scr x.n x.pa)).getD y.scr } else y := by
  intro old
  cases hv : atomVal aop x.n old x.x.toNat x.y.toNat with
  | none => exact ⟨s.teams, by simp only [State.atomAcc, old, hv], fun tm => by simp [State.team?]⟩
  | some v =>
    exact ⟨KMap.upd s.teams ag.team fun t => { t with scr := wrN t.scr x.n x.pa v }, by simp only [State.atomAcc, old, hv]; rfl,
      fun tm => team?_updTeam s ag.team tm fun t => { t with scr := wrN t.scr x.n x.pa v }⟩

theorem atomAcc_card (hr : s.reuse = []) (aop : Nat) : ∃ ts cs, s.atomAcc ag .glob aop x =
    ({ s with mem := ((atomVal aop x.n (rdN s.mem x.n x.pa) x.x.toNat x.y.toNat).map fun v => wrBytes s.mem x.pa (bytesOf x.n v)).getD s.mem,
              tasks := ts, cores := cs }, rdN s.mem x.n x.pa) := by
  cases hv : atomVal aop x.n (rdN s.mem x.n x.pa) x.x.toNat x.y.toNat with
  | none => exact ⟨s.tasks, s.cores, by simp only [State.atomAcc, State.readN, hv]; rfl⟩
  | some v =>
    obtain ⟨ts, hts⟩ := devWrite_of_no_reuse hr x.pa (bytesOf x.n v)
    exact ⟨ts, _, by simp only [State.atomAcc, State.readN, hv, hts]; rfl⟩

end Atomic

/-! ## A lane of TXLD out of range (R246) -/

theorem imgWords_zero (w128 : Bool) : imgWords w128 [0, 0, 0, 0] = List.replicate (if w128 then 4 else 2) 0 := by cases w128 <;> decide

/-- The words of a lane that reads nothing. -/
def zeroWords (data n l : Nat) : List (Reg × Nat × Dword) := (List.range n).map fun k => (.v (data + k), l, 0)

theorem vr_setReg_zero (ag : Agent) (i j l : Nat) : (ag.setReg (.v i) [(l, 0)]).vr j l = if j = i then 0 else ag.vr j l := by
  have hset : (ag.setReg (.v i) [(l, 0)]).vregs = KMap.set 0 ag.vregs (64 * i + l) 0 := rfl
  rw [Agent.vr, hset]
  by_cases h : j = i
  · rw [h, KMap.get_set_self, if_pos rfl]
  · rw [KMap.get_set_ne _ (by omega), if_neg h, Agent.vr]

theorem vr_landed_zero (ag : Agent) (l j : Nat) (is : List Nat) :
    (ag.landed (is.map fun i => (Reg.v i, l, 0))).vr j l = if j ∈ is then 0 else ag.vr j l := by
  induction is generalizing ag with
  | nil => simp
  | cons i is ih =>
    rw [List.map_cons, landed_cons, ih, vr_setReg_zero]
    by_cases hi : j = i <;> simp [hi]

theorem vr_landed_zeroWords (ag : Agent) {data n l k : Nat} (hk : k < n) : (ag.landed (zeroWords data n l)).vr (data + k) l = 0 := by
  have h := vr_landed_zero ag l (data + k) ((List.range n).map (data + ·))
  rw [List.map_map] at h
  exact h.trans (if_pos (List.mem_map.mpr ⟨k, List.mem_range.mpr hk, rfl⟩))

section Image
variable {s : State} {op a : Nat} {ag : Agent} {o : Op} {data hint l : Nat} {w128 : Bool} {d : BitVec 512} {c : List Word}

theorem mayLoad_image (hk : o.kind = .image data w128 hint d none [(l, c)]) (hacc : o.acc = []) (hl : l < 64) (ht : o.todo = laneBit l) :
    o.mayLoad s ag o.todo [] = true := by
  have hne : o.todo ≠ 0#64 := ht ▸ laneBit_ne_zero hl
  have hb : ag.blocked o o.todo = false := by simp [Agent.blocked, hacc]
  have hlocal : o.localLanes s = o.todo := by
    simp only [Op.localLanes, hk]
    exact (eq_maskOf_filter fun i hi => by simp [mem_lanesOf, hi, hacc]).symm
  simp [Op.mayLoad, hne, hb, hlocal]

theorem performImage_none (hacc : o.acc = []) (hl : l < 64) (ht : o.todo = laneBit l) (hnone : imgAddrs d none c = []) :
    s.performImage a ag o data w128 hint d none [(l, c)] o.todo [] =
      (s.landVals a o (zeroWords data (if w128 then 4 else 2) l)).laneDone a o.id o.todo := by
  have hleft : o.todo.getLsbD l = true := ht ▸ laneBit_self hl
  have hvalue : ∀ rd, imgValue d none c rd = [0, 0, 0, 0] := fun rd => by simp only [imgValue, hnone]
  have hwords : ((imgWords w128 [0, 0, 0, 0]).zipIdx.map fun w => (Reg.v (data + w.2), l, w.1.setWidth 64))
      = zeroWords data (if w128 then 4 else 2) l := by
    rw [imgWords_zero]
    cases w128 <;> rfl
  simp only [State.performImage, hacc, List.filter_nil, State.performImage.rd, List.filter_cons, hleft, if_true, List.flatMap_cons,
    List.flatMap_nil, List.append_nil, hvalue, hwords]

/-- A lane of TXLD out of range reads nothing and receives zeros. -/
theorem loadReturn_image (h : OpDue s op a ag o) (hk : o.kind = .image data w128 hint d none [(l, c)]) (hacc : o.acc = []) (hc : o.clash = [])
    (hl : l < 64) (ht : o.todo = laneBit l) (hnone : imgAddrs d none c = []) : brings (.loadReturn op o.todo []) s fun t => t.mem = s.mem
      ∧ landsAs s t a (ag.landed (zeroWords data (if w128 then 4 else 2) l)) op o.rej := by
  have hne : ¬o.todo = 0 := ht ▸ laneBit_ne_zero hl
  have he : execLoadReturn op o.todo [] s = .next (s.performImage a ag o data w128 hint d none [(l, c)] o.todo []) := by
    simp only [execLoadReturn, h.owner, if_neg h.enabled, hk, if_neg hne, mayLoad_image hk hacc hl ht, if_true]
  obtain ⟨f, hf, hland⟩ := landVals_laneDone (u := s) h hc rfl rfl (zeroWords data (if w128 then 4 else 2) l)
  refine ⟨_, (exec_loadReturn ..).trans he, ?_⟩
  rw [performImage_none hacc hl ht hnone, hf]
  exact ⟨rfl, hland⟩

end Image

/-! ## Sweeps (R189, R190, R192) -/

section Sweep
variable {s : State} {op a : Nat} {ag : Agent} {o : Op} {kind ty cnt rep stage : Nat} {sr : Bool} {d x y sd sx sy : Int}
  {ga gb gd : List Word}

/-- The operation after an access of its sweep. -/
def Op.swept (kind : OpKind) (em : Dword) (due : Nat) (q : Op) : Op := { q with kind := kind, em := em, due := due }

/-- An access of a sweep changes no register, and its operation as given. -/
theorem agent?_swept {u : State} (hag : u.agent? a = some ag) (kind : OpKind) (em : Dword) (due : Nat) :
    ∃ ag', (u.updAgent a fun g => g.updOp op (Op.swept kind em due)).agent? a = some ag' ∧ ag'.sregs = ag.sregs ∧ ag'.vregs = ag.vregs
      ∧ ∀ q ∈ ag'.ops, q.id = op → q.kind = kind ∧ q.due = due ∧ q.em = em := by
  refine ⟨ag.updOp op (Op.swept kind em due), by rw [agent?_updAgent_self, hag]; rfl, rfl, rfl, fun q hq hid => ?_⟩
  obtain ⟨p, hp, rfl⟩ := List.mem_map.mp hq
  by_cases hpid : p.id = op
  · rw [if_pos hpid]
    exact ⟨rfl, rfl, rfl⟩
  · exact absurd (by rwa [if_neg hpid] at hid) hpid

theorem filter_before {ops : List Op} (h : ∀ q ∈ ops, op ≤ q.id) (p r : Op → Bool) :
    (ops.filter fun q => decide (q.id < op) && p q && r q) = [] :=
  List.filter_eq_nil_iff.mpr fun q hq => by simp [Nat.not_lt.mpr (h q hq)]

theorem any_before {ops : List Op} (h : ∀ q ∈ ops, op ≤ q.id) (p : Op → Bool) : (ops.any fun q => decide (q.id < op) && p q) = false :=
  List.any_eq_false.mpr fun q hq => by simp [Nat.not_lt.mpr (h q hq)]

/-- A segment of an access lies in the partner core, in part at least. -/
def segFar (s : State) (ag : Agent) (off len : Nat) : Bool :=
  (s.teamOf ag).touchesPartner ag.core off || (s.teamOf ag).touchesPartner ag.core (off + len - 1)

/-- What a sweep keeps of segments in the partner core. -/
def sweepFars (s : State) (ag : Agent) (o : Op) (off len : Nat) : Dword := (if segFar s ag off len then 1#64 else 0) ||| o.em

theorem sweepAccs_ge (kind : Nat) : 2 ≤ sweepAccs kind := by
  unfold sweepAccs
  split
  · omega
  · split <;> omega

theorem sweepFars_eq_zero (s : State) (ag : Agent) (o : Op) (off len : Nat) :
    sweepFars s ag o off len = 0 ↔ ¬(segFar s ag off len = true ∨ o.em ≠ 0) := by
  have hor : ∀ x y : Dword, x ||| y = 0 ↔ x = 0 ∧ y = 0 := fun x y => BitVec.or_eq_zero_iff
  rw [sweepFars, hor]
  cases segFar s ag off len <;> simp

theorem sweepFars_far {s : State} {ag : Agent} {off len : Nat} (h : segFar s ag off len = true) (o : Op) :
    (sweepFars s ag o off len).getLsbD 0 = true := by
  rw [sweepFars, if_pos h, BitVec.getLsbD_or]
  rfl

section
variable (h : OpDue s op a ag o) (hk : o.kind = .sweep kind ty sr cnt rep stage d x y sd sx sy ga gb gd) (hr : rep ≠ cnt)
  (hfirst : ∀ q ∈ ag.ops, op ≤ q.id)
include h hk hr hfirst

theorem sweep_first (hst : stage = 0) : let off := (segAt x.toNat sx rep).toNat
    let n := segBytes kind ty
    execSweepSegmentAccess op s = .next (s.updAgent a fun g => g.updOp op (Op.swept
      (.sweep kind ty sr cnt rep 1 d x y sd sx sy (scrWords (s.teamOf ag) off (n.2.1 / 4)) gb gd) (sweepFars s ag o off n.2.1) (s.clk + 1))) := by
  have hno : ¬(rep = cnt ∨ s.clk < o.due) := by simpa [hr] using h.due
  have hlast : ¬stage = sweepAccs kind - 1 := by have := sweepAccs_ge kind; omega
  have hwrite : ¬(stage = sweepAccs kind - 1 ∨ kind = 2 ∧ stage = 2) := by omega
  have hsecond : ¬(kind = 2 ∧ stage = 2) := by omega
  intro off n
  simp only [execSweepSegmentAccess, h.owner, hk, if_neg hno, filter_before hfirst, any_before hfirst, List.any_nil, Bool.false_eq_true,
    if_false, if_neg hlast, if_neg hwrite, if_neg hsecond, if_pos hst, if_neg hr]
  rfl

theorem sweep_last (hst : stage = sweepAccs kind - 1) : let off := (segAt d.toNat sd rep).toNat
    let n := segBytes kind ty
    let out := sweepOut kind ty (if sr then some ((List.range (rep + 1)).foldl (fun z _ => srNext z) (o.sc.headD 0)) else none) ga gb gd
    let fars := sweepFars s ag o off n.1
    execSweepSegmentAccess op s = .next
      ((s.updTeam ag.team fun t => { t with scr := wrBytes t.scr off (out.flatMap fun w => bytesOf 4 w.toNat) }).updAgent a
        fun g => g.updOp op (Op.swept (.sweep kind ty sr cnt (rep + 1) 0 d x y sd sx sy [] [] []) fars
          (if rep + 1 = cnt then s.clk + 20 + (if fars = 0 then 0 else 16) else s.clk + 1))) := by
  have hno : ¬(rep = cnt ∨ s.clk < o.due) := by simpa [hr] using h.due
  have hwrite : stage = sweepAccs kind - 1 ∨ kind = 2 ∧ stage = 2 := .inl hst
  intro off n out fars
  simp only [execSweepSegmentAccess, h.owner, hk, if_neg hno, filter_before hfirst, any_before hfirst, List.any_nil, Bool.false_eq_true,
    if_false, if_pos hst, if_pos hwrite]
  rfl

end

end Sweep

/-! ## O46 -/

/-- Settles O46: each event finds its operation due and unblocked, its access leaves all but the state it names as it was, and landing
then touches only its own agent, whose operation is done with the last lane. -/
theorem accessesArePerformed : Obligations.AccessesArePerformed := by
  unfold Obligations.AccessesArePerformed
  intro s op a ag o howner hagent honly hret hdue
  have h : OpDue s op a ag o := ⟨howner, hagent, honly, hret, hdue⟩
  refine ⟨?lane, ?image, ?sweep⟩
  case lane =>
    intro x hacc hlane htodo hclash hb hbad done lands stays bytes
    have h1 : OneLane o x := ⟨hacc, hlane, htodo, hclash⟩
    refine ⟨?load, ?store, ?atomic⟩
    case load =>
      intro sp data scalar hint ldc hk hs
      have hx := loadReturn_lands h h1 hb hbad hk hs
      rw [landed_landing] at hx
      exact hx
    case store =>
      intro sp scalar hint ord hk
      refine ⟨?scr, ?card, ?host⟩
      case scr =>
        rintro rfl
        obtain ⟨f, he, hl⟩ := storeAccept_lands h h1 hb hk rfl rfl rfl
        exact ⟨_, he, rfl, hl, fun tm => team?_updTeam s ag.team tm fun y => { y with scr := wrBytes y.scr x.pa bytes }⟩
      case card =>
        rintro rfl hon hr
        obtain ⟨ts, cs, hu⟩ := storeAcc_card (a := a) (ag := ag) (o := o) (hint := hint) (ordered := ord.isSome) hon hr
        obtain ⟨f, he, hl⟩ := storeAccept_lands h h1 hb hk hu rfl rfl
        exact ⟨_, he, rfl, rfl, hl⟩
      case host =>
        rintro rfl hhost
        obtain ⟨f, he, hl⟩ := storeAccept_lands h h1 hb hk (storeAcc_host hhost) rfl rfl
        exact ⟨_, he, rfl, rfl, hl, rfl⟩
    case atomic =>
      intro sp aop ord sch data hk hord
      refine ⟨?scr, ?card⟩
      case scr =>
        rintro rfl old
        obtain ⟨ts, hu, hts⟩ := atomAcc_scr s ag aop x
        obtain ⟨f, he, hl⟩ := atomicReturn_lands h h1 hb hk hord (.inl rfl) hu rfl rfl hbad
        rw [landed_landing] at hl
        exact ⟨_, he, rfl, hl, hts⟩
      case card =>
        rintro rfl hon hr old
        obtain ⟨ts, cs, hu⟩ := atomAcc_card (ag := ag) (x := x) hr aop
        obtain ⟨f, he, hl⟩ := atomicReturn_lands h h1 hb hk hord (.inr hon) hu rfl rfl hbad
        rw [landed_landing] at hl
        exact ⟨_, he, rfl, hl, rfl⟩
  case image =>
    intro data w128 hint d c l hk hacc hclash hl htodo hnone
    obtain ⟨t, he, hmem, hother, ag', hag', -, hvr, hdone⟩ := loadReturn_image h hk hacc hclash hl htodo hnone
    refine ⟨t, he, hmem, hother, ag', hag', hdone, fun k hk => ?_⟩
    rw [Agent.vr, hvr]
    exact vr_landed_zeroWords ag hk
  case sweep =>
    intro kind ty sr cnt rep stage d x y sd sx sy ga gb gd hk hr hfirst tm n far
    have hfar : ∀ off len, segFar s ag off len = true ↔ far off len := fun off len => Iff.of_eq (Bool.or_eq_true ..)
    refine ⟨?first, ?last⟩
    case first =>
      intro hst off
      obtain ⟨ag', hag', hsr, hvr, hops⟩ := agent?_swept (op := op) hagent
        (.sweep kind ty sr cnt rep 1 d x y sd sx sy (scrWords tm off (n.2.1 / 4)) gb gd) (sweepFars s ag o off n.2.1) (s.clk + 1)
      refine ⟨_, (exec_sweepSegmentAccess ..).trans (sweep_first h hk hr hfirst hst), rfl, rfl, ag', hag', hsr, hvr, fun q hq hid => ?_⟩
      obtain ⟨hkind, hdue, hem⟩ := hops q hq hid
      refine ⟨hkind, hdue, fun hf => ?_⟩
      rw [hem]
      exact sweepFars_far ((hfar ..).mpr hf) o
    case last =>
      intro hst off out
      let u := s.updTeam ag.team fun z => { z with scr := wrBytes z.scr off (out.flatMap fun w => bytesOf 4 w.toNat) }
      let fars := sweepFars s ag o off n.1
      let due := if rep + 1 = cnt then s.clk + 20 + (if fars = 0 then 0 else 16) else s.clk + 1
      have hdues : due = s.clk + if rep + 1 ≠ cnt then 1 else if far off n.1 ∨ o.em ≠ 0 then 36 else 20 := by
        have hzero : fars = 0 ↔ ¬(far off n.1 ∨ o.em ≠ 0) := by rw [sweepFars_eq_zero, hfar]
        simp only [due, hzero]
        grind
      obtain ⟨ag', hag', hsr, hvr, hops⟩ := agent?_swept (op := op) (u := u) hagent
        (.sweep kind ty sr cnt (rep + 1) 0 d x y sd sx sy [] [] []) fars due
      refine ⟨_, (exec_sweepSegmentAccess ..).trans (sweep_last h hk hr hfirst hst), rfl, fun tm' => team?_updTeam s ag.team tm' fun z =>
        { z with scr := wrBytes z.scr off (out.flatMap fun w => bytesOf 4 w.toNat) }, ag', hag', hsr, hvr, fun q hq hid => ?_⟩
      obtain ⟨hkind, hdue, -⟩ := hops q hq hid
      exact ⟨hkind, hdue.trans hdues⟩


end Sys2Proof.Machine
end


section

namespace Sys2Proof.Machine

open Sys2Proof Sys2Proof.Safety

/-! ## O8: what leaves memory as it is

`State.f_mem` says that the function `f` of the model changes no byte of memory; where `f` can fail, its hypothesis says which state it
answers with. The few functions that do write are in the next section. -/

theorem ite_mem {p : Prop} [Decidable p] {a b : State} {m : KMap Byte} (ha : a.mem = m) (hb : b.mem = m) :
    (if p then a else b).mem = m := by
  split <;> assumption

theorem foldl_mem {β : Type} {f : State → β → State} (h : ∀ s b, (f s b).mem = s.mem) (l : List β) (s : State) :
    (l.foldl f s).mem = s.mem :=
  List.foldlRecOn (motive := fun t => t.mem = s.mem) l f rfl fun t ht b _ => (h t b).trans ht

theorem foldl_fst_mem {β γ : Type} {f : State × γ → β → State × γ} (h : ∀ r b, (f r b).1.mem = r.1.mem) (l : List β)
    (r : State × γ) : (l.foldl f r).1.mem = r.1.mem :=
  List.foldlRecOn (motive := fun t => t.1.mem = r.1.mem) l f rfl fun t ht b _ => (h t b).trans ht

theorem fst_mk_mem {β : Type} {t : State} {b : β} {m : KMap Byte} (h : t.mem = m) : (t, b).1.mem = m := h

@[simp] theorem State.signal_mem (s : State) (v : Nat) : (s.signal v).mem = s.mem := by
  unfold State.signal
  dsimp only
  (repeat' split) <;> simp

@[simp] theorem State.notice_mem (s : State) (r : Raiser) (f : Flt) : (s.notice r f).mem = s.mem := by
  simp [State.notice]

@[simp] theorem State.replay_mem (s : State) (r : Raiser) (cls : Nat) (f : Flt) (ref : TokRef) : (s.replay r cls f ref).mem = s.mem := by
  simp [State.replay]

@[simp] theorem State.fatal_mem (s : State) (r : Raiser) (f : Flt) : (s.fatal r f).mem = s.mem := by
  unfold State.fatal
  split <;> rfl

@[simp] theorem State.eccCount_mem (s : State) (unc : Bool) (loc struct : Nat) : (s.eccCount unc loc struct).mem = s.mem :=
  ite_mem ((State.barWr_mem ..).trans (State.barPut_mem ..)) (State.barPut_mem ..)

@[simp] theorem State.eccNote_mem (s : State) (pa : Nat) (unc : Bool) : (s.eccNote pa unc).mem = s.mem := by
  simp [State.eccNote]

@[simp] theorem State.raise_mem (s : State) (a fid : Nat) (f : Flt) : (s.raise a fid f).mem = s.mem := by
  unfold State.raise
  (repeat' split) <;> simp

@[simp] theorem State.fillL1_mem (s : State) (core : Nat) (t : Tlb) : (s.fillL1 core t).mem = s.mem := by
  simp [State.fillL1]

@[simp] theorem State.fillL2_mem (s : State) (die : Nat) (t : Tlb) : (s.fillL2 die t).mem = s.mem := by
  simp [State.fillL2]

@[simp] theorem State.l1Read_mem (s : State) (core pa n hint : Nat) : (s.l1Read core pa n hint).1.mem = s.mem := by
  unfold State.l1Read
  dsimp only
  (repeat' split) <;> simp

@[simp] theorem State.l1Store_mem (s : State) (core pa hint : Nat) (bs : List Byte) : (s.l1Store core pa hint bs).mem = s.mem := by
  unfold State.l1Store
  dsimp only
  (repeat' split) <;> simp

@[simp] theorem State.l1Drop_mem (s : State) (core : Nat) (p : Nat → Bool) : (s.l1Drop core p).mem = s.mem := by
  simp [State.l1Drop]

@[simp] theorem State.l1Inval_mem (s : State) (core : Nat) : (s.l1Inval core).mem = s.mem := by
  simp [State.l1Inval]

@[simp] theorem State.openLines_mem (s : State) (pas : List Nat) : (s.openLines pas).mem = s.mem := by
  simp [State.openLines]

@[simp] theorem State.missOne_mem (s : State) (core ctx va : Nat) : (s.missOne core ctx va).1.mem = s.mem := by
  unfold State.missOne
  (repeat' split) <;> simp

@[simp] theorem State.missHold_mem (s : State) (core ctx : Nat) (vas : List Nat) : (s.missHold core ctx vas).1.mem = s.mem := by
  have h := foldl_fst_mem (f := fun (acc : State × Option Nat) va =>
    ((acc.1.missOne core ctx va).1, acc.2 <|> (acc.1.missOne core ctx va).2)) (fun r b => State.missOne_mem ..) vas (s, none)
  unfold State.missHold
  dsimp only
  split <;> exact h

@[simp] theorem State.scopeOne_mem (s : State) (me : Dword) (scope : Nat) (kind : Option Nat) (pa : Nat) :
    (s.scopeOne me scope kind pa).2.mem = s.mem := by
  unfold State.scopeOne
  dsimp only
  (repeat' split) <;> simp

@[simp] theorem State.scopeAll_mem (s : State) (me : Dword) (scope : Nat) (kind : Option Nat) (l : List Acc) :
    (s.scopeAll me scope kind l).1.mem = s.mem := by
  induction l generalizing s with
  | nil => rfl
  | cons a l ih => simp [State.scopeAll, ih]

@[simp] theorem State.addHostReqs_mem (s : State) (a op : Nat) (each : Bool) (accs : List Acc) :
    (s.addHostReqs a op each accs).mem = s.mem := by
  simp [State.addHostReqs, foldl_mem]

@[simp] theorem State.startOp_mem (s : State) (a : Nat) (o : Op) : (s.startOp a o).mem = s.mem := by
  simp [State.startOp]

@[simp] theorem State.finishHold_mem (s : State) (c : Iss) (stl extra : Nat) : (s.finishHold c stl extra).mem = s.mem := by
  simp [State.finishHold]

@[simp] theorem State.hold_mem (s : State) (c : Iss) (w : Wait) (phase : Nat) : (s.hold c w phase).mem = s.mem := by
  simp [State.hold]

@[simp] theorem State.holdOp_mem (s : State) (c : Iss) (id : Nat) : (s.holdOp c id).mem = s.mem := by
  simp [State.holdOp]

@[simp] theorem State.issueMem_mem (s : State) (m : MemIns) (c : Iss) (p : Bool × Bool) (accs : List Acc) :
    (s.issueMem m c p accs).mem = s.mem := by
  unfold State.issueMem
  extract_lets sp r bad s1 live id dead o s1b s2 s3 host s4 far
  have h1 : s1.mem = s.mem := by
    simp only [s1, r]
    (repeat' split) <;> simp
  have h2 : s2.mem = s.mem := (State.startOp_mem ..).trans (ite_mem ((State.openLines_mem ..).trans h1) h1)
  have h3 : s3.mem = s.mem := ite_mem ((State.l1Drop_mem ..).trans h2) h2
  have h4 : s4.mem = s.mem := by
    simp only [s4]
    split
    · exact h3
    · exact ite_mem ((State.addHostReqs_mem ..).trans h3) h3
  refine ite_mem ((State.holdOp_mem ..).trans h4) ?_
  split
  · exact (State.updFrag_mem ..).trans h4
  · exact (State.raise_mem ..).trans h4

@[simp] theorem State.landVals_mem (s : State) (a : Nat) (o : Op) (vals : List (Reg × Nat × Dword)) :
    (s.landVals a o vals).mem = s.mem := by
  exact foldl_mem (fun s v => by (repeat' split) <;> simp) _ _

@[simp] theorem State.returnOp_mem (s : State) (a id : Nat) : (s.returnOp a id).mem = s.mem := by
  simp [State.returnOp]

@[simp] theorem State.laneDone_mem (s : State) (a id : Nat) (lanes : Dword) : (s.laneDone a id lanes).mem = s.mem := by
  unfold State.laneDone
  dsimp only
  (repeat' split) <;> simp

@[simp] theorem State.laneFail_mem (s : State) (a id : Nat) (bad : List (Nat × Flt)) : (s.laneFail a id bad).mem = s.mem := by
  simp [State.laneFail]

@[simp] theorem State.readAcc_mem (s : State) (ag : Agent) (sp : Space) (plain : Bool) (hint : Nat) (x : Acc) :
    (s.readAcc ag sp plain hint x).1.mem = s.mem := by
  unfold State.readAcc
  (repeat' split) <;> simp

@[simp] theorem State.loadVals_mem (s : State) (ag : Agent) (sp : Space) (plain : Bool) (hint : Nat) (ext : List Byte) (l : List Acc) :
    (s.loadVals ag sp plain hint ext l).1.mem = s.mem := by
  induction l generalizing s ext with
  | nil => rfl
  | cons x l ih =>
    simp only [State.loadVals, ih]
    split <;> simp

@[simp] theorem State.eccRead_mem (s : State) (r : Raiser) (pas : List Nat) : (s.eccRead r pas).mem = s.mem := by
  unfold State.eccRead
  dsimp only
  (repeat' split) <;> simp [foldl_mem]

@[simp] theorem State.performLoad_mem (s : State) (a : Nat) (ag : Agent) (o : Op) (sp : Space) (data : Nat) (scalar : Bool) (hint : Nat)
    (ord : Option Nat)
    (lanes : Dword) (ext : List Byte) : (s.performLoad a ag o sp data scalar hint ord lanes ext).mem = s.mem := by
  unfold State.performLoad
  cases ord <;> dsimp only <;> split <;> simp

@[simp] theorem State.hostFail_mem (s : State) (a : Nat) (o : Op) (x : Acc) (detail : Nat) : (s.hostFail a o x detail).mem = s.mem := by
  unfold State.hostFail
  dsimp only
  (repeat' split) <;> simp

@[simp] theorem State.hostReturn_mem (s : State) (a id : Nat) : (s.hostReturn a id).mem = s.mem := by
  unfold State.hostReturn
  (repeat' split) <;> simp

@[simp] theorem State.hostIssue_mem (s : State) (a id fuel : Nat) : (s.hostIssue a id fuel).mem = s.mem := by
  induction fuel generalizing s with
  | zero => rfl
  | succ fuel ih =>
    unfold State.hostIssue
    (repeat' split) <;> simp [ih]

@[simp] theorem State.performImage_rd_mem (s : State) (ag : Agent) (hint : Nat) (ext : List Byte) (l : List Acc) :
    (State.performImage.rd ag hint s ext l).1.mem = s.mem := by
  induction l generalizing s ext with
  | nil => rfl
  | cons x l ih =>
    simp only [State.performImage.rd, ih]
    (repeat' split) <;> simp

@[simp] theorem State.performImage_mem (s : State) (a : Nat) (ag : Agent) (o : Op) (data : Nat) (w128 : Bool) (hint : Nat)
    (d : BitVec 512) (smp : Option (BitVec 256)) (co : List (Nat × List Word)) (lanes : Dword) (ext : List Byte) :
    (s.performImage a ag o data w128 hint d smp co lanes ext).mem = s.mem := by
  simp [State.performImage]

@[simp] theorem State.logHerr_mem (s : State) (bit pa : Nat) : (s.logHerr bit pa).mem = s.mem := by
  unfold State.logHerr
  dsimp only
  (repeat' split) <;> simp

@[simp] theorem State.hostAnswer_mem (s : State) (a : Nat) (o : Op) (x : Acc) (status : Nat) (val : Dword) :
    (s.hostAnswer a o x status val).mem = s.mem := by
  unfold State.hostAnswer
  split
  · dsimp only
    (repeat' split) <;> simp
  · rfl

@[simp] theorem State.hostLand_mem (s : State) (a : Nat) (ag : Agent) (o : Op) (lanes : Dword) (pa : Nat) (line : List Byte) :
    (s.hostLand a ag o lanes pa line).mem = s.mem := by
  unfold State.hostLand
  split <;> simp

@[simp] theorem State.setHandle_mem (s : State) (k : Nat) (x : Handle) : (s.setHandle k x).mem = s.mem := by
  simp [State.setHandle]

@[simp] theorem State.hdrPut_mem (s : State) (x : Handle) (off n v : Nat) : (s.hdrPut x off n v).mem = s.mem := by
  simp [State.hdrPut]

@[simp] theorem State.hdrCounts_mem (s : State) (x : Handle) : (s.hdrCounts x).mem = s.mem := by
  simp [State.hdrCounts]

@[simp] theorem State.openFill_mem (s : State) (k : Nat) (x : Handle) (expect : Nat) : (s.openFill k x expect).mem = s.mem := by
  simp [State.openFill]

@[simp] theorem State.sectorIn_mem (s : State) (k j : Nat) : (s.sectorIn k j).mem = s.mem := by
  unfold State.sectorIn
  dsimp only
  (repeat' split) <;> simp

@[simp] theorem State.sectorOut_mem (s : State) (k j : Nat) : (s.sectorOut k j).mem = s.mem := by
  unfold State.sectorOut
  dsimp only
  (repeat' split) <;> simp

@[simp] theorem State.padAdd_mem (s : State) (x : Handle) (n : Nat) : (s.padAdd x n).mem = s.mem := by
  simp [State.padAdd]

@[simp] theorem State.consume_mem (s : State) (k : Nat) (x : Handle) : (s.consume k x).mem = s.mem := by
  unfold State.consume
  dsimp only
  (repeat' split) <;> simp

@[simp] theorem State.deferDone_mem (s : State) : (s.deferDone).mem = s.mem := by
  exact foldl_mem (fun s p => by split <;> simp) _ _

@[simp] theorem State.publish_mem (s : State) (k : Nat) (x : Handle) (n : Nat) : (s.publish k x n).mem = s.mem := by
  simp [State.publish]

theorem State.hdescWr_mem {s t : State} {ag : Agent} {h : Nat} {v : Dword} (e : s.hdescWr ag h v = .ok t) : t.mem = s.mem := by
  unfold State.hdescWr at e
  dsimp only at e
  (repeat' split at e) <;> cases e <;> rfl

@[simp] theorem State.handleAcquire_mem (s : State) (ag : Agent) : (s.handleAcquire ag).mem = s.mem := by
  unfold State.handleAcquire
  split <;> simp

@[simp] theorem State.putS_mem (s : State) (c : Iss) (r : Nat) (x : Dword) (ready : Nat) : (s.putS c r x ready).mem = s.mem := by
  simp [State.putS]

@[simp] theorem State.sysDone_mem (s : State) (c : Iss) (stl : Nat) : (s.sysDone c stl).mem = s.mem := by
  unfold State.sysDone
  split <;> simp

@[simp] theorem State.unitRead_mem (s : State) (pa n : Nat) : (s.unitRead pa n).1.mem = s.mem := by
  unfold State.unitRead
  split <;> simp

theorem State.lockPut_mem {s t : State} {op : Nat} {x : Nat × BitVec 128} (e : s.lockPut op x = some t) : t.mem = s.mem := by
  obtain ⟨i, -, rfl⟩ := Option.map_eq_some_iff.mp e
  rfl

theorem State.lockAll_mem {s t : State} {op : Nat} {l : List (Nat × BitVec 128)} (e : s.lockAll op l = some t) : t.mem = s.mem := by
  induction l generalizing s with
  | nil => cases e; rfl
  | cons x l ih =>
    obtain ⟨u, h1, h2⟩ := Option.bind_eq_some_iff.mp e
    rw [ih h2, State.lockPut_mem h1]

@[simp] theorem State.lockAll_getD_mem (s : State) (op : Nat) (l : List (Nat × BitVec 128)) :
    ((s.lockAll op l).getD s).mem = s.mem := by
  cases h : s.lockAll op l with
  | none => rfl
  | some t => exact State.lockAll_mem h

@[simp] theorem State.unlock_mem (s : State) (op : Nat) : (s.unlock op).mem = s.mem := by
  exact foldl_mem (fun s p => by split <;> simp) _ _

@[simp] theorem State.setBank_mem (s : State) (core p : Nat) (b : Bank) : (s.setBank core p b).mem = s.mem := by
  simp [State.setBank]

@[simp] theorem State.setEng_mem (s : State) (core part : Nat) (e : Eng) : (s.setEng core part e).mem = s.mem := by
  simp [State.setEng]

@[simp] theorem State.spillBank_mem (s : State) (core p tag : Nat) : (s.spillBank core p tag).mem = s.mem := by
  simp [State.spillBank]

@[simp] theorem State.dropBank_mem (s : State) (ctx core p : Nat) : (s.dropBank ctx core p).mem = s.mem := by
  unfold State.dropBank
  split <;> simp

@[simp] theorem State.grantBanks_mem (s : State) (a core first n ctx : Nat) : (s.grantBanks a core first n ctx).mem = s.mem := by
  simp [State.grantBanks, foldl_mem]

@[simp] theorem State.startMtx_mem (s : State) (c : Iss) (opc : Nat) (f : FMTX) (pl : MPlan) (addr : Nat) (dsts : Regs) (due : Nat) :
    (s.startMtx c opc f pl addr dsts due).mem = s.mem := by
  simp [State.startMtx]

@[simp] theorem State.mtxNext_mem (s : State) (c : Iss) (stl : Nat) : (s.mtxNext c stl).mem = s.mem := by
  simp [State.mtxNext]

@[simp] theorem State.grantHead_mem (s : State) (core : Nat) : (s.grantHead core).mem = s.mem := by
  unfold State.grantHead
  (repeat' split) <;> simp

theorem State.tagFault_mem {s t : State} {c : Iss} {p : Nat} (e : s.tagFault c p = some t) : t.mem = s.mem := by
  unfold State.tagFault at e
  dsimp only at e
  (repeat' split at e) <;> cases e <;> simp

theorem State.pagesMiss_mem {s t : State} {c : Iss} {vas : List Nat} (e : s.pagesMiss c vas = some t) : t.mem = s.mem := by
  unfold State.pagesMiss at e
  dsimp only at e
  split at e <;> cases e
  simp

theorem State.blkFetch_mem (s : State) (c : Iss) (a : Nat) :
    (s.blkFetch c a).2.1.mem = s.mem ∧ ∀ t, (s.blkFetch c a).1 = some t → t.mem = s.mem := by
  unfold State.blkFetch
  dsimp only
  (repeat' split) <;> simp
  exact State.pagesMiss_mem ‹_›

@[simp] theorem State.quadJoin_mem (s : State) (c : Iss) (tag : Nat) : (s.quadJoin c tag).mem = s.mem := by
  unfold State.quadJoin
  dsimp only
  (repeat' split) <;> simp

@[simp] theorem State.bankRead_mem (s : State) (core p first n : Nat) (busy : Bool) : (s.bankRead core p first n busy).1.mem = s.mem := by
  unfold State.bankRead
  split <;> simp

@[simp] theorem State.setLeave_mem (s : State) (h : Nat) (l : Leave) : (s.setLeave h l).mem = s.mem := by
  simp [State.setLeave]

@[simp] theorem State.updMtx_mem (s : State) (a id : Nat) (due : Nat) (f : Mtx → Mtx) : (s.updMtx a id due f).mem = s.mem := by
  simp [State.updMtx]

@[simp] theorem State.slotFree_mem (s : State) (core part x id e : Nat) : (s.slotFree core part x id e).mem = s.mem := by
  simp [State.slotFree]

@[simp] theorem State.beginMtx_mem (s : State) (a : Nat) (ag : Agent) (o : Op) (f : FMTX) (m : Mtx) (opc : Nat) :
    (s.beginMtx a ag o f m opc).mem = s.mem := by
  unfold State.beginMtx
  split <;> simp

@[simp] theorem State.winVals_mem (s : State) (ag : Agent) (o : Op) (m : Mtx) : (s.winVals ag o m).1.mem = s.mem := by
  refine foldl_fst_mem (fun r d => ?_) _ _
  split
  · rfl
  · exact foldl_fst_mem (fun r l => by dsimp only; split <;> rfl) _ _

@[simp] theorem State.endMtx_mem (s : State) (a : Nat) (o : Op) (m : Mtx) (array : Bool) : (s.endMtx a o m array).mem = s.mem := by
  unfold State.endMtx
  dsimp only
  (repeat' split) <;> simp

@[simp] theorem State.putVals_mem (s : State) (core p : Nat) (v : KMap (BitVec 40)) : (s.putVals core p v).mem = s.mem := by
  simp [State.putVals]

@[simp] theorem State.fetchRanges_mem (s : State) (a id : Nat) (m : Mtx) (rs : List (Nat × Nat)) :
    (s.fetchRanges a id m rs).mem = s.mem := by
  simp only [State.fetchRanges, State.updAgent_mem]
  refine foldl_fst_mem (fun r q => foldl_fst_mem (fun r q => ?_) _ _) _ _
  exact State.unitRead_mem ..

@[simp] theorem State.quadEnd_mem (s : State) (qs : List (Nat × Agent × Op)) : (s.quadEnd qs).mem = s.mem := by
  unfold State.quadEnd
  dsimp only
  rw [foldl_mem fun s q => by split <;> simp]
  exact foldl_fst_mem (fun r q => by split <;> simp) _ _

theorem State.fetchPages_mem {s t : State} {ag : Agent} {va n : Nat} {again : Bool} {w : Wait}
    (e : s.fetchPages ag va n again = .error (.inr (t, w))) : t.mem = s.mem := by
  unfold State.fetchPages at e
  split at e
  · cases e
  · revert e
    refine List.foldlRecOn (motive := fun acc : Except (Flt ⊕ (State × Wait)) _ => acc = .error (.inr (t, w)) → t.mem = s.mem)
      (pageParts va n) _ (fun h => nomatch h) ?_
    intro acc ih p _ h
    split at h
    · exact ih h
    · extract_lets dead at h
      split at h
      · obtain ⟨rfl, -⟩ := Prod.ext_iff.mp (Sum.inr.inj (Except.error.inj h))
        exact State.missHold_mem ..
      · (repeat' split at h) <;> cases h

@[simp] theorem State.ccTouch_mem (s : State) (core : Nat) (ws : List Nat) : (s.ccTouch core ws).mem = s.mem := by
  simp [State.ccTouch]

@[simp] theorem State.markReady_mem (s : State) : (s.markReady).mem = s.mem := by
  simp [State.markReady]

@[simp] theorem State.partsRead_mem (s : State) (ps : List (Nat × Nat × Nat)) : (s.partsRead ps).1.mem = s.mem := by
  induction ps generalizing s with
  | nil => rfl
  | cons p ps ih => simp [State.partsRead, ih]

theorem State.ctxRead_mem {s : State} {ctx va n : Nat} {r : State × Nat} (e : s.ctxRead ctx va n = .ok r) : r.1.mem = s.mem := by
  unfold State.ctxRead at e
  split at e <;> cases e
  simp

theorem State.recParts_mem {s t : State} {ag : Agent} {va n : Nat} {write again : Bool} {w : Wait}
    (e : s.recParts ag va n write again = .error (.inr (t, w))) : t.mem = s.mem := by
  unfold State.recParts at e
  revert e
  refine List.foldlRecOn (motive := fun acc : Except (Flt ⊕ (State × Wait)) _ => acc = .error (.inr (t, w)) → t.mem = s.mem)
    (pageParts va n) _ (fun h => nomatch h) ?_
  intro acc ih p _ h
  split at h
  · exact ih h
  · extract_lets dead at h
    split at h
    · obtain ⟨rfl, -⟩ := Prod.ext_iff.mp (Sum.inr.inj (Except.error.inj h))
      exact State.missHold_mem ..
    · (repeat' split at h) <;> cases h

theorem State.recStop_mem {s : State} {c : Iss} {ag : Agent} {va n : Nat} {write again : Bool} {r : Flt ⊕ (State × Wait)}
    (e : s.recParts ag va n write again = .error r) : (s.recStop c r).mem = s.mem := by
  cases r with
  | inl f => exact State.raise_mem ..
  | inr h => exact (State.updFrag_mem ..).trans (State.recParts_mem e)

theorem State.relStop_mem {s t : State} {c : Iss} {phase : Nat} (e : s.relStop c phase = some t) : t.mem = s.mem := by
  unfold State.relStop at e
  split at e
  · cases e
    simp
  · obtain ⟨f, -, rfl⟩ := Option.map_eq_some_iff.mp e
    simp

@[simp] theorem State.recordLost_mem (s : State) (agent ctx addr kind : Nat) : (s.recordLost agent ctx addr kind).mem = s.mem := by
  simp [State.recordLost]

@[simp] theorem State.updGrid_mem (s : State) (g : Nat) (f : Grid → Grid) : (s.updGrid g f).mem = s.mem := by
  simp [State.updGrid]

@[simp] theorem State.addGrid_mem (s : State) (g : Grid) : (s.addGrid g).mem = s.mem := by
  simp [State.addGrid]

theorem State.readDesc_mem {s : State} {ctx a : Nat} {r : State × BitVec 512} (e : s.readDesc ctx a = .ok r) : r.1.mem = s.mem := by
  unfold State.readDesc at e
  (repeat' split at e) <;> cases e
  exact State.ctxRead_mem ‹_›

theorem State.readNodes_mem {s : State} {ctx table n i : Nat} {r : State × List GNode} (e : s.readNodes ctx table n i = .ok r) :
    r.1.mem = s.mem := by
  induction n generalizing s i r with
  | zero => cases e; rfl
  | succ n ih =>
    rw [State.readNodes] at e
    split at e
    · cases e
    · rename_i h1
      extract_lets _ _ _ _ at e
      split at e
      · cases e
      · split at e
        · cases e
        · split at e
          · cases e
          · rename_i h2
            split at e
            · cases e
            · rename_i h3
              cases e
              exact (ih h3).trans ((State.ctxRead_mem h2).trans (State.ctxRead_mem h1))

@[simp] theorem State.spawnNode_mem (s : State) (p i : Nat) : (s.spawnNode p i).mem = s.mem := by
  unfold State.spawnNode
  dsimp only
  (repeat' split) <;> simp
  all_goals exact State.readDesc_mem ‹_›

@[simp] theorem State.nodeDone_mem (s : State) (p i : Nat) (g : Grid) : (s.nodeDone p i g).mem = s.mem := by
  unfold State.nodeDone
  dsimp only
  (repeat' split) <;> simp [foldl_mem]

@[simp] theorem State.setQ_mem (s : State) (q : Nat) (x : QState) : (s.setQ q x).mem = s.mem := by
  simp [State.setQ]

@[simp] theorem State.qError_mem (s : State) (q : Nat) : (s.qError q).mem = s.mem := by
  simp [State.qError]

@[simp] theorem State.clearCore_mem (s : State) (core : Nat) : (s.clearCore core).mem = s.mem := by
  simp [State.clearCore]

@[simp] theorem State.addGroups_mem (s : State) (g : Grid) (serial team tm : Nat) (p : Spot) (n gidx : Nat) :
    (s.addGroups g serial team tm p n gidx).mem = s.mem := by
  induction n generalizing s gidx with
  | zero => rfl
  | succ n ih => simp [State.addGroups, ih]

@[simp] theorem State.addLeat_mem (s : State) (g : Grid) (tail : Bool) (team tm core img n : Nat) :
    (s.addLeat g tail team tm core img n).mem = s.mem := by
  unfold State.addLeat
  split <;> simp

@[simp] theorem State.addTeam_mem (s : State) (serial : Nat) (g : Grid) (team : Nat) (p : Spot) :
    (s.addTeam serial g team p).mem = s.mem := by
  unfold State.addTeam
  dsimp only
  split <;> simp

@[simp] theorem State.gridDone_mem (s : State) (k : Nat) (g : Grid) : (s.gridDone k g).mem = s.mem := by
  unfold State.gridDone
  split <;> simp

@[simp] theorem State.redCount_mem (s : State) : (s.redCount).mem = s.mem := by
  simp [State.redCount]

@[simp] theorem State.updXop_mem (s : State) (x : Nat) (f : Xop → Xop) : (s.updXop x f).mem = s.mem := by
  simp [State.updXop]

@[simp] theorem State.xHostReqs_mem (s : State) (id : Nat) (x : Xop) (p : Nat) : (s.xHostReqs id x p).mem = s.mem := by
  unfold State.xHostReqs
  refine foldl_mem (fun t l => ?_) _ _
  rfl

@[simp] theorem State.xRead_mem (s : State) (x : Xop) (p pa : Nat) (r : XRun) : (s.xRead x p pa r).1.mem = s.mem := by
  unfold State.xRead
  split
  · split
    · rfl
    · exact fst_mk_mem (State.unitRead_mem ..)
  · dsimp only
    split
    · split
      · exact fst_mk_mem (State.unitRead_mem ..)
      · rfl
    · exact fst_mk_mem (State.unitRead_mem ..)
  all_goals rfl

@[simp] theorem State.xReadAll_mem (s : State) (x : Xop) (p : Nat) (rs : List XRun) (pas : List Nat) :
    (s.xReadAll x p rs pas).1.mem = s.mem := by
  induction rs generalizing s pas with
  | nil => rfl
  | cons r rs ih => cases r <;> simp [State.xReadAll, ih]

@[simp] theorem State.xStore_mem (s : State) (x : Xop) (p : Nat) (bs : List Byte) : (s.xStore x p bs).mem = s.mem := by
  unfold State.xStore
  split <;> simp

@[simp] theorem State.leatGoes_mem (s : State) (a : Nat) : (s.leatGoes a).mem = s.mem := by
  simp [State.leatGoes]

@[simp] theorem State.collSend_mem (s : State) (id : Nat) (x : Xop) (p : Nat) : (s.collSend id x p).mem = s.mem := by
  unfold State.collSend
  dsimp only
  (repeat' split) <;> simp [foldl_mem]

@[simp] theorem State.pieceDone_mem (s : State) (id p : Nat) : (s.pieceDone id p).mem = s.mem := by
  simp [State.pieceDone]

@[simp] theorem State.xResume_mem (s : State) (id : Nat) (x : Xop) : (s.xResume id x).mem = s.mem := by
  simp [State.xResume]

@[simp] theorem State.lineLand_mem (s : State) (req x piece pa : Nat) (line : List Byte) :
    (s.lineLand req x piece pa line).mem = s.mem := by
  simp [State.lineLand]

@[simp] theorem State.lineAnswer_mem (s : State) (req : Nat) (r : HostReq) (piece status : Nat) (bytes : List Byte) :
    (s.lineAnswer req r piece status bytes).mem = s.mem := by
  unfold State.lineAnswer
  (repeat' split) <;> simp

@[simp] theorem State.xQueue_mem (s : State) (c : Iss) (x : Xop) : (s.xQueue c x).mem = s.mem := by
  simp [State.xQueue]

@[simp] theorem State.draw_mem (s : State) (n : Nat) : (s.draw n).1.mem = s.mem := by
  simp [State.draw]

@[simp] theorem State.rayGo_mem (s : State) (r : Ray) : (s.rayGo r).1.mem = s.mem := by
  simp [State.rayGo]

theorem State.sceneRead_error_mem {s t : State} {c : Iss} {a lat : Nat} (e : s.sceneRead c a lat = .error t) : t.mem = s.mem := by
  unfold State.sceneRead at e
  split at e
  · cases e
    exact State.raise_mem ..
  · split at e
    · cases e
      exact State.raise_mem ..
    · split at e
      · rename_i h
        cases e
        exact State.recStop_mem h
      · extract_lets at e
        split at e
        · cases e
          exact (State.updFrag_mem ..).trans (State.hold_mem ..)
        · cases e

theorem State.sceneRead_ok_mem {s : State} {c : Iss} {a lat : Nat} {r : State × BitVec 512} (e : s.sceneRead c a lat = .ok r) :
    r.1.mem = s.mem := by
  unfold State.sceneRead at e
  split at e
  · cases e
  · split at e
    · cases e
    · split at e
      · cases e
      · extract_lets at e
        split at e
        · cases e
        · cases e
          exact (State.setCore_mem ..).trans (State.partsRead_mem ..)

@[simp] theorem State.sceneDone_mem (s : State) (c : Iss) (stl : Nat) : (s.sceneDone c stl).mem = s.mem := by
  unfold State.sceneDone
  split <;> simp

@[simp] theorem State.startTrace_mem (s : State) (c : Iss) (vd : Nat) (act : Dword) (todo : Dword) (res : List (Nat × List Word)) :
    (s.startTrace c vd act todo res).mem = s.mem := by
  simp [State.startTrace]

@[simp] theorem State.rayResult_mem (s : State) (a l : Nat) (r : Ray) (due : Nat) : (s.rayResult a l r due).mem = s.mem := by
  simp [State.rayResult]

@[simp] theorem State.rayParked_mem (s : State) (a l : Nat) (r : Ray) (flt : Flt) : (s.rayParked a l r flt).mem = s.mem := by
  simp [State.rayParked]

@[simp] theorem State.setBuilder_mem (s : State) (die : Nat) (b : Builder) : (s.setBuilder die b).mem = s.mem := by
  simp [State.setBuilder]

theorem State.handleAt_mem {s : State} {ctx a : Nat} {r : State × Option (BitVec 512)} (e : s.handleAt ctx a = .ok r) :
    r.1.mem = s.mem := by
  unfold State.handleAt at e
  split at e
  · cases e
    rfl
  · split at e
    · cases e
    · rename_i h
      cases e
      exact State.ctxRead_mem h

theorem State.bindAll_mem {s : State} {ctx : Nat} {l : List (Nat × List Word)} {r : State × Option (KMap Nat)}
    (e : s.bindAll ctx l = .ok r) : r.1.mem = s.mem := by
  induction l generalizing s r with
  | nil => cases e; rfl
  | cons p l ih =>
    unfold State.bindAll at e
    split at e
    · cases e
    · rename_i h
      cases e
      exact State.handleAt_mem h
    · rename_i h
      split at e
      · cases e
        exact State.handleAt_mem h
      · split at e
        · cases e
        · rename_i h2
          cases e
          exact (ih h2).trans (State.handleAt_mem h)
        · rename_i h2
          cases e
          exact (ih h2).trans (State.handleAt_mem h)

@[simp] theorem State.planGen_mem (s : State) (die : Nat) (c : BuildCmd) (h : BitVec 512) (pkind nprim degen0 : Nat)
    (prs : List (Nat × List Word)) : (s.planGen die c h pkind nprim degen0 prs).1.mem = s.mem := by
  have hb : ∀ r, (if pkind = 2 then s.bindAll c.ctx prs else .ok (s, some [])) = .ok r → r.1.mem = s.mem := by
    intro r e
    split at e
    · exact State.bindAll_mem e
    · cases e
      rfl
  unfold State.planGen
  split
  · rfl
  · rename_i e
    exact hb _ e
  · rename_i e
    dsimp only
    split
    · exact hb _ e
    · split <;> exact hb _ e

@[simp] theorem State.planBuild_mem (s : State) (die : Nat) (c : BuildCmd) : (s.planBuild die c).1.mem = s.mem := by
  unfold State.planBuild
  extract_lets b
  split
  · rfl
  · split
    · rfl
    · rename_i h1
      exact State.handleAt_mem h1
    · rename_i h1
      have h := State.handleAt_mem h1
      split
      · exact h
      · split
        · exact (State.planGen_mem ..).trans h
        · split
          · exact h
          · rename_i h2
            exact (State.planGen_mem ..).trans ((State.ctxRead_mem h2).trans h)

@[simp] theorem State.setRun_mem (s : State) (die : Nat) (r : Build) : (s.setRun die r).mem = s.mem := by
  simp [State.setRun]

@[simp] theorem State.checkBuild_mem (s : State) (die : Nat) (r : Build) : (s.checkBuild die r).mem = s.mem := by
  have h := State.planBuild_mem s die r.cmd
  unfold State.checkBuild
  split
  · exact State.setRun_mem ..
  · rename_i e
    rw [e] at h
    exact (State.setRun_mem ..).trans h
  · rename_i e
    rw [e] at h
    simpa using h

@[simp] theorem State.endBuild_mem (s : State) (die : Nat) : (s.endBuild die).mem = s.mem := by
  simp [State.endBuild]

theorem State.bldDie_mem {s : State} {ctx scene : Nat} {r : State × Nat} (e : s.bldDie ctx scene = .ok r) : r.1.mem = s.mem := by
  unfold State.bldDie at e
  split at e
  · cases e
    rfl
  · split at e
    · cases e
    · rename_i h
      cases e
      exact fst_mk_mem (State.ctxRead_mem h :)

@[simp] theorem State.setLeaveQ_mem (s : State) (die : Nat) (q : List Nat) : (s.setLeaveQ die q).mem = s.mem := by
  simp [State.setLeaveQ]

@[simp] theorem State.setTaskBank_mem (s : State) (die k : Nat) (l : List TaskRec) : (s.setTaskBank die k l).mem = s.mem := by
  simp [State.setTaskBank]

@[simp] theorem State.insertTask_mem (s : State) (die k : Nat) (bits : BitVec 2048) (addr ctx : Nat) :
    (s.insertTask die k bits addr ctx).mem = s.mem := by
  simp [State.insertTask]

theorem State.read64_mem {s : State} {ctx a : Nat} {r : State × BitVec 512} (e : s.read64 ctx a = some r) : r.1.mem = s.mem := by
  unfold State.read64 at e
  (repeat' split at e) <;> cases e
  exact State.ctxRead_mem ‹_›

@[simp] theorem State.takeTask_mem (s : State) (die : Nat) (r : TaskRec) : (s.takeTask die r).mem = s.mem := by
  unfold State.takeTask
  extract_lets t0 rd s1 d rt s2 t why t'
  have h1 : s1.mem = s.mem := by
    cases h : rd with
    | none => simp [s1, h]
    | some q => simpa [s1, h] using State.read64_mem h
  have h2 : s2.mem = s1.mem := by
    cases h : rt with
    | none => simp [s2, h]
    | some q =>
      simp only [rt] at h
      split at h
      · simpa [s2, rt, *] using State.read64_mem h
      · cases h
        simp [s2, rt, *]
  exact h2.trans h1

@[simp] theorem State.updTask_mem (s : State) (t : Nat) (f : Task → Task) : (s.updTask t f).mem = s.mem := by
  simp [State.updTask]

@[simp] theorem State.taskPark_mem (s : State) (t : Nat) (x : Task) (opk : Nat) (f : Flt) : (s.taskPark t x opk f).mem = s.mem := by
  simp [State.taskPark]

@[simp] theorem State.taskDone_mem (s : State) (t : Nat) (x : Task) : (s.taskDone t x).mem = s.mem := by
  unfold State.taskDone
  split <;> simp

@[simp] theorem State.setFlow_mem (s : State) (f : Nat) (x : Flow) : (s.setFlow f x).mem = s.mem := by
  simp [State.setFlow]

@[simp] theorem State.mediaTime_mem (s : State) (f stamp : Nat) : (s.mediaTime f stamp).1.mem = s.mem := by
  simp [State.mediaTime]

@[simp] theorem State.pop_mem (s : State) (f form : Nat) (act : Dword) : (s.pop f form act).1.mem = s.mem := by
  simp [State.pop]

@[simp] theorem State.qframeDone_mem (s : State) (c : Iss) (sd stl st : Nat) : (s.qframeDone c sd stl st).mem = s.mem := by
  unfold State.qframeDone
  split <;> simp

@[simp] theorem State.frameOpen_mem (s : State) (flow pt : Nat) : (s.frameOpen flow pt).1.mem = s.mem := by
  unfold State.frameOpen
  dsimp only
  (repeat' split) <;> simp

@[simp] theorem State.substitute_mem (s : State) (flow k : Nat) (o : SendObj) : (s.substitute flow k o).mem = s.mem := by
  simp [State.substitute]

@[simp] theorem State.frameDone_mem (s : State) (flow : Nat) : (s.frameDone flow).1.mem = s.mem := by
  unfold State.frameDone
  dsimp only
  (repeat' split) <;> simp

@[simp] theorem State.frameNext_mem (s : State) (flow deadline : Nat) : (s.frameNext flow deadline).mem = s.mem := by
  simp [State.frameNext]

@[simp] theorem State.wallMiss_mem (s : State) (card : Nat) : (s.wallMiss card).mem = s.mem := by
  unfold State.wallMiss
  dsimp only
  (repeat' split) <;> simp

@[simp] theorem State.wallStatus_mem (s : State) (card n status : Nat) : (s.wallStatus card n status).mem = s.mem := by
  unfold State.wallStatus
  (repeat' split) <;> simp

@[simp] theorem State.wallEnable_mem (s : State) : (s.wallEnable).mem = s.mem := by
  simp [State.wallEnable]

@[simp] theorem State.wallSend_mem (s : State) (n : Nat) : (s.wallSend n).mem = s.mem := by
  unfold State.wallSend
  split <;> simp

@[simp] theorem State.dropTeam_mem (s : State) (t : Nat) (tm : Team) : (s.dropTeam t tm).mem = s.mem := by
  simp [State.dropTeam]

@[simp] theorem State.retryAgent_mem (s : State) (token a fid : Nat) (ag : Agent) : (s.retryAgent token a fid ag).mem = s.mem := by
  unfold State.retryAgent
  (repeat' split) <;> simp

@[simp] theorem State.dropToken_mem (s : State) (t : Nat) : (s.dropToken t).mem = s.mem := by
  simp [State.dropToken]

@[simp] theorem State.tlbDrop_mem (s : State) (scope ctx va : Nat) : (s.tlbDrop scope ctx va).mem = s.mem := by
  simp [State.tlbDrop]

@[simp] theorem State.cmdDone_mem (s : State) (ctx : Nat) : (s.cmdDone ctx).mem = s.mem := by
  unfold State.cmdDone
  dsimp only
  (repeat' split) <;> simp

@[simp] theorem State.discardBanks_mem (s : State) (ctx : Nat) : (s.discardBanks ctx).mem = s.mem := by
  simp [State.discardBanks, foldl_mem]

@[simp] theorem State.discardGrids_mem (s : State) (ctx : Nat) : (s.discardGrids ctx).mem = s.mem := by
  simp [State.discardGrids]

@[simp] theorem State.yieldTick_mem (s : State) : (s.yieldTick).mem = s.mem := by
  unfold State.yieldTick
  split <;> simp

@[simp] theorem State.moveHandles_mem (s : State) (t : Nat) (key : Nat → Nat) : (s.moveHandles t key).mem = s.mem := by
  simp [State.moveHandles]

@[simp] theorem State.restoreBank_mem (s : State) (a oldCore newCore ctx lb p : Nat) :
    (s.restoreBank a oldCore newCore ctx lb p).mem = s.mem := by
  unfold State.restoreBank
  dsimp only
  (repeat' split) <;> simp

@[simp] theorem State.restoreRays_mem (s : State) (a core : Nat) (ag : Agent) : (s.restoreRays a core ag).mem = s.mem := by
  simp [State.restoreRays]

@[simp] theorem State.restoreGroup_mem (s : State) (pair : Bool) (p : Spot) (a : Nat) : (s.restoreGroup pair p a).mem = s.mem := by
  unfold State.restoreGroup
  dsimp only
  (repeat' split) <;> simp [foldl_mem]

@[simp] theorem State.restoreTeam_mem (s : State) (t : Nat) (p : Spot) : (s.restoreTeam t p).mem = s.mem := by
  unfold State.restoreTeam
  split
  · rfl
  · extract_lets bytes d s1 s2 s3 s4 s5 s6 s7 s8
    have h1 : s1.mem = s.mem := (foldl_mem (fun s a => State.restoreGroup_mem ..) _ _).trans (State.draw_mem ..)
    have h2 : s2.mem = s.mem := (foldl_mem (fun s a => State.updAgent_mem ..) _ _).trans h1
    have h5 : s5.mem = s.mem := (State.updTeam_mem ..).trans ((State.moveHandles_mem s2 t (hkey p.core)).trans h2)
    have h6 : s6.mem = s.mem := (foldl_mem (fun s q => State.lockAll_getD_mem ..) _ _).trans h5
    have h7 : s7.mem = s.mem := (State.clearCore_mem ..).trans h6
    have h8 : s8.mem = s.mem := ite_mem ((State.clearCore_mem ..).trans h7) h7
    exact ite_mem ((State.fatal_mem ..).trans h8) h8

@[simp] theorem State.redLeave_mem (s : State) (t : Nat) : (s.redLeave t).mem = s.mem := by
  unfold State.redLeave
  dsimp only
  (repeat' split) <;> simp

@[simp] theorem State.markBegan_mem (s : State) : (s.markBegan).mem = s.mem := by
  simp [State.markBegan, foldl_mem]

@[simp] theorem State.goStage_mem (s : State) (n reason : Nat) : (s.goStage n reason).mem = s.mem := by
  simp [State.goStage]

@[simp] theorem State.extend_mem (s : State) (i : Nat) (value : List Byte) : (s.extend i value).mem = s.mem := by
  simp [State.extend]

@[simp] theorem State.verify_mem (s : State) (kind : Nat) (im : List Byte) : (s.verify kind im).mem = s.mem := by
  unfold State.verify
  split <;> simp

@[simp] theorem State.regPlain_mem (s : State) (i : Nat) (m v : Dword) : (s.regPlain i m v).mem = s.mem := rfl

@[simp] theorem State.faultCmd_mem (s : State) (d : Nat) (x : Dword) : (s.faultCmd d x).mem = s.mem := by
  unfold State.faultCmd
  (repeat' split) <;> simp

@[simp] theorem State.schedWrite_mem (s : State) (i : Nat) (m x : Dword) : (s.schedWrite i m x).mem = s.mem := by
  unfold State.schedWrite
  simp only [apply_ite State.mem, State.happen_mem, State.barPut_mem, State.regPlain_mem, ite_self]

@[simp] theorem State.hostWrite_mem (s : State) (i : Nat) (m x : Dword) : (s.hostWrite i m x).mem = s.mem := by
  generalize e : s.hostWrite i m x = t
  unfold State.hostWrite at e
  extract_lets j half v s1 s2 at e
  have hh : ∀ s k, (half s k).mem = s.mem := fun s k => ite_mem (State.barPut_mem ..) rfl
  (repeat' split at e) <;> subst e <;> simp [hh, s1, s2]

@[simp] theorem State.wallWrite_mem (s : State) (i : Nat) (m x : Dword) : (s.wallWrite i m x).mem = s.mem := by
  unfold State.wallWrite
  simp only [apply_ite State.mem, State.happen_mem, State.barPut_mem, State.wallEnable_mem, State.regPlain_mem, ite_self]

@[simp] theorem State.regWrite_mem (s : State) (i : Nat) (m v : Dword) : (s.regWrite i m v).mem = s.mem := by
  unfold State.regWrite
  simp only [apply_ite State.mem, State.happen_mem, State.schedWrite_mem, State.faultCmd_mem, State.hostWrite_mem, State.wallWrite_mem,
    State.regPlain_mem, ite_self]

end Sys2Proof.Machine

end

section

namespace Sys2Proof.Machine

open Sys2Proof Sys2Proof.Safety

/-! ## O8: the functions that write memory keep its canonical form

They write through `devWrite`, `unitWrite` or the reuse marks of `record` and `unwatch`, so each keeps the form because those do. -/

theorem ite_wf {p : Prop} [Decidable p] {a b : State} (ha : memOk a) (hb : memOk b) : memOk (if p then a else b) := by
  split <;> assumption

theorem foldl_wf {β : Type} {f : State → β → State} (h : ∀ t b, memOk t → memOk (f t b)) (l : List β) {s : State}
    (hs : memOk s) : memOk (l.foldl f s) :=
  List.foldlRecOn (motive := fun t => memOk t) l f hs fun t ht b _ => h t b ht

/-- Setting bytes one after the other, each to a value that may depend on memory so far, keeps the canonical form. -/
theorem wf_foldSet {m : KMap Byte} (h : Memory.wf m = true) (v : KMap Byte → Nat → Byte) (l : List Nat) :
    Memory.wf (l.foldl (fun m a => KMap.set memDefault m a (v m a)) m) = true :=
  List.foldlRecOn (motive := fun m => Memory.wf m = true) l _ h fun _ hm _ _ => KMap.wf_set hm _ _

namespace State
variable {s t : State} {a : Nat} {ag : Agent}

theorem wf_of_mem (h : t.mem = s.mem) (hs : memOk s) : memOk t := (congrArg (Memory.wf · = true) h).mpr hs

@[simp] theorem unwatch_wf (hs : memOk s) (gone : List ReuseEnt) : memOk (s.unwatch gone) := by
  unfold unwatch
  extract_lets kept free
  exact wf_foldSet hs (fun m a => rdB m a &&& 0xDF#8) free

@[simp] theorem dropReuse_wf (hs : memOk s) (p : ReuseEnt → Bool) : memOk (s.dropReuse p) :=
  ite_wf hs (unwatch_wf (s := { s with reuse := s.reuse.filter fun e => !p e.2 }) hs _)

@[simp] theorem devWrite_wf (hs : memOk s) (pa : Nat) (bs : List Byte) (own : Nat) : memOk (s.devWrite pa bs own) := by
  unfold devWrite
  extract_lets s1
  have h1 : memOk s1 := wf_wrBytes hs pa bs
  exact ite_wf h1 (dropReuse_wf (by exact h1) _)

@[simp] theorem storeAcc_wf (hs : memOk s) (a : Nat) (ag : Agent) (o : Op) (sp : Space) (hint : Nat) (ordered : Bool) (x : Acc) :
    memOk (s.storeAcc a ag o sp hint ordered x) := by
  unfold storeAcc
  extract_lets bs held code l s1
  have h1 : memOk s1 := devWrite_wf hs _ _ _
  split
  · exact hs
  · split
    · exact hs
    · exact ite_wf hs (ite_wf hs hs)
    · exact ite_wf h1 (ite_wf (wf_of_mem (l1Drop_mem ..) h1) (wf_of_mem (l1Store_mem ..) h1))

@[simp] theorem performStore_wf (hs : memOk s) (a : Nat) (ag : Agent) (o : Op) (sp : Space) (hint : Nat) (ordered : Bool)
    (lanes : Dword) : memOk (s.performStore a ag o sp hint ordered lanes) :=
  wf_of_mem (laneDone_mem ..) (foldl_wf (fun _ _ ht => storeAcc_wf ht ..) _ hs)

@[simp] theorem atomAcc_wf (hs : memOk s) (ag : Agent) (sp : Space) (aop : Nat) (x : Acc) : memOk (s.atomAcc ag sp aop x).1 := by
  unfold atomAcc
  split
  · dsimp only
    split <;> exact hs
  · dsimp only
    split
    · exact wf_of_mem (l1Drop_mem ..) (devWrite_wf hs ..)
    · exact hs

@[simp] theorem atomAll_wf (hs : memOk s) (ag : Agent) (sp : Space) (aop : Nat) (l : List Acc) : memOk (s.atomAll ag sp aop l).1 := by
  induction l generalizing s with
  | nil => exact hs
  | cons x l ih => exact ih (atomAcc_wf hs ..)

@[simp] theorem performAtomic_wf (hs : memOk s) (a : Nat) (ag : Agent) (o : Op) (sp : Space) (aop ord sch data : Nat) (lanes : Dword)
    (ext : List Byte) : memOk (s.performAtomic a ag o sp aop ord sch data lanes ext) := by
  unfold performAtomic
  extract_lets accs chk bad live n r vals s1
  have hc : memOk chk.1 := by
    simp only [chk]
    split
    · exact wf_of_mem (scopeAll_mem ..) hs
    · exact hs
  have hr : memOk r.1 := by
    simp only [r]
    split
    · exact atomAll_wf hc ..
    · exact hc
  have h1 : memOk s1 := wf_of_mem (by simp [s1]) hr
  exact ite_wf (wf_of_mem (eccRead_mem ..) h1) h1

@[simp] theorem serveScr_wf (hs : memOk s) (a : Nat) (o : Op) : memOk (s.serveScr a o) := by
  unfold serveScr
  split
  · exact hs
  · split
    · exact wf_of_mem (performLoad_mem ..) hs
    · exact performStore_wf hs ..
    · exact performAtomic_wf hs ..
    · exact hs

@[simp] theorem unitWrite_wf (hs : memOk s) (pa : Nat) (bs : List Byte) (own : Nat) : memOk (s.unitWrite pa bs own) := by
  unfold unitWrite
  split
  iterate 3 exact hs
  exact devWrite_wf hs ..

@[simp] theorem storeLines_wf (hs : memOk s) (a : Nat) (ag : Agent) (o : Op) (m : Mtx) (va : Nat) (bs : List Byte) :
    memOk (s.storeLines a ag o m va bs) :=
  foldl_wf (fun _ _ ht => storeAcc_wf ht ..) _ hs

@[simp] theorem partsWrite_wf (hs : memOk s) (own : Nat) (ps : List (Nat × Nat × Nat)) (bs : List Byte) :
    memOk (s.partsWrite own ps bs) := by
  induction ps generalizing s bs with
  | nil => exact hs
  | cons p ps ih => exact ih (unitWrite_wf hs ..) _

theorem ctxWrite_wf (hs : memOk s) {ctx va : Nat} {bs : List Byte} {own : Nat} (e : s.ctxWrite ctx va bs own = .ok t) : memOk t := by
  unfold ctxWrite at e
  split at e <;> cases e
  exact partsWrite_wf hs ..

@[simp] theorem putRecord_wf (hs : memOk s) (k : Nat) (g : Grid) (off n : Nat) {next : State → State}
    (hn : ∀ u, memOk u → memOk (next u)) : memOk (s.putRecord k g off n next) := by
  unfold putRecord
  dsimp only
  split
  · exact hn _ (ctxWrite_wf hs ‹_›)
  · exact ite_wf (hn _ hs) (wf_of_mem ((replay_mem ..).trans (updGrid_mem ..)) hs)

theorem winWrite_wf (hs : memOk s) {src addr : Nat} {bs : List Byte} (e : s.winWrite src addr bs = .ok t) : memOk t := by
  unfold winWrite at e
  split at e <;> cases e
  exact ite_wf (devWrite_wf hs ..) (unitWrite_wf hs ..)

@[simp] theorem winSignal_wf (hs : memOk s) (src addr n : Nat) : memOk (s.winSignal src addr n) := by
  unfold winSignal
  split
  · exact hs
  · exact ite_wf (devWrite_wf (wf_of_mem (scopeOne_mem ..) hs) ..) hs

theorem redArrive_wf (hs : memOk s) {key : RedKey} {bits : Nat} {vals : List Nat} (e : s.redArrive key bits vals = some (.ok t)) :
    memOk t := by
  unfold redArrive at e
  extract_lets src at e
  split at e
  · cases e
  · rename_i pa _
    extract_lets die ent ent1 used s2 at e
    have h2 : memOk s2 := unitWrite_wf (by exact hs) ..
    clear_value s2 ent ent1 used
    by_cases hb : bits &&& ent.bits ≠ 0
    · rw [if_pos hb] at e
      cases e
      exact hs
    rw [if_neg hb] at e
    split at e
    · cases e
    split at e
    · obtain rfl := Except.ok.inj (Option.some.inj e)
      exact wf_of_mem (redCount_mem _) (ite_wf (winSignal_wf h2 ..) h2)
    · obtain rfl := Except.ok.inj (Option.some.inj e)
      exact wf_of_mem (redCount_mem _) hs

@[simp] theorem xDrain_wf (hs : memOk s) (x : Xop) (p : Nat) : memOk (s.xDrain x p) := by
  unfold xDrain
  refine List.foldlRecOn (motive := fun acc : State × _ => memOk acc.1) (s.xRuns x p) _ hs fun acc h r _ => ?_
  split
  · exact unitWrite_wf h ..
  · exact h

theorem collSelf_wf (hs : memOk s) {o : Xop} {p : Nat} (e : s.collSelf o p = some (.ok t)) : memOk t := by
  unfold collSelf at e
  split at e
  · cases e
    exact hs
  · extract_lets h bs a w at e
    split at e
    · exact redArrive_wf hs e
    · have hw : ∀ q, w = .ok q → memOk q.1 := by
        refine List.foldlRecOn (motive := fun acc : Except Nat (State × List Byte) => ∀ q, acc = .ok q → memOk q.1)
          (s.xRuns o p) _ ?_ ?_
        · rintro q ⟨⟩
          exact hs
        · intro acc ih r _ q hq
          split at hq
          · split at hq
            · cases hq
              exact winWrite_wf (ih _ rfl) ‹_›
            · cases hq
          · exact ih q hq
      cases hq : w with
      | error => simp [hq] at e
      | ok q =>
        simp only [hq, Option.some.injEq, Except.ok.injEq] at e
        subst e
        exact ite_wf (winSignal_wf (hw q hq) ..) (hw q hq)

@[simp] theorem genSync_wf (hs : memOk s) (g : Gen) : memOk (s.genSync g) :=
  devWrite_wf (devWrite_wf (devWrite_wf hs ..) ..) ..

@[simp] theorem updGen_wf (hs : memOk s) (id : Nat) (f : Gen → Gen) : memOk (s.updGen id f) := by
  unfold updGen
  split
  · exact hs
  · exact genSync_wf (by exact hs) _

@[simp] theorem pin_wf (hs : memOk s) (id : Nat) : memOk (s.pin id) := updGen_wf hs ..

@[simp] theorem unpin_wf (hs : memOk s) (id : Nat) : memOk (s.unpin id) := updGen_wf hs ..

@[simp] theorem reapAgent_wf (hs : memOk s) (a : Nat) : memOk (s.reapAgent a) := by
  unfold reapAgent
  split
  · exact hs
  · exact ite_wf hs (foldl_wf (fun t p ht => unpin_wf ht _) _ hs)

@[simp] theorem reap_wf (hs : memOk s) : memOk s.reap := foldl_wf (fun _ a ht => reapAgent_wf ht a) _ hs

@[simp] theorem startRays_wf (hs : memOk s) (c : Iss) (act : Dword) (op vr mask flags g num : Nat) :
    memOk (s.startRays c act op vr mask flags g num) := by
  refine foldl_wf (fun t l ht => ?_) _ hs
  extract_lets ray r0 put q
  have hp : ∀ u r, memOk u → memOk (put u r) := fun u r hu => pin_wf (wf_of_mem (updAgent_mem ..) hu) g
  exact ite_wf (hp _ _ ht) (hp _ _ (wf_of_mem (rayGo_mem ..) ht))

theorem writeGen_wf (hs : memOk s) {g : Gen} (e : s.writeGen g = .ok t) : memOk t := by
  unfold writeGen at e
  extract_lets n d sah ovl f src s1 s2 at e
  have h1 : memOk src := wf_of_mem ((draw_mem n.1 _).trans (draw_mem s _)) hs
  have h2 : ∀ u, s2 = .ok u → memOk u := by
    refine List.foldlRecOn (motive := fun acc : Except Flt State => ∀ u, acc = .ok u → memOk u) g.pages _ ?_ ?_
    · intro u hu
      cases hu
      exact h1
    · intro acc ih p _ u hu
      split at hu
      · cases hu
      · rename_i v
        have hv : memOk v := ih v rfl
        exact ctxWrite_wf (by exact hv) hu
  cases h : s2 with
  | error => simp [h] at e
  | ok u =>
    rw [h] at e
    exact ctxWrite_wf (h2 u h) e

theorem publishGen_wf (hs : memOk s) {g : Gen} (e : s.publishGen g = .ok t) : memOk t := by
  unfold publishGen at e
  split at e
  · cases e
  · rename_i s1 h
    have h1 := writeGen_wf hs h
    split at e
    · extract_lets s2 id s3 s4 at e
      have h2 : memOk s2 := by
        simp only [s2]
        split
        · exact h1
        · exact updGen_wf h1 ..
      cases e
      exact unitWrite_wf (unitWrite_wf (foldl_wf (fun t c ht => pin_wf ht c) _ (s := s3) h2) ..) ..
    all_goals cases e

theorem buildRecord_wf (hs : memOk s) {c : BuildCmd} {code reason num grec : Nat} (e : s.buildRecord c code reason num grec = .ok t) :
    memOk t := by
  unfold buildRecord at e
  extract_lets comp at e
  split at e
  · cases e
    exact hs
  · split at e
    · cases e
    · rename_i h
      exact ctxWrite_wf (ctxWrite_wf hs h) e

@[simp] theorem finishBuild_wf (hs : memOk s) (die : Nat) (r : Build) : memOk (s.finishBuild die r) := by
  unfold finishBuild
  extract_lets ra s1
  have h1 : memOk s1 := ite_wf hs (ite_wf (wf_of_mem (notice_mem ..) hs) hs)
  refine ite_wf (wf_of_mem ((endBuild_mem ..).trans (notice_mem ..)) h1) ?_
  split
  · exact wf_of_mem (setRun_mem ..) h1
  · exact wf_of_mem (endBuild_mem ..) (buildRecord_wf h1 ‹_›)

@[simp] theorem record_wf (hs : memOk s) (x : Task) : memOk (s.record x) := by
  unfold record
  extract_lets ten mine s1 e
  have h1 : memOk s1 := by
    simp only [s1]
    split
    · split
      · exact dropReuse_wf hs _
      · exact hs
    · exact hs
  exact wf_foldSet h1 (fun m a => rdB m a ||| 0x20#8) x.leaves

theorem taskRecord_wf (hs : memOk s) {x : Task} {recorded : Bool} (e : s.taskRecord x recorded = .ok t) : memOk t := by
  unfold taskRecord at e
  extract_lets a late lo at e
  split at e
  · cases e
    exact hs
  · split at e
    · cases e
    · rename_i h
      exact ctxWrite_wf (ctxWrite_wf hs h) e

@[simp] theorem dropGroup_wf (hs : memOk s) (a : Nat) (ag : Agent) : memOk (s.dropGroup a ag) :=
  foldl_wf (fun _ _ ht => unpin_wf ht _) _ (foldl_wf (fun _ _ ht => unpin_wf ht _) _
    (foldl_wf (fun _ _ ht => wf_of_mem (dropBank_mem ..) ht) _ hs))

@[simp] theorem spendOps_wf (hs : memOk s) (ctx : Nat) : memOk (s.spendOps ctx) := by
  refine foldl_wf (fun t q ht => ?_) _ hs
  split
  · exact ht
  · extract_lets keep s1
    have h1 : memOk s1 := ht
    refine ite_wf h1 ?_
    split
    · exact performStore_wf h1 ..
    · exact performAtomic_wf h1 ..
    · exact h1

@[simp] theorem discardBuilds_wf (hs : memOk s) (ctx : Nat) : memOk (s.discardBuilds ctx) := by
  unfold discardBuilds
  extract_lets faulted
  have hf : ∀ u c, memOk u → memOk (faulted u c) := by
    intro u c hu
    simp only [faulted]
    split
    · exact buildRecord_wf hu ‹_›
    · exact hu
  refine foldl_wf (fun t die ht => ?_) _ hs
  extract_lets b s1 s2
  have h2 : memOk s2 := wf_of_mem (setBuilder_mem ..) (foldl_wf hf _ ht)
  split
  · exact ite_wf (wf_of_mem (endBuild_mem ..) (hf _ _ h2)) h2
  · exact h2

@[simp] theorem discardUnits_wf (hs : memOk s) (ctx : Nat) : memOk (s.discardUnits ctx) :=
  foldl_wf (fun _ _ ht => foldl_wf (fun _ _ ht => unpin_wf ht _) _ (foldl_wf (fun _ _ ht => unpin_wf ht _) _ ht)) _ hs

@[simp] theorem dropRays_wf (hs : memOk s) (a : Nat) (ag : Agent) : memOk (s.dropRays a ag) := by
  unfold dropRays
  split
  · exact hs
  · refine ite_wf hs (foldl_wf (fun t o ht => ?_) _ (wf_of_mem (updAgent_mem ..) (foldl_wf (fun t r ht => unpin_wf ht _) _ hs)))
    split
    · exact wf_of_mem ((returnOp_mem ..).trans (landVals_mem ..)) ht
    · exact ht

@[simp] theorem saveAgent_wf (hs : memOk s) (a : Nat) : memOk (s.saveAgent a) := by
  unfold saveAgent
  split
  · exact hs
  · extract_lets s1
    have h1 : memOk s1 := dropRays_wf (wf_of_mem (updAgent_mem ..) hs) ..
    split
    · exact h1
    · rename_i ag _
      refine (foldl_wf (fun t b ht => wf_of_mem (setBank_mem ..) ht) _ h1)

@[simp] theorem saveTeam_wf (hs : memOk s) (k : Nat) : memOk (s.saveTeam k) := by
  unfold saveTeam
  split
  · exact hs
  · exact wf_of_mem ((updTeam_mem ..).trans ((moveHandles_mem ..).trans (foldl_mem (fun t x => unlock_mem ..) _ _)))
      (foldl_wf (fun t a ht => saveAgent_wf ht a) _ hs)

theorem fused_wf (s : State) : memOk s.fused := rfl

end State

end Sys2Proof.Machine

end

section

namespace Sys2Proof.Machine

open Sys2Proof Sys2Proof.Safety

/-! ## O8: the outcome of an instruction -/

/-- An outcome in which O8 finds nothing wrong: any next state holds its memory in the canonical form. -/
def Canonical : Out → Prop
  | .next t => memOk t
  | _ => True

@[simp] theorem canonical_next {t : State} : Canonical (.next t) ↔ Memory.wf t.mem = true := Iff.rfl

@[simp] theorem canonical_fault (f : Fault) : Canonical (.fault f) := trivial

@[simp] theorem canonical_refused (r : Refusal) : Canonical (.refused r) := trivial

theorem ite_canonical {p : Prop} [Decidable p] {a b : Out} (ha : Canonical a) (hb : Canonical b) : Canonical (if p then a else b) := by
  split <;> assumption

variable {s : State}

theorem raise_canonical (hs : memOk s) (a fid : Nat) (f : Flt) : Canonical (.next (s.raise a fid f)) :=
  State.wf_of_mem (State.raise_mem ..) hs

theorem issueWith_canonical (hs : memOk s) {lg : Legal} {foot : Iss → Foot} {pm : Pm} {lat : Nat} {fixed : Bool}
    {body : State → Iss → (Bool × Bool) → Out} (h : ∀ t c p, memOk t → Canonical (body t c p)) :
    Canonical (issueWith s lg foot pm lat fixed body) := by
  unfold issueWith
  split
  · trivial
  · split
    · exact raise_canonical hs ..
    · extract_lets p pr ft v slots
      split
      · exact raise_canonical hs ..
      · exact h _ _ _ hs

theorem issueLocal_canonical (hs : memOk s) {lg : Legal} {foot : Iss → Foot} {pm : Pm} {stl lat : Nat}
    {body : State → Iss → Except Flt Fx} : Canonical (issueLocal s lg foot pm stl lat body) :=
  issueWith_canonical hs fun t c p ht => by
    split
    · exact raise_canonical ht ..
    · exact State.wf_of_mem (State.updAgent_mem ..) ht

end Sys2Proof.Machine

end

section

namespace Sys2Proof.Machine

open Sys2Proof Sys2Proof.Safety

/-! ## O8: the instructions that do more than change their own agent -/

variable {s t : State}

theorem keeps_canonical (hs : memOk s) (h : t.mem = s.mem) : Canonical (.next t) := State.wf_of_mem h hs

theorem reap_canonical (hs : memOk s) {lg : Legal} {foot : Iss → Foot} {pm : Pm} {lat : Nat} {fixed : Bool}
    {body : State → Iss → (Bool × Bool) → Out} (h : ∀ t c p, memOk t → Canonical (body t c p)) :
    Canonical (issueWith s.reap lg foot pm lat fixed body) := issueWith_canonical (State.reap_wf hs) h

theorem hold_canonical (hs : memOk s) (c : Iss) (w : Wait) (phase : Nat) : Canonical (.next (s.hold c w phase)) :=
  keeps_canonical hs (State.hold_mem ..)

theorem Req.check_hold_mem {q : Req} {ag : Agent} {again : Bool} {w : Wait} (e : q.check s ag again = .hold t w) : t.mem = s.mem := by
  unfold Req.check at e
  split at e
  · cases e
  · split at e
    · cases e
    · extract_lets -underBinder +onlyGivenNames gone at e
      split at e
      · cases e
        exact State.missHold_mem ..
      · extract_lets -underBinder +onlyGivenNames wr ts isErr at e
        split at e
        · cases e
        · split at e
          · cases e
          · extract_lets -underBinder +onlyGivenNames ps at e
            split at e <;> cases e

theorem descCheck_hold_mem {c : Iss} {lanes : Dword} {sample : Bool} {addr : Int} {w : Wait}
    (e : descCheck s c lanes sample addr = .hold t w) : t.mem = s.mem := by
  unfold descCheck at e
  extract_lets -underBinder +onlyGivenNames chk at e
  split at e
  · split at e
    · split at e
      · cases e
      · exact Req.check_hold_mem e
    · cases e
  · exact Req.check_hold_mem e

theorem memIns_canonical (hs : memOk s) (m : MemIns) : Canonical (memIns m s) := by
  unfold memIns
  split
  · trivial
  rename_i c _
  split
  · split
    · exact raise_canonical hs ..
    · exact keeps_canonical hs ((State.finishHold_mem ..).trans (ite_mem (State.l1Inval_mem ..) rfl))
  extract_lets -underBinder +onlyGivenNames early
  have hearly : ∀ u, early = some u → u.mem = s.mem := by
    intro u e
    unfold early at e
    split at e
    · cases e
    split at e
    · cases e
      exact State.hold_mem ..
    split at e
    · split at e
      · cases e
        exact State.hold_mem ..
      · obtain ⟨flt, -, rfl⟩ := Option.map_eq_some_iff.mp e
        exact State.raise_mem ..
    · cases e
  clear_value early
  split
  · exact keeps_canonical hs (hearly _ rfl)
  refine issueWith_canonical hs fun s c p hs => ?_
  extract_lets -underBinder +onlyGivenNames q
  split
  · exact raise_canonical hs ..
  · exact keeps_canonical hs ((State.hold_mem ..).trans (Req.check_hold_mem ‹_›))
  · extract_lets -underBinder +onlyGivenNames peer accs
    exact ite_canonical (hold_canonical hs ..) (keeps_canonical hs (State.issueMem_mem ..))

theorem execPref_canonical (hs : memOk s) (f : FMEM) : Canonical (execPref f s) :=
  issueWith_canonical hs fun s c p hs => by
    exact keeps_canonical hs ((State.updFrag_mem ..).trans (ite_mem rfl (foldl_mem (fun t pa => State.l1Read_mem ..) _ _)))

theorem image_canonical (hs : memOk s) (f : FMEM) (sample : Bool) : Canonical (image f sample s) := by
  unfold image
  split
  · trivial
  refine ite_canonical (hold_canonical hs ..) (issueWith_canonical hs fun s c p hs => ?_)
  extract_lets -underBinder +onlyGivenNames act addr w128 go
  have hgo : ∀ d, Canonical (go s d) := by
    intro d
    unfold go
    extract_lets -underBinder +onlyGivenNames im smp
    refine ite_canonical (raise_canonical hs ..) ?_
    extract_lets -underBinder +onlyGivenNames co q
    split
    · exact raise_canonical hs ..
    · exact keeps_canonical hs ((State.hold_mem ..).trans (Req.check_hold_mem ‹_›))
    · exact keeps_canonical hs ((State.updAgent_mem ..).trans (State.issueMem_mem ..))
  split
  · exact hgo _
  split
  · exact raise_canonical hs ..
  · exact keeps_canonical hs ((State.hold_mem ..).trans (descCheck_hold_mem ‹_›))
  · extract_lets -underBinder +onlyGivenNames core
    split
    · exact hgo _
    · exact keeps_canonical hs ((State.hold_mem ..).trans (State.setCore_mem ..))

theorem bufAccess_canonical (hs : memOk s) (f : FMEM) (store : Bool) : Canonical (bufAccess f store s) := by
  unfold bufAccess
  split
  · trivial
  refine ite_canonical (hold_canonical hs ..) ?_
  extract_lets -underBinder +onlyGivenNames n offs
  refine issueWith_canonical hs fun s c p hs => ?_
  split
  · exact raise_canonical hs ..
  refine ite_canonical (raise_canonical hs ..) (ite_canonical (hold_canonical hs ..) ?_)
  extract_lets -underBinder +onlyGivenNames ts
  split
  · exact raise_canonical hs ..
  split
  · exact raise_canonical hs ..
  extract_lets -underBinder +onlyGivenNames q
  split
  · exact raise_canonical hs ..
  · exact keeps_canonical hs ((State.issueMem_mem ..).trans (State.handleAcquire_mem ..))

theorem execAfree_canonical (hs : memOk s) (f : FMTX) : Canonical (execAfree f s) :=
  issueWith_canonical hs fun s c p hs => by
    extract_lets -underBinder +onlyGivenNames ls s1
    refine ite_canonical (raise_canonical hs ..) (keeps_canonical hs ((State.mtxNext_mem ..).trans (foldl_mem (fun t l => ?_) _ _)))
    split
    · exact (State.updAgent_mem ..).trans (State.dropBank_mem ..)
    · rfl

theorem execAzero_canonical (hs : memOk s) (f : FMTX) : Canonical (execAzero f s) := by
  unfold execAzero
  split
  · trivial
  refine ite_canonical (hold_canonical hs ..) (issueWith_canonical hs fun s c p hs => ?_)
  split
  · exact raise_canonical hs ..
  split
  · exact keeps_canonical hs (State.tagFault_mem ‹_›)
  · exact keeps_canonical hs ((State.mtxNext_mem ..).trans (State.startMtx_mem ..))

theorem execAstat_canonical (hs : memOk s) (f : FMTX) : Canonical (execAstat f s) := by
  unfold execAstat
  split
  · trivial
  exact ite_canonical (hold_canonical hs ..) (issueWith_canonical hs fun s c p hs =>
    keeps_canonical hs ((State.mtxNext_mem ..).trans (State.startMtx_mem ..)))

theorem mulIns_canonical (hs : memOk s) (opc : Nat) (f : FMTX) : Canonical (mulIns opc f s) := by
  unfold mulIns
  split
  · trivial
  rename_i c _
  extract_lets -underBinder +onlyGivenNames lg a
  refine ite_canonical (hold_canonical hs ..) (ite_canonical (hold_canonical hs ..) ?_)
  obtain ⟨hblk, hmiss⟩ := State.blkFetch_mem s c a
  have h0 : memOk (if (lg.fate c).isSome then (none, s, none) else s.blkFetch c a : Option State × State × Option _).2.1 := by
    split
    · exact hs
    · exact State.wf_of_mem hblk hs
  have h1 : ∀ u, (if (lg.fate c).isSome then (none, s, none) else s.blkFetch c a : Option State × State × Option _).1 = some u →
      u.mem = s.mem := by
    intro u e
    split at e
    · cases e
    · exact hmiss u e
  split
  · rename_i e
    rw [e] at h1
    exact keeps_canonical hs (h1 _ rfl)
  rename_i s0 blk e
  rw [e] at h0
  extract_lets -underBinder +onlyGivenNames pl0 regs
  refine issueWith_canonical h0 fun s c p hs => ?_
  split
  · exact keeps_canonical hs (State.pagesMiss_mem ‹_›)
  split
  · exact raise_canonical hs ..
  split
  · exact keeps_canonical hs (State.tagFault_mem ‹_›)
  split
  · exact hold_canonical hs ..
  split
  · exact raise_canonical hs ..
  refine ite_canonical (keeps_canonical hs ((State.hold_mem ..).trans (State.quadJoin_mem ..))) ?_
  split
  · exact hold_canonical hs ..
  · exact keeps_canonical hs ((State.mtxNext_mem ..).trans ((State.startMtx_mem ..).trans (State.lockAll_mem ‹_›)))

theorem execCbld_canonical (hs : memOk s) (f : FMTX) : Canonical (execCbld f s) := by
  unfold execCbld
  split
  · trivial
  extract_lets -underBinder +onlyGivenNames ofs n lg win
  refine ite_canonical (hold_canonical hs ..) (issueWith_canonical hs fun s c p hs => ?_)
  extract_lets -underBinder +onlyGivenNames tm h
  refine ite_canonical (raise_canonical hs ..) ?_
  split
  · exact raise_canonical hs ..
  split
  · exact hold_canonical hs ..
  extract_lets -underBinder +onlyGivenNames hl
  split
  · exact raise_canonical hs ..
  split
  · exact hold_canonical hs ..
  · exact keeps_canonical hs ((State.setEng_mem ..).trans ((State.mtxNext_mem ..).trans ((State.startMtx_mem ..).trans
      (State.lockAll_mem ‹_›))))

theorem bankMem_canonical (hs : memOk s) (f : FMTX) (store : Bool) : Canonical (bankMem f store s) := by
  unfold bankMem
  split
  · trivial
  refine ite_canonical (hold_canonical hs ..) (issueWith_canonical hs fun s c p hs => ?_)
  generalize 10240 = n
  extract_lets -underBinder +onlyGivenNames a l
  cases KMap.find? c.ag.banks f.abank.toNat with
  | none => exact raise_canonical hs ..
  | some p =>
    refine ite_canonical (raise_canonical hs ..) (ite_canonical (raise_canonical hs ..) ?_)
    cases s.lockConf c.ag.core l with
    | some e => exact raise_canonical hs ..
    | none =>
      refine ite_canonical (raise_canonical hs ..) ?_
      cases hmiss : s.pagesMiss c ((pageParts a n).map (·.1)) with
      | some t => exact keeps_canonical hs (State.pagesMiss_mem hmiss)
      | none =>
        cases s.pagesOf c.ag a n store with
        | error x => exact raise_canonical hs ..
        | ok pgs =>
          cases if store then s.protFault c.ag a n else none with
          | some x => exact raise_canonical hs ..
          | none =>
            cases htag : s.tagFault c p with
            | some t => exact keeps_canonical hs (State.tagFault_mem htag)
            | none =>
              cases hlock : s.lockAll s.ids [(c.ag.core, l)] with
              | none => exact hold_canonical hs ..
              | some s1 => exact keeps_canonical hs ((State.mtxNext_mem ..).trans ((State.startMtx_mem ..).trans (State.lockAll_mem hlock)))

theorem execAld_canonical (hs : memOk s) (f : FMTX) : Canonical (execAld f s) := by
  unfold execAld
  extract_lets -underBinder +onlyGivenNames scl ss lg
  apply issueWith_canonical hs
  intro s c p hs
  extract_lets -underBinder +onlyGivenNames ctl
  split
  · exact raise_canonical hs ..
  split
  · exact raise_canonical hs ..
  split
  · exact raise_canonical hs ..
  split
  · exact keeps_canonical hs (State.tagFault_mem ‹_›)
  extract_lets -underBinder +onlyGivenNames busy
  split
  · exact raise_canonical hs ..
  · exact keeps_canonical hs ((State.updAgent_mem ..).trans (State.bankRead_mem ..))

theorem execSwr_canonical (hs : memOk s) (f : FSYS) : Canonical (execSwr f s) :=
  issueWith_canonical hs fun s c p hs => by
    extract_lets -underBinder +onlyGivenNames i v
    split
    · exact raise_canonical hs ..
    refine ite_canonical (ite_canonical ?_ (keeps_canonical hs ((State.sysDone_mem ..).trans (State.updAgent_mem ..))))
      (ite_canonical (raise_canonical hs ..) (ite_canonical ?_ (keeps_canonical hs ((State.sysDone_mem ..).trans (State.updAgent_mem ..)))))
    · split
      · exact keeps_canonical hs ((State.sysDone_mem ..).trans (State.hdescWr_mem ‹_›))
      · exact raise_canonical hs ..
    · exact ite_canonical (keeps_canonical hs (State.sysDone_mem ..)) (ite_canonical
        (keeps_canonical hs ((State.sysDone_mem ..).trans (State.spillBank_mem ..)))
        (keeps_canonical hs ((State.updFrag_mem ..).trans (State.hold_mem ..))))

theorem State.endLast_mem {c : Iss} {done : State → State} (h : ∀ s : State, (done s).mem = s.mem) (s : State) :
    (s.endLast c done).mem = s.mem := by
  unfold State.endLast
  split
  · exact State.raise_mem ..
  · exact ite_mem (h s) (State.hold_mem ..)

theorem execEnd_canonical (hs : memOk s) (f : FBR) : Canonical (execEnd f s) :=
  issueWith_canonical hs fun s _ _ hs =>
    ite_canonical (keeps_canonical hs (State.endLast_mem (fun _ => State.updAgent_mem ..) s)) (keeps_canonical hs (State.updAgent_mem ..))

theorem execHalt_canonical (hs : memOk s) (f : FSYS) : Canonical (execHalt f s) :=
  issueWith_canonical hs fun _ _ _ hs =>
    keeps_canonical hs ((State.endLast_mem (fun _ => State.updAgent_mem ..) _).trans (State.updAgent_mem ..))

theorem execTend_canonical (hs : memOk s) (f : FSYS) : Canonical (execTend f s) :=
  issueWith_canonical hs fun s _ _ hs => ite_canonical (raise_canonical hs ..) (ite_canonical (raise_canonical hs ..)
    (keeps_canonical hs (State.endLast_mem (fun _ => State.updAgent_mem ..) s)))

theorem execLaunch_canonical (hs : memOk s) (f : FSYS) : Canonical (execLaunch f s) := by
  unfold execLaunch
  split
  · trivial
  extract_lets -underBinder +onlyGivenNames lg
  refine ite_canonical (hold_canonical hs ..) (issueWith_canonical hs fun s c p hs => ?_)
  extract_lets -underBinder +onlyGivenNames a q
  split
  · exact raise_canonical hs ..
  refine ite_canonical (raise_canonical hs ..) (ite_canonical (raise_canonical hs ..) ?_)
  split
  · exact keeps_canonical hs (State.recStop_mem ‹_›)
  split
  · exact keeps_canonical hs (State.relStop_mem ‹_›)
  extract_lets -underBinder +onlyGivenNames r lr status go
  have hr : memOk r.1 := State.wf_of_mem (State.partsRead_mem ..) hs
  have hgo : ∀ u, memOk u → Canonical (.next (go u)) := fun u hu =>
    keeps_canonical hu ((State.updFrag_mem ..).trans (State.startOp_mem ..))
  refine ite_canonical (hgo _ hr) ?_
  split
  · exact raise_canonical hs ..
  · rename_i s2 h
    extract_lets -underBinder +onlyGivenNames s3
    have h3 : memOk s3 := State.wf_of_mem (State.barPut_mem ..) (State.ctxWrite_wf hr h)
    clear_value s3
    refine hgo _ (ite_wf h3 (State.wf_of_mem (State.setQ_mem ..) h3))

theorem xRecord_canonical (hs : memOk s) (f : FSYS) (row : SysRow) (kind : XKind)
    (chk : State → BitVec 512 → Except Flt (Nat × Option Nat)) (late : State → BitVec 512 → Handle → Nat → Nat → Bool) :
    Canonical (xRecord f row kind chk late s) :=
  issueWith_canonical hs fun s c p hs => by
    extract_lets -underBinder +onlyGivenNames a pl
    split
    · exact raise_canonical hs ..
    split
    · exact raise_canonical hs ..
    refine ite_canonical (raise_canonical hs ..) (ite_canonical (raise_canonical hs ..) ?_)
    split
    · exact keeps_canonical hs (State.recStop_mem ‹_›)
    refine ite_canonical (keeps_canonical hs ((State.updFrag_mem ..).trans (State.hold_mem ..))) ?_
    extract_lets -underBinder +onlyGivenNames r d
    have hr : memOk r.1 := State.wf_of_mem (State.partsRead_mem ..) hs
    split
    · exact raise_canonical hr ..
    · exact ite_canonical (raise_canonical hr ..) (ite_canonical (raise_canonical hr ..) (keeps_canonical hr (State.xQueue_mem ..)))

theorem execXresume_canonical (hs : memOk s) (f : FSYS) : Canonical (execXresume f s) :=
  issueWith_canonical hs fun s c p hs => by
    split
    · exact raise_canonical hs ..
    · exact keeps_canonical hs ((State.sysDone_mem ..).trans (foldl_mem (fun t p => State.xResume_mem ..) _ _))

theorem startTrace_done_mem {c : Iss} (p : Bool × Bool) (stl : Nat) (s : State) :
    (if 3 ≤ c.fr.phase then s.finishHold c stl 1 else s.updFrag c.a c.fid fun fr => fr.adv (s.clk + extraPass p + 1 + stl)).mem = s.mem :=
  ite_mem (State.finishHold_mem ..) (State.updFrag_mem ..)

theorem execRtrace_canonical (hs : memOk s) (f : FSYS) : Canonical (execRtrace f s) := by
  unfold execRtrace
  extract_lets -underBinder +onlyGivenNames vd vr use lg
  split
  · trivial
  refine ite_canonical (hold_canonical hs ..) (reap_canonical hs fun s c p hs => ?_)
  extract_lets -underBinder +onlyGivenNames a act stl start
  have hstart : ∀ u g, memOk u → Canonical (.next (start u g)) := by
    intro u g hu
    unfold start
    extract_lets -underBinder +onlyGivenNames done miss
    have hdone : ∀ v, memOk v → Canonical (.next (done v)) := fun v hv => keeps_canonical hv (startTrace_done_mem p stl v)
    split
    · exact hdone _ (State.wf_of_mem (State.startTrace_mem ..) hu)
    · split
      · extract_lets -underBinder +onlyGivenNames res
        exact hdone _ (State.wf_of_mem (State.startTrace_mem ..) hu)
      · exact hdone _ (State.startRays_wf (State.wf_of_mem (State.startTrace_mem ..) hu) ..)
  refine ite_canonical (raise_canonical hs ..) (ite_canonical (ite_canonical (hold_canonical hs ..) (hstart _ _ hs)) ?_)
  split
  · exact keeps_canonical hs (State.sceneRead_error_mem ‹_›)
  rename_i s1 h e
  have h1 : memOk s1 := State.wf_of_mem (State.sceneRead_ok_mem e) hs
  extract_lets -underBinder +onlyGivenNames bad gu
  refine ite_canonical (raise_canonical h1 ..) (ite_canonical (raise_canonical h1 ..) (ite_canonical (raise_canonical h1 ..) ?_))
  extract_lets -underBinder +onlyGivenNames g s2
  have h2 : memOk s2 := ite_wf h1 (State.wf_of_mem (State.l1Inval_mem ..) h1)
  exact ite_canonical (keeps_canonical h2 ((State.updFrag_mem ..).trans (State.hold_mem ..))) (hstart _ _ h2)

theorem rresume_canonical (hs : memOk s) (f : FSYS) (fin : Bool) : Canonical (rresume f fin s) := by
  unfold rresume
  extract_lets -underBinder +onlyGivenNames vd vt short src lg
  split
  · trivial
  refine ite_canonical (hold_canonical hs ..) (reap_canonical hs fun s c p hs => ?_)
  extract_lets -underBinder +onlyGivenNames act susp noray mine op s1 one
  have hone : ∀ u l, (one u l).mem = u.mem := by
    intro u l
    unfold one
    split
    · rfl
    · extract_lets -underBinder +onlyGivenNames x tm r1
      exact ite_mem (State.rayResult_mem ..) ((State.updAgent_mem ..).trans (State.rayGo_mem ..))
  exact ite_canonical (raise_canonical hs ..)
    (keeps_canonical hs ((State.updFrag_mem ..).trans ((foldl_mem hone ..).trans (State.startTrace_mem ..))))

theorem execRstate_canonical (hs : memOk s) (f : FSYS) : Canonical (execRstate f s) := by
  unfold execRstate
  extract_lets -underBinder +onlyGivenNames vd lg
  split
  · trivial
  refine ite_canonical (hold_canonical hs ..) (reap_canonical hs fun s c p hs => ?_)
  exact keeps_canonical hs ((State.updFrag_mem ..).trans (State.startOp_mem ..))

theorem execGenpin_canonical (hs : memOk s) (f : FSYS) : Canonical (execGenpin f s) :=
  issueWith_canonical hs fun s c p hs => by
    extract_lets -underBinder +onlyGivenNames a
    refine ite_canonical (raise_canonical hs ..) ?_
    split
    · exact keeps_canonical hs (State.sceneRead_error_mem ‹_›)
    rename_i s1 h e
    have h1 : memOk s1 := State.wf_of_mem (State.sceneRead_ok_mem e) hs
    extract_lets -underBinder +onlyGivenNames g done
    have hdone : ∀ u, memOk u → Canonical (.next (done u)) := fun u hu =>
      keeps_canonical hu ((State.sceneDone_mem ..).trans (State.putS_mem ..))
    refine ite_canonical (raise_canonical h1 ..) (ite_canonical (raise_canonical h1 ..) ?_)
    extract_lets -underBinder +onlyGivenNames s2
    have h2 : memOk s2 := State.wf_of_mem (State.l1Inval_mem ..) h1
    split
    · exact hdone _ h2
    · exact hdone _ (State.wf_of_mem (State.updAgent_mem ..) (State.pin_wf h2 _))

theorem execGenrel_canonical (hs : memOk s) (f : FSYS) : Canonical (execGenrel f s) :=
  issueWith_canonical hs fun s c p hs => by
    extract_lets -underBinder +onlyGivenNames a num
    split
    · exact raise_canonical hs ..
    · exact keeps_canonical (State.unpin_wf hs _) ((State.updFrag_mem ..).trans (State.updAgent_mem ..))

/-- The reading of a record is kept as a variable here: the kernel would evaluate it on the literal addresses of the scene. -/
theorem execBldcmd_canonical (hs : memOk s) (f : FSYS) : Canonical (execBldcmd f s) :=
  issueWith_canonical hs fun s c p hs => by
    obtain ⟨parts, hparts⟩ : ∃ g, g = @State.recParts := ⟨_, rfl⟩
    have hstop := @State.recStop_mem
    rw [← hparts] at hstop ⊢
    extract_lets -underBinder +onlyGivenNames a
    refine ite_canonical (raise_canonical hs ..) (ite_canonical (raise_canonical hs ..) (ite_canonical (raise_canonical hs ..) ?_))
    split
    · exact keeps_canonical hs (hstop ‹_›)
    extract_lets -underBinder +onlyGivenNames r b
    split
    · exact keeps_canonical hs (hstop ‹_›)
    split
    · exact keeps_canonical hs (State.relStop_mem ‹_›)
    refine ite_canonical (keeps_canonical hs ((State.updFrag_mem ..).trans (State.hold_mem ..))) ?_
    split
    · exact raise_canonical hs ..
    rename_i s1 die e
    have h1 : s1.mem = s.mem := (State.bldDie_mem e).trans (State.partsRead_mem ..)
    extract_lets -underBinder +onlyGivenNames q full s2
    have h2 : s2.mem = s1.mem := ite_mem rfl (State.setBuilder_mem ..)
    exact keeps_canonical hs ((State.sceneDone_mem ..).trans ((State.putS_mem ..).trans (h2.trans h1)))

theorem bldq_canonical (hs : memOk s) (f : FSYS) (sub : Nat) (res : State → BitVec 512 → Iss → Nat → Nat → Option Nat) :
    Canonical (bldq f sub res s) :=
  reap_canonical hs fun s c p hs => by
    extract_lets -underBinder +onlyGivenNames a
    split
    · exact keeps_canonical hs (State.sceneRead_error_mem ‹_›)
    rename_i s1 h e
    have h1 : memOk s1 := State.wf_of_mem (State.sceneRead_ok_mem e) hs
    refine ite_canonical (raise_canonical h1 ..) ?_
    split
    · exact raise_canonical h1 ..
    · exact keeps_canonical h1 ((State.sceneDone_mem ..).trans (State.putS_mem ..))

theorem execTspawn_canonical (hs : memOk s) (f : FSYS) : Canonical (execTspawn f s) := by
  unfold execTspawn
  extract_lets -underBinder +onlyGivenNames lg
  refine issueWith_canonical hs fun s c p hs => ?_
  extract_lets -underBinder +onlyGivenNames a
  refine ite_canonical (raise_canonical hs ..) (ite_canonical (raise_canonical hs ..) (ite_canonical (raise_canonical hs ..) ?_))
  split
  · exact keeps_canonical hs (State.recStop_mem ‹_›)
  split
  · exact keeps_canonical hs (State.relStop_mem ‹_›)
  extract_lets -underBinder +onlyGivenNames die
  refine ite_canonical (keeps_canonical hs ((State.updFrag_mem ..).trans (State.hold_mem ..))) ?_
  extract_lets -underBinder +onlyGivenNames r b done
  have hr : memOk r.1 := State.wf_of_mem (State.partsRead_mem ..) hs
  have hdone : ∀ u n, u.mem = r.1.mem → Canonical (.next (done u n)) := fun u n hu =>
    keeps_canonical hr ((State.sceneDone_mem ..).trans ((State.putS_mem ..).trans hu))
  refine ite_canonical (ite_canonical (hdone _ _ rfl) (hdone _ _ (State.insertTask_mem r.1 ..))) ?_
  extract_lets -underBinder +onlyGivenNames p
  split
  · exact hdone _ _ rfl
  · extract_lets -underBinder +onlyGivenNames k s1
    have h1 : s1.mem = r.1.mem := State.insertTask_mem ..
    exact hdone _ _ h1

theorem execQpop_canonical (hs : memOk s) (f : FSYS) : Canonical (execQpop f s) := by
  unfold execQpop
  extract_lets -underBinder +onlyGivenNames lg form vd
  split
  · trivial
  refine ite_canonical (hold_canonical hs ..) (issueWith_canonical hs fun s c p hs => ?_)
  extract_lets -underBinder +onlyGivenNames act serve
  have hserve : ∀ u id flow, (serve u id flow).mem = u.mem := fun u id flow => (State.updAgent_mem ..).trans (State.pop_mem ..)
  refine ite_canonical ?_ ?_
  · split
    · extract_lets -underBinder +onlyGivenNames done
      exact ite_canonical (keeps_canonical hs (State.finishHold_mem ..)) (ite_canonical
        (keeps_canonical hs ((State.finishHold_mem ..).trans (hserve ..))) (hold_canonical hs ..))
    · exact keeps_canonical hs (State.finishHold_mem ..)
  · split
    · exact raise_canonical hs ..
    refine ite_canonical (raise_canonical hs ..) ?_
    extract_lets -underBinder +onlyGivenNames id s1
    have h1 : s1.mem = s.mem := State.startOp_mem ..
    exact ite_canonical (keeps_canonical hs ((State.updFrag_mem ..).trans ((hserve ..).trans h1)))
      (keeps_canonical hs ((State.updFrag_mem ..).trans ((State.hold_mem ..).trans h1)))

theorem execQpush_canonical (hs : memOk s) (f : FSYS) : Canonical (execQpush f s) := by
  unfold execQpush
  extract_lets -underBinder +onlyGivenNames lg form vs
  split
  · trivial
  refine ite_canonical (hold_canonical hs ..) (issueWith_canonical hs fun s c p hs => ?_)
  split
  · exact raise_canonical hs ..
  refine ite_canonical (raise_canonical hs ..) ?_
  extract_lets -underBinder +onlyGivenNames act x ob isOpen room mine st els x1 s1
  exact keeps_canonical hs ((State.updFrag_mem ..).trans ((State.startOp_mem ..).trans (State.setFlow_mem ..)))

theorem qframe_canonical (hs : memOk s) (f : FSYS) (k : Nat) (send : Bool) {act : State → Nat → Nat → State × Nat}
    (hact : ∀ u x y, (act u x y).1.mem = u.mem) : Canonical (qframe f k send act s) :=
  issueWith_canonical hs fun s c p hs => by
    refine ite_canonical (keeps_canonical hs ((State.sysDone_mem ..).trans (State.putS_mem ..))) (ite_canonical ?_ ?_)
    · extract_lets -underBinder +onlyGivenNames flow
      exact ite_canonical (keeps_canonical hs (State.qframeDone_mem ..)) (ite_canonical (hold_canonical hs ..)
        (keeps_canonical hs ((State.qframeDone_mem ..).trans (hact ..))))
    · split
      · exact raise_canonical hs ..
      · exact ite_canonical (raise_canonical hs ..) (ite_canonical (keeps_canonical hs ((State.updFrag_mem ..).trans (State.hold_mem ..)))
          (keeps_canonical hs ((State.qframeDone_mem ..).trans (hact ..))))

theorem execWbar_canonical (hs : memOk s) (f : FSYS) : Canonical (execWbar f s) :=
  issueWith_canonical hs fun s c p hs => by
    extract_lets -underBinder +onlyGivenNames stl done wait release flow n
    have hdone : ∀ u n, (done u n).mem = u.mem := fun u n =>
      (State.sysDone_mem ..).trans ((State.putS_mem ..).trans (State.putS_mem ..))
    have hheld : ∀ (u : State) w k flow n, ((u.hold c w k).updFrag c.a c.fid fun fr => { fr with hop := 64 * n + flow }).mem = u.mem :=
      fun u w k flow n => (State.updFrag_mem ..).trans (State.hold_mem ..)
    have hwait : ∀ u flow n, (wait u flow n).mem = u.mem := fun u flow n =>
      ite_mem (ite_mem (hdone ..) (hheld ..)) (hheld ..)
    have hrelease : ∀ u flow n, (release u flow n).mem = u.mem := by
      intro u flow n
      unfold release
      split
      · split
        · exact State.raise_mem ..
        · exact hheld ..
      · split
        · exact State.raise_mem ..
        · exact (hwait ..).trans (State.wallSend_mem ..)
    refine ite_canonical (keeps_canonical hs (hdone ..)) (ite_canonical (keeps_canonical hs (hwait ..))
      (ite_canonical (keeps_canonical hs (hrelease ..)) ?_))
    extract_lets -underBinder +onlyGivenNames n
    split
    · exact raise_canonical hs ..
    · exact ite_canonical (raise_canonical hs ..) (ite_canonical (raise_canonical hs ..) (ite_canonical (raise_canonical hs ..)
        (keeps_canonical hs (hrelease ..))))

end Sys2Proof.Machine

end

section

namespace Sys2Proof.Machine

open Sys2Proof Sys2Proof.Safety

/-! ## O8: the events that write memory, or whose branches need a lemma of their own -/

variable {s t : State}

theorem startHostAtomic_canonical {o : Out} (h : Canonical o) (before : Nat) (s : State) : Canonical (startHostAtomic before o s) := by
  unfold startHostAtomic
  split
  · split
    · exact keeps_canonical h (State.hostIssue_mem ..)
    · exact h
  · exact h

theorem execStoreAccept_canonical (hs : memOk s) (op : Nat) (lanes : Dword) : Canonical (execStoreAccept op lanes s) := by
  unfold execStoreAccept
  split
  · exact hs
  refine ite_canonical hs ?_
  split
  · exact ite_canonical (keeps_canonical hs (State.returnOp_mem ..)) (ite_canonical hs (State.performStore_wf hs ..))
  · exact ite_canonical (keeps_canonical hs (State.returnOp_mem ..)) hs
  · exact hs

theorem execAtomicReturn_canonical (hs : memOk s) (op : Nat) (lanes : Dword) (ext : List Byte) :
    Canonical (execAtomicReturn op lanes ext s) := by
  unfold execAtomicReturn
  split
  · exact hs
  refine ite_canonical hs ?_
  split
  · exact ite_canonical (keeps_canonical hs (State.returnOp_mem ..)) (ite_canonical hs (ite_canonical hs (ite_canonical hs
      (State.performAtomic_wf hs ..))))
  · exact ite_canonical (keeps_canonical hs (State.hostReturn_mem ..)) hs
  · exact hs

theorem execSweepSegmentAccess_canonical (hs : memOk s) (op : Nat) : Canonical (execSweepSegmentAccess op s) := by
  unfold execSweepSegmentAccess
  split
  · exact hs
  split
  · refine ite_canonical hs ?_
    extract_lets -underBinder +onlyGivenNames n last tm off bytes me own early older
    refine ite_canonical hs (ite_canonical (State.serveScr_wf hs ..) ?_)
    exact keeps_canonical hs ((State.updAgent_mem ..).trans (ite_mem (State.updTeam_mem ..) rfl))
  · exact hs

theorem execTlbWalkDone_canonical (hs : memOk s) (walk : Nat) : Canonical (execTlbWalkDone walk s) := by
  unfold execTlbWalkDone
  split
  · exact hs
  refine ite_canonical hs ?_
  extract_lets -underBinder +onlyGivenNames ts s1 waits pieces s2 bad
  have h1 : s1.mem = s.mem := foldl_mem (fun s t => State.fillL2_mem ..) _ _
  have h2 : s2.mem = s1.mem := foldl_mem (fun s c => foldl_mem (fun s t => State.fillL1_mem ..) _ _) _ _
  exact keeps_canonical hs ((foldl_mem (fun s p => State.updAgent_mem ..) _ _).trans (h2.trans h1))

theorem execInboundMemWrite_canonical (hs : memOk s) (off : Nat) (bytes : List Byte) : Canonical (execInboundMemWrite off bytes s) := by
  unfold execInboundMemWrite
  split
  · exact ite_canonical hs (State.devWrite_wf hs ..)
  · exact ite_canonical (ite_canonical hs hs) hs

theorem execInboundAtomicop_canonical (hs : memOk s) (off kind width : Nat) (x y : Dword) :
    Canonical (execInboundAtomicop off kind width x y s) := by
  unfold execInboundAtomicop
  split
  · refine ite_canonical ?_ hs
    extract_lets -underBinder +onlyGivenNames r
    have hr : memOk r.2 := State.wf_of_mem (State.scopeOne_mem ..) hs
    refine ite_canonical hs ?_
    extract_lets -underBinder +onlyGivenNames old s1
    have h1 : memOk s1 := by
      unfold s1
      split
      · exact State.devWrite_wf hr ..
      · exact hr
    exact h1
  · exact hs

theorem execHdescWrite_canonical (hs : memOk s) (a h : Nat) (v : Dword) : Canonical (execHdescWrite a h v s) := by
  unfold execHdescWrite
  split
  · exact hs
  refine ite_canonical hs ?_
  split
  · exact keeps_canonical hs (State.hdescWr_mem ‹_›)
  · exact raise_canonical hs ..

theorem execMmaqRendezvous_canonical (hs : memOk s) (core tag : Nat) : Canonical (execMmaqRendezvous core tag s) := by
  unfold execMmaqRendezvous
  split
  · rename_i q0 q1 q2 q3 _ _ _ _
    extract_lets -underBinder +onlyGivenNames qs s1 plans
    have h1 : s1.mem = s.mem := by
      refine foldl_mem (fun s p => ?_) _ _
      rfl
    split
    · exact hs
    refine ite_canonical (keeps_canonical hs (foldl_mem (fun s q => ?_) _ _))
      (ite_canonical (keeps_canonical hs ((foldl_mem (fun s q => State.raise_mem ..) _ _).trans h1)) ?_)
    · split
      · rfl
      · rfl
    extract_lets -underBinder +onlyGivenNames ids r
    have hr : ∀ u, r = some u → u.mem = s.mem := by
      refine List.foldlRecOn (motive := fun acc : Option State => ∀ u, acc = some u → u.mem = s.mem) plans _ ?_ ?_
      · rintro u ⟨⟩
        exact h1
      · intro acc ih p _ u hu
        obtain ⟨v, hv, hu⟩ := Option.bind_eq_some_iff.mp hu
        obtain ⟨w, hw, rfl⟩ := Option.map_eq_some_iff.mp hu
        exact (State.finishHold_mem ..).trans ((State.updAgent_mem ..).trans ((State.startMtx_mem ..).trans
          ((State.lockAll_mem hw).trans (ih v hv))))
    clear_value r
    split
    · exact keeps_canonical hs (hr _ rfl)
    · exact hs
  · exact hs

theorem execArrayOpBegin_canonical (hs : memOk s) (op : Nat) : Canonical (execArrayOpBegin op s) := by
  unfold execArrayOpBegin
  split
  · exact hs
  split
  · refine ite_canonical (ite_canonical (keeps_canonical hs (State.beginMtx_mem ..)) hs) ?_
    extract_lets -underBinder +onlyGivenNames qs ok
    refine ite_canonical hs (keeps_canonical hs (foldl_mem (fun s q => ?_) _ _))
    split
    · exact State.beginMtx_mem ..
    · rfl
  · exact hs

theorem execMatrixOpEnd_canonical (hs : memOk s) (op : Nat) : Canonical (execMatrixOpEnd op s) := by
  have hend : ∀ {u : State} a o m b, u.mem = s.mem → Canonical (.next (u.endMtx a o m b)) := fun a o m b h =>
    keeps_canonical hs ((State.endMtx_mem ..).trans h)
  have hput : ∀ {u : State} c p v, u.mem = s.mem → (u.putVals c p v).mem = s.mem := fun c p v h => (State.putVals_mem ..).trans h
  unfold execMatrixOpEnd
  split
  · exact hs
  rename_i a ag o _
  split
  · refine ite_canonical hs (ite_canonical (keeps_canonical hs (State.returnOp_mem ..)) (ite_canonical hs ?_))
    rename_i m _
    have hwin : (s.winVals ag o m).1.mem = s.mem := State.winVals_mem ..
    extract_lets -underBinder +onlyGivenNames tm S rows old
    split
    · exact hend _ _ _ _ (hput _ _ _ rfl)
    · exact hend _ _ _ _ (hput _ _ _ hwin)
    · exact ite_canonical (keeps_canonical hs (State.quadEnd_mem ..)) hs
    · refine ite_canonical hs (ite_canonical (keeps_canonical hs (State.updMtx_mem ..)) ?_)
      exact hend _ _ _ _ ((State.landVals_mem ..).trans (hput _ _ _ hwin))
    · refine ite_canonical (ite_canonical hs (keeps_canonical hs ((State.updMtx_mem ..).trans (State.slotFree_mem ..)))) ?_
      exact hend _ _ _ _ ((State.slotFree_mem ..).trans (hput _ _ _ hwin))
    · exact keeps_canonical (State.storeLines_wf hs ..) (State.endMtx_mem ..)
    · extract_lets -underBinder +onlyGivenNames s1
      have h1 : s1.mem = s.mem := State.fetchRanges_mem ..
      split
      · exact keeps_canonical hs h1
      · split
        · exact hend _ _ _ _ (hput _ _ _ h1)
        · exact keeps_canonical hs h1
    · exact hend _ _ _ _ (State.landVals_mem ..)
    · exact hs
  · exact hs

theorem execBarrierComplete_canonical (hs : memOk s) (team kind : Nat) : Canonical (execBarrierComplete team kind s) := by
  unfold execBarrierComplete
  split
  · exact hs
  extract_lets -underBinder +onlyGivenNames ts n gs ags waits
  refine ite_canonical hs ?_
  refine keeps_canonical hs ((foldl_mem (fun s a => ?_) _ _).trans (foldl_mem (fun s t => State.updTeam_mem ..) _ _))
  split
  · rfl
  · exact ite_mem rfl ((State.l1Inval_mem ..).trans (State.putAgent_mem ..))

/-- A fetch of a clause leaves the memory of `s` as it is, whatever its result. -/
def Fetch.KeepsMem (s : State) : Fetch → Prop
  | .fault _ => True
  | .hold t _ => t.mem = s.mem
  | .ok t _ => t.mem = s.mem

theorem leatFetch_keepsMem (s : State) (ag : Agent) (h : Nat) : (leatFetch s ag h).KeepsMem s := by
  unfold leatFetch
  extract_lets -underBinder +onlyGivenNames hdr
  split
  · trivial
  extract_lets -underBinder +onlyGivenNames n
  split
  · trivial
  · rfl

theorem State.groupFetch_keepsMem (s : State) (ag : Agent) (h : Nat) (again : Bool) : (s.groupFetch ag h again).KeepsMem s := by
  unfold State.groupFetch
  extract_lets -underBinder +onlyGivenNames need out pk stop
  have hneed : ∀ ws f, need ws = some f → f.KeepsMem s := by
    intro ws f e
    unfold need at e
    split at e <;> cases e
    rfl
  have hout : ∀ n r, s.fetchPages ag h n again = .error r → (out r).KeepsMem s := by
    intro n r e
    match r with
    | .inl _ => trivial
    | .inr _ => exact State.fetchPages_mem e
  have hstop : ∀ ws, (stop ws).KeepsMem s := by
    intro ws
    unfold stop
    cases e : need ws with
    | none => rfl
    | some f => exact hneed ws f e
  split
  · exact hout _ _ ‹_›
  split
  · exact hstop _
  split
  · exact hout _ _ ‹_›
  split
  · exact hstop _
  split
  · exact hout _ _ ‹_›
  split
  · exact hneed _ _ ‹_›
  · exact State.ccTouch_mem ..

theorem State.fetchClause_mem (s : State) (a fid : Nat) (ag : Agent) (fr : Frag) : (s.fetchClause a fid ag fr).mem = s.mem := by
  have hf : (if ag.isLeat then leatFetch s ag fr.h else s.groupFetch ag fr.h (fr.phase = 2)).KeepsMem s := by
    split
    · exact leatFetch_keepsMem ..
    · exact State.groupFetch_keepsMem ..
  unfold State.fetchClause
  split
  · exact State.raise_mem ..
  · rename_i e
    rw [e] at hf
    exact (State.updFrag_mem ..).trans hf
  · rename_i e
    rw [e] at hf
    exact ite_mem ((State.raise_mem ..).trans ((State.updFrag_mem ..).trans hf)) ((State.updFrag_mem ..).trans hf)

theorem execClauseStart_canonical (hs : memOk s) (a fid : Nat) : Canonical (execClauseStart a fid s) := by
  unfold execClauseStart
  split
  · exact hs
  split
  · exact hs
  refine ite_canonical hs (ite_canonical (keeps_canonical hs (State.fetchClause_mem ..)) (ite_canonical ?_ (ite_canonical ?_ hs)))
  · split
    · exact raise_canonical hs ..
    · exact hs
  · extract_lets -underBinder +onlyGivenNames s1
    have h1 : s1.mem = s.mem := ite_mem (State.handleAcquire_mem ..) rfl
    exact keeps_canonical hs ((State.updFrag_mem ..).trans h1)

theorem execQueueEntryRead_canonical (hs : memOk s) (q : Nat) : Canonical (execQueueEntryRead q s) := by
  unfold execQueueEntryRead
  refine ite_canonical hs ?_
  extract_lets -underBinder +onlyGivenNames s1 a ctx
  have h1 : s1.mem = s.mem := rfl
  refine ite_canonical (keeps_canonical hs ((State.recordLost_mem ..).trans ((State.qError_mem ..).trans h1))) ?_
  split
  · exact keeps_canonical hs ((State.replay_mem ..).trans ((State.setQ_mem ..).trans h1))
  · exact keeps_canonical hs ((State.setQ_mem ..).trans h1)

theorem execAdmission_canonical (hs : memOk s) (q : Nat) : Canonical (execAdmission q s) := by
  unfold execAdmission
  extract_lets -underBinder +onlyGivenNames x
  refine ite_canonical hs ?_
  extract_lets -underBinder +onlyGivenNames a ctx
  refine ite_canonical (keeps_canonical hs (State.setQ_mem ..)) ?_
  split
  · exact keeps_canonical hs ((State.replay_mem ..).trans (State.setQ_mem ..))
  rename_i r hr
  extract_lets -underBinder +onlyGivenNames lr low d s1 dv ns why s2 nodes g g'
  have h1 : s1.mem = r.1.mem := by
    cases h : d with
    | error e => simp [s1, h]
    | ok t => simpa [s1, h] using State.readDesc_mem h
  have h2 : s2.mem = s1.mem := by
    cases h : ns with
    | error e => simp [s2, h]
    | ok t =>
      have ht : t.1.mem = s1.mem := by
        unfold ns at h
        split at h
        · exact State.readNodes_mem h
        · cases h
          rfl
      simpa [s2, h] using ht
  exact keeps_canonical hs ((State.setQ_mem ..).trans ((State.barPut_mem ..).trans ((State.addGrid_mem ..).trans
    (h2.trans (h1.trans (State.ctxRead_mem hr))))))

theorem execGridEligible_canonical (hs : memOk s) (g : Nat) : Canonical (execGridEligible g s) := by
  unfold execGridEligible
  split
  · exact hs
  refine ite_canonical hs ?_
  extract_lets -underBinder +onlyGivenNames s1
  have h1 : s1.mem = s.mem := State.updGrid_mem ..
  exact ite_canonical (keeps_canonical hs ((foldl_mem (fun s i => State.spawnNode_mem ..) _ _).trans h1)) (keeps_canonical hs h1)

theorem execTeamPlacement_canonical (hs : memOk s) (g : Nat) : Canonical (execTeamPlacement g s) := by
  unfold execTeamPlacement
  split
  · exact hs
  split
  · refine ite_canonical hs (ite_canonical (keeps_canonical hs (State.updGrid_mem ..)) ?_)
    extract_lets -underBinder +onlyGivenNames first s1 mine s2 c
    have h1 : s1.mem = s.mem := foldl_mem (fun s p => State.addTeam_mem ..) _ _
    have h2 : s2.mem = s1.mem := ite_mem (foldl_mem (fun s m => State.updTeam_mem ..) _ _) rfl
    exact keeps_canonical hs ((State.updGrid_mem ..).trans (h2.trans h1))
  · exact hs

theorem execGridCompletionRecord_canonical (hs : memOk s) (g : Nat) : Canonical (execGridCompletionRecord g s) := by
  have hdone : ∀ {u : State} g y, memOk u → memOk (u.gridDone g y) := fun g y hu => State.wf_of_mem (State.gridDone_mem ..) hu
  unfold execGridCompletionRecord
  split
  · exact hs
  split
  · refine ite_canonical hs ?_
    split
    · exact keeps_canonical hs (State.fatal_mem ..)
    · exact keeps_canonical hs (State.updGrid_mem ..)
  · refine ite_canonical hs ?_
    extract_lets -underBinder +onlyGivenNames y y' s1
    have h1 : memOk s1 := State.wf_of_mem (State.updGrid_mem ..) hs
    exact ite_canonical (hdone _ _ (State.wf_of_mem (State.recordLost_mem ..) h1)) (ite_canonical (hdone _ _ h1)
      (State.putRecord_wf h1 _ _ _ _ fun u hu => State.wf_of_mem (State.updGrid_mem ..) hu))
  · exact ite_canonical hs (State.putRecord_wf hs _ _ _ _ fun u hu => hdone _ _ hu)
  · exact hs

theorem execFabricInboundRequest_canonical (hs : memOk s) (card kind addr width arg : Nat) (bytes : List Byte) :
    Canonical (execFabricInboundRequest card kind addr width arg bytes s) := by
  unfold execFabricInboundRequest
  extract_lets -underBinder +onlyGivenNames answer
  have hans : ∀ u c bs, memOk u → Canonical (answer u c bs) := fun u c bs hu => hu
  refine ite_canonical hs ?_
  split
  · exact hans _ _ _ hs
  extract_lets -underBinder +onlyGivenNames ordered sc r
  have hr : memOk r.2 := by
    unfold r
    split
    · exact State.wf_of_mem (State.scopeOne_mem ..) hs
    · exact hs
  refine ite_canonical (hans _ _ _ hs) ?_
  extract_lets -underBinder +onlyGivenNames s1
  split
  · extract_lets -underBinder +onlyGivenNames x
    exact hans _ _ _ (State.wf_of_mem (State.unitRead_mem ..) hr)
  · exact hans _ _ _ (State.unitWrite_wf hr ..)
  · extract_lets -underBinder +onlyGivenNames old x y
    split
    · exact hans _ _ _ (State.devWrite_wf hr ..)
    · exact hans _ _ _ hr

theorem execReducePacketArrive_canonical (hs : memOk s) (key mask : Nat) (vals : List Int) :
    Canonical (execReducePacketArrive key mask vals s) := by
  unfold execReducePacketArrive
  extract_lets -underBinder +onlyGivenNames k
  refine ite_canonical hs ?_
  extract_lets -underBinder +onlyGivenNames back
  split
  · exact hs
  · exact hs
  · rename_i s1 h
    have h1 : memOk s1 := State.redArrive_wf hs h
    exact h1

theorem execEngineOpStart_canonical (hs : memOk s) (x : Nat) : Canonical (execEngineOpStart x s) := by
  unfold execEngineOpStart
  split
  · exact hs
  refine ite_canonical hs ?_
  split
  · exact hs
  rename_i s1 hlock
  extract_lets -underBinder +onlyGivenNames k s2 s3
  have h2 : s2.mem = s1.mem := by
    unfold s2
    split
    · rfl
    · exact ite_mem (State.openFill_mem ..) (ite_mem (State.setHandle_mem ..) rfl)
  have h3 : s3.mem = s.mem := (State.updXop_mem ..).trans (h2.trans (State.lockAll_mem hlock))
  exact keeps_canonical hs (ite_mem h3 ((State.leatGoes_mem ..).trans h3))

theorem execDrainSectorAccept_canonical (hs : memOk s) (x piece : Nat) : Canonical (execDrainSectorAccept x piece s) := by
  unfold execDrainSectorAccept
  split
  · exact hs
  refine ite_canonical hs ?_
  extract_lets -underBinder +onlyGivenNames s1
  have h1 : memOk s1 := State.wf_of_mem (State.pieceDone_mem ..) (State.xDrain_wf hs ..)
  exact keeps_canonical h1 (ite_mem (State.sectorOut_mem ..) rfl)

theorem execCollectivePieceAck_canonical (hs : memOk s) (x piece : Nat) : Canonical (execCollectivePieceAck x piece s) := by
  unfold execCollectivePieceAck
  split
  · exact hs
  refine ite_canonical hs ?_
  split
  · exact hs
  · extract_lets -underBinder +onlyGivenNames f
    exact keeps_canonical hs (State.updXop_mem ..)
  · rename_i s1 h
    have h1 : memOk s1 := State.collSelf_wf hs h
    extract_lets -underBinder +onlyGivenNames s2
    have h2 : s2.mem = s1.mem := State.pieceDone_mem ..
    exact keeps_canonical h1 (ite_mem ((State.sectorOut_mem ..).trans h2) h2)

theorem execRayEnd_canonical (hs : memOk s) (a lane : Nat) (order : List Nat) : Canonical (execRayEnd a lane order s) := by
  unfold execRayEnd
  split
  · exact hs
  refine ite_canonical hs ?_
  extract_lets -underBinder +onlyGivenNames ls r1 tested m s1
  have hm : memOk m.1 := State.wf_of_mem (State.draw_mem ..) (by exact hs)
  exact keeps_canonical (ite_wf (State.updGen_wf hm ..) hm) (State.rayResult_mem ..)

theorem execRayStackSpill_canonical (hs : memOk s) (a lane : Nat) : Canonical (execRayStackSpill a lane s) := by
  unfold execRayStackSpill
  split
  · exact hs
  split
  · exact hs
  refine ite_canonical hs ?_
  extract_lets -underBinder +onlyGivenNames full s1
  have h1 : memOk s1 := hs
  refine ite_canonical (keeps_canonical (State.updGen_wf h1 ..) (State.rayResult_mem ..)) ?_
  extract_lets -underBinder +onlyGivenNames at' va
  split
  · exact keeps_canonical hs (State.rayParked_mem ..)
  · rename_i s2 h
    have h2 : memOk s2 := State.ctxWrite_wf h1 h
    extract_lets -underBinder +onlyGivenNames r1 s3
    have h3 : memOk s3 := State.updGen_wf (by exact h2) ..
    exact keeps_canonical h3 (State.updAgent_mem ..)

theorem execTraversalReturn_canonical (hs : memOk s) (op : Nat) : Canonical (execTraversalReturn op s) := by
  unfold execTraversalReturn
  split
  · exact hs
  split
  · refine ite_canonical hs ?_
    exact State.reapAgent_wf (State.wf_of_mem ((State.returnOp_mem ..).trans (State.landVals_mem ..)) hs) _
  · exact hs

theorem execBuildCommandEnd_canonical (hs : memOk s) (die : Nat) : Canonical (execBuildCommandEnd die s) := by
  unfold execBuildCommandEnd
  split
  · exact hs
  refine ite_canonical hs ?_
  split
  · split
    · exact keeps_canonical hs (State.setRun_mem ..)
    · exact State.finishBuild_wf (State.publishGen_wf hs ‹_›) ..
  · exact State.finishBuild_wf hs ..

theorem execGenerationReclaim_canonical (hs : memOk s) (die gen : Nat) : Canonical (execGenerationReclaim die gen s) := by
  unfold execGenerationReclaim
  split
  · exact hs
  refine ite_canonical hs ?_
  extract_lets -underBinder +onlyGivenNames s1
  have h1 : memOk s1 := State.updGen_wf hs ..
  exact foldl_wf (fun u c hu => State.unpin_wf hu c) _ (by exact h1)

theorem execTaskCoreChoice_canonical (hs : memOk s) (t core : Nat) : Canonical (execTaskCoreChoice t core s) := by
  unfold execTaskCoreChoice
  split
  · refine ite_canonical hs ?_
    extract_lets -underBinder +onlyGivenNames y tm ps y' src s1 claim
    have hclaim : ∀ u r, (claim u r).mem = u.mem := by
      intro u r
      unfold claim
      extract_lets -underBinder +onlyGivenNames k u1
      have h1 : u1.mem = u.mem := State.setHandle_mem ..
      exact ite_mem h1 h1
    have h1 : s1.mem = s.mem := rfl
    exact keeps_canonical hs ((foldl_mem hclaim ..).trans h1)
  · exact hs

theorem execReuseHitCopyPiece_canonical (hs : memOk s) (t : Nat) : Canonical (execReuseHitCopyPiece t s) := by
  unfold execReuseHitCopyPiece
  split
  · exact hs
  refine ite_canonical hs ?_
  split
  · exact keeps_canonical hs (State.updTask_mem ..)
  split
  · exact keeps_canonical hs (State.updTask_mem ..)
  refine ite_canonical hs ?_
  split
  · exact keeps_canonical hs (State.taskPark_mem ..)
  split
  · exact keeps_canonical hs (State.taskPark_mem ..)
  · rename_i hread _ _ hwrite
    exact keeps_canonical (State.ctxWrite_wf (State.wf_of_mem (State.ctxRead_mem hread) hs) hwrite) (State.updTask_mem ..)

theorem execTaskOutputDrain_canonical (hs : memOk s) (t : Nat) : Canonical (execTaskOutputDrain t s) := by
  unfold execTaskOutputDrain
  split
  · exact hs
  split
  · extract_lets -underBinder +onlyGivenNames outs full miss s1 gone
    have h1 : s1.mem = s.mem := by
      refine foldl_mem (fun s w => ?_) _ _
      rfl
    exact keeps_canonical hs ((State.updTask_mem ..).trans h1)
  · exact ite_canonical hs (keeps_canonical hs (State.updTask_mem ..))
  · exact hs

theorem execTaskCompletionRecord_canonical (hs : memOk s) (t : Nat) : Canonical (execTaskCompletionRecord t s) := by
  unfold execTaskCompletionRecord
  split
  · exact hs
  refine ite_canonical hs (ite_canonical (keeps_canonical hs ((State.taskDone_mem ..).trans (State.recordLost_mem ..))) ?_)
  extract_lets -underBinder +onlyGivenNames ok
  split
  · exact keeps_canonical hs (ite_mem (State.taskDone_mem ..) (State.taskPark_mem ..))
  · rename_i s1 h
    have h1 : memOk s1 := State.taskRecord_wf hs h
    exact keeps_canonical (ite_wf (State.record_wf h1 _) h1) (State.taskDone_mem ..)

theorem execWallFrameDeadline_canonical (hs : memOk s) (frame : Nat) : Canonical (execWallFrameDeadline frame s) := by
  unfold execWallFrameDeadline
  refine ite_canonical ?_ hs
  extract_lets -underBinder +onlyGivenNames miss
  exact keeps_canonical hs (foldl_mem (fun s c => State.wallMiss_mem ..) _ _)

theorem execGroupRelease_canonical (hs : memOk s) (a : Nat) : Canonical (execGroupRelease a s) := by
  unfold execGroupRelease
  split
  · exact hs
  extract_lets -underBinder +onlyGivenNames tm
  split
  · exact keeps_canonical hs (State.fatal_mem ..)
  refine ite_canonical hs ?_
  extract_lets -underBinder +onlyGivenNames s1
  have h1 : memOk s1 := State.dropGroup_wf hs ..
  split
  · exact keeps_canonical h1 (ite_mem (State.updTask_mem ..) rfl)
  · extract_lets -underBinder +onlyGivenNames s2
    have h2 : memOk s2 := h1
    exact keeps_canonical h2 (ite_mem rfl (State.dropTeam_mem ..))

theorem execFaultRecordWrite_canonical (hs : memOk s) : Canonical (execFaultRecordWrite s) := by
  unfold execFaultRecordWrite
  split
  · exact hs
  refine ite_canonical ?_ (ite_canonical hs (keeps_canonical hs (State.barPut_mem ..)))
  extract_lets -underBinder +onlyGivenNames a s1
  have h1 : memOk s1 := State.unitWrite_wf (by exact hs) ..
  exact keeps_canonical h1 ((State.signal_mem ..).trans (State.barPut_mem ..))

theorem execFatalDiscard_canonical (hs : memOk s) (ctx : Nat) : Canonical (execFatalDiscard ctx s) := by
  unfold execFatalDiscard
  split
  · exact hs
  · extract_lets -underBinder +onlyGivenNames s1
    have h1 : memOk s1 := State.discardBuilds_wf (State.discardUnits_wf (State.wf_of_mem (State.discardBanks_mem ..)
      (State.spendOps_wf hs ctx)) ctx) ctx
    have h2 : memOk (s1.discardGrids ctx) := State.wf_of_mem (State.discardGrids_mem ..) h1
    simp only [canonical_next]
    exact h2
  · exact ite_canonical (keeps_canonical hs ((State.cmdDone_mem ..).trans (State.queueRec_mem ..))) hs

theorem execContextSaveDone_canonical (hs : memOk s) (ctx : Nat) : Canonical (execContextSaveDone ctx s) := by
  unfold execContextSaveDone
  split
  · exact hs
  split
  · exact hs
  refine ite_canonical hs ?_
  extract_lets -underBinder +onlyGivenNames ts s1
  have h1 : memOk s1 := foldl_wf (fun u k hu => State.saveTeam_wf hu k) _ hs
  exact keeps_canonical h1 (State.cmdDone_mem ..)

theorem execTeamRestore_canonical (hs : memOk s) (team : Nat) : Canonical (execTeamRestore team s) := by
  unfold execTeamRestore
  split
  · refine ite_canonical hs ?_
    extract_lets -underBinder +onlyGivenNames ts c
    exact keeps_canonical hs (foldl_mem (fun s q => State.restoreTeam_mem ..) _ _)
  · exact hs

theorem execPtTick_canonical (hs : memOk s) : Canonical (execPtTick s) := by
  unfold execPtTick
  extract_lets -underBinder +onlyGivenNames k s1 s2
  have h1 : memOk s1 := State.wf_of_mem (State.markBegan_mem ..) (State.reap_wf (State.wf_of_mem
    ((State.yieldTick_mem ..).trans (State.markReady_mem ..)) hs))
  exact keeps_canonical (s := s2) h1 (State.redLeave_mem ..)

theorem execErgwSizeWrite_canonical (hs : memOk s) (die : Nat) (v : Dword) : Canonical (execErgwSizeWrite die v s) := by
  unfold execErgwSizeWrite
  extract_lets -underBinder +onlyGivenNames n old
  refine ite_canonical hs ?_
  extract_lets -underBinder +onlyGivenNames b lo hi d l
  have hd : memOk d.1 := by
    unfold d
    split
    · exact State.wf_of_mem (State.draw_mem ..) hs
    · exact hs
  exact KMap.wf_filter hd _

theorem execReuseKeyWrite_canonical (hs : memOk s) (tenant : Nat) (key : List Byte) : Canonical (execReuseKeyWrite tenant key s) := by
  unfold execReuseKeyWrite
  refine ite_canonical hs ?_
  extract_lets -underBinder +onlyGivenNames s1
  have h1 : s1.mem = s.mem := foldl_mem (fun s j => State.barWr_mem ..) _ _
  exact State.dropReuse_wf (State.wf_of_mem h1 hs) _

theorem execSensorUpdate_canonical (hs : memOk s) (watts : Nat) (temps : List Nat) : Canonical (execSensorUpdate watts temps s) := by
  unfold execSensorUpdate
  extract_lets -underBinder +onlyGivenNames sens s1 hotAt
  have h1 : s1.mem = s.mem := foldl_mem (fun s j => State.barWr_mem ..) _ _
  exact keeps_canonical hs ((State.barPut_mem ..).trans ((State.barWr_mem ..).trans h1))

theorem execMemoryTrained_canonical (hs : memOk s) (ok : Bool) : Canonical (execMemoryTrained ok s) := by
  have hnil : ∀ {u : State} n m, u.mem = [] → memOk (u.goStage n m) := fun n m hu =>
    State.wf_of_mem (State.goStage_mem ..) (by rw [memOk, hu]; rfl)
  unfold execMemoryTrained
  exact ite_canonical hs (ite_canonical (keeps_canonical hs (State.goStage_mem ..)) (hnil _ _ rfl))

end Sys2Proof.Machine

end

section

namespace Sys2Proof.Machine

open Sys2Proof Sys2Proof.Safety

/-! ## O8: the other instructions and events, and one step -/

variable {s t : State}

theorem relBranch_canonical (hs : memOk s) (f : FBR) (lg : Legal) (reads writes : List Nat) (taken : Iss → Bool)
    (wr : Iss → List (Nat × Dword)) : Canonical (relBranch f lg reads writes taken wr s) :=
  issueLocal_canonical hs

theorem regBranch_canonical (hs : memOk s) (f : FBR) (lg : Legal) : Canonical (regBranch f lg s) :=
  issueLocal_canonical hs

theorem maskOp_canonical (hs : memOk s) (f : FS3) (lg : Legal) (useA useB : Bool) (res em : Iss → Dword → Option Dword) :
    Canonical (maskOp f lg useA useB res em s) :=
  issueLocal_canonical hs

theorem scalarS3_canonical (hs : memOk s) (f : FS3) (row : S3Row) (lat : Nat)
    (op : (w : Nat) → (sgn : Bool) → (a b c : BitVec w) → BitVec w) : Canonical (scalarS3 f row lat op s) :=
  issueLocal_canonical hs

theorem scalarSI_canonical (hs : memOk s) (f : FSI) (op : (w : Nat) → (a b : BitVec w) → BitVec w) : Canonical (scalarSI f op s) :=
  issueLocal_canonical hs

theorem vec3_canonical (hs : memOk s) (f : FV3) (r : V3Row) (lat : Nat) (g : (a b c : Word) → Word) : Canonical (vec3 f r lat g s) :=
  issueLocal_canonical hs

theorem vecI_canonical (hs : memOk s) (f : FVI) (r : V3Row) (lat : Nat) (g : (a b : Word) → Word) : Canonical (vecI f r lat g s) :=
  issueLocal_canonical hs

theorem fltrd_canonical (hs : memOk s) (f : FSYS) (k : Nat) : Canonical (fltrd f k s) := by
  unfold fltrd
  exact issueLocal_canonical hs

theorem shuffle_canonical (hs : memOk s) (f : FV3) (cnt vb c : Bool) (g : Iss → Nat → Word) : Canonical (shuffle f cnt vb c g s) :=
  issueLocal_canonical hs

theorem laneMask_canonical (hs : memOk s) (f : FV3) (lat : Nat) (g : Iss → Dword) : Canonical (laneMask f lat g s) :=
  issueLocal_canonical hs

theorem execVredu_canonical (hs : memOk s) (f : FV3) : Canonical (execVredu f s) := by
  unfold execVredu
  exact issueLocal_canonical hs

theorem execVscan_canonical (hs : memOk s) (f : FV3) : Canonical (execVscan f s) := by
  unfold execVscan
  exact issueLocal_canonical hs

theorem execVwrln_canonical (hs : memOk s) (f : FV3) : Canonical (execVwrln f s) := by
  unfold execVwrln
  exact issueLocal_canonical hs

theorem execSplit_canonical (hs : memOk s) (f : FS3) : Canonical (execSplit f s) := by
  unfold execSplit
  refine issueWith_canonical hs fun s c p hs => ?_
  dsimp only
  (repeat' split) <;> simp [hs]

theorem execJoin_canonical (hs : memOk s) (f : FS3) : Canonical (execJoin f s) := by
  unfold execJoin
  refine issueWith_canonical hs fun s c p hs => ?_
  (repeat' split) <;> simp [hs]

theorem execWaitc_canonical (hs : memOk s) (f : FMEM) : Canonical (execWaitc f s) := by
  unfold execWaitc
  refine issueWith_canonical hs fun s c p hs => ?_
  dsimp only
  (repeat' split) <;> simp [hs]

theorem execFence_canonical (hs : memOk s) (f : FMEM) : Canonical (execFence f s) := by
  unfold execFence
  refine issueWith_canonical hs fun s c p hs => ?_
  dsimp only
  (repeat' split) <;> simp [hs]

theorem sweep_canonical (hs : memOk s) (f : FSWP) (kind : Nat) : Canonical (sweep f kind s) := by
  unfold sweep
  split
  · simp
  split
  · simp [hs]
  refine issueWith_canonical hs fun s c p hs => ?_
  (repeat' split) <;> simp [hs]

theorem execHostAtomicCompletion_canonical (hs : memOk s) (op lane status : Nat) (val : Dword) :
    Canonical (execHostAtomicCompletion op lane status val s) := by
  unfold execHostAtomicCompletion
  (repeat' split) <;> simp [hs]

theorem execHablClear_canonical (hs : memOk s) : Canonical (execHablClear s) := by
  unfold execHablClear
  simp [hs]

theorem execPeerStoreReject_canonical (hs : memOk s) (op _lane code : Nat) : Canonical (execPeerStoreReject op _lane code s) := by
  unfold execPeerStoreReject
  dsimp only
  (repeat' split) <;> simp [hs]

theorem execPeerLoadReject_canonical (hs : memOk s) (op : Nat) (lanes : Dword) (code : Nat) :
    Canonical (execPeerLoadReject op lanes code s) := by
  unfold execPeerLoadReject
  dsimp only
  (repeat' split) <;> simp [hs]

theorem execInboundMemRead_canonical (hs : memOk s) (off n : Nat) : Canonical (execInboundMemRead off n s) := by
  unfold execInboundMemRead
  (repeat' split) <;> simp [hs]

theorem execBufwait_canonical (hs : memOk s) (f : FSYS) : Canonical (execBufwait f s) := by
  unfold execBufwait
  refine issueWith_canonical hs fun s c p hs => ?_
  dsimp only
  (repeat' split) <;> simp [hs]

theorem bufrel_canonical (hs : memOk s) (f : FSYS) (pub : Bool) : Canonical (bufrel f pub s) := by
  unfold bufrel
  refine issueWith_canonical hs fun s c p hs => ?_
  dsimp only
  (repeat' split) <;> simp [hs]

theorem execBankZeroDone_canonical (hs : memOk s) (core bank : Nat) : Canonical (execBankZeroDone core bank s) := by
  unfold execBankZeroDone
  dsimp only
  (repeat' split) <;> simp [hs]

theorem execBankSpill_canonical (hs : memOk s) (core bank : Nat) : Canonical (execBankSpill core bank s) := by
  unfold execBankSpill
  dsimp only
  (repeat' split) <;> simp [hs]

theorem execAallocGrant_canonical (hs : memOk s) (core : Nat) : Canonical (execAallocGrant core s) := by
  unfold execAallocGrant
  simp [hs]

theorem execAalloc_canonical (hs : memOk s) (f : FMTX) : Canonical (execAalloc f s) := by
  unfold execAalloc
  refine issueWith_canonical hs fun s c p hs => ?_
  dsimp only
  (repeat' split) <;> simp [hs]

theorem execMmavLineArrival_canonical (hs : memOk s) (op : Nat) : Canonical (execMmavLineArrival op s) := by
  unfold execMmavLineArrival
  (repeat' split) <;> simp [hs]

theorem execCbldLoadDone_canonical (hs : memOk s) (op : Nat) : Canonical (execCbldLoadDone op s) := by
  unfold execCbldLoadDone
  dsimp only
  (repeat' split) <;> simp [hs]

theorem sleepUntil_canonical (hs : memOk s) (f : FSYS) (rel : Bool) : Canonical (sleepUntil f rel s) := by
  unfold sleepUntil
  refine issueWith_canonical hs fun s c p hs => ?_
  dsimp only
  (repeat' split) <;> simp [hs]

theorem barrier_canonical (hs : memOk s) (f : FSYS) (kind : Nat) : Canonical (barrier f kind s) := by
  unfold barrier
  refine issueWith_canonical hs fun s c p hs => ?_
  (repeat' split) <;> simp [hs]

theorem execYield_canonical (hs : memOk s) (f : FSYS) : Canonical (execYield f s) := by
  unfold execYield
  refine issueWith_canonical hs fun s c p hs => ?_
  (repeat' split) <;> simp [hs]

theorem execTrap_canonical (hs : memOk s) (f : FSYS) : Canonical (execTrap f s) := by
  unfold execTrap
  refine issueWith_canonical hs fun s c p hs => ?_
  simp [hs]

theorem execBrk_canonical (hs : memOk s) (f : FSYS) : Canonical (execBrk f s) := by
  unfold execBrk
  refine issueWith_canonical hs fun s c p hs => ?_
  (repeat' split) <;> simp [hs]

theorem tret_canonical (hs : memOk s) (f : FSYS) (k : Nat) : Canonical (tret f k s) := by
  unfold tret
  refine issueWith_canonical hs fun s c p hs => ?_
  dsimp only
  (repeat' split) <;> simp [hs]

theorem execHaltFatal_canonical (hs : memOk s) (f : FSYS) : Canonical (execHaltFatal f s) := by
  unfold execHaltFatal
  refine issueWith_canonical hs fun s c p hs => ?_
  simp [hs]

theorem execClauseLineArrival_canonical (hs : memOk s) (a fid line : Nat) : Canonical (execClauseLineArrival a fid line s) := by
  unfold execClauseLineArrival
  (repeat' split) <;> simp [hs]

theorem execIssuerAged_canonical (hs : memOk s) (a fid : Nat) : Canonical (execIssuerAged a fid s) := by
  unfold execIssuerAged
  (repeat' split) <;> simp [hs]

theorem execDoorbell_canonical (hs : memOk s) (q tail : Nat) : Canonical (execDoorbell q tail s) := by
  unfold execDoorbell
  dsimp only
  (repeat' split) <;> simp [hs]

theorem execFirmDeadlineShed_canonical (hs : memOk s) (g : Nat) : Canonical (execFirmDeadlineShed g s) := by
  unfold execFirmDeadlineShed
  (repeat' split) <;> simp [hs]

theorem execHardWaitPreempt_canonical (hs : memOk s) (g : Nat) : Canonical (execHardWaitPreempt g s) := by
  unfold execHardWaitPreempt
  dsimp only
  (repeat' split) <;> simp [hs]

theorem execGroupStart_canonical (hs : memOk s) (team : Nat) : Canonical (execGroupStart team s) := by
  unfold execGroupStart
  (repeat' split) <;> simp [hs]

theorem execLeatImageLine_canonical (hs : memOk s) (a line : Nat) : Canonical (execLeatImageLine a line s) := by
  unfold execLeatImageLine
  dsimp only
  (repeat' split) <;> simp [hs]

theorem execReducePacketMerge_canonical (hs : memOk s) (a b : Nat) : Canonical (execReducePacketMerge a b s) := by
  unfold execReducePacketMerge
  (repeat' split) <;> simp [hs]

theorem execFabcfgWrite_canonical (hs : memOk s) (v : Dword) : Canonical (execFabcfgWrite v s) := by
  unfold execFabcfgWrite
  (repeat' split) <;> simp [hs]

theorem execPortUpChange_canonical (hs : memOk s) (port : Nat) (up : Bool) : Canonical (execPortUpChange port up s) := by
  unfold execPortUpChange
  (repeat' split) <;> simp [hs]

theorem execSluicePieceRequest_canonical (hs : memOk s) (core : Nat) : Canonical (execSluicePieceRequest core s) := by
  unfold execSluicePieceRequest
  (repeat' split) <;> simp [hs]

theorem execSectorArrival_canonical (hs : memOk s) (x piece : Nat) : Canonical (execSectorArrival x piece s) := by
  unfold execSectorArrival
  dsimp only
  (repeat' split) <;> simp [hs]

theorem execSluicePark_canonical (hs : memOk s) (x : Nat) : Canonical (execSluicePark x s) := by
  unfold execSluicePark
  (repeat' split) <;> simp [hs]

theorem execEngineOpComplete_canonical (hs : memOk s) (x : Nat) : Canonical (execEngineOpComplete x s) := by
  unfold execEngineOpComplete
  (repeat' split) <;> simp [hs]

theorem execHostReadCompletion_canonical (hs : memOk s) (req status : Nat) (bytes : List Byte) :
    Canonical (execHostReadCompletion req status bytes s) := by
  unfold execHostReadCompletion
  (repeat' split) <;> simp [hs]

theorem execHostRequestTimeout_canonical (hs : memOk s) (req : Nat) : Canonical (execHostRequestTimeout req s) := by
  unfold execHostRequestTimeout
  (repeat' split) <;> simp [hs]

theorem execXfill_canonical (hs : memOk s) (f : FSYS) : Canonical (execXfill f s) := by
  unfold execXfill
  refine issueWith_canonical hs fun s c p hs => ?_
  dsimp only
  (repeat' split) <;> simp [hs]

theorem execXhalo_canonical (hs : memOk s) (f : FSYS) : Canonical (execXhalo f s) := by
  unfold execXhalo
  refine issueWith_canonical hs fun s c p hs => ?_
  dsimp only
  (repeat' split) <;> simp [hs]

theorem execXwaitH_canonical (hs : memOk s) (f : FSYS) : Canonical (execXwaitH f s) := by
  unfold execXwaitH
  refine issueWith_canonical hs fun s c p hs => ?_
  (repeat' split) <;> simp [hs]

theorem execXwaitOps_canonical (hs : memOk s) (f : FSYS) : Canonical (execXwaitOps f s) := by
  unfold execXwaitOps
  refine issueWith_canonical hs fun s c p hs => ?_
  (repeat' split) <;> simp [hs]

theorem execXwaitSvc_canonical (hs : memOk s) (f : FSYS) : Canonical (execXwaitSvc f s) := by
  unfold execXwaitSvc
  refine issueWith_canonical hs fun s c p hs => ?_
  (repeat' split) <;> simp [hs]

theorem execRcommit_canonical (hs : memOk s) (f : FSYS) : Canonical (execRcommit f s) := by
  unfold execRcommit
  refine issueWith_canonical hs fun s c p hs => ?_
  simp [hs]

theorem execRayPark_canonical (hs : memOk s) (a lane : Nat) : Canonical (execRayPark a lane s) := by
  unfold execRayPark
  (repeat' split) <;> simp [hs]

theorem execBuildCommandStart_canonical (hs : memOk s) (die : Nat) : Canonical (execBuildCommandStart die s) := by
  unfold execBuildCommandStart
  dsimp only
  (repeat' split) <;> simp [hs]

theorem execBuilderPark_canonical (hs : memOk s) (die : Nat) : Canonical (execBuilderPark die s) := by
  unfold execBuilderPark
  (repeat' split) <;> simp [hs]

theorem execLeaveRequest_canonical (hs : memOk s) (die holder : Nat) : Canonical (execLeaveRequest die holder s) := by
  unfold execLeaveRequest
  dsimp only
  (repeat' split) <;> simp [hs]

theorem execLeaveGrant_canonical (hs : memOk s) (die holder : Nat) : Canonical (execLeaveGrant die holder s) := by
  unfold execLeaveGrant
  (repeat' split) <;> simp [hs]

theorem execLeaveExpiry_canonical (hs : memOk s) (die holder : Nat) : Canonical (execLeaveExpiry die holder s) := by
  unfold execLeaveExpiry
  dsimp only
  (repeat' split) <;> simp [hs]

theorem execLeaveRevoke_canonical (hs : memOk s) (die holder : Nat) : Canonical (execLeaveRevoke die holder s) := by
  unfold execLeaveRevoke
  dsimp only
  (repeat' split) <;> simp [hs]

theorem execTaskPop_canonical (hs : memOk s) (die b1 b2 : Nat) : Canonical (execTaskPop die b1 b2 s) := by
  unfold execTaskPop
  dsimp only
  (repeat' split) <;> simp [hs]

theorem execReuseKeyReady_canonical (hs : memOk s) (t : Nat) : Canonical (execReuseKeyReady t s) := by
  unfold execReuseKeyReady
  (repeat' split) <;> simp [hs]

theorem execReuseLookup_canonical (hs : memOk s) (t : Nat) : Canonical (execReuseLookup t s) := by
  unfold execReuseLookup
  (repeat' split) <;> simp [hs]

theorem execTaskDispatch_canonical (hs : memOk s) (t : Nat) : Canonical (execTaskDispatch t s) := by
  unfold execTaskDispatch
  dsimp only
  (repeat' split) <;> simp [hs]

theorem execFragmentQueueRelease_canonical (hs : memOk s) (core part : Nat) :
    Canonical (execFragmentQueueRelease core part s) := by
  unfold execFragmentQueueRelease
  dsimp only
  (repeat' split) <;> simp [hs]

theorem execPacketReceive_canonical (hs : memOk s) (flow path seq pos stamp : Nat) (marker : Bool) (elems : List Dword) :
    Canonical (execPacketReceive flow path seq pos stamp marker elems s) := by
  unfold execPacketReceive
  dsimp only
  (repeat' split) <;> simp [hs]

theorem execQstat_canonical (hs : memOk s) (f : FSYS) : Canonical (execQstat f s) := by
  unfold execQstat
  refine issueWith_canonical hs fun s c p hs => ?_
  (repeat' split) <;> simp [hs]

theorem execFrameSubstitution_canonical (hs : memOk s) (flow : Nat) : Canonical (execFrameSubstitution flow s) := by
  unfold execFrameSubstitution
  (repeat' split) <;> simp [hs]

theorem execFrameSendStart_canonical (hs : memOk s) (flow : Nat) : Canonical (execFrameSendStart flow s) := by
  unfold execFrameSendStart
  dsimp only
  (repeat' split) <;> simp [hs]

theorem execFrameLastPacket_canonical (hs : memOk s) (flow : Nat) : Canonical (execFrameLastPacket flow s) := by
  unfold execFrameLastPacket
  (repeat' split) <;> simp [hs]

theorem execFlowEnable_canonical (hs : memOk s) (flow : Nat) : Canonical (execFlowEnable flow s) := by
  unfold execFlowEnable
  (repeat' split) <;> simp [hs]

theorem execFlowDisable_canonical (hs : memOk s) (flow : Nat) : Canonical (execFlowDisable flow s) := by
  unfold execFlowDisable
  (repeat' split) <;> simp [hs]

theorem execWallStatusSend_canonical (hs : memOk s) (frame status : Nat) : Canonical (execWallStatusSend frame status s) := by
  unfold execWallStatusSend
  (repeat' split) <;> simp [hs]

theorem execWallStatusReceive_canonical (hs : memOk s) (card frame status : Nat) :
    Canonical (execWallStatusReceive card frame status s) := by
  unfold execWallStatusReceive
  (repeat' split) <;> simp [hs]

theorem execWallRejoin_canonical (hs : memOk s) (v : Dword) : Canonical (execWallRejoin v s) := by
  unfold execWallRejoin
  (repeat' split) <;> simp [hs]

theorem execLoadReturn_canonical (hs : memOk s) (op : Nat) (lanes : Dword) (ext : List Byte) :
    Canonical (execLoadReturn op lanes ext s) := by
  unfold execLoadReturn
  (repeat' split) <;> simp [hs]

theorem execHoldEnd_canonical (hs : memOk s) (a fid : Nat) : Canonical (execHoldEnd a fid s) := by
  unfold execHoldEnd
  (repeat' split) <;> simp [hs]

theorem execSleepWake_canonical (hs : memOk s) (a fid : Nat) : Canonical (execSleepWake a fid s) := by
  unfold execSleepWake
  (repeat' split) <;> simp [hs]

theorem execFaultRetry_canonical (hs : memOk s) (token : Nat) : Canonical (execFaultRetry token s) := by
  unfold execFaultRetry
  dsimp only
  (repeat' split) <;> simp [hs]

theorem execFaultKill_canonical (hs : memOk s) (token : Nat) : Canonical (execFaultKill token s) := by
  unfold execFaultKill
  dsimp only
  (repeat' split) <;> simp [hs]

theorem execTlbInvalidatePage_canonical (hs : memOk s) (ctx vpn : Nat) : Canonical (execTlbInvalidatePage ctx vpn s) := by
  unfold execTlbInvalidatePage
  (repeat' split) <;> simp [hs]

theorem execTlbInvalidateContext_canonical (hs : memOk s) (ctx : Nat) : Canonical (execTlbInvalidateContext ctx s) := by
  unfold execTlbInvalidateContext
  (repeat' split) <;> simp [hs]

theorem execTlbInvalidateAll_canonical (hs : memOk s) : Canonical (execTlbInvalidateAll s) := by
  unfold execTlbInvalidateAll
  (repeat' split) <;> simp [hs]

theorem execTlbInvalidationDone_canonical (hs : memOk s) : Canonical (execTlbInvalidationDone s) := by
  unfold execTlbInvalidationDone
  (repeat' split) <;> simp [hs]

theorem execContextPreempt_canonical (hs : memOk s) (ctx : Nat) : Canonical (execContextPreempt ctx s) := by
  unfold execContextPreempt
  (repeat' split) <;> simp [hs]

theorem execContextKill_canonical (hs : memOk s) (ctx : Nat) : Canonical (execContextKill ctx s) := by
  unfold execContextKill
  simp [hs]

theorem execContextDeadClear_canonical (hs : memOk s) (ctx : Nat) : Canonical (execContextDeadClear ctx s) := by
  unfold execContextDeadClear
  (repeat' split) <;> simp [hs]

theorem execYieldBudgetExpiry_canonical (hs : memOk s) (ctx : Nat) : Canonical (execYieldBudgetExpiry ctx s) := by
  unfold execYieldBudgetExpiry
  dsimp only
  (repeat' split) <;> simp [hs]

theorem execContextSave_canonical (hs : memOk s) (ctx : Nat) : Canonical (execContextSave ctx s) := by
  unfold execContextSave
  (repeat' split) <;> simp [hs]

theorem execPtpRateAdjust_canonical (hs : memOk s) (r : Int) (lock : Nat) (offs : Dword) :
    Canonical (execPtpRateAdjust r lock offs s) := by
  unfold execPtpRateAdjust
  (repeat' split) <;> simp [hs]

theorem execErgwChangeDone_canonical (hs : memOk s) (die : Nat) : Canonical (execErgwChangeDone die s) := by
  unfold execErgwChangeDone
  (repeat' split) <;> simp [hs]

theorem execGddrRefresh_canonical (hs : memOk s) (ch : Nat) : Canonical (execGddrRefresh ch s) := by
  unfold execGddrRefresh
  (repeat' split) <;> simp [hs]

theorem execPatrolScrub_canonical (hs : memOk s) (pa : Nat) : Canonical (execPatrolScrub pa s) := by
  unfold execPatrolScrub
  (repeat' split) <;> simp [hs]

theorem execLvcapWrite_canonical (hs : memOk s) (v : Dword) (runner : Bool) : Canonical (execLvcapWrite v runner s) := by
  unfold execLvcapWrite
  (repeat' split) <;> simp [hs]

theorem execRunnerPowerStep_canonical (hs : memOk s) : Canonical (execRunnerPowerStep s) := by
  unfold execRunnerPowerStep
  (repeat' split) <;> simp [hs]

theorem execLinkTrained_canonical (hs : memOk s) : Canonical (execLinkTrained s) := by
  unfold execLinkTrained
  (repeat' split) <;> simp [hs]

theorem execMonitorVerify_canonical (hs : memOk s) (image : List Byte) : Canonical (execMonitorVerify image s) := by
  unfold execMonitorVerify
  (repeat' split) <;> simp [hs]

theorem execRunnerVerify_canonical (hs : memOk s) (image : List Byte) : Canonical (execRunnerVerify image s) := by
  unfold execRunnerVerify
  (repeat' split) <;> simp [hs]

theorem execDeviceReady_canonical (hs : memOk s) (gm : Option Nat) : Canonical (execDeviceReady gm s) := by
  unfold execDeviceReady
  (repeat' split) <;> simp [hs]

theorem execAttestationRequest_canonical (hs : memOk s) (nonce : List Byte) : Canonical (execAttestationRequest nonce s) := by
  unfold execAttestationRequest
  (repeat' split) <;> simp [hs]

theorem execSvnRaiseRequest_canonical (hs : memOk s) (kind svn : Nat) : Canonical (execSvnRaiseRequest kind svn s) := by
  unfold execSvnRaiseRequest
  (repeat' split) <;> simp [hs]

theorem execRegisterWrite_canonical (hs : memOk s) (off n : Nat) (v : Dword) : Canonical (execRegisterWrite off n v s) := by
  unfold execRegisterWrite
  dsimp only
  (repeat' split) <;> simp [hs]

theorem xcopy_canonical (hs : memOk s) (f : FSYS) (kind : XKind) (sub : Nat) : Canonical (xcopy f kind sub s) := by
  unfold xcopy
  exact xRecord_canonical hs ..

theorem execXim2c_canonical (hs : memOk s) (f : FSYS) : Canonical (execXim2c f s) := by
  unfold execXim2c
  exact xRecord_canonical hs ..

theorem execXcollSend_canonical (hs : memOk s) (f : FSYS) : Canonical (execXcollSend f s) := by
  unfold execXcollSend
  exact xRecord_canonical hs ..

theorem execXcollRed_canonical (hs : memOk s) (f : FSYS) : Canonical (execXcollRed f s) := by
  unfold execXcollRed
  exact xRecord_canonical hs ..

theorem execXcollGet_canonical (hs : memOk s) (f : FSYS) : Canonical (execXcollGet f s) := by
  unfold execXcollGet
  exact xRecord_canonical hs ..

theorem execFabricResponseTimeout_canonical (hs : memOk s) (req : Nat) : Canonical (execFabricResponseTimeout req s) := by
  unfold execFabricResponseTimeout
  split
  · exact hs
  · exact ite_canonical hs (execPeerStoreReject_canonical hs ..)

theorem exec_canonical (i : Instr) (hs : memOk s) : Canonical (exec i s) := by
  unfold exec
  cases i with
  | smov _ | sadd _ | ssub _ | smul _ | smulh _ | sdiv _ | srem _ | sand _ | sor _ | sxor _ | snot _ | sshl _ | sshr _ | ssar _
  | smin _ | smax _ | scmp _ | ssel _ | spopc _ | sclz _ | sctz _ | sbfe _ | sbfi _ | slea _ =>
    exact scalarS3_canonical hs ..
  | smovi _ | smovh _ | nop _ | vbcast _ | vlane _ | vcvt _ | vlut _ | vrdln _ | srd _ | bufstat _ | xlmr _ | xlmw _ =>
    exact issueLocal_canonical hs
  | saddFSi _ | sandFSi _ | sorFSi _ | sxorFSi _ => exact scalarSI_canonical hs ..
  | bra _ | brc _ | call _ | loop _ | brzm _ => exact relBranch_canonical hs ..
  | ret _ | jmp _ => exact regBranch_canonical hs ..
  | endGroup _ => exact execEnd_canonical hs ..
  | mset _ | mget _ | mand _ | mandn _ | mor _ | mfirst _ | mcnt _ => exact maskOp_canonical hs ..
  | split _ => exact execSplit_canonical hs ..
  | joinI _ => exact execJoin_canonical hs ..
  | vadd _ | vsub _ | vmul _ | vmulh _ | vmad _ | vfma _ | vmin _ | vmax _ | vabs _ | vand _ | vor _ | vxor _ | vnot _ | vshl _
  | vshr _ | vsar _ | vcmp _ | vsel _ | vmov _ | vrcp _ | vrsq _ | vsqrt _ | vexp2 _ | vlog2 _ | vsin _ | vcos _ | vfract _ | vround _
  | vpopc _ | vclz _ | vbfe _ | vbfi _ | vunpk _ | vpack _ | vdot _ =>
    exact vec3_canonical hs ..
  | vaddFVi _ | vsubFVi _ | vmulFVi _ | vminFVi _ | vmaxFVi _ | vandFVi _ | vorFVi _ | vxorFVi _ | vshlFVi _ | vshrFVi _ | vsarFVi _
  | vcmpFVi _ | vmovFVi _ =>
    exact vecI_canonical hs ..
  | swadd _ | swmul _ | swfma _ | swmax _ | swcvt _ => exact sweep_canonical hs ..
  | vshuf _ | vshfu _ | vshfd _ | vxsw _ => exact shuffle_canonical hs ..
  | vbal _ | vmatch _ => exact laneMask_canonical hs ..
  | vredu _ => exact execVredu_canonical hs ..
  | vscan _ => exact execVscan_canonical hs ..
  | vwrln _ => exact execVwrln_canonical hs ..
  | ldg _ | ldgAcq _ | stg _ | stgRel _ | ldgs _ | ldgsAcq _ | stgs _ | stgsRel _ | atomg _ | ldc _ | lds _ | sts _ | ldss _ | stss _
  | atoms _ =>
    exact memIns_canonical hs ..
  | atomh _ => exact startHostAtomic_canonical (memIns_canonical hs _) ..
  | atomhF _ => exact startHostAtomic_canonical (memIns_canonical hs _) ..
  | pref _ => exact execPref_canonical hs ..
  | waitc _ => exact execWaitc_canonical hs ..
  | fence _ => exact execFence_canonical hs ..
  | ldb _ | stb _ => exact bufAccess_canonical hs ..
  | sample _ | txld _ => exact image_canonical hs ..
  | aalloc _ => exact execAalloc_canonical hs ..
  | afree _ => exact execAfree_canonical hs ..
  | azero _ => exact execAzero_canonical hs ..
  | mma _ | mmaq _ | mmav _ | mmac _ => exact mulIns_canonical hs ..
  | cbld _ => exact execCbld_canonical hs ..
  | ald _ => exact execAld_canonical hs ..
  | ast _ | aadd _ => exact bankMem_canonical hs ..
  | astat _ => exact execAstat_canonical hs ..
  | tbar _ | sbar _ => exact barrier_canonical hs ..
  | launch _ => exact execLaunch_canonical hs ..
  | sleeppt _ | sleepptRel _ => exact sleepUntil_canonical hs ..
  | swr _ => exact execSwr_canonical hs ..
  | bufwait _ => exact execBufwait_canonical hs ..
  | bufrelCons _ | bufrelPub _ => exact bufrel_canonical hs ..
  | rtrace _ => exact execRtrace_canonical hs ..
  | rresume _ | rresumeEnd _ => exact rresume_canonical hs ..
  | rstate _ => exact execRstate_canonical hs ..
  | rcommit _ => exact execRcommit_canonical hs ..
  | genpin _ => exact execGenpin_canonical hs ..
  | genrel _ => exact execGenrel_canonical hs ..
  | bldcmd _ => exact execBldcmd_canonical hs ..
  | bldqCur _ | bldqPins _ | bldqQueue _ => exact bldq_canonical hs ..
  | tspawn _ => exact execTspawn_canonical hs ..
  | tend _ => exact execTend_canonical hs ..
  | qpop _ => exact execQpop_canonical hs ..
  | qpush _ => exact execQpush_canonical hs ..
  | qstat _ => exact execQstat_canonical hs ..
  | qframeOpen _ => exact qframe_canonical hs _ _ _ fun u x y => State.frameOpen_mem ..
  | qframeDone _ => exact qframe_canonical hs _ _ _ fun u x y => State.frameDone_mem ..
  | qframeNext _ => exact qframe_canonical hs _ _ _ fun u x y => State.frameNext_mem ..
  | yield _ => exact execYield_canonical hs ..
  | trapI _ => exact execTrap_canonical hs ..
  | tretRetry _ | tretSkip _ | tretJmp _ => exact tret_canonical hs ..
  | fltrdRec _ | fltrdSpl _ | fltrdRng _ => exact fltrd_canonical hs ..
  | halt _ => exact execHalt_canonical hs ..
  | haltFatal _ => exact execHaltFatal_canonical hs ..
  | brk _ => exact execBrk_canonical hs ..
  | wbar _ => exact execWbar_canonical hs ..
  | xcopyIn _ | xcopyInc _ | xcopyOut _ | xcopyOutc _ => exact xcopy_canonical hs ..
  | xhalo _ => exact execXhalo_canonical hs ..
  | xim2c _ => exact execXim2c_canonical hs ..
  | xresume _ => exact execXresume_canonical hs ..
  | xwaitH _ => exact execXwaitH_canonical hs ..
  | xwaitOps _ => exact execXwaitOps_canonical hs ..
  | xwaitSvc _ => exact execXwaitSvc_canonical hs ..
  | xfill _ => exact execXfill_canonical hs ..
  | xcollSend _ => exact execXcollSend_canonical hs ..
  | xcollRed _ => exact execXcollRed_canonical hs ..
  | xcollGet _ => exact execXcollGet_canonical hs ..
  | clauseStart _ _ => exact execClauseStart_canonical hs ..
  | clauseLineArrival _ _ _ => exact execClauseLineArrival_canonical hs ..
  | issuerAged _ _ => exact execIssuerAged_canonical hs ..
  | holdEnd _ _ => exact execHoldEnd_canonical hs ..
  | tlbWalkDone _ => exact execTlbWalkDone_canonical hs ..
  | loadReturn _ _ _ => exact execLoadReturn_canonical hs ..
  | storeAccept _ _ => exact execStoreAccept_canonical hs ..
  | atomicReturn _ _ _ => exact execAtomicReturn_canonical hs ..
  | sweepSegmentAccess _ => exact execSweepSegmentAccess_canonical hs ..
  | hostAtomicCompletion _ _ _ _ => exact execHostAtomicCompletion_canonical hs ..
  | peerStoreReject _ _ _ => exact execPeerStoreReject_canonical hs ..
  | peerLoadReject _ _ _ => exact execPeerLoadReject_canonical hs ..
  | barrierComplete _ _ => exact execBarrierComplete_canonical hs ..
  | sleepWake _ _ => exact execSleepWake_canonical hs ..
  | fragmentQueueRelease _ _ => exact execFragmentQueueRelease_canonical hs ..
  | groupRelease _ => exact execGroupRelease_canonical hs ..
  | doorbell _ _ => exact execDoorbell_canonical hs ..
  | queueEntryRead _ => exact execQueueEntryRead_canonical hs ..
  | admission _ => exact execAdmission_canonical hs ..
  | gridEligible _ => exact execGridEligible_canonical hs ..
  | teamPlacement _ => exact execTeamPlacement_canonical hs ..
  | firmDeadlineShed _ => exact execFirmDeadlineShed_canonical hs ..
  | hardWaitPreempt _ => exact execHardWaitPreempt_canonical hs ..
  | groupStart _ => exact execGroupStart_canonical hs ..
  | leatImageLine _ _ => exact execLeatImageLine_canonical hs ..
  | gridCompletionRecord _ => exact execGridCompletionRecord_canonical hs ..
  | arrayOpBegin _ => exact execArrayOpBegin_canonical hs ..
  | matrixOpEnd _ => exact execMatrixOpEnd_canonical hs ..
  | mmaqRendezvous _ _ => exact execMmaqRendezvous_canonical hs ..
  | mmavLineArrival _ => exact execMmavLineArrival_canonical hs ..
  | cbldLoadDone _ => exact execCbldLoadDone_canonical hs ..
  | aallocGrant _ => exact execAallocGrant_canonical hs ..
  | bankZeroDone _ _ => exact execBankZeroDone_canonical hs ..
  | bankSpill _ _ => exact execBankSpill_canonical hs ..
  | leaveRequest _ _ => exact execLeaveRequest_canonical hs ..
  | leaveGrant _ _ => exact execLeaveGrant_canonical hs ..
  | leaveExpiry _ _ => exact execLeaveExpiry_canonical hs ..
  | leaveRevoke _ _ => exact execLeaveRevoke_canonical hs ..
  | hdescWrite _ _ _ => exact execHdescWrite_canonical hs ..
  | engineOpStart _ => exact execEngineOpStart_canonical hs ..
  | sluicePieceRequest _ => exact execSluicePieceRequest_canonical hs ..
  | sectorArrival _ _ => exact execSectorArrival_canonical hs ..
  | drainSectorAccept _ _ => exact execDrainSectorAccept_canonical hs ..
  | sluicePark _ => exact execSluicePark_canonical hs ..
  | engineOpComplete _ => exact execEngineOpComplete_canonical hs ..
  | rayEnd _ _ _ => exact execRayEnd_canonical hs ..
  | rayPark _ _ => exact execRayPark_canonical hs ..
  | rayStackSpill _ _ => exact execRayStackSpill_canonical hs ..
  | traversalReturn _ => exact execTraversalReturn_canonical hs ..
  | buildCommandStart _ => exact execBuildCommandStart_canonical hs ..
  | buildCommandEnd _ => exact execBuildCommandEnd_canonical hs ..
  | builderPark _ => exact execBuilderPark_canonical hs ..
  | generationReclaim _ _ => exact execGenerationReclaim_canonical hs ..
  | taskPop _ _ _ => exact execTaskPop_canonical hs ..
  | taskCoreChoice _ _ => exact execTaskCoreChoice_canonical hs ..
  | taskDispatch _ => exact execTaskDispatch_canonical hs ..
  | reuseKeyReady _ => exact execReuseKeyReady_canonical hs ..
  | reuseLookup _ => exact execReuseLookup_canonical hs ..
  | reuseHitCopyPiece _ => exact execReuseHitCopyPiece_canonical hs ..
  | taskOutputDrain _ => exact execTaskOutputDrain_canonical hs ..
  | taskCompletionRecord _ => exact execTaskCompletionRecord_canonical hs ..
  | packetReceive _ _ _ _ _ _ _ => exact execPacketReceive_canonical hs ..
  | frameSendStart _ => exact execFrameSendStart_canonical hs ..
  | frameLastPacket _ => exact execFrameLastPacket_canonical hs ..
  | frameSubstitution _ => exact execFrameSubstitution_canonical hs ..
  | flowEnable _ => exact execFlowEnable_canonical hs ..
  | flowDisable _ => exact execFlowDisable_canonical hs ..
  | ptTick => exact execPtTick_canonical hs ..
  | wallStatusSend _ _ => exact execWallStatusSend_canonical hs ..
  | wallStatusReceive _ _ _ => exact execWallStatusReceive_canonical hs ..
  | wallFrameDeadline _ => exact execWallFrameDeadline_canonical hs ..
  | wallRejoin _ => exact execWallRejoin_canonical hs ..
  | fabcfgWrite _ => exact execFabcfgWrite_canonical hs ..
  | portUpChange _ _ => exact execPortUpChange_canonical hs ..
  | fabricInboundRequest _ _ _ _ _ _ => exact execFabricInboundRequest_canonical hs ..
  | fabricResponseTimeout _ => exact execFabricResponseTimeout_canonical hs ..
  | reducePacketMerge _ _ => exact execReducePacketMerge_canonical hs ..
  | reducePacketArrive _ _ _ => exact execReducePacketArrive_canonical hs ..
  | collectivePieceAck _ _ => exact execCollectivePieceAck_canonical hs ..
  | inboundMemWrite _ _ => exact execInboundMemWrite_canonical hs ..
  | inboundMemRead _ _ => exact execInboundMemRead_canonical hs ..
  | inboundAtomicop _ _ _ _ _ => exact execInboundAtomicop_canonical hs ..
  | hostReadCompletion _ _ _ => exact execHostReadCompletion_canonical hs ..
  | hostRequestTimeout _ => exact execHostRequestTimeout_canonical hs ..
  | hablClear => exact execHablClear_canonical hs ..
  | faultRecordWrite => exact execFaultRecordWrite_canonical hs ..
  | faultRetry _ => exact execFaultRetry_canonical hs ..
  | faultKill _ => exact execFaultKill_canonical hs ..
  | tlbInvalidatePage _ _ => exact execTlbInvalidatePage_canonical hs ..
  | tlbInvalidateContext _ => exact execTlbInvalidateContext_canonical hs ..
  | tlbInvalidateAll => exact execTlbInvalidateAll_canonical hs ..
  | tlbInvalidationDone => exact execTlbInvalidationDone_canonical hs ..
  | contextPreempt _ => exact execContextPreempt_canonical hs ..
  | contextKill _ => exact execContextKill_canonical hs ..
  | contextDeadClear _ => exact execContextDeadClear_canonical hs ..
  | contextSave _ => exact execContextSave_canonical hs ..
  | teamRestore _ => exact execTeamRestore_canonical hs ..
  | yieldBudgetExpiry _ => exact execYieldBudgetExpiry_canonical hs ..
  | fatalDiscard _ => exact execFatalDiscard_canonical hs ..
  | ergwSizeWrite _ _ => exact execErgwSizeWrite_canonical hs ..
  | ergwChangeDone _ => exact execErgwChangeDone_canonical hs ..
  | gddrRefresh _ => exact execGddrRefresh_canonical hs ..
  | patrolScrub _ => exact execPatrolScrub_canonical hs ..
  | reuseFlush => exact State.dropReuse_wf hs _
  | reuseKeyWrite _ _ => exact execReuseKeyWrite_canonical hs ..
  | lvcapWrite _ _ => exact execLvcapWrite_canonical hs ..
  | runnerPowerStep => exact execRunnerPowerStep_canonical hs ..
  | sensorUpdate _ _ => exact execSensorUpdate_canonical hs ..
  | boardPowerCut _ _ _ => exact ite_canonical (State.fused_wf s) hs
  | reset => exact State.fused_wf s
  | linkTrained => exact execLinkTrained_canonical hs ..
  | monitorVerify _ => exact execMonitorVerify_canonical hs ..
  | runnerVerify _ => exact execRunnerVerify_canonical hs ..
  | memoryTrained _ => exact execMemoryTrained_canonical hs ..
  | deviceReady _ => exact execDeviceReady_canonical hs ..
  | attestationRequest _ => exact execAttestationRequest_canonical hs ..
  | svnRaiseRequest _ _ => exact execSvnRaiseRequest_canonical hs ..
  | registerWrite _ _ _ => exact execRegisterWrite_canonical hs ..
  | ptpRateAdjust _ _ _ => exact execPtpRateAdjust_canonical hs ..
  | contextSaveDone _ => exact execContextSaveDone_canonical hs ..

theorem runEv_canonical (e : Ev) (hs : memOk s) : Canonical (runEv e s) := by
  obtain ⟨i, hi⟩ := runEv_row e
  rw [hi]
  exact exec_canonical i hs

theorem execAt_canonical (a fid : Nat) (hs : memOk s) : Canonical (execAt a fid s) := by
  unfold execAt
  extract_lets -underBinder +onlyGivenNames s1
  have h1 : memOk s1 := hs
  split
  · trivial
  · split
    · exact exec_canonical _ h1
    · exact raise_canonical h1 ..

theorem State.unpowered_canonical (hs : memOk s) : Canonical s.unpowered := by
  unfold State.unpowered
  split
  · refine runEv_canonical _ ?_
    simp only [memOk]
    exact hs
  · trivial

theorem step_canonical (hs : memOk s) : Canonical (step s) := by
  unfold step
  split
  · split
    · exact runEv_canonical _ (by exact hs)
    · split
      · exact runEv_canonical _ (by exact hs)
      · split
        · exact runEv_canonical _ hs
        · split
          · exact execAt_canonical _ _ hs
          · exact execPtTick_canonical hs
  · exact State.unpowered_canonical hs

/-- Settles O8: every branch of a step writes memory only through functions that keep its canonical form. -/
theorem memoryStaysCanonical : Obligations.MemoryStaysCanonical := by
  intro s t hs e
  have h := step_canonical hs
  rw [e] at h
  exact h

end Sys2Proof.Machine

end

section
namespace Sys2Proof.Machine
open Sys2Proof Sys2Proof.Safety

/-! ## The board's events (R213, R214, R489 to R498) -/

/-! ### Registers of BAR 0 -/

/-- A field inside the field just written. -/
theorem State.barFld_barPut_inside (s : State) (i : Nat) {lo n lo' n' : Nat} (hlo : lo ≤ lo') (hn : lo' + n' ≤ lo + n) (hw : lo + n ≤ 64)
    (v : Nat) : (s.barPut i lo n v).barFld i lo' n' = v / 2 ^ (lo' - lo) % 2 ^ n' := by
  have hself := State.barFld_barPut_self s i hw v
  rw [barFld_eq] at hself ⊢
  generalize ((s.barPut i lo n v).barRd i).toNat = x at hself ⊢
  obtain ⟨d, rfl⟩ := Nat.exists_eq_add_of_le hlo
  obtain ⟨m, rfl⟩ : ∃ m, n = d + n' + m := ⟨n - (d + n'), by omega⟩
  have hin : ∀ y, y % 2 ^ (d + n' + m) / 2 ^ d % 2 ^ n' = y / 2 ^ d % 2 ^ n' := by
    intro y
    rw [Nat.add_assoc d n' m, pow_add, Nat.mod_mul_right_div_self, pow_add, Nat.mod_mul_right_mod]
  rw [Nat.add_sub_cancel_left, ← hin v, ← hself, hin, Nat.div_div_eq_div_mul, pow_add]

/-- The registers from b on, n of them, written one after another. -/
theorem State.barRd_foldl_barWr (s : State) (b n : Nat) (val : Nat → Dword) (j : Nat) :
    ((List.range n).foldl (fun (s : State) i => s.barWr (b + i) (val i)) s).barRd j
      = if b ≤ j ∧ j < b + n then val (j - b) else s.barRd j := by
  induction n with
  | zero => rw [if_neg (by omega)]; rfl
  | succ n ih =>
    rw [List.range_succ, List.foldl_append, List.foldl_cons, List.foldl_nil]
    by_cases hj : j = b + n
    · rw [hj, State.barRd_barWr_self, if_pos (by omega), Nat.add_sub_cancel_left]
    · rw [State.barRd_barWr_ne _ hj, ih]
      exact if_congr (by omega) rfl rfl

theorem State.foldl_barWr_eq (s : State) (b n : Nat) (val : Nat → Dword) :
    ∃ bar, (List.range n).foldl (fun (s : State) i => s.barWr (b + i) (val i)) s = { s with bar := bar } := by
  induction n with
  | zero => exact ⟨s.bar, rfl⟩
  | succ n ih =>
    obtain ⟨bar, h⟩ := ih
    rw [List.range_succ, List.foldl_append, h]
    exact ⟨_, rfl⟩

/-! ### The erg window -/

theorem rdB_filter (m : KMap Byte) (q : Nat → Bool) (a : Nat) :
    rdB (m.filter fun c => q c.1) a = if q a then rdB m a else 0 := by
  simp only [rdB, KMap.get, KMap.find?_filter_key]
  split <;> rfl

theorem ergBase_eq {die : Nat} (hd : die < 2) : ergBase die = 0x100_0000_0000 + 0x2000_0000 * die := by
  obtain rfl | rfl : die = 0 ∨ die = 1 := by omega
  · rfl
  · rfl

theorem ergwSizeWrite_refused {s : State} {die : Nat} {v : Dword}
    (h : 192 < fldN v 0 8 ∨ s.barFld (0x2_0000 + die) 8 1 = 1) : exec (.ergwSizeWrite die v) s = .next s :=
  if_pos (.inr h)

/-- The window of a die resized from old to n units, BUSY until due. -/
def State.ergwResized (s : State) (die n old due : Nat) : State :=
  let lo := ergBase die + min n old * 2 ^ 21
  let hi := ergBase die + max n old * 2 ^ 21
  { (s.barPut (blkMem + die) 0 9 (n + 256)) with
    mem := s.mem.filter fun (c : Host.Cell) => !decide (lo ≤ c.1 ∧ c.1 < hi)
    lines := s.lines.filter fun (q : Nat × Dword) => !decide (lo ≤ 64 * q.1 ∧ 64 * q.1 < hi)
    ergDone := KMap.put s.ergDone die due }

/-- Clk from the write of SIZE to the end of BUSY, the write-backs of a growth apart. -/
def ergBusy (n old : Nat) : Nat := ((max n old - min n old) * 2 ^ 14 + 74) / 75

theorem ergwSizeWrite_resizes {s : State} {die : Nat} {v : Dword} (hd : die < 2) (hn : fldN v 0 8 ≤ 192)
    (hb : s.barFld (0x2_0000 + die) 8 1 = 0) :
    let old := s.barFld (0x2_0000 + die) 0 8
    ∃ (s1 : State) (w : Nat), s1.mem = s.mem ∧ (fldN v 0 8 ≤ old → w = 0)
      ∧ exec (.ergwSizeWrite die v) s = .next (s1.ergwResized die (fldN v 0 8) old (s.clk + 64 + ergBusy (fldN v 0 8) old + w)) := by
  intro old
  have hnot : ¬(2 ≤ die ∨ 192 < fldN v 0 8 ∨ s.barFld (blkMem + die) 8 1 = 1) := by
    rintro (h | h | h)
    · omega
    · omega
    · exact absurd (hb.symm.trans h) (by decide)
  obtain ⟨s1, w, hdraw, hmem, hw⟩ : ∃ (s1 : State) (w : Nat), (if old < fldN v 0 8 then s.draw (2 ^ 20) else (s, 0)) = (s1, w)
      ∧ s1.mem = s.mem ∧ (fldN v 0 8 ≤ old → w = 0) := by
    split
    · exact ⟨_, _, rfl, rfl, fun h => by omega⟩
    · exact ⟨_, _, rfl, rfl, fun _ => rfl⟩
  have hlen : ∀ b, (b + max (fldN v 0 8) old * 2 ^ 21 - (b + min (fldN v 0 8) old * 2 ^ 21)) / 128
      = (max (fldN v 0 8) old - min (fldN v 0 8) old) * 2 ^ 14 := fun b => by omega
  refine ⟨s1, w, hmem, hw, ?_⟩
  show execErgwSizeWrite die v s = _
  unfold execErgwSizeWrite
  extract_lets -underBinder n old' b lo hi d l
  have hd1 : d = (s1, w) := hdraw
  have hl : l = (max n old - min n old) * 2 ^ 14 := hlen b
  clear_value l d
  subst hd1 hl
  exact if_neg hnot

theorem ergwResized_mem (s : State) (die n old due a : Nat) :
    rdB (s.ergwResized die n old due).mem a
      = if ergBase die + min n old * 2 ^ 21 ≤ a ∧ a < ergBase die + max n old * 2 ^ 21 then 0 else rdB s.mem a := by
  refine (rdB_filter s.mem (fun a => !decide (_ ≤ a ∧ a < _)) a).trans ?_
  by_cases h : ergBase die + min n old * 2 ^ 21 ≤ a ∧ a < ergBase die + max n old * 2 ^ 21
  · rw [if_pos h, decide_eq_true h]
    rfl
  · rw [if_neg h, decide_eq_false h]
    rfl

theorem ergwSizeWrite_taken {s : State} {die : Nat} {v : Dword} (hd : die < 2) (hn : fldN v 0 8 ≤ 192)
    (hb : s.barFld (0x2_0000 + die) 8 1 = 0) :
    let n := fldN v 0 8
    let old := s.barFld (0x2_0000 + die) 0 8
    let base := 0x100_0000_0000 + 0x2000_0000 * die
    brings (.ergwSizeWrite die v) s fun t => t.ergSize die = n * 2 ^ 21 ∧ t.barFld (0x2_0000 + die) 8 1 = 1
      ∧ (∀ a, base + min n old * 2 ^ 21 ≤ a → a < base + max n old * 2 ^ 21 → rdB t.mem a = 0)
      ∧ (∀ a, ¬(base + min n old * 2 ^ 21 ≤ a ∧ a < base + max n old * 2 ^ 21) → rdB t.mem a = rdB s.mem a)
      ∧ ∃ d, KMap.find? t.ergDone die = some d ∧ s.clk + 64 + ((max n old - min n old) * 2 ^ 14 + 74) / 75 ≤ d
        ∧ (n ≤ old → d = s.clk + 64 + ((old - n) * 2 ^ 14 + 74) / 75) := by
  intro n old base
  obtain ⟨s1, w, hmem, hw, hex⟩ := ergwSizeWrite_resizes hd hn hb
  have hbase : ergBase die = base := ergBase_eq hd
  have hfld : ∀ lo' n', lo' + n' ≤ 9 →
      (s1.ergwResized die n old (s.clk + 64 + ergBusy n old + w)).barFld (blkMem + die) lo' n' = (n + 256) / 2 ^ lo' % 2 ^ n' :=
    fun lo' n' h => State.barFld_barPut_inside s1 (blkMem + die) (Nat.zero_le _) (by omega) (by decide) _
  refine ⟨_, hex, ?_, ?_, fun a h1 h2 => ?_, fun a h => ?_, _, KMap.find?_put_self .., ?_, fun hle => ?_⟩
  · rw [State.ergSize, hfld 0 8 (by decide)]
    omega
  · refine (hfld 8 1 (by decide)).trans ?_
    omega
  · rw [ergwResized_mem, hbase, if_pos ⟨h1, h2⟩]
  · rw [ergwResized_mem, hbase, if_neg h, hmem]
  · exact Nat.le_add_right _ w
  · rw [hw hle, ergBusy, Nat.max_eq_right hle, Nat.min_eq_left hle, Nat.add_zero]

theorem ergSize_congr {s t : State} {die : Nat} (h : t.barFld (blkMem + die) 0 8 = s.barFld (blkMem + die) 0 8) :
    t.ergSize die = s.ergSize die := by
  rw [State.ergSize, State.ergSize, h]

theorem ergwChangeDone_early {s : State} {die d : Nat} (h : KMap.find? s.ergDone die = some d) (hd : s.clk < d) :
    exec (.ergwChangeDone die) s = .next s := by
  show execErgwChangeDone die s = _
  simp only [execErgwChangeDone, h, if_pos hd]

theorem ergwChangeDone_due {s : State} {die d : Nat} (h : KMap.find? s.ergDone die = some d) (hd : d ≤ s.clk) :
    exec (.ergwChangeDone die) s = .next { (s.barPut (blkMem + die) 8 1 0) with ergDone := KMap.del s.ergDone die } := by
  show execErgwChangeDone die s = _
  simp only [execErgwChangeDone, h, if_neg (Nat.not_lt.mpr hd)]

/-! ### Refresh and scrub -/

theorem gddrRefresh_early {s : State} {ch : Nat} {r : Refresh} (h : KMap.find? s.refresh ch = some r)
    (hr : s.clk < r.start + 304 * (r.count + 1)) : exec (.gddrRefresh ch) s = .next s := by
  show execGddrRefresh ch s = _
  simp only [execGddrRefresh, h, if_pos hr]

theorem gddrRefresh_due {s : State} {ch : Nat} {r : Refresh} (h : KMap.find? s.refresh ch = some r)
    (hr : r.start + 304 * (r.count + 1) ≤ s.clk) :
    exec (.gddrRefresh ch) s = .next { s with refresh := KMap.put s.refresh ch { r with count := r.count + 1 }
                                              openRows := KMap.del s.openRows (16 * ch + r.count % 16) } := by
  show execGddrRefresh ch s = _
  simp only [execGddrRefresh, h, if_neg (Nat.not_lt.mpr hr)]

theorem patrolScrub_clean {s : State} {pa : Nat} (h : KMap.find? s.bad (pa / 128) = none) : exec (.patrolScrub pa) s = .next s := by
  show execPatrolScrub pa s = _
  simp only [execPatrolScrub, h]

theorem patrolScrub_found {s : State} {pa : Nat} {unc : Bool} (h : KMap.find? s.bad (pa / 128) = some unc) :
    exec (.patrolScrub pa) s = .next { (s.eccNote (pa / 128 * 128) unc) with bad := KMap.del s.bad (pa / 128) } := by
  show execPatrolScrub pa s = _
  simp only [execPatrolScrub, h]

theorem eccNote_keeps (s : State) (pa : Nat) (unc : Bool) :
    ∃ bar, s.eccNote pa unc = { s with bar := bar } := by
  unfold State.eccNote State.eccCount
  cases unc with
  | true => exact ⟨_, rfl⟩
  | false => exact ⟨_, rfl⟩

/-- The count of errors of a kind, and of the other kind. -/
theorem eccNote_counts (s : State) (pa : Nat) (unc : Bool) :
    (s.eccNote pa unc).barFld 0xA_0024 (if unc then 32 else 0) 32
        = min (s.barFld 0xA_0024 (if unc then 32 else 0) 32 + 1) (2 ^ 32 - 1)
      ∧ (s.eccNote pa unc).barFld 0xA_0024 (if unc then 0 else 32) 32 = s.barFld 0xA_0024 (if unc then 0 else 32) 32 := by
  have hmin : ∀ x, min (x + 1) (2 ^ 32 - 1) % 2 ^ 32 = min (x + 1) (2 ^ 32 - 1) := fun x => Nat.mod_eq_of_lt (by omega)
  have hlog : ∀ (t : State) (v : Dword) (lo n : Nat), (t.barWr (blkHost + 0x25) v).barFld 0xA_0024 lo n = t.barFld 0xA_0024 lo n :=
    fun t v lo n => congrArg (fldN · lo n) (State.barRd_barWr_ne t (by decide) v)
  unfold State.eccNote State.eccCount
  cases unc with
  | true =>
    simp only [if_true, hlog]
    exact ⟨(State.barFld_barPut_self s 0xA_0024 (by decide) _).trans (hmin _),
      State.barFld_barPut_apart s 0xA_0024 (by decide) (by decide) _⟩
  | false =>
    simp only [if_neg Bool.false_ne_true]
    exact ⟨(State.barFld_barPut_self s 0xA_0024 (by decide) _).trans (hmin _),
      State.barFld_barPut_apart s 0xA_0024 (by decide) (by decide) _⟩

/-- The log of an uncorrectable error. -/
theorem eccNote_logs (s : State) (pa : Nat) :
    (s.eccNote pa true).barFld 0xA_0025 63 1 = 1 ∧ (s.eccNote pa true).barFld 0xA_0025 0 52 = pa % 2 ^ 52 := by
  have hrd : (s.eccNote pa true).barRd 0xA_0025 = BitVec.ofNat 64 (pa % 2 ^ 52 + eccStruct s pa % 8 * 2 ^ 52 + 2 ^ 63) :=
    State.barRd_barWr_self ..
  rw [State.barFld, State.barFld, hrd, fldN_ofNat _ (by decide), fldN_ofNat _ (by decide)]
  have h8 : eccStruct s pa % 8 < 8 := Nat.mod_lt _ (by decide)
  omega

/-! ### Power and sensors -/

theorem lvcapWrite_runner {s : State} {v : Dword} (h0 : fldN v 0 9 ≤ 328) (h1 : fldN v 16 9 ≤ 328) :
    exec (.lvcapWrite v true) s = .next (s.barWr (blkHost + 0x21) (BitVec.ofNat 64 (fldN v 0 9 + fldN v 16 9 * 2 ^ 16))) := by
  show execLvcapWrite v true s = _
  exact if_neg (by simp; omega)

theorem lvcap_barWr (s : State) {x y die : Nat} (hx : x < 2 ^ 9) (hy : y < 2 ^ 9) (hd : die < 2) :
    (s.barWr (blkHost + 0x21) (BitVec.ofNat 64 (x + y * 2 ^ 16))).lvcap die = if die = 0 then x else y := by
  rw [State.lvcap, State.barFld, State.barRd_barWr_self, fldN_ofNat _ (by omega)]
  obtain rfl | rfl : die = 0 ∨ die = 1 := by omega
  · rw [if_pos rfl]
    omega
  · rw [if_neg (by decide)]
    omega

theorem lvcap_lt (s : State) (die : Nat) : s.lvcap die < 2 ^ 9 := fldN_lt _ _ _

theorem stepCap_lt {down up : Bool} {v : Nat} (h : v < 2 ^ 9) : stepCap down up v < 2 ^ 9 := by
  unfold stepCap
  split
  · omega
  · split
    · omega
    · exact h

theorem runnerPowerStep_early {s : State} (h : s.stage ≠ 5 ∨ s.clk < s.steer) : exec .runnerPowerStep s = .next s := if_pos h

/-- The state with both caps stepped. -/
def State.capped (s : State) (down up : Bool) : State :=
  (s.barPut (blkHost + 0x21) 0 9 (stepCap down up (s.lvcap 0))).barPut (blkHost + 0x21) 16 9 (stepCap down up (s.lvcap 1))

theorem capped_lvcap (s : State) (down up : Bool) {d : Nat} (hd : d < 2) : (s.capped down up).lvcap d = stepCap down up (s.lvcap d) := by
  have hlt : ∀ d, stepCap down up (s.lvcap d) % 2 ^ 9 = stepCap down up (s.lvcap d) :=
    fun d => Nat.mod_eq_of_lt (stepCap_lt (lvcap_lt s d))
  obtain rfl | rfl : d = 0 ∨ d = 1 := by omega
  · exact (State.barFld_barPut_apart _ _ (by decide) (by decide) _).trans ((State.barFld_barPut_self _ _ (by decide) _).trans (hlt 0))
  · exact (State.barFld_barPut_self _ _ (by decide) _).trans (hlt 1)

/-- The cap of a die after the runner's step (R490). -/
theorem stepCap_cases (w v : Nat) (hot : Prop) [Decidable hot] :
    let v' := stepCap (decide (6600 < w ∨ hot)) (decide (w < 6000 ∧ ¬hot)) v
    (6600 < w ∨ hot → v' = v - 16) ∧ (w < 6000 → ¬hot → v < 160 → v' = min 160 (v + 16))
      ∧ (6000 ≤ w → w ≤ 6600 → ¬hot → v' = v) := by
  refine ⟨fun h => if_pos (decide_eq_true h), fun hw hh hv => ?_, fun h0 h1 hh => ?_⟩
  · exact (if_neg (by simp [hh]; omega)).trans (if_pos (by simp [hw, hh, hv]))
  · exact (if_neg (by simp [hh, h1])).trans (if_neg (by simp [h0]))

/-- THR after the runner's step (R490). -/
def State.steppedThr (s : State) : Nat :=
  if 6400 < s.barFld (blkHost + 0x23) 0 16 then 1
  else if s.barFld (blkHost + 0x23) 0 16 < 6000 then 0 else s.barFld (blkHost + 0x22) 0 1

theorem steppedThr_lt (s : State) : s.steppedThr < 2 := by
  have hthr := fldN_lt (s.barRd (blkHost + 0x22)) 0 1
  unfold State.steppedThr
  split
  · decide
  · split
    · decide
    · exact hthr

theorem runnerPowerStep_steps {s : State} (h5 : s.stage = 5) (hc : s.steer ≤ s.clk) :
    let w := s.barFld (blkHost + 0x23) 0 16
    let hot := s.barFld (blkHost + 0x22) 1 1 = 1
    exec .runnerPowerStep s = .next { ((s.capped (decide (6600 < w ∨ hot)) (decide (w < 6000 ∧ ¬hot))).barPut (blkHost + 0x22) 0 1 s.steppedThr)
      with steer := s.clk + 1250000 } :=
  if_neg (by omega)

theorem lvcap_thr (t : State) (v k d : Nat) : State.lvcap { (t.barPut (blkHost + 0x22) 0 1 v) with steer := k } d = t.lvcap d :=
  State.barFld_barPut_ne t (by decide) 0 1 v (16 * d) 9

theorem thr_barPut (t : State) (v k : Nat) : State.barFld { (t.barPut (blkHost + 0x22) 0 1 v) with steer := k } 0xA_0022 0 1 = v % 2 ^ 1 :=
  State.barFld_barPut_self t 0xA_0022 (by decide) v

theorem runnerPowerStep_due {s : State} (h5 : s.stage = 5) (hc : s.steer ≤ s.clk) :
    let w := s.barFld 0xA_0023 0 16
    let hot := s.barFld 0xA_0022 1 1 = 1
    brings .runnerPowerStep s fun t => (t.mem = s.mem ∧ t.agents = s.agents ∧ t.teams = s.teams) ∧ t.steer = s.clk + 1250000
      ∧ (∀ d, d < 2 → t.lvcap d = stepCap (decide (6600 < w ∨ hot)) (decide (w < 6000 ∧ ¬hot)) (s.lvcap d))
      ∧ t.barFld 0xA_0022 0 1 = s.steppedThr := by
  intro w hot
  refine ⟨_, runnerPowerStep_steps h5 hc, ⟨rfl, rfl, rfl⟩, rfl, fun d hd => ?_, ?_⟩
  · exact (lvcap_thr _ _ _ d).trans (capped_lvcap s _ _ hd)
  · exact (thr_barPut _ _ _).trans (Nat.mod_eq_of_lt (steppedThr_lt s))

/-- What a sensor reads. -/
def sensed (watts : Nat) (temps : List Nat) (i : Nat) : Nat := if i = 4 then watts else temps.getD (if i < 4 then i else i - 1) 0

theorem sx_ge {x : Nat} (hx : x < 2 ^ 16) : 1600 ≤ sx 16 x ↔ 1600 ≤ x ∧ x < 2 ^ 15 := by
  unfold sx
  split <;> omega

theorem sensorUpdate_outcome (s : State) (w : Nat) (ts : List Nat) :
    ∃ t : State, exec (.sensorUpdate w ts) s = .next t ∧ (t.mem = s.mem ∧ t.agents = s.agents ∧ t.teams = s.teams)
      ∧ t.barRd 0xA_0023 = BitVec.ofNat 64 (w % 2 ^ 16)
      ∧ (∀ i, i < 8 → t.barRd (0xA_0040 + i) = BitVec.ofNat 64 (sensed w ts i % 2 ^ 16 + 2 ^ 63))
      ∧ (t.barFld 0xA_0022 1 1 = 1 ↔ ∃ i, i < 2 ∧ 1600 ≤ sx 16 (ts.getD i 0 % 2 ^ 16)) := by
  obtain ⟨bar, hs1⟩ := State.foldl_barWr_eq s (blkHost + 0x40) 8 fun i => BitVec.ofNat 64 (sensed w ts i % 2 ^ 16 + 2 ^ 63)
  have hrd := State.barRd_foldl_barWr s (blkHost + 0x40) 8 fun i => BitVec.ofNat 64 (sensed w ts i % 2 ^ 16 + 2 ^ 63)
  rw [hs1] at hrd
  have hex : exec (.sensorUpdate w ts) s = .next ((State.barWr { s with bar := bar } (blkHost + 0x23) (BitVec.ofNat 64 (w % 2 ^ 16))).barPut
      (blkHost + 0x22) 1 1 (if decide (1600 ≤ sx 16 (ts.getD 0 0 % 2 ^ 16)) || decide (1600 ≤ sx 16 (ts.getD 1 0 % 2 ^ 16)) then 1 else 0)) := by
    rw [← hs1]
    rfl
  refine ⟨_, hex, ⟨rfl, rfl, rfl⟩, ?_, fun i hi => ?_, ?_⟩
  · exact (State.barRd_barPut_ne _ (by decide) _ _ _).trans (State.barRd_barWr_self ..)
  · rw [State.barRd_barPut_ne _ (by show 0xA_0040 + i ≠ 0xA_0022; omega), State.barRd_barWr_ne _ (by show 0xA_0040 + i ≠ 0xA_0023; omega), hrd,
      if_pos ⟨Nat.le_add_right _ i, Nat.add_lt_add_left hi _⟩, show 0xA_0040 + i - (blkHost + 0x40) = i from Nat.add_sub_cancel_left _ i]
  · have hfld := State.barFld_barPut_self (State.barWr { s with bar := bar } (blkHost + 0x23) (BitVec.ofNat 64 (w % 2 ^ 16))) (blkHost + 0x22)
      (lo := 1) (n := 1) (by decide)
    refine (iff_of_eq (congrArg (· = 1) (hfld _))).trans ?_
    have htwo : (∃ i, i < 2 ∧ 1600 ≤ sx 16 (ts.getD i 0 % 2 ^ 16))
        ↔ 1600 ≤ sx 16 (ts.getD 0 0 % 2 ^ 16) ∨ 1600 ≤ sx 16 (ts.getD 1 0 % 2 ^ 16) := by
      refine ⟨fun ⟨i, hi, h⟩ => ?_, fun h => h.elim (fun h => ⟨0, by decide, h⟩) fun h => ⟨1, by decide, h⟩⟩
      obtain rfl | rfl : i = 0 ∨ i = 1 := by omega
      · exact .inl h
      · exact .inr h
    rw [htwo, ← decide_eq_true_iff (p := _ ∨ _), Bool.decide_or]
    cases decide (1600 ≤ sx 16 (ts.getD 0 0 % 2 ^ 16)) || decide (1600 ≤ sx 16 (ts.getD 1 0 % 2 ^ 16)) <;> decide

/-! ### Bring-up, attestation and SVN -/

theorem goStage_stage (s : State) {n reason : Nat} (hn : n < 16) (hr : reason < 256) :
    (s.goStage n reason).stage = n ∧ (s.goStage n reason).barFld 0xA_0020 8 8 = reason := by
  rw [State.stage, State.barFld, State.barFld, State.goStage,
    show (s.barWr (blkHost + 0x20) (BitVec.ofNat 64 (n + 256 * reason))).barRd (blkHost + 0x20) = _ from State.barRd_barWr_self ..,
    show (s.barWr (blkHost + 0x20) (BitVec.ofNat 64 (n + 256 * reason))).barRd 0xA_0020 = _ from State.barRd_barWr_self ..,
    fldN_ofNat _ (by decide), fldN_ofNat _ (by decide)]
  omega

theorem linkTrained_done {s : State} (h0 : s.stage = 0) :
    brings .linkTrained s fun t => (t.mem = s.mem ∧ t.agents = s.agents ∧ t.teams = s.teams)
      ∧ (t.stage = 1 ∧ t.barFld 0xA_0020 8 8 = 0) ∧ t.barRd 0xA_0000 = 0x1D0#64 := by
  refine ⟨_, if_neg (not_not.mpr h0), ⟨rfl, rfl, rfl⟩, goStage_stage _ (by decide) (by decide), ?_⟩
  exact (State.barRd_barWr_ne _ (by decide) _).trans (State.barRd_barWr_self ..)

/-- The image of a kind is verified in the stage of the same number (R497). -/
theorem imageVerify_eq {s : State} {kind : Nat} {im : List Byte} {e : Instr}
    (he : (kind = 1 ∧ e = .monitorVerify im) ∨ (kind = 2 ∧ e = .runnerVerify im)) :
    kind < 3 ∧ exec e s = if s.stage ≠ kind then .next s else .next (s.verify kind im) := by
  obtain ⟨rfl, rfl⟩ | ⟨rfl, rfl⟩ := he
  · exact ⟨by decide, rfl⟩
  · exact ⟨by decide, rfl⟩

theorem verify_rejected {s : State} {kind : Nat} {im : List Byte} (hk : kind < 3) (h : s.accepts kind im = false) :
    let t := s.verify kind im
    (t.mem = s.mem ∧ t.agents = s.agents ∧ t.teams = s.teams) ∧ (t.stage = 15 ∧ t.barFld 0xA_0020 8 8 = kind) ∧ t.mrs = s.mrs := by
  simp only [State.verify, h, if_neg Bool.false_ne_true]
  exact ⟨⟨rfl, rfl, rfl⟩, goStage_stage s (by decide) (by omega), rfl⟩

theorem verify_accepted {s : State} {kind : Nat} {im : List Byte} (hk : kind < 3) (h : s.accepts kind im = true) :
    let t := s.verify kind im
    (t.mem = s.mem ∧ t.agents = s.agents ∧ t.teams = s.teams) ∧ (t.stage = kind + 1 ∧ t.barFld 0xA_0020 8 8 = 0)
      ∧ KMap.find? t.runSvn kind = some (imageSvn im)
      ∧ t.mrs = s.mrs.set (kind - 1) (sha3_512 (s.mrs.getD (kind - 1) [] ++ imageDigest im)) := by
  simp only [State.verify, h, if_true]
  exact ⟨⟨rfl, rfl, rfl⟩, goStage_stage _ (by omega) (by decide), KMap.find?_put_self .., rfl⟩

theorem memoryTrained_done {s : State} (h3 : s.stage = 3) :
    ∃ s1 : State, s1.mem = [] ∧ s1.ptAcc = 0 ∧ exec (.memoryTrained true) s = .next (s1.goStage 4 0) := by
  refine ⟨{ s with mem := [], lines := [], bad := [], ptAcc := 0, openRows := [],
                   refresh := (List.range 16).map fun ch => (ch, ({ start := s.clk } : Refresh)) }, rfl, rfl, ?_⟩
  show execMemoryTrained true s = _
  unfold execMemoryTrained
  rw [if_neg (not_not.mpr h3)]
  rfl

theorem memoryTrained_failed {s : State} (h3 : s.stage = 3) : exec (.memoryTrained false) s = .next (s.goStage 15 3) := by
  show execMemoryTrained false s = _
  unfold execMemoryTrained
  rw [if_neg (not_not.mpr h3)]
  rfl

theorem deviceReady_alone {s : State} (h4 : s.stage = 4) :
    exec (.deviceReady none) s = .next ({ s with steer := s.clk + 1250000 }.goStage 5 0) := if_neg (not_not.mpr h4)

theorem deviceReady_timed {s : State} (h4 : s.stage = 4) (tm : Nat) :
    ∃ k, k < 2 ∧ exec (.deviceReady (some tm)) s = .next { ({ s with steer := s.clk + 1250000 }.goStage 5 0) with
      free := s.free + 1, ptAcc := max s.ptAcc (tm % 2 ^ 64 * 10 ^ 13), pstat := BitVec.ofNat 64 (1 + k) } := by
  exact ⟨(Config.freeDword s.free).toNat % 2, Nat.mod_lt _ (by decide), if_neg (not_not.mpr h4)⟩

theorem lock_ne_zero {k : Nat} (hk : k < 2) : BitVec.ofNat 64 (1 + k) ≠ 0 := by
  obtain rfl | rfl : k = 0 ∨ k = 1 := by omega
  · decide
  · decide

theorem length_flatten_registers {mrs : List (List Byte)} {n k : Nat} (hn : mrs.length = n) (hk : ∀ m ∈ mrs, m.length = k) :
    mrs.flatten.length = n * k := by
  rw [List.length_flatten, List.map_congr_left hk, List.map_const', List.sum_replicate, hn, smul_eq_mul]

theorem attestationRequest_quotes {s : State} {nonce : List Byte} (hn : nonce.length = 64) (hr : (KMap.find? s.runSvn 1).isSome = true)
    (h4 : s.mrs.length = 4) (h64 : ∀ m ∈ s.mrs, m.length = 64) :
    brings (.attestationRequest nonce) s fun t => (t.mem = s.mem ∧ t.agents = s.agents ∧ t.teams = s.teams)
      ∧ t.quote.take 256 = s.mrs.flatten ∧ (t.quote.drop 256).take 64 = nonce
      ∧ (t.quote.drop 320).take 8 = bytesOf 8 s.pt ∧ t.mrs = s.mrs := by
  have hflat : s.mrs.flatten.length = 256 := length_flatten_registers h4 h64
  have hboth : (s.mrs.flatten ++ nonce).length = 320 := by rw [List.length_append, hflat, hn]
  have hnot : ¬(nonce.length ≠ 64 ∨ (KMap.find? s.runSvn 1).isNone = true) := by
    rw [← Option.not_isSome, hr, hn]
    decide
  refine ⟨_, if_neg hnot, ⟨rfl, rfl, rfl⟩, ?_, ?_, ?_, rfl⟩
  · simp only [List.append_assoc]
    rw [← hflat, List.take_left']
    rfl
  · simp only [List.append_assoc]
    rw [← hflat, List.drop_left' rfl, ← hn, List.take_left' rfl]
  · simp only [List.append_assoc]
    rw [← List.append_assoc, ← hboth, List.drop_left' rfl, List.take_left' (length_bytesOf 8 _)]

theorem svnRaiseRequest_raises {s : State} {kind svn run : Nat} (h : KMap.find? s.runSvn kind = some run) (hle : svn ≤ run)
    (hlt : (KMap.find? s.fusedSvn kind).getD 0 < svn) :
    exec (.svnRaiseRequest kind svn) s = .next { s with fusedSvn := KMap.put s.fusedSvn kind svn } := by
  show execSvnRaiseRequest kind svn s = _
  simp only [execSvnRaiseRequest, h]
  exact if_pos ⟨hle, hlt⟩

theorem svnRaiseRequest_kept {s : State} {kind svn : Nat}
    (h : KMap.find? s.runSvn kind = none ∨ (∃ run, KMap.find? s.runSvn kind = some run ∧ run < svn)
      ∨ svn ≤ (KMap.find? s.fusedSvn kind).getD 0) : exec (.svnRaiseRequest kind svn) s = .next s := by
  show execSvnRaiseRequest kind svn s = _
  unfold execSvnRaiseRequest
  cases hrun : KMap.find? s.runSvn kind with
  | none => rfl
  | some run =>
    refine if_neg fun ⟨hle, hlt⟩ => ?_
    obtain h | ⟨run', h, hr⟩ | h := h
    · exact absurd (hrun.symm.trans h) nofun
    · have : run = run' := Option.some.inj (hrun.symm.trans h)
      omega
    · omega

/-- Settles O60: one lemma for each event, and for each of its outcomes. -/
theorem boardEvents : Obligations.BoardEvents := by
  unfold Obligations.BoardEvents
  intro s stays
  refine ⟨fun die v hd => ⟨ergwSizeWrite_refused, ergwSizeWrite_taken hd, fun d h => ⟨ergwChangeDone_early h, fun hc => ?busyOver⟩⟩,
    fun ch r h => ⟨gddrRefresh_early h, fun hc => ?refresh⟩, fun pa => ⟨patrolScrub_clean, fun unc h => ?scrub⟩,
    fun v => ⟨rfl, fun h0 h1 => ?caps⟩, ⟨runnerPowerStep_early, fun h5 hc => ?powerStep⟩, fun w ts hw hts => ?sensors,
    ⟨fun w temp ms => ⟨fun h => if_pos h, fun h ht => if_neg (by omega)⟩, rfl⟩,
    ⟨linkTrained_done, fun kind im e he => ?images,
      fun h3 => ⟨?trained, _, memoryTrained_failed h3,
        ⟨rfl, rfl, rfl⟩, goStage_stage s (by decide) (by decide)⟩,
      fun h4 => ⟨⟨_, deviceReady_alone h4, ⟨rfl, rfl, rfl⟩, goStage_stage _ (by decide) (by decide), rfl, rfl⟩, fun tm ht => ?ready⟩,
      fun h => if_pos h, fun h ok => if_pos h, fun h g => if_pos h⟩,
    fun nonce => attestationRequest_quotes, fun kind svn => ⟨fun run => svnRaiseRequest_raises, svnRaiseRequest_kept⟩⟩
  case busyOver =>
    refine ⟨_, ergwChangeDone_due h hc, ⟨rfl, rfl, rfl⟩, ?_, ?_⟩
    · exact State.barFld_barPut_self s (blkMem + die) (by decide) 0
    · refine ergSize_congr ?_
      exact State.barFld_barPut_apart s (blkMem + die) (by decide) (by decide) 0
  case refresh =>
    exact ⟨_, gddrRefresh_due h hc, ⟨rfl, rfl, rfl⟩, KMap.find?_put_self .., KMap.find?_del_self .., fun b hb => KMap.find?_del_ne _ hb⟩
  case scrub =>
    have hex := patrolScrub_found h
    obtain ⟨bar, hecc⟩ := eccNote_keeps s (pa / 128 * 128) unc
    obtain ⟨hcount, hother⟩ := eccNote_counts s (pa / 128 * 128) unc
    have hlog : unc = true → _ := fun hu => hu ▸ eccNote_logs s (pa / 128 * 128)
    generalize s.eccNote (pa / 128 * 128) unc = t at hex hecc hcount hother hlog
    refine ⟨_, hex, ?_, ?_, KMap.find?_del_self .., hcount, hother, hlog⟩
    · rw [hecc]
      exact ⟨rfl, rfl, rfl⟩
    · rw [hecc]
  case caps =>
    have hlv := fun d => lvcap_barWr s (x := fldN v 0 9) (y := fldN v 16 9) (die := d) (fldN_lt _ _ _) (fldN_lt _ _ _)
    exact ⟨_, lvcapWrite_runner h0 h1, ⟨rfl, rfl, rfl⟩, hlv 0 (by decide), hlv 1 (by decide)⟩
  case powerStep =>
    obtain ⟨t, hex, hst, hsteer, hlv, hthr⟩ := runnerPowerStep_due h5 hc
    refine ⟨t, hex, hst, hsteer, fun d hd => ?_, hthr⟩
    rw [hlv d hd]
    exact stepCap_cases _ _ _
  case sensors =>
    obtain ⟨t, hex, hst, hpwr, hsens, hhot⟩ := sensorUpdate_outcome s w ts
    refine ⟨t, hex, hst, ?_, ?_, fun i hi => ?_, fun i hi hi8 => ?_, ?_⟩
    · rw [hpwr, Nat.mod_eq_of_lt hw]
    · rw [hsens 4 (by decide), sensed, if_pos rfl, Nat.mod_eq_of_lt hw]
    · rw [hsens i (by omega), sensed, if_neg (by omega), if_pos hi]
    · rw [hsens i hi8, sensed, if_neg (by omega), if_neg (by omega)]
    · exact hhot.trans (exists_congr fun i => and_congr_right fun _ => sx_ge (Nat.mod_lt _ (by decide)))
  case images =>
    obtain ⟨hk, hex⟩ := imageVerify_eq he
    refine ⟨fun h => hex.trans (if_pos h), fun h => ⟨fun ha => ?_, fun ha => ?_⟩⟩
    · exact ⟨_, hex.trans (if_neg (not_not.mpr h)), verify_rejected hk ha⟩
    · exact ⟨_, hex.trans (if_neg (not_not.mpr h)), verify_accepted hk ha⟩
  case trained =>
    obtain ⟨s1, hmem, hpt, hex⟩ := memoryTrained_done h3
    refine ⟨_, hex, goStage_stage s1 (by decide) (by decide), hmem, ?_⟩
    show s1.ptAcc / 10 ^ 13 % 2 ^ 64 = 0
    rw [hpt, Nat.zero_div, Nat.zero_mod]
  case ready =>
    obtain ⟨k, hk, hex⟩ := deviceReady_timed h4 tm
    rw [Nat.mod_eq_of_lt ht] at hex
    have hstage := goStage_stage { s with steer := s.clk + 1250000 } (n := 5) (reason := 0) (by decide) (by decide)
    exact ⟨_, hex, ⟨rfl, rfl, rfl⟩, hstage, Nat.le_max_left s.ptAcc _, Nat.le_max_right s.ptAcc _, max_choice s.ptAcc _, lock_ne_zero hk⟩

end Sys2Proof.Machine
end

section
namespace Sys2Proof.Machine
open Sys2Proof Sys2Proof.Safety

/-! ## Issue of loads and stores (R218, R224 to R230, R256) -/

/-! ### An operation of a settled agent goes in flight -/

/-- The agent with one more operation in flight, the registers it will write marked. -/
def Agent.startsOp (ag : Agent) (o : Op) : Agent :=
  { markWrites ag o.dsts with
    ops := ag.ops.map (fun q => { q with
      clash := q.clash ++ State.startOp.hitOf o.dsts q.dsts, winClash := q.winClash ++ State.startOp.hitOf o.dsts q.win }) ++ [o] }

theorem startOp_eq (s : State) (a : Nat) (o : Op) : s.startOp a o = s.updAgent a fun ag => ag.startsOp o := rfl

/-- No operation of a settled agent has a destination or a read window to meet. -/
theorem startsOp_settled {ag : Agent} (h : settled ag) (o : Op) : ag.startsOp o = { ag with ops := ag.ops ++ [o] } := by
  have hmap : ag.ops.map (fun q => { q with
      clash := q.clash ++ State.startOp.hitOf o.dsts q.dsts, winClash := q.winClash ++ State.startOp.hitOf o.dsts q.win }) = ag.ops := by
    refine (List.map_congr_left fun q hq => ?_).trans (List.map_id _)
    obtain ⟨hd, hw⟩ := h.2 q hq
    have hdsts : State.startOp.hitOf o.dsts q.dsts = [] := by rw [hd]; rfl
    have hwin : State.startOp.hitOf o.dsts q.win = [] := by rw [hw]; rfl
    rw [hdsts, hwin, List.append_nil, List.append_nil]
    rfl
  rw [Agent.startsOp, hmap, markWrites_settled h]

/-- An instruction that puts o in flight and changes its fragment by g, with t what it leaves of the rest. -/
theorem answers_startOp {i : Instr} {s t : State} {c : Iss} {o : Op} {g : Frag → Frag} {rest : State → Prop} (hc : ready s c)
    (he : exec i s = .next ((t.startOp c.a o).updFrag c.a c.fid g)) (ha : t.agents = s.agents) (hm : t.mem = s.mem)
    (hr : ∀ h, rest (t.updAgent c.a h)) : answers i s c (withOp c o g) rest := by
  rw [startOp_eq, State.updFrag, updAgent_updAgent] at he
  have hag : withOp c o g = (c.ag.startsOp o).updFrag c.fid g := by
    rw [startsOp_settled hc.2.1]
    rfl
  rw [hag]
  exact answers_of_updAgent (g := fun ag => (ag.startsOp o).updFrag c.fid g) hc.1 he ha hm (hr _)

/-! ### The instruction reaches its accesses -/

/-- The accesses of an instruction from its lanes and their addresses. -/
def MemIns.accs (m : MemIns) (c : Iss) (l : List (Nat × Nat × Nat)) : List Acc :=
  l.map fun x => { lane := x.1, va := x.2.1, pa := x.2.2, n := (m.req c).n, x := (m.val c x.1).1, y := (m.val c x.1).2 }

theorem paKind_slotted (s : State) (c : Iss) (e : Nat) : (slotted s c e).paKind = s.paKind := paKind_congr rfl

/-- The instruction of a ready issuer runs on the state once the pipe has given it its slots. -/
theorem issueSlotted {s : State} {c : Iss} (h : ready s c) {lg : Legal} (hl : lg.fate c = none) (foot : Iss → Foot) (pm : Pm)
    (lat : Nat) (fixed : Bool) (body : State → Iss → (Bool × Bool) → Out) :
    issueWith s lg foot pm lat fixed body = body (slotted s c (extraPass (passesOf pm c lg.all))) c (passesOf pm c lg.all) :=
  issueWith_ready h hl foot pm lat fixed body

theorem memIns_issues {s : State} {c : Iss} {m : MemIns} {l : List (Nat × Nat × Nat)} (hc : ready s c) (hl : m.lg.fate c = none)
    (hroom : room c m.ctr) (hrel : m.rel = true → s.releaseWait c.a c.ag (m.scope.getD 0) = none ∧ s.heldPeer c.ag.core c.ag.ctx = none)
    (hq : checked s c (extraPass (passesOf m.pm c m.lg.all)) (m.req c) l)
    (hbuf : m.rw = 1 → (m.req c).sp = .glob →
      (∀ x ∈ l, s.paKind x.2.2 ≠ .peer) ∨ ((KMap.find? s.peerBuf c.ag.core).getD []).length < 64) :
    memIns m s = .next ((slotted s c (extraPass (passesOf m.pm c m.lg.all))).issueMem m c (passesOf m.pm c m.lg.all) (m.accs c l)) := by
  obtain ⟨h0, hchk⟩ := hq
  have hfull : ¬((!c.ag.isLeat) = true ∧ c.ag.ctrVal m.ctr = 63) := by
    rintro ⟨hg, h63⟩
    obtain hk | hk := hroom
    · rw [(isLeat_iff c.ag).mpr hk] at hg
      exact absurd hg (by decide)
    · omega
  have hpeer : ¬((m.rw = 1 && (m.req c).sp = .glob
      && l.any fun x => (slotted s c (extraPass (passesOf m.pm c m.lg.all))).paKind x.2.2 = .peer) = true
      ∧ 64 ≤ ((KMap.find? s.peerBuf c.ag.core).getD []).length) := by
    rintro ⟨hp, h64⟩
    simp only [Bool.and_eq_true, decide_eq_true_eq, List.any_eq_true, paKind_slotted] at hp
    obtain ⟨⟨hrw, hsp⟩, x, hx, hpk⟩ := hp
    obtain hb | hb := hbuf hrw hsp
    · exact hb x hx hpk
    · omega
  have h4 : ¬ 4 ≤ c.fr.phase := by omega
  have h2 : decide (c.fr.phase = 2) = false := by rw [h0]; rfl
  unfold memIns
  rw [hc.1]
  refine (if_neg h4).trans ?_
  extract_lets -underBinder early
  have hearly : early = none := by
    simp only [early, hl, Option.isSome_none, if_neg Bool.false_ne_true, if_neg hfull]
    split
    · next hr =>
      obtain ⟨hw, hp⟩ := hrel hr
      rw [hw, hp]
      rfl
    · rfl
  rw [hearly]
  show issueWith s m.lg m.foot m.pm 0 false _ = _
  rw [issueSlotted hc hl]
  simp only [h2, hchk]
  exact if_neg hpeer

/-! ### Legal fields -/

section
variable {c : Iss} {f : FMEM} {maxSch : Nat}

theorem widthRegs_pos (w : BitVec 3) : 0 < widthRegs w := by
  unfold widthRegs
  split
  · decide
  · split <;> decide

/-- The scopes and hints a row admits: up to maxSch, or none. -/
def admits (sch : Option Nat) (maxSch : Nat) : Prop := sch = some maxSch ∨ (sch = none ∧ maxSch = 0)

theorem legalMem_bad {r : MemRow} (hs : admits r.sch maxSch) (hsch : f.sch.toNat ≤ maxSch) (hw : f.width.toNat ≤ 4)
    (halign : f.data.toNat % alignOf r.scalar f.width = 0) : (legalMem f r).bad = false := by
  obtain hs | ⟨hs, -⟩ := hs <;> simp [legalMem, hs, hsch, widthLegal, hw, halign]

theorem reservedSch {sch : Option Nat} (hs : admits sch maxSch) (h : f.sch.toNat ≤ maxSch) : (sch.isNone && f.sch ≠ 0) = false := by
  obtain rfl | ⟨rfl, rfl⟩ := hs
  · rfl
  · have h0 : f.sch = 0 := BitVec.eq_of_toNat_eq (by simpa using h)
    rw [h0]
    rfl

theorem fate_legalMem_lanes {sch : Option Nat} (hf : memFields c f false maxSch) (hs : admits sch maxSch) :
    (legalMem f { sch := sch }).fate c = none := by
  obtain ⟨hw, hsch, hk, hall, halign, hdata, hvoff⟩ := hf
  have hrsv := reservedSch hs hsch
  have hleat := isLeat_of_group hk
  refine fate_none ⟨fun h => absurd (hleat.symm.trans h) (by decide), fun _ => rfl, nofun, nofun⟩ ?_ ?_ hall (fun r hr => ?_)
    fun h => absurd (hleat.symm.trans h) (by decide)
  · exact hrsv
  · exact legalMem_bad hs hsch hw halign
  · simp only [legalMem, if_neg Bool.false_ne_true, List.mem_append, List.mem_map, List.mem_range] at hr
    obtain ⟨k, hk, rfl⟩ | hr := hr
    · omega
    · obtain h | h := hvoff
      · simp [h] at hr
      · split at hr
        · cases hr
        · rw [List.mem_singleton.mp hr]
          exact h

theorem fate_legalMem_scalar {sch : Option Nat} (hf : memFields c f true maxSch) (hs : admits sch maxSch) :
    (legalMem f { scalar := true, sch := sch, leat := true }).fate c = none := by
  obtain ⟨hw, hsch, hdata, hvoff, heven, hleat⟩ := hf
  have hrsv := reservedSch hs hsch
  have hhigh : fld f.data 7 3 = 0 := by
    refine BitVec.eq_of_toNat_eq ?_
    simp only [fld, BitVec.extractLsb'_toNat, Nat.shiftRight_eq_div_pow]
    rw [Nat.div_eq_of_lt hdata]
    rfl
  have halign : f.data.toNat % alignOf true f.width = 0 := by
    unfold alignOf
    simp only [if_true]
    split
    · exact heven ‹_›
    · exact Nat.mod_one _
  refine fate_none ⟨fun _ => rfl, fun _ => rfl, nofun, nofun⟩ ?_ ?_ (.inl rfl) nofun fun h r hr => ?_
  · simp only [legalMem, hhigh, hvoff, hrsv]
    rfl
  · exact legalMem_bad hs hsch hw halign
  · obtain ⟨hbase, hd⟩ := hleat ((isLeat_iff c.ag).mp h)
    simp only [legalMem, if_true, List.mem_cons] at hr
    obtain rfl | rfl | hr := hr
    · exact hbase
    · split at hd <;> omega
    · split at hr
      · rw [if_pos ‹_›] at hd
        rw [List.mem_singleton.mp hr]
        exact hd
      · cases hr

/-- WIDTH by its cases. -/
theorem width_cases (w : BitVec 3) (hw : w.toNat ≤ 4) : w = 0 ∨ w = 1 ∨ w = 2 ∨ w = 3 ∨ w = 4 := by
  revert hw
  revert w
  decide

theorem dataRegs_scalar (r : Nat) {w : BitVec 3} (hw : w.toNat ≤ 4) :
    dataRegs true r (widthBytes w) = (List.range (if w = 4 then 2 else 1)).map fun k => .s (r + k) := by
  obtain rfl | rfl | rfl | rfl | rfl := width_cases w hw <;> rfl

theorem dataRegs_lanes (r : Nat) {w : BitVec 3} (hw : w.toNat ≤ 4) :
    dataRegs false r (widthBytes w) = (List.range (widthRegs w)).map fun k => .v (r + k) := by
  obtain rfl | rfl | rfl | rfl | rfl := width_cases w hw <;> rfl

end

/-! ### A load -/

theorem filter_notBad_nil (accs : List Acc) : (accs.filter fun a => !([] : List Nat).contains a.lane) = accs :=
  List.filter_eq_self.mpr fun _ _ => rfl

theorem dsts_notDead (ds : Regs) : ds.map (fun d => (d.1, d.2 &&& ~~~maskOf [])) = ds := by
  refine (List.map_congr_left fun d _ => ?_).trans (List.map_id _)
  show (d.1, d.2 &&& ~~~(0 : Dword)) = d
  simp

theorem addHostReqs_eq (s : State) (a op : Nat) (each : Bool) (accs : List Acc) :
    ∃ hr ids, s.ids ≤ ids ∧ s.addHostReqs a op each accs = { s with hostReqs := hr, ids := ids } := by
  unfold State.addHostReqs
  extract_lets key keys far
  clear_value keys far
  induction keys generalizing s with
  | nil => exact ⟨s.hostReqs, s.ids, Nat.le_refl _, rfl⟩
  | cons k ks ih =>
    rw [List.foldl_cons]
    obtain ⟨hr, ids, hids, h⟩ := ih { s with
      hostReqs := KMap.put s.hostReqs s.ids
        { agent := a, op := op, lanes := maskOf ((accs.filter fun x => key x = k).map (·.lane)),
          pa := (((accs.filter fun x => key x = k).head?).map (·.pa)).getD 0, due := s.clk + 100 + far }
      ids := s.ids + 1 }
    exact ⟨hr, ids, Nat.le_of_succ_le hids, h⟩

theorem openLines_eq (s : State) (pas : List Nat) : ∃ rows, s.openLines pas = { s with openRows := rows, free := s.free + 1 } := ⟨_, rfl⟩

section
variable (t : State) (c : Iss) (f : FMEM) (r : MemRow) (sp : Space) (ctr : Ctr) (ord : Option Nat) (ldc : Bool) (p : Bool × Bool)
  (accs : List Acc)

/-- The operation of a load. -/
def loadOp (due : Nat) : Op := newOp t c ctr (.load sp f.data.toNat r.scalar f.sch.toNat ord ldc) accs (dataFoot f r.scalar c) due

theorem issueMem_load : ∃ due free rows hr ids, t.ids < ids
    ∧ t.issueMem (loadIns f r sp ctr ord ldc) c p accs
      = ({ t with free := free, openRows := rows, hostReqs := hr, ids := ids }.startOp c.a (loadOp t c f r sp ctr ord ldc accs due)).updFrag c.a c.fid
          (if ord.isSome ∨ c.ag.isLeat then waitsFor t t.ids else goesOn t (extraPass p) f.stl)
    ∧ (sp = .scr → free = t.free ∧ rows = t.openRows ∧ hr = t.hostReqs)
    ∧ ((∀ x ∈ accs, t.paKind x.pa ≠ .host) → hr = t.hostReqs) := by
  obtain ⟨u, hu⟩ : ∃ u, t.issueMem (loadIns f r sp ctr ord ldc) c p accs = u := ⟨_, rfl⟩
  rw [hu]
  unfold State.issueMem at hu
  extract_lets -underBinder sp' r' bad s1 live id dead o s1b s2 s3 host s4 far at hu
  have hsp : sp' = sp := rfl
  have hr' : r' = (t, []) := by
    cases ord with
    | none => rfl
    | some sc => exact if_pos (.inl rfl)
  have hs1 : s1 = t := congrArg Prod.fst hr'
  have hbad : bad = [] := congrArg (fun r => r.2.map (·.1)) hr'
  have hlive : live = accs := by
    simp only [live, hbad]
    exact filter_notBad_nil accs
  have ho : o = loadOp t c f r sp ctr ord ldc accs o.due := by
    simp only [o, id, dead, hs1, hlive, hbad]
    rw [dsts_notDead]
    rfl
  generalize o.due = due at ho
  obtain ⟨free, rows, hs1b, hscr⟩ : ∃ free rows, s1b = { t with free := free, openRows := rows }
      ∧ (sp = .scr → free = t.free ∧ rows = t.openRows) := by
    by_cases h : sp = .glob
    · obtain ⟨rows, hrows⟩ := openLines_eq t (live.map (·.pa))
      refine ⟨t.free + 1, rows, ?_, fun hs => ?_⟩
      · simp only [s1b, hs1]
        exact (if_pos ⟨h, nofun⟩).trans hrows
      · rw [h] at hs
        cases hs
    · refine ⟨t.free, t.openRows, ?_, fun _ => ⟨rfl, rfl⟩⟩
      simp only [s1b, hs1]
      exact if_neg fun hh => h hh.1
  have hs2 : s2 = ({ t with free := free, openRows := rows, ids := t.ids + 1 }).startOp c.a o := by
    simp only [s2, hs1b, hs1]
  have hs3 : s3 = s2 := if_neg fun h => h.2.2.elim nofun fun h => absurd h.1 nofun
  obtain ⟨hr, ids, hids, hs4, hnone⟩ : ∃ hr ids, t.ids < ids ∧ s4 = { s2 with hostReqs := hr, ids := ids }
      ∧ (host = [] → hr = t.hostReqs) := by
    show ∃ hr ids, t.ids < ids ∧ (if (0 = 0 ∧ (!host.isEmpty) = true) then s3.addHostReqs c.a id false host else s3)
      = { s2 with hostReqs := hr, ids := ids } ∧ (host = [] → hr = t.hostReqs)
    obtain ⟨hr, ids, hids, hadd⟩ := addHostReqs_eq s2 c.a id false host
    rw [hs2] at hids
    split
    · next h =>
      exact ⟨hr, ids, hids, by rw [hs3, hadd], fun h0 => by rw [h0] at h; exact absurd h.2 (by decide)⟩
    · exact ⟨t.hostReqs, t.ids + 1, Nat.lt_succ_self _, by rw [hs3, hs2]; rfl, fun _ => rfl⟩
  have hglob : host ≠ [] → sp = .glob ∧ ∃ x ∈ accs, t.paKind x.pa = .host := by
    intro hne
    have hk : s3.paKind = t.paKind := by
      rw [hs3, hs2]
      exact paKind_congr rfl
    by_cases h : sp = .glob
    · have hh : host = live.filter fun a => s3.paKind a.pa = .host := if_pos h
      obtain ⟨x, hx⟩ := List.exists_mem_of_ne_nil _ (hh ▸ hne)
      rw [hk, hlive, List.mem_filter] at hx
      exact ⟨h, x, hx.1, of_decide_eq_true hx.2⟩
    · exact absurd (if_neg h) hne
  refine ⟨due, free, rows, hr, ids, hids, ?_, fun h => ?_, fun h => ?_⟩
  · have hid : id = t.ids := congrArg State.ids hs1
    rw [← hu, hs4, hs2, ho, hr', hid]
    have hfar : far = false := rfl
    by_cases hold : ord.isSome ∨ c.ag.isLeat
    · rw [if_pos hold]
      exact if_pos (hold.imp_right fun h => Or.inr (Or.inr h))
    · rw [if_neg hold]
      refine if_neg ?_
      rintro (h | h | h | h)
      · exact hold (.inl h)
      · cases h
      · exact absurd (hfar.symm.trans h) (by decide)
      · exact hold (.inr h)
  · obtain ⟨hfree, hrows⟩ := hscr h
    refine ⟨hfree, hrows, hnone (not_not.mp fun hne => ?_)⟩
    rw [(hglob hne).1] at h
    cases h
  · refine hnone (not_not.mp fun hne => ?_)
    obtain ⟨-, x, hx, hk⟩ := hglob hne
    exact h x hx hk
end

section
variable {s : State} {c : Iss} {f : FMEM} {l : List (Nat × Nat × Nat)} {maxSch : Nat} {sch : Option Nat}

theorem memRequest_eq (c : Iss) (f : FMEM) (sp : Space) (scalar write : Bool) :
    ({ sp := sp, n := widthBytes f.width, write := write, accs := memAddrs f scalar (disp19 f) c } : Req)
      = request c f sp scalar f.imm.toInt write false none := by
  unfold memAddrs request
  congr 1
  refine if_congr Iff.rfl rfl (List.map_congr_left fun x _ => ?_)
  unfold laneAddr voffOf
  split <;> rfl

theorem passesOf_mem (c : Iss) (f : FMEM) (r : MemRow) :
    extraPass (passesOf (if r.scalar then .one else .lanes) c (legalMem f r).all) = if r.scalar then 0 else extraPass (twoPasses c f.all) := by
  unfold legalMem
  cases r.scalar <;> rfl

/-- What a load of a row leaves. -/
def loadsAnswer (s : State) (c : Iss) (f : FMEM) (i : Instr) (sp : Space) (scalar : Bool) (ord : Option Nat) (ldc : Bool)
    (l : List (Nat × Nat × Nat)) : Prop :=
  ∃ due, answers i s c
    (withOp c (newOp s c (if sp = .glob then Ctr.g else .s) (.load sp f.data.toNat scalar f.sch.toNat ord ldc)
        (l.map fun x => { lane := x.1, va := x.2.1, pa := x.2.2, n := 2 ^ f.width.toNat }) (dataFoot f scalar c) due)
      (if ord.isSome ∨ c.ag.isLeat then waitsFor s s.ids else goesOn s (if scalar then 0 else extraPass (twoPasses c f.all)) f.stl))
    fun t => s.ids < t.ids
      ∧ { t with agents := s.agents, slots := s.slots, ids := s.ids, free := s.free, openRows := s.openRows, hostReqs := s.hostReqs } = s
      ∧ (sp = .scr → t.free = s.free ∧ t.openRows = s.openRows ∧ t.hostReqs = s.hostReqs)
      ∧ ((∀ x ∈ l, s.paKind x.2.2 ≠ .host) → t.hostReqs = s.hostReqs)

theorem load_answers {i : Instr} {r : MemRow} {sp : Space} {ctr : Ctr} {ord : Option Nat} {ldc : Bool}
    (he : exec i s = memIns (loadIns f r sp ctr ord ldc) s) (hc : ready s c) (hl : (legalMem f r).fate c = none) (hroom : room c ctr)
    (hctr : ctr = if sp = .glob then Ctr.g else .s)
    (hq : checked s c (if r.scalar then 0 else extraPass (twoPasses c f.all)) (request c f sp r.scalar f.imm.toInt false false none) l) :
    loadsAnswer s c f i sp r.scalar ord ldc l := by
  obtain ⟨p, hp⟩ : ∃ p, passesOf (loadIns f r sp ctr ord ldc).pm c (loadIns f r sp ctr ord ldc).lg.all = p := ⟨_, rfl⟩
  have hpass : extraPass p = if r.scalar then 0 else extraPass (twoPasses c f.all) := hp ▸ passesOf_mem c f r
  rw [← hpass] at hq
  have hreq : (loadIns f r sp ctr ord ldc).req c = _ := memRequest_eq c f sp r.scalar false
  have hex := memIns_issues (m := loadIns f r sp ctr ord ldc) hc hl hroom nofun (by rw [hp, hreq]; exact hq) nofun
  obtain ⟨due, free, rows, hr, ids, hids, hout, hscr, hhost⟩ :=
    issueMem_load (slotted s c (extraPass p)) c f r sp ctr ord ldc p ((loadIns f r sp ctr ord ldc).accs c l)
  rw [hp, hout] at hex
  subst hctr
  unfold loadsAnswer
  rw [← hpass]
  refine ⟨due, answers_startOp hc (he.trans hex) rfl rfl fun h => ⟨hids, rfl, hscr, fun hx => ?_⟩⟩
  refine hhost fun x hm => ?_
  obtain ⟨y, hy, rfl⟩ := List.mem_map.mp hm
  rw [paKind_slotted]
  exact hx y hy

theorem dataFoot_eq {f : FMEM} (hw : f.width.toNat ≤ 4) (scalar : Bool) (c : Iss) :
    dataFoot f scalar c = if scalar then (List.range (if f.width = 4 then 2 else 1)).map fun k => (.s (f.data.toNat + k), 1)
      else (List.range (widthRegs f.width)).map fun k => (.v (f.data.toNat + k), c.active f.all) := by
  unfold dataFoot
  cases scalar with
  | true =>
    rw [dataRegs_scalar _ hw, List.map_map]
    rfl
  | false =>
    rw [dataRegs_lanes _ hw, List.map_map]
    rfl

/-- The fragment after an access: held, or gone on. -/
theorem afterAccess_eq (s : State) (c : Iss) (ord : Option Nat) (e : Nat) (stl : BitVec 3) :
    (if ord.isSome ∨ c.ag.isLeat then waitsFor s s.ids else goesOn s e stl)
      = if ord.isSome ∨ c.ag.kind ≠ .group then waitsFor s s.ids else goesOn s e stl :=
  if_congr (or_congr_right (isLeat_iff c.ag)) rfl rfl

end

/-- Settles O22: each load is a row of `loadIns`, whose one operation joins those in flight. -/
theorem loadsIssue : Obligations.LoadsIssue := by
  unfold Obligations.LoadsIssue
  intro s c f l hc loads
  have hlanes : ∀ {i : Instr} {sp : Space} {m : Nat} {sch ord : Option Nat} {ldc : Bool}, admits sch m →
      exec i s = memIns (loadIns f { sch := sch } sp (if sp = .glob then Ctr.g else .s) ord ldc) s → loads i sp false m ord ldc := by
    refine fun hs he hf hroom hq => ?_
    have h := load_answers he hc (fate_legalMem_lanes hf hs) hroom rfl hq
    rw [loadsAnswer, afterAccess_eq, dataFoot_eq hf.1] at h
    exact h
  have hscalar : ∀ {i : Instr} {sp : Space} {m : Nat} {sch ord : Option Nat} {ldc : Bool}, admits sch m →
      exec i s = memIns (loadIns f { scalar := true, sch := sch, leat := true } sp (if sp = .glob then Ctr.g else .s) ord ldc) s →
      loads i sp true m ord ldc := by
    refine fun hs he hf hroom hq => ?_
    have h := load_answers he hc (fate_legalMem_scalar hf hs) hroom rfl hq
    rw [loadsAnswer, afterAccess_eq, dataFoot_eq hf.1] at h
    exact h
  exact ⟨hlanes (.inl rfl) rfl, hlanes (.inl rfl) rfl, hlanes (.inr ⟨rfl, rfl⟩) rfl, hscalar (.inl rfl) rfl, hscalar (.inr ⟨rfl, rfl⟩) rfl,
    hlanes (.inl rfl) rfl, hscalar (.inl rfl) rfl⟩

end Sys2Proof.Machine
end

section
namespace Sys2Proof.Machine
open Sys2Proof Sys2Proof.Safety

/-! ### A store -/

theorem scopeAll_changes_lines {s s' : State} {me : Dword} {scope : Nat} {kind : Option Nat} {accs : List Acc} {bad : List (Nat × Flt)}
    (h : s.scopeAll me scope kind accs = (s', bad)) : { s' with lines := s.lines } = s := by
  induction accs generalizing s s' bad with
  | nil =>
    cases h
    rfl
  | cons a as ih =>
    have hone := scopeOne_changes_lines (s := s) (me := me) (scope := scope) (kind := kind) (pa := a.pa) rfl
    have hrest := ih (s := (s.scopeOne me scope kind a.pa).2) rfl
    obtain ⟨rfl, -⟩ := Prod.mk.inj h
    exact (congrArg (fun x : State => { x with lines := s.lines }) hrest).trans hone

section
variable (t : State) (c : Iss) (f : FMEM) (r : MemRow) (sp : Space) (ctr : Ctr) (ord : Option Nat) (p : Bool × Bool) (accs : List Acc)

/-- What the scope checker leaves of a store's lanes: all of them, in the state t1. -/
def scopePasses (t1 : State) : Prop :=
  (ord = none ∧ t1 = t) ∨ ∃ sc, ord = some sc ∧ sp = .glob ∧ t.scopeAll (t.identOf c.ag) sc (some 0) accs = (t1, [])

theorem issueMem_store {t1 : State} (hs : scopePasses t c sp ord accs t1) : ∃ due cs,
    t.issueMem (storeIns f r sp ctr ord) c p accs
      = ({ t with lines := t1.lines, cores := cs, ids := t.ids + 1 }.startOp c.a
          (newOp t c ctr (.store sp r.scalar f.sch.toNat ord) accs [] due)).updFrag c.a c.fid
          (if c.ag.isLeat then waitsFor t t.ids else goesOn t (extraPass p) f.stl)
    ∧ (ord = none → cs = t.cores) := by
  obtain ⟨u, hu⟩ : ∃ u, t.issueMem (storeIns f r sp ctr ord) c p accs = u := ⟨_, rfl⟩
  rw [hu]
  unfold State.issueMem at hu
  extract_lets -underBinder sp' r' bad s1 live id dead o s1b s2 s3 host s4 far at hu
  have ht1 : t1 = { t with lines := t1.lines } := by
    obtain ⟨-, rfl⟩ | ⟨sc, -, -, h⟩ := hs
    · rfl
    · have hl := scopeAll_changes_lines h
      exact (congrArg (fun s : State => { s with lines := t1.lines }) hl)
  have hr' : r' = (t1, []) := by
    obtain ⟨rfl, rfl⟩ | ⟨sc, rfl, rfl, h⟩ := hs
    · rfl
    · exact (if_neg (by simp [storeIns, sp'])).trans h
  have hs1 : s1 = t1 := congrArg Prod.fst hr'
  have hbad : bad = [] := congrArg (fun r => r.2.map (·.1)) hr'
  have hlive : live = accs := by
    simp only [live, hbad]
    exact filter_notBad_nil accs
  have hid : id = t.ids := by
    simp only [id, hs1]
    rw [ht1]
  have ho : o = newOp t c ctr (.store sp r.scalar f.sch.toNat ord) accs [] o.due := by
    simp only [o, hid, hlive]
    rfl
  generalize o.due = due at ho
  have hs1b : s1b = t1 := by
    simp only [s1b, hs1]
    exact if_neg fun h => h.2 rfl
  have hs2 : s2 = ({ t with lines := t1.lines, ids := t.ids + 1 }).startOp c.a o := by
    have h : ({ s1b with ids := s1.ids + 1 } : State) = { t with lines := t1.lines, ids := t.ids + 1 } := by
      rw [hs1b, hs1, ht1]
    exact congrArg (State.startOp · c.a o) h
  obtain ⟨cs, hs3, hcs⟩ : ∃ cs, s3 = { s2 with cores := cs } ∧ (ord = none → cs = t.cores) := by
    by_cases h : sp' = .glob ∧ (!c.ag.isLeat) = true ∧ ((storeIns f r sp ctr ord).rw = 2
        ∨ ((storeIns f r sp ctr ord).rw = 1 ∧ (storeIns f r sp ctr ord).scope.isSome = true))
    · obtain ⟨cs, hdrop⟩ := l1Drop_eq s2 c.ag.core fun pa => live.any fun a => lineOf a.pa = pa
      refine ⟨cs, (if_pos h).trans hdrop, fun hn => ?_⟩
      subst hn
      exact absurd h.2.2 (not_or_intro nofun fun h => nomatch h.2)
    · refine ⟨t.cores, (if_neg h).trans ?_, fun _ => rfl⟩
      rw [hs2]
      rfl
  have hs4 : s4 = s3 := if_neg fun h => absurd h.1 nofun
  have hfar : far = false := rfl
  refine ⟨due, cs, ?_, hcs⟩
  rw [← hu, hs4, hs3, hs2, ho, hr', hid]
  by_cases hold : c.ag.isLeat = true
  · rw [if_pos hold]
    exact if_pos (.inr (.inr (.inr hold)))
  · rw [if_neg hold]
    refine if_neg ?_
    rintro (h | h | h | h)
    · cases h
    · cases h
    · exact absurd (hfar.symm.trans h) (by decide)
    · exact hold h
end

/-- The lane value that a store takes, as the registers hold it from the first on. -/
def storedValue (c : Iss) (f : FMEM) (scalar : Bool) (lane : Nat) : BitVec 128 :=
  let regs := if scalar then [(c.ag.sr f.data.toNat).toNat, (c.ag.sr (f.data.toNat + 1)).toNat]
    else (List.range 4).map fun k => (c.ag.vr (f.data.toNat + k) lane).toNat
  let w := if scalar then 64 else 32
  BitVec.ofNat 128 ((regs.zipIdx.map fun r => r.1 * 2 ^ (w * r.2)).sum % 2 ^ (8 * 2 ^ f.width.toNat))

theorem widthBytes_cases {w : BitVec 3} (hw : w.toNat ≤ 4) :
    widthBytes w = 1 ∨ widthBytes w = 2 ∨ widthBytes w = 4 ∨ widthBytes w = 8 ∨ widthBytes w = 16 := by
  obtain rfl | rfl | rfl | rfl | rfl := width_cases w hw <;> decide

theorem dataOf_scalar (ag : Agent) (r l : Nat) {n : Nat} (hn : n = 1 ∨ n = 2 ∨ n = 4 ∨ n = 8 ∨ n = 16) :
    dataOf ag true r n l = BitVec.ofNat 128 (((ag.sr r).toNat * 2 ^ 0 + ((ag.sr (r + 1)).toNat * 2 ^ 64 + 0)) % 2 ^ (8 * n)) := by
  unfold dataOf
  generalize (ag.sr r).toNat = a
  generalize (ag.sr (r + 1)).toNat = b
  refine congrArg (BitVec.ofNat 128) ?_
  obtain rfl | rfl | rfl | rfl | rfl := hn <;> simp only [if_true, Nat.reduceEqDiff, if_false] <;> omega

theorem dataOf_lanes (ag : Agent) (r l : Nat) {n : Nat} (hn : n = 1 ∨ n = 2 ∨ n = 4 ∨ n = 8 ∨ n = 16) :
    dataOf ag false r n l
      = BitVec.ofNat 128 (((ag.vr r l).toNat * 2 ^ 0 + ((ag.vr (r + 1) l).toNat * 2 ^ 32 + ((ag.vr (r + 2) l).toNat * 2 ^ 64
        + ((ag.vr (r + 3) l).toNat * 2 ^ 96 + 0)))) % 2 ^ (8 * n)) := by
  have hlist : ∀ k, k ≤ 4 → (List.range k).foldl (fun x j => x + 2 ^ (32 * j) * (ag.vr (r + j) l).toNat) 0
      = (if 0 < k then (ag.vr r l).toNat else 0) + (if 1 < k then (ag.vr (r + 1) l).toNat * 2 ^ 32 else 0)
        + (if 2 < k then (ag.vr (r + 2) l).toNat * 2 ^ 64 else 0) + (if 3 < k then (ag.vr (r + 3) l).toNat * 2 ^ 96 else 0) := by
    intro k hk
    obtain rfl | rfl | rfl | rfl | rfl : k = 0 ∨ k = 1 ∨ k = 2 ∨ k = 3 ∨ k = 4 := by omega
    all_goals simp [List.range_succ, Nat.mul_comm]
  unfold dataOf
  refine congrArg (BitVec.ofNat 128) ?_
  simp only [if_neg Bool.false_ne_true]
  obtain rfl | rfl | rfl | rfl | rfl := hn
  all_goals
    rw [hlist _ (by decide)]
    generalize (ag.vr r l).toNat = a
    generalize (ag.vr (r + 1) l).toNat = b
    generalize (ag.vr (r + 2) l).toNat = d
    generalize (ag.vr (r + 3) l).toNat = e
    norm_num
    omega

/-- The sum of a list of words by their weights, which stay opaque: the kernel must not count to 2 ^ 64. -/
theorem sum_two (a b : Nat) (weight : Nat → Nat) : ([a, b].zipIdx.map fun r => r.1 * weight r.2).sum = a * weight 0 + (b * weight 1 + 0) := by
  simp only [List.zipIdx_cons, List.zipIdx_nil, List.map_cons, List.map_nil, List.sum_cons, List.sum_nil, zero_add]

theorem sum_four (x : Nat → Nat) (weight : Nat → Nat) :
    (((List.range 4).map x).zipIdx.map fun r => r.1 * weight r.2).sum
      = x 0 * weight 0 + (x 1 * weight 1 + (x 2 * weight 2 + (x 3 * weight 3 + 0))) := rfl

theorem dataOf_eq {f : FMEM} (hw : f.width.toNat ≤ 4) (c : Iss) (scalar : Bool) (lane : Nat) :
    dataOf c.ag scalar f.data.toNat (widthBytes f.width) lane = storedValue c f scalar lane := by
  cases scalar with
  | true =>
    have hv : storedValue c f true lane = BitVec.ofNat 128 (([(c.ag.sr f.data.toNat).toNat, (c.ag.sr (f.data.toNat + 1)).toNat].zipIdx.map
        fun r => r.1 * 2 ^ (64 * r.2)).sum % 2 ^ (8 * 2 ^ f.width.toNat)) := rfl
    rw [hv, sum_two _ _ fun k => 2 ^ (64 * k), dataOf_scalar c.ag _ lane (widthBytes_cases hw)]
    rfl
  | false =>
    have hv : storedValue c f false lane = BitVec.ofNat 128 ((((List.range 4).map fun k => (c.ag.vr (f.data.toNat + k) lane).toNat).zipIdx.map
        fun r => r.1 * 2 ^ (32 * r.2)).sum % 2 ^ (8 * 2 ^ f.width.toNat)) := rfl
    rw [hv, sum_four _ fun k => 2 ^ (32 * k), dataOf_lanes c.ag _ lane (widthBytes_cases hw)]
    rfl

section
variable {s : State} {c : Iss} {f : FMEM} {l : List (Nat × Nat × Nat)}

/-- The accesses of a store. -/
def storeAccs (c : Iss) (f : FMEM) (scalar : Bool) (l : List (Nat × Nat × Nat)) : List Acc :=
  l.map fun x => { lane := x.1, va := x.2.1, pa := x.2.2, n := 2 ^ f.width.toNat, x := storedValue c f scalar x.1 }

theorem accs_storeIns (hw : f.width.toNat ≤ 4) (r : MemRow) (sp : Space) (ctr : Ctr) (ord : Option Nat) :
    (storeIns f r sp ctr ord).accs c l = storeAccs c f r.scalar l := by
  refine List.map_congr_left fun x _ => ?_
  rw [← dataOf_eq hw]
  rfl

/-- What a release first waits for is over. -/
theorem release_free (hops : ∀ o ∈ c.ag.ops, o.kind.isAccess = true → o.returned = true) (hfab : ∀ r ∈ s.fabReqs, r.2.agent ≠ c.a)
    (scope : Nat) : s.releaseWait c.a c.ag scope = none := by
  have hids : c.ag.openAccesses = [] := by
    simp only [Agent.openAccesses, List.map_eq_nil_iff, List.filter_eq_nil_iff, Bool.and_eq_true, Bool.not_eq_true']
    exact fun o ho h => by simp [hops o ho h.1] at h
  have hun : s.unacked c.a = false := unacked_false fun r hr h => hfab r hr h.1
  simp [State.releaseWait, hids, hun]

theorem store_answers {i : Instr} {r : MemRow} {sp : Space} {ctr : Ctr} {ord : Option Nat} {t1 : State}
    (he : exec i s = memIns (storeIns f r sp ctr ord) s) (hc : ready s c) (hl : (legalMem f r).fate c = none) (hw : f.width.toNat ≤ 4)
    (hroom : room c ctr)
    (hbuf : sp = .glob → (∀ x ∈ l, s.paKind x.2.2 ≠ .peer) ∨ ((KMap.find? s.peerBuf c.ag.core).getD []).length < 64)
    (hrel : ord.isSome = true → s.releaseWait c.a c.ag (ord.getD 0) = none ∧ s.heldPeer c.ag.core c.ag.ctx = none)
    (hq : checked s c (if r.scalar then 0 else extraPass (twoPasses c f.all)) (request c f sp r.scalar f.imm.toInt true false none) l)
    (hs : scopePasses (slotted s c (if r.scalar then 0 else extraPass (twoPasses c f.all))) c sp ord (storeAccs c f r.scalar l) t1) :
    ∃ due, answers i s c
      (withOp c (newOp s c ctr (.store sp r.scalar f.sch.toNat ord) (storeAccs c f r.scalar l) [] due)
        (if c.ag.kind ≠ .group then waitsFor s s.ids else goesOn s (if r.scalar then 0 else extraPass (twoPasses c f.all)) f.stl))
      fun t => t.ids = s.ids + 1 ∧ t.lines = t1.lines ∧ (ord = none → t.cores = s.cores)
        ∧ { t with agents := s.agents, slots := s.slots, ids := s.ids, lines := s.lines, cores := s.cores } = s := by
  obtain ⟨p, hp⟩ : ∃ p, passesOf (storeIns f r sp ctr ord).pm c (storeIns f r sp ctr ord).lg.all = p := ⟨_, rfl⟩
  have hpass : extraPass p = if r.scalar then 0 else extraPass (twoPasses c f.all) := hp ▸ passesOf_mem c f r
  rw [← hpass] at hq hs ⊢
  have hreq : (storeIns f r sp ctr ord).req c = _ := memRequest_eq c f sp r.scalar true
  have hex := memIns_issues (m := storeIns f r sp ctr ord) hc hl hroom hrel (by rw [hp, hreq]; exact hq) (fun _ => hbuf)
  rw [hp, accs_storeIns hw] at hex
  obtain ⟨due, cs, hout, hcs⟩ := issueMem_store (slotted s c (extraPass p)) c f r sp ctr ord p (storeAccs c f r.scalar l) hs
  rw [hout] at hex
  have hleat : (if c.ag.kind ≠ .group then waitsFor s s.ids else goesOn s (extraPass p) f.stl)
      = if c.ag.isLeat then waitsFor s s.ids else goesOn s (extraPass p) f.stl := if_congr (isLeat_iff c.ag).symm rfl rfl
  rw [hleat]
  exact ⟨due, answers_startOp hc (he.trans hex) rfl rfl fun h => ⟨rfl, rfl, hcs, rfl⟩⟩

end

/-- Settles O23: each store is a row of `storeIns`; a release passes its wait and the scope checker first. -/
theorem storesIssue : Obligations.StoresIssue := by
  unfold Obligations.StoresIssue
  intro s c f l hc value e accs op next buffered stores releases
  have hstore : ∀ {i : Instr} {r : MemRow} {sp : Space} {m : Nat},
      (memFields c f r.scalar m → (legalMem f r).fate c = none) →
      exec i s = memIns (storeIns f r sp (if sp = .glob then Ctr.g else .s) none) s → stores i sp r.scalar m := by
    refine fun hl he hf hroom hbuf hq => ?_
    obtain ⟨due, t, hex, hag, hothers, hmem, hids, hlines, hcores, hrest⟩ :=
      store_answers he hc (hl hf) hf.1 hroom hbuf nofun hq (.inl ⟨rfl, rfl⟩)
    refine ⟨due, t, hex, hag, hothers, hmem, hids, ?_⟩
    have hall : ({ t with agents := s.agents, slots := s.slots, ids := s.ids } : State) = { s with lines := t.lines, cores := t.cores } :=
      congrArg (fun x : State => { x with lines := t.lines, cores := t.cores }) hrest
    rw [hall, hlines, hcores rfl]
    rfl
  have hrelease : ∀ {i : Instr} {r : MemRow}, (memFields c f r.scalar 4 → (legalMem f r).fate c = none) →
      exec i s = memIns (storeIns f r .glob .g (some f.sch.toNat)) s → releases i r.scalar := by
    refine fun hl he hf hroom hbuf hops hfab hheld hq s1 hscope => ?_
    obtain ⟨due, t, hex, hag, hothers, hmem, hids, hlines, -, hrest⟩ :=
      store_answers he hc (hl hf) hf.1 hroom (fun _ => hbuf) (fun _ => ⟨release_free hops hfab _, hheld⟩) hq (.inr ⟨_, rfl, rfl, hscope⟩)
    exact ⟨due, t, hex, hag, hothers, hmem, hids, hlines, hrest⟩
  exact ⟨hstore (fun hf => fate_legalMem_lanes hf (.inl rfl)) rfl, hstore (fun hf => fate_legalMem_scalar hf (.inl rfl)) rfl,
    hstore (fun hf => fate_legalMem_lanes hf (.inr ⟨rfl, rfl⟩)) rfl, hstore (fun hf => fate_legalMem_scalar hf (.inr ⟨rfl, rfl⟩)) rfl,
    hrelease (fun hf => fate_legalMem_lanes hf (.inl rfl)) rfl, hrelease (fun hf => fate_legalMem_scalar hf (.inl rfl)) rfl⟩

end Sys2Proof.Machine
end

section
namespace Sys2Proof.Machine
open Sys2Proof Sys2Proof.Safety

/-! ## Holds of a group that lists a fragment number twice (R226) -/

/-- The clk from which each fragment of agent 1 is held, in the next state that an instruction answers. -/
def heldSince (o : Out) : Option (List Nat) :=
  match o with
  | .next t => (t.agent? 1).map fun ag => ag.frags.map fun p => p.2.iss
  | _ => none

theorem heldSince_next {o : Out} {t : State} {ag : Agent} (h : o = .next t) (hag : t.agent? 1 = some ag) :
    heldSince o = some (ag.frags.map fun p => p.2.iss) := by
  rw [h, heldSince, hag]
  rfl

/-- Fragment 0 at its first instruction, and once more, held since clk 7 for operation 9. A read of the map sees the first only. -/
def twiceHeldFrags : KMap Frag := [(0, yieldFrag 0), (0, { yieldFrag 0x1000 with phase := 4, iss := 7, hop := 9 })]

/-! ### LDB at a handle that is FREE (R331) -/

def bufHolder : Agent := { kind := .group, core := 0, ctx := 0, team := 1, nv := 16, frags := twiceHeldFrags }

def freeHandle : Handle := { roff := 0, dsec := 1, layout := 0, nrel := 1, team := 1 }

def bufHolderState : State := { State.reset with cur := (1, 0), agents := [(1, bufHolder)], handles := [(0, freeHandle)] }

def bufHolderIss : Iss := { a := 1, fid := 0, ag := bufHolder, fr := yieldFrag 0 }

def plainLdb : FMEM := { stl := 0, all := 0, data := 0, sbase := 0, voff := 0x3FF, width := 0, sch := 0, imm := 0 }

theorem bufHolder_ready : ready bufHolderState bufHolderIss := by decide +kernel

/-- The device leaves the second entry the clk that it was held from. -/
theorem heldSince_ldb : heldSince (exec (.ldb plainLdb) bufHolderState) = some [0, 7] := by decide +kernel

/-- Refutes O33: its clause on a handle in another state does not ask that a fragment number is listed once. Where number 0 is listed
twice and the second entry is held since clk 7, the hold of the device leaves that entry its clk, and the statement has it held
since the clk of this issue. -/
theorem not_bufferAccesses : ¬ Obligations.BufferAccesses := by
  intro h
  obtain ⟨-, hhandle⟩ := h bufHolderState bufHolderIss plainLdb false bufHolder_ready rfl (.inl rfl) rfl (by decide) (by decide) (by decide)
    (by decide) (.inl rfl) (.inr (by decide)) rfl
  obtain ⟨-, hhold, -⟩ := hhandle freeHandle rfl rfl
  obtain ⟨t, hex, hag, -⟩ := hhold rfl (by decide)
  exact absurd (heldSince_ldb.symm.trans (heldSince_next hex hag)) (by decide)

/-! ### TXLD at a descriptor that the cache lacks (R247) -/

/-- A core whose TLB maps the first 2^30 bytes of context 0 to the same physical addresses. -/
def mappedCore : Core := { tlb := [{ ctx := 0, va := 0, lg := 30, pa := 0, w := true, x := true }] }

def texelReaderState : State := { State.reset with cur := (1, 0), agents := [(1, bufHolder)], cores := [(0, mappedCore)] }

/-- TXLD of the descriptor at 0 with its coordinates in v0 to v3, into v4 and v5. -/
def plainTxld : FMEM := { stl := 0, all := 0, data := 4, sbase := 0, voff := 0, width := 3, sch := 0, imm := 0 }

theorem texelReader_ready : ready texelReaderState bufHolderIss ∧ bufHolderIss.active plainTxld.all ≠ 0 := by decide +kernel

theorem texelReader_checked :
    descCheck (slotted texelReaderState bufHolderIss (extraPass (twoPasses bufHolderIss plainTxld.all))) bufHolderIss
      (bufHolderIss.active plainTxld.all) false (bufHolderIss.ag.sr plainTxld.sbase.toNat).toNat = .ok [(0, 0, 0)] := by decide +kernel

theorem heldSince_txld : heldSince (exec (.txld plainTxld) texelReaderState) = some [0, 7] := by decide +kernel

/-- Refutes O35: its clause on a descriptor that the cache lacks does not ask that a fragment number is listed once. Where number 0 is
listed twice and the second entry is held since clk 7, the wait for the descriptor leaves that entry its clk, and the statement has it
held since the clk of this issue. -/
theorem not_imagesIssue : ¬ Obligations.ImagesIssue := by
  intro h
  obtain ⟨hready, hact⟩ := texelReader_ready
  obtain ⟨-, hmiss⟩ := h texelReaderState bufHolderIss plainTxld false hready rfl rfl (.inl rfl) rfl (.inl rfl) (by decide) (by decide)
    (by decide) (by decide) (by decide) (by decide) (.inr (by decide)) hact (fun _ ho => nomatch ho) _ texelReader_checked
  obtain ⟨until', t, hex, hag, -⟩ := hmiss rfl
  have hsame : some [0, 7] = some [0, 0] := heldSince_txld.symm.trans (heldSince_next hex hag)
  exact absurd hsame (by decide)

/-! ### MMAQ at its rendezvous (R297) -/

/-- Format blocks of a multiply: A in format 6 with its scales at 0x400, B in format 6 with its own at 0x800. -/
def quadBlock : BitVec 256 := BitVec.ofNat 256 (6 + 0x400 * 2 ^ 32 + (6 + 0x800 * 2 ^ 32) * 2 ^ 64)

def quadWaiter : Agent := { bufHolder with nv := 128, width := 64, banks := [(1, 5)] }

def quadWaiterIss : Iss := { bufHolderIss with ag := quadWaiter }

def quadWaiterState : State :=
  { State.reset with cur := (1, 0), agents := [(1, quadWaiter)], accs := [(5, { st := .held, holder := 1, own := (1, 1) })]
                     cores := [(0, { mappedCore with rcd := [(0, 0, quadBlock)] })] }

def plainMmaq : FMTX := { stl := 0, all := 0, abank := 1, a := 0, b := 64, fb := 0, kst := 0, ah := 0, clr := 0, mopt := 0 }

theorem heldSince_mmaq : heldSince (exec (.mmaq plainMmaq) quadWaiterState) = some [0, 7] := by decide +kernel

/-- The state once the format blocks have been found in the core's cache. -/
def quadFetched : State := (quadWaiterState.blkFetch quadWaiterIss 0).2.1

theorem quadWaiter_ready : ready quadWaiterState quadWaiterIss ∧ quadWaiterIss.ag.multiplies = false := by decide +kernel

theorem quadWaiter_fetched : quadWaiterState.blkFetch quadWaiterIss 0 = (none, quadFetched, some quadBlock)
    ∧ { quadFetched with cores := quadWaiterState.cores, free := quadWaiterState.free } = quadWaiterState := by
  have h : (quadWaiterState.blkFetch quadWaiterIss 0).1 = none ∧ (quadWaiterState.blkFetch quadWaiterIss 0).2.2 = some quadBlock := by
    decide +kernel
  exact ⟨Prod.ext h.1 (Prod.ext rfl h.2), by decide +kernel⟩

theorem quadWaiter_checked : ∃ pl, (slotted quadFetched quadWaiterIss 0).mulChecks quadWaiterIss 4 plainMmaq (some quadBlock) = .ok pl
    ∧ pl.phys = 5 ∧ pl.hnd = none ∧ pl.hlock = none := by
  have h : ((slotted quadFetched quadWaiterIss 0).mulChecks quadWaiterIss 4 plainMmaq (some quadBlock)).toOption.map
      (fun pl => (pl.phys, pl.hnd, pl.hlock)) = some (5, none, none) := by decide +kernel
  cases hpl : (slotted quadFetched quadWaiterIss 0).mulChecks quadWaiterIss 4 plainMmaq (some quadBlock) with
  | error x =>
    rw [hpl] at h
    cases h
  | ok pl =>
    rw [hpl] at h
    obtain ⟨h1, h2, h3⟩ := by simpa [Except.toOption] using h
    exact ⟨pl, rfl, h1, h2, h3⟩

/-- Refutes O38: its clause on MMAQ does not ask that a fragment number is listed once. Where number 0 is listed twice and the second
entry is held since clk 7, the wait for the rendezvous leaves that entry its clk, and the statement has it held since the clk of this
issue. -/
theorem not_multipliesIssue : ¬ Obligations.MultipliesIssue := by
  intro h
  obtain ⟨hready, hnone⟩ := quadWaiter_ready
  obtain ⟨hfetch, hrest⟩ := quadWaiter_fetched
  obtain ⟨pl, hpl, hphys, hhnd, hlock⟩ := quadWaiter_checked
  have htag : State.tagFault (slotted quadFetched quadWaiterIss 0) quadWaiterIss pl.phys = none := by
    rw [hphys]
    rfl
  obtain ⟨hmul, -⟩ := h quadWaiterState quadWaiterIss plainMmaq hready rfl (.inl rfl) (.inr (by decide)) rfl (by decide)
  obtain ⟨-, hplan⟩ := hmul 4 (.inr (.inl ⟨rfl, by decide⟩)) nofun hnone quadFetched quadBlock hfetch hrest rfl
  obtain ⟨hquad, -⟩ := hplan pl hpl htag (fun x hx => by rw [hhnd] at hx; cases hx) (fun x hx => by rw [hlock] at hx; cases hx)
  obtain ⟨t, hex, hag, -⟩ := hquad rfl rfl
  exact absurd (heldSince_mmaq.symm.trans (heldSince_next hex hag)) (by decide)

end Sys2Proof.Machine
end

section
namespace Sys2Proof.Machine
open Sys2Proof Sys2Proof.Safety

/-! ## RTRACE with a live CURGEN (R354) -/

/-! ### The slots of a core's rays -/

theorem raySlots_congr {s u : State} (hag : u.agents = s.agents) (hteams : u.teams = s.teams) (core : Nat) :
    u.raySlots core = s.raySlots core := by
  unfold State.raySlots State.coreRays State.team?
  rw [hag, hteams]

/-- Where the core has no free slot, no ray starts. -/
theorem startRays_of_full {s : State} {c : Iss} {act : Dword} (op vr mask flags g num : Nat)
    (h : s.freeRaySlots c.ag.core (popc act) = []) : s.startRays c act op vr mask flags g num = s := by
  rw [State.startRays, h, List.zip_nil_right]
  rfl

theorem freeRaySlots_of_full {s : State} {core : Nat} (n : Nat) (h : ∀ i < 2048, ∃ r ∈ s.coreRays core, r.slot = i) :
    s.freeRaySlots core n = [] := by
  have hused : ((List.range 2048).filter fun i => !((s.coreRays core).map (·.slot)).contains i) = [] :=
    List.filter_eq_nil_iff.mpr fun i hi => by simpa using h i (List.mem_range.mp hi)
  rw [State.freeRaySlots, hused, List.take_nil]

/-- A live ray of an agent of the core is among the core's rays. -/
theorem mem_coreRays {s : State} {a core l : Nat} {ag : Agent} {r : Ray} (ha : (a, ag) ∈ s.agents) (hcore : ag.core = core)
    (hteam : s.team? ag.team = none) (hr : (l, r) ∈ ag.rays) (hlive : ag.rayLive r = true) : r ∈ s.coreRays core :=
  List.mem_flatMap.mpr ⟨(a, ag), ha, by
    rw [if_pos (by simp [hcore, hteam])]
    exact List.mem_filter.mpr ⟨List.mem_map.mpr ⟨(l, r), hr, rfl⟩, hlive⟩⟩

/-- RTRACE puts its operation among those of every entry of the agent. -/
theorem startTrace_eq (s : State) (c : Iss) (vd : Nat) (act todo : Dword) (res : List (Nat × List Word)) :
    ∃ o : Op, o.id = s.ids ∧ s.startTrace c vd act todo res = ({ s with ids := s.ids + 1 } : State).updAgent c.a fun ag => ag.startsOp o :=
  ⟨_, rfl, rfl⟩

theorem findOp_startsOp (ag : Agent) (o : Op) : ((ag.startsOp o).findOp o.id).isSome = true :=
  List.find?_isSome.mpr ⟨o, List.mem_append_right _ (List.mem_singleton_self o), by simp⟩

/-! ### Its meaning -/

/-- A scene handle whose record can be read gives its bytes, once the hold for it is over. -/
theorem sceneRead_record {s : State} {c : Iss} {a x : Nat} (lat : Nat) (h : recordAt s c a 64 x) (ha : a % 64 = 0) (h3 : c.fr.phase = 3) :
    ∃ cores, s.sceneRead c a lat = .ok ({ s with cores := cores }, BitVec.ofNat 512 x) := by
  obtain ⟨hle, ps, hparts, hread⟩ := recordAt_iff h
  unfold State.sceneRead
  rw [if_neg (Nat.not_lt.mpr hle), if_neg (not_not.mpr ha), recParts_again hparts]
  dsimp only
  rw [if_neg (fun hw => hw.1 h3), hread]
  exact ⟨_, rfl⟩

/-- The word of an RTRACE without USE: its legal use of F-SYS. -/
def legalRtrace (f : FSYS) : Legal :=
  { legalSys f { sa := true, sb := f.sub.getLsbD 3, res := true, imm := 0x3FFF, subs := List.range 16 } with
    vregs := vgroup (fldN f.imm 0 7 * 8) 8 ++ vgroup (fldN f.imm 7 7 * 8) 8 }

/-- RTRACE with its handle read and slots for its rays starts them. -/
theorem exec_rtrace_live {s : State} {c : Iss} {f : FSYS} {x id : Nat} {g : Gen} (hc : ready s c) (hreap : s.reap = s)
    (hl : (legalRtrace f).fate c = none) (huse : f.sub.getLsbD 3 = false) (hroom : c.ag.ctrVal .e ≠ 63) (hp : c.ag.pure = false)
    (h3 : c.fr.phase = 3) (ha : (c.ag.sr f.sa.toNat).toNat % 64 = 0)
    (hrec : recordAt (slotted s c (extraPass (twoPasses c f.all))) c (c.ag.sr f.sa.toNat).toNat 64 x)
    (hcursed : cursedHandle (BitVec.ofNat 512 x) = false) (hcur : hdCur (BitVec.ofNat 512 x) ≠ 0)
    (hlanes : ∀ l ∈ lanesOf (c.active f.all), KMap.find? c.ag.rays l = none)
    (hslots : popc (c.active f.all) ≤ s.raySlots c.ag.core)
    (hg : s.genOf c.ag.ctx (c.ag.sr f.sa.toNat).toNat (hdCur (BitVec.ofNat 512 x)) = some (id, g)) :
    ∃ u : State, u.agents = s.agents ∧ u.teams = s.teams ∧ u.ids = s.ids ∧ exec (.rtrace f) s
      = .next (((u.startTrace c (fldN f.imm 0 7 * 8) (c.active f.all) (c.active f.all) []).startRays c (c.active f.all) s.ids (fldN f.imm 7 7 * 8)
          f.res.toNat (fldN f.sub 0 3) id (hdCur (BitVec.ofNat 512 x))).finishHold c f.stl.toNat 1) := by
  obtain ⟨cores, hread⟩ := sceneRead_record 0 hrec ha h3
  have hbad : maskOf ((lanesOf (c.active f.all)).filter fun l => (KMap.find? c.ag.rays l).isSome) = 0 := by
    rw [List.filter_eq_nil_iff.mpr fun l hl => by simp [hlanes l hl]]
    rfl
  have hfull : ¬(((legalRtrace f).fate c).isNone = true ∧ c.ag.ctrVal .e = 63) := fun h => hroom h.2
  have h5 : ¬ c.fr.phase = 5 := by omega
  have hone : (slotted s c (extraPass (passesOf .lanes c (legalRtrace f).all))) = slotted s c (extraPass (twoPasses c f.all)) := rfl
  refine ⟨State.l1Inval { slotted s c (extraPass (twoPasses c f.all)) with cores := cores } c.ag.core, rfl, rfl, rfl, ?_⟩
  show execRtrace f s = _
  unfold execRtrace
  extract_lets -underBinder +onlyGivenNames vd vr use
  rw [hc.1]
  refine (if_neg hfull).trans ?_
  rw [hreap]
  refine (issueSlotted (lg := legalRtrace f) hc hl _ _ _ _ _).trans ?_
  rw [hone]
  extract_lets -underBinder +onlyGivenNames a act stl start
  have hpure : ¬ c.ag.pure = true := by simp [hp]
  have hstart : ∀ u : State, u.gens = s.gens → start u (hdCur (BitVec.ofNat 512 x))
      = ((u.startTrace c vd act act []).startRays c act u.ids vr f.res.toNat (fldN f.sub 0 3) id (hdCur (BitVec.ofNat 512 x))).finishHold
          c stl 1 := by
    intro u hu
    have hgen : u.genOf c.ag.ctx a (hdCur (BitVec.ofNat 512 x)) = some (id, g) := by
      rw [← hg]
      unfold State.genOf
      rw [hu]
    show (if hdCur (BitVec.ofNat 512 x) = 0 then _ else _) = _
    rw [if_neg hcur, hgen]
    exact if_pos h3.ge
  rw [if_neg hpure, if_neg h5, hread]
  generalize hw : ({ slotted s c (extraPass (twoPasses c f.all)) with cores := cores } : State) = w
  have hwa : w.agents = s.agents := by rw [← hw]; rfl
  have hwt : w.teams = s.teams := by rw [← hw]; rfl
  have hwg : (w.l1Inval c.ag.core).gens = s.gens := by rw [← hw]; rfl
  have hwi : (w.l1Inval c.ag.core).ids = s.ids := by rw [← hw]; rfl
  have hslots' : ¬(hdCur (BitVec.ofNat 512 x) ≠ 0 ∧ (w.l1Inval c.ag.core).raySlots c.ag.core < popc act) := by
    rw [raySlots_congr (u := w.l1Inval c.ag.core) hwa hwt]
    exact fun h => absurd h.2 (Nat.not_lt.mpr hslots)
  have huse' : ¬ use = true := Bool.eq_false_iff.mp huse
  clear_value start use
  dsimp only
  rw [if_neg (by simp [hcursed]), if_neg (not_not.mpr hbad), if_neg fun h => huse' h.1, if_neg huse', if_neg huse', if_neg hslots',
    hstart _ hwg, hwi]

/-! ## An agent number that is listed twice -/

/-- A ray of operation 1, in a slot. -/
def crowdRay (st : RayState) (slot : Nat) : Ray :=
  { st := st, op := 1, slot := slot, ray := [], mask := 0, flags := 0, gen := 4, num := 7, tmax := 0, todo := [] }

/-- Rays of the slots: the last one has ended, the others run. -/
def crowdRays : KMap Ray := ((List.range 2047).map fun i => (i, crowdRay .running i)) ++ [(2047, crowdRay .done 2047)]

def tracer : Agent := { kind := .group, core := 0, ctx := 0, team := 1, nv := 128, frags := [(0, { yieldFrag 0 with phase := 3 })] }

def crowd : Agent := { tracer with rays := crowdRays }

def liveGen : Gen :=
  { ctx := 0, scene := 0, die := 0, num := 7, pkind := 0, st := 1, prims := [], nprim := 0, degen := 0, arena := 0x40000, pages := [0]
    grec := 0x40000 }

/-- Agent 1 twice: a group without rays, and one whose running rays leave the core one free slot. Nothing is in flight, and the next
operation is number 1. -/
def crowdedState : State :=
  { State.reset with
    cur := (1, 0), agents := [(1, tracer), (1, crowd)], cores := [(0, mappedCore)], mem := [(8, 5#8), (24, 7#8)], gens := [(4, liveGen)] }

def tracerIss : Iss := { a := 1, fid := 0, ag := tracer, fr := { yieldFrag 0 with phase := 3 } }

def plainRtrace : FSYS := { stl := 0, all := 0, sd := 0, sa := 0, sb := 0, res := 0, sub := 0, imm := 1 }

theorem crowded_ready : ready crowdedState tracerIss := by decide +kernel

theorem crowded_slots : 1 ≤ crowdedState.raySlots tracerIss.ag.core := by decide +kernel

/-- Each slot of the core has a ray of the second entry. -/
theorem mem_crowdRays {i : Nat} (h : i < 2048) : ∃ st, (i, crowdRay st i) ∈ crowdRays := by
  rcases Nat.lt_or_eq_of_le (Nat.le_of_lt_succ h) with hlt | rfl
  · exact ⟨.running, List.mem_append_left _ (List.mem_map.mpr ⟨i, List.mem_range.mpr hlt, rfl⟩)⟩
  · exact ⟨.done, List.mem_append_right _ (List.mem_singleton_self _)⟩

/-- With its operation in flight every ray of the second entry is live, and the core has no free slot. -/
theorem crowded_full {v : State} {o : Op} (ho : o.id = 1) (hag : v.agents = KMap.upd crowdedState.agents 1 fun ag => ag.startsOp o)
    (hteams : v.teams = []) (n : Nat) : v.freeRaySlots tracerIss.ag.core n = [] := by
  refine freeRaySlots_of_full n fun i hi => ?_
  obtain ⟨st, hmem⟩ := mem_crowdRays hi
  refine ⟨crowdRay st i, mem_coreRays (a := 1) (l := i) (ag := crowd.startsOp o) ?_ rfl ?_ hmem ?_, rfl⟩
  · rw [hag]
    exact List.mem_cons_of_mem _ (List.mem_singleton_self _)
  · rw [State.team?, hteams]
    rfl
  · have hop : (crowd.startsOp o).findOp 1 = (crowd.startsOp o).findOp o.id := by rw [ho]
    show (_ || ((crowd.startsOp o).findOp 1).isSome) = true
    rw [hop, findOp_startsOp, Bool.or_true]

/-- The handle at address 0: scene 5, CURGEN 7. -/
def crowdedHandle : Nat := 5 * 2 ^ 64 + 7 * 2 ^ 192

theorem crowded_handle :
    recordAt (slotted crowdedState tracerIss (extraPass (twoPasses tracerIss plainRtrace.all))) tracerIss
      (tracerIss.ag.sr plainRtrace.sa.toNat).toNat 64 crowdedHandle
    ∧ cursedHandle (BitVec.ofNat 512 crowdedHandle) = false ∧ hdCur (BitVec.ofNat 512 crowdedHandle) = 7
    ∧ crowdedHandle / 2 ^ 192 % 2 ^ 32 = 7 := by decide +kernel

theorem crowded_legal : (legalRtrace plainRtrace).fate tracerIss = none
    ∧ sysFields tracerIss plainRtrace plainRtrace.sub false true false true 0x3FFF ∧ lanesOf (tracerIss.active plainRtrace.all) = [0]
    ∧ popc (tracerIss.active plainRtrace.all) = 1 ∧ (tracerIss.ag.sr plainRtrace.sa.toNat).toNat % 64 = 0 := by decide +kernel

theorem crowded_gen : crowdedState.genOf 0 0 7 = some (4, liveGen) := by decide +kernel

/-- RTRACE of the group without rays starts its operation and no ray. -/
theorem exec_rtrace_crowded : ∃ t, exec (.rtrace plainRtrace) crowdedState = .next t ∧ (t.agent? tracerIss.a).map (·.rays) = some [] := by
  obtain ⟨hrec, hcursed, hcur, -⟩ := crowded_handle
  obtain ⟨hlegal, -, -, hone, haligned⟩ := crowded_legal
  obtain ⟨u, hag, hteams, hids, hex⟩ := exec_rtrace_live (id := 4) (g := liveGen) crowded_ready rfl hlegal rfl (by decide) rfl rfl haligned
    hrec hcursed (by rw [hcur]; decide) (fun _ _ => rfl) (hone.le.trans crowded_slots) (by rw [hcur]; exact crowded_gen)
  obtain ⟨o, ho, hstart⟩ := startTrace_eq u tracerIss (fldN plainRtrace.imm 0 7 * 8) (tracerIss.active plainRtrace.all)
    (tracerIss.active plainRtrace.all) []
  have hfull := crowded_full (v := ({ u with ids := u.ids + 1 } : State).updAgent tracerIss.a fun ag => ag.startsOp o) (by rw [ho, hids]; rfl)
    (by rw [← hag]; rfl) hteams (popc (tracerIss.active plainRtrace.all))
  rw [hstart, startRays_of_full _ _ _ _ _ _ hfull] at hex
  refine ⟨_, hex, ?_⟩
  have hfirst : ({ u with ids := u.ids + 1 } : State).agent? tracerIss.a = some tracer := by
    rw [State.agent?, hag]
    rfl
  rw [State.finishHold, State.updFrag, agent?_updAgent_self, agent?_updAgent_self, hfirst]
  rfl

/-- Refutes O39: its clause on an RTRACE with a live CURGEN does not ask that an agent number is listed once. Here number 1 is listed
twice: the first entry, the group that issues, has no ray, and the core has one free slot for its one lane. But the operation is put
in both entries, a dead ray of the second is of its number and becomes live, no slot is left, and the lane has no ray. -/
theorem not_raysAndScenes : ¬ Obligations.RaysAndScenes := by
  intro h
  obtain ⟨hrec, hcursed, -, hcur⟩ := crowded_handle
  obtain ⟨-, hfields, hlane, -, haligned⟩ := crowded_legal
  obtain ⟨hrays, -⟩ := h
  obtain ⟨htrace, -⟩ := hrays crowdedState tracerIss plainRtrace crowded_ready rfl rfl (by decide)
  obtain ⟨-, -, -, hread⟩ := htrace rfl (by decide) hfields (by decide) (by decide) (.inr (by decide))
  obtain ⟨-, hvalid⟩ := hread rfl haligned crowdedHandle hrec
  obtain ⟨-, hfree⟩ := hvalid hcursed
  obtain ⟨-, hlive⟩ := hfree fun _ _ => rfl
  obtain ⟨t, ag, hex, ⟨hag, -⟩, -, -, -, hall⟩ := hlive 4 liveGen (by rw [hcur]; exact crowded_gen) (by rw [hcur]; decide)
    ((congrArg List.length hlane).le.trans crowded_slots)
  obtain ⟨r, hr, -⟩ := hall 0 (by rw [hlane]; exact List.mem_singleton_self 0)
  obtain ⟨t', hex', hnone⟩ := exec_rtrace_crowded
  obtain rfl : t = t' := by
    rw [hex] at hex'
    cases hex'
    rfl
  rw [hag] at hnone
  have hempty : ag.rays = [] := Option.some.inj hnone
  rw [hempty] at hr
  cases hr

end Sys2Proof.Machine
end
